-- ==== Sys2Proof/Word.lean ====
section
/-! DEFINITION. The word types of the EW64: bytes, 32-bit words, 64-bit doublewords, the 6-bit register number
and the 256-bit thread mask (a coach has at most 64 * 4 threads, R13). -/

namespace Sys2Proof

/-- One byte of memory, of a buffer or of a record. -/
abbrev Byte := BitVec 8

/-- One register or one word of code (R23, R69). -/
abbrev Word := BitVec 32

/-- A 64-bit value: an address, a time, a pair of registers (R25). -/
abbrev DWord := BitVec 64

/-- A register number 0-63 (R80). -/
abbrev RegNo := BitVec 6

/-- A set of threads of one coach: bit t is thread t (R13: W*D is at most 256). -/
abbrev Mask := BitVec 256

end Sys2Proof
end

