-- ==== Sys2Proof/Syntax.lean ====
section
/-! DEFINITION. The syntax of Pligil: the twelve instruction formats (R79, R80), and `Instr`, one constructor for
every row of spec/opcode_table.json: first the 214 encoded instructions by opcode row (R87), then the operations
and events of the device, which no word encodes (95_what_each_step_holds.md); their operands are `EvArgs`. -/

namespace Sys2Proof

/-- Format RRR (R80): bits [22] FB, [23] U as in every format (R79). -/
structure RRR where
  u : Bool
  fb : Bool
  s : Bool
  m : BitVec 3
  d : RegNo
  a : RegNo
  b : RegNo
  deriving DecidableEq, Repr

/-- Format RI (R80), the two-address form D := D op IMM. -/
structure RI where
  u : Bool
  fb : Bool
  d : RegNo
  imm : BitVec 16
  deriving DecidableEq, Repr

/-- Format M (R80): data register, BASE s-pair, IDX v register, SCOPE, NT. -/
structure FM where
  u : Bool
  fb : Bool
  t : RegNo
  base : RegNo
  idx : RegNo
  scope : BitVec 3
  nt : Bool
  deriving DecidableEq, Repr

/-- Format A (R80): as M with the combining operation AOP. -/
structure FA where
  u : Bool
  fb : Bool
  t : RegNo
  base : RegNo
  idx : RegNo
  aop : BitVec 4
  deriving DecidableEq, Repr

/-- Format B (R80): barriers. -/
structure FB where
  u : Bool
  fb : Bool
  cnt : RegNo
  gen : RegNo
  scope : BitVec 3
  bix : BitVec 7
  deriving DecidableEq, Repr

/-- Format W (R80): monitor waits; `z` is the field that must be 0. -/
structure FW where
  u : Bool
  fb : Bool
  t : RegNo
  base : RegNo
  z : RegNo
  cond : BitVec 4
  deriving DecidableEq, Repr

/-- Format Q (R80): hardware queues; `nregM1` is NREG - 1. -/
structure FQ where
  u : Bool
  fb : Bool
  t : RegNo
  qcb : RegNo
  stat : RegNo
  nregM1 : BitVec 4
  deriving DecidableEq, Repr

/-- Format X (R80): matrix multiply-accumulate. -/
structure FX where
  u : Bool
  fb : Bool
  acc : RegNo
  adesc : RegNo
  bdesc : RegNo
  p : BitVec 2
  dpol : BitVec 2
  deriving DecidableEq, Repr

/-- Format C (R80): engine commands. -/
structure FC where
  u : Bool
  fb : Bool
  pb : RegNo
  tin : RegNo
  aux : RegNo
  qsel : BitVec 4
  deriving DecidableEq, Repr

/-- Format J (R80): a signed word offset. -/
structure FJ where
  u : Bool
  fb : Bool
  off : BitVec 22
  deriving DecidableEq, Repr

/-- Format JC (R80): a register or predicate, a condition, a signed word offset. -/
structure FJC where
  u : Bool
  fb : Bool
  reg : RegNo
  cond : BitVec 3
  off : BitVec 13
  deriving DecidableEq, Repr

/-- Format S (R80): a system register number between two register fields. -/
structure FS where
  u : Bool
  fb : Bool
  d : RegNo
  sysreg : BitVec 10
  a : RegNo
  deriving DecidableEq, Repr

/-- One constructor per row of the opcode table. Register fields keep the numbers of the word: which file a
field names depends on U (R81) and is decided where operands are read. -/
inductive Instr where
  /-- NOP, opcode 0x00 (R101). -/
  | nop (f : RRR)
  /-- IADD, opcode 0x01 (R101). -/
  | iadd (f : RRR)
  /-- ISUB, opcode 0x02 (R101). -/
  | isub (f : RRR)
  /-- IMUL, opcode 0x03 (R101). -/
  | imul (f : RRR)
  /-- IMULH, opcode 0x04 (R101). -/
  | imulh (f : RRR)
  /-- IMAD, opcode 0x05 (R101). -/
  | imad (f : RRR)
  /-- IMIN, opcode 0x06 (R101). -/
  | imin (f : RRR)
  /-- IMAX, opcode 0x07 (R101). -/
  | imax (f : RRR)
  /-- IABS, opcode 0x08 (R101). -/
  | iabs (f : RRR)
  /-- INEG, opcode 0x09 (R101). -/
  | ineg (f : RRR)
  /-- POPC, opcode 0x0A (R101). -/
  | popc (f : RRR)
  /-- CLZ, opcode 0x0B (R101). -/
  | clz (f : RRR)
  /-- BREV, opcode 0x0C (R101). -/
  | brev (f : RRR)
  /-- IDOT4, opcode 0x0D (R101). -/
  | idot4 (f : RRR)
  /-- AND, opcode 0x10 (R102). -/
  | andI (f : RRR)
  /-- OR, opcode 0x11 (R102). -/
  | orI (f : RRR)
  /-- XOR, opcode 0x12 (R102). -/
  | xorI (f : RRR)
  /-- NOT, opcode 0x13 (R102). -/
  | notI (f : RRR)
  /-- SHL, opcode 0x14 (R102). -/
  | shl (f : RRR)
  /-- SHR, opcode 0x15 (R102). -/
  | shr (f : RRR)
  /-- SAR, opcode 0x16 (R102). -/
  | sar (f : RRR)
  /-- ROTL, opcode 0x17 (R102). -/
  | rotl (f : RRR)
  /-- BFX, opcode 0x18 (R103). -/
  | bfx (f : RRR)
  /-- BFI, opcode 0x19 (R103). -/
  | bfi (f : RRR)
  /-- ICMP, opcode 0x1A (R104). -/
  | icmp (f : RRR)
  /-- FCMP, opcode 0x1B (R104). -/
  | fcmp (f : RRR)
  /-- SEL, opcode 0x1C (R102). -/
  | sel (f : RRR)
  /-- MOV, opcode 0x1D (R102). -/
  | movI (f : RRR)
  /-- PRMT, opcode 0x1E (R105). -/
  | prmt (f : RRR)
  /-- FADD, opcode 0x20 (R106). -/
  | fadd (f : RRR)
  /-- FSUB, opcode 0x21 (R106). -/
  | fsub (f : RRR)
  /-- FMUL, opcode 0x22 (R106). -/
  | fmul (f : RRR)
  /-- FFMA, opcode 0x23 (R106). -/
  | ffma (f : RRR)
  /-- FMIN, opcode 0x24 (R107). -/
  | fmin (f : RRR)
  /-- FMAX, opcode 0x25 (R107). -/
  | fmax (f : RRR)
  /-- FABS, opcode 0x26 (R107). -/
  | fabs (f : RRR)
  /-- FNEG, opcode 0x27 (R107). -/
  | fneg (f : RRR)
  /-- FDIV, opcode 0x28 (R106). -/
  | fdiv (f : RRR)
  /-- FSQRT, opcode 0x29 (R106). -/
  | fsqrt (f : RRR)
  /-- FRCP, opcode 0x2A (R106). -/
  | frcp (f : RRR)
  /-- FRSQ, opcode 0x2B (R106). -/
  | frsq (f : RRR)
  /-- FSCL, opcode 0x2C (R106). -/
  | fscl (f : RRR)
  /-- FRND, opcode 0x2D (R107). -/
  | frnd (f : RRR)
  /-- HADD2, opcode 0x30 (R108). -/
  | hadd2 (f : RRR)
  /-- HSUB2, opcode 0x31 (R108). -/
  | hsub2 (f : RRR)
  /-- HMUL2, opcode 0x32 (R108). -/
  | hmul2 (f : RRR)
  /-- HFMA2, opcode 0x33 (R108). -/
  | hfma2 (f : RRR)
  /-- HMIN2, opcode 0x34 (R108). -/
  | hmin2 (f : RRR)
  /-- HMAX2, opcode 0x35 (R108). -/
  | hmax2 (f : RRR)
  /-- HDOT2, opcode 0x36 (R109). -/
  | hdot2 (f : RRR)
  /-- DADD, opcode 0x38 (R108). -/
  | dadd (f : RRR)
  /-- DSUB, opcode 0x39 (R108). -/
  | dsub (f : RRR)
  /-- DMUL, opcode 0x3A (R108). -/
  | dmul (f : RRR)
  /-- DFMA, opcode 0x3B (R108). -/
  | dfma (f : RRR)
  /-- DMIN, opcode 0x3C (R108). -/
  | dmin (f : RRR)
  /-- DMAX, opcode 0x3D (R108). -/
  | dmax (f : RRR)
  /-- DDIV, opcode 0x3E (R108). -/
  | ddiv (f : RRR)
  /-- DSQRT, opcode 0x3F (R108). -/
  | dsqrt (f : RRR)
  /-- CVT, opcode 0x40 (R110). -/
  | cvt (f : RRR)
  /-- CVTSR, opcode 0x41 (R112). -/
  | cvtsr (f : RRR)
  /-- FSIN, opcode 0x42 (R113). -/
  | fsin (f : RRR)
  /-- FCOS, opcode 0x43 (R113). -/
  | fcos (f : RRR)
  /-- FSINCOS, opcode 0x44 (R113). -/
  | fsincos (f : RRR)
  /-- FEXP2, opcode 0x45 (R113). -/
  | fexp2 (f : RRR)
  /-- FLOG2, opcode 0x46 (R113). -/
  | flog2 (f : RRR)
  /-- FEXP, opcode 0x47 (R113). -/
  | fexp (f : RRR)
  /-- FLN, opcode 0x48 (R113). -/
  | fln (f : RRR)
  /-- FTANH, opcode 0x49 (R113). -/
  | ftanh (f : RRR)
  /-- FSIGM, opcode 0x4A (R113). -/
  | fsigm (f : RRR)
  /-- BSCALE, opcode 0x4B (R115). -/
  | bscale (f : RRR)
  /-- BENC, opcode 0x4C (R116). -/
  | benc (f : RRR)
  /-- BDEC, opcode 0x4D (R117). -/
  | bdec (f : RRR)
  /-- LXCH, opcode 0x50 (R118). -/
  | lxch (f : RRR)
  /-- LSHFL, opcode 0x51 (R118). -/
  | lshfl (f : RRR)
  /-- LBCAST, opcode 0x52 (R118). -/
  | lbcast (f : RRR)
  /-- LROT, opcode 0x53 (R118). -/
  | lrot (f : RRR)
  /-- CRED, opcode 0x54 (R119). -/
  | cred (f : RRR)
  /-- CSCAN, opcode 0x55 (R119). -/
  | cscan (f : RRR)
  /-- PAND, opcode 0x56 (R120). -/
  | pand (f : RRR)
  /-- POR, opcode 0x57 (R120). -/
  | por (f : RRR)
  /-- PXOR, opcode 0x58 (R120). -/
  | pxor (f : RRR)
  /-- PNOT, opcode 0x59 (R120). -/
  | pnot (f : RRR)
  /-- PMASK, opcode 0x5A (R120). -/
  | pmask (f : RRR)
  /-- PSETS, opcode 0x5B (R120). -/
  | psets (f : RRR)
  /-- VOTE, opcode 0x5C (R121). -/
  | vote (f : RRR)
  /-- ELECT, opcode 0x5D (R120). -/
  | elect (f : RRR)
  /-- VGET, opcode 0x5E (R122). -/
  | vget (f : RRR)
  /-- VPUT, opcode 0x5F (R122). -/
  | vput (f : RRR)
  /-- MOVI, opcode 0x60 (R123). -/
  | movi (f : RI)
  /-- MOVIH, opcode 0x61 (R123). -/
  | movih (f : RI)
  /-- IADDI, opcode 0x62 (R123). -/
  | iaddi (f : RI)
  /-- IMULI, opcode 0x63 (R123). -/
  | imuli (f : RI)
  /-- ANDI, opcode 0x64 (R123). -/
  | andi (f : RI)
  /-- ORI, opcode 0x65 (R123). -/
  | ori (f : RI)
  /-- XORI, opcode 0x66 (R123). -/
  | xori (f : RI)
  /-- SHLI, opcode 0x67 (R123). -/
  | shli (f : RI)
  /-- SHRI, opcode 0x68 (R123). -/
  | shri (f : RI)
  /-- FMOVI, opcode 0x69 (R123). -/
  | fmovi (f : RI)
  /-- FADDI, opcode 0x6A (R123). -/
  | faddi (f : RI)
  /-- FMULI, opcode 0x6B (R123). -/
  | fmuli (f : RI)
  /-- HADDI2H, opcode 0x6C (R123). -/
  | haddi2h (f : RI)
  /-- HADDI2B, opcode 0x6D (R123). -/
  | haddi2b (f : RI)
  /-- HMULI2H, opcode 0x6E (R123). -/
  | hmuli2h (f : RI)
  /-- HMULI2B, opcode 0x6F (R123). -/
  | hmuli2b (f : RI)
  /-- F8MULI, opcode 0xE0 (R124). -/
  | f8muli (f : RI)
  /-- F8ADDI, opcode 0xE1 (R124). -/
  | f8addi (f : RI)
  /-- LD8, opcode 0x70 (R139). -/
  | ld8 (f : FM)
  /-- LD16, opcode 0x71 (R139). -/
  | ld16 (f : FM)
  /-- LD32, opcode 0x72 (R139). -/
  | ld32 (f : FM)
  /-- LD64, opcode 0x73 (R139). -/
  | ld64 (f : FM)
  /-- LD128, opcode 0x74 (R139). -/
  | ld128 (f : FM)
  /-- ST8, opcode 0x75 (R139). -/
  | st8 (f : FM)
  /-- ST16, opcode 0x76 (R139). -/
  | st16 (f : FM)
  /-- ST32, opcode 0x77 (R139). -/
  | st32 (f : FM)
  /-- ST64, opcode 0x78 (R139). -/
  | st64 (f : FM)
  /-- ST128, opcode 0x79 (R139). -/
  | st128 (f : FM)
  /-- LDACQ, opcode 0x7A (R140). -/
  | ldacq (f : FM)
  /-- STREL, opcode 0x7B (R140). -/
  | strel (f : FM)
  /-- FENCE, opcode 0x7C (R141). -/
  | fence (f : FM)
  /-- LDQ, opcode 0x7D (R142). -/
  | ldq (f : FM)
  /-- STQ, opcode 0x7E (R142). -/
  | stq (f : FM)
  /-- PREF, opcode 0x7F (R143). -/
  | pref (f : FM)
  /-- LDS, opcode 0x80 (R144). -/
  | lds (f : FM)
  /-- STS, opcode 0x81 (R144). -/
  | sts (f : FM)
  /-- LDS128, opcode 0x82 (R144). -/
  | lds128 (f : FM)
  /-- STS128, opcode 0x83 (R144). -/
  | sts128 (f : FM)
  /-- LDX, opcode 0x84 (R144). -/
  | ldx (f : FM)
  /-- STX, opcode 0x85 (R144). -/
  | stx (f : FM)
  /-- LDW, opcode 0x86 (R144). -/
  | ldw (f : FM)
  /-- STW, opcode 0x87 (R144). -/
  | stw (f : FM)
  /-- LDAC, opcode 0x88 (R145). -/
  | ldac (f : FM)
  /-- STAC, opcode 0x89 (R145). -/
  | stac (f : FM)
  /-- ATOM, opcode 0x8A (R146). -/
  | atom (f : FA)
  /-- ATOMAR, opcode 0x8B (R148). -/
  | atomar (f : FA)
  /-- ACAS, opcode 0x8C (R147). -/
  | acas (f : FA)
  /-- ACASAR, opcode 0x8D (R147). -/
  | acasar (f : FA)
  /-- ATOMS, opcode 0x8E (R146). -/
  | atoms (f : FA)
  /-- AREDG, opcode 0x8F (R148). -/
  | aredg (f : FA)
  /-- BARA, opcode 0x90 (R150). -/
  | bara (f : FB)
  /-- BARW, opcode 0x91 (R150). -/
  | barw (f : FB)
  /-- BARAW, opcode 0x92 (R150). -/
  | baraw (f : FB)
  /-- BARINIT, opcode 0x93 (R151). -/
  | barinit (f : FB)
  /-- WAITC, opcode 0x94 (R155). -/
  | waitc (f : FW)
  /-- WAITCT, opcode 0x95 (R155). -/
  | waitct (f : FW)
  /-- ENQ, opcode 0x96 (R161). -/
  | enq (f : FQ)
  /-- DEQ, opcode 0x97 (R161). -/
  | deq (f : FQ)
  /-- ENQNB, opcode 0x98 (R161). -/
  | enqnb (f : FQ)
  /-- DEQNB, opcode 0x99 (R161). -/
  | deqnb (f : FQ)
  /-- QINIT, opcode 0x9A (R162). -/
  | qinit (f : FQ)
  /-- QCLOSE, opcode 0x9B (R163). -/
  | qclose (f : FQ)
  /-- QSTAT, opcode 0x9C (R164). -/
  | qstat (f : FQ)
  /-- OCRD, opcode 0x9D (R166). -/
  | ocrd (f : RRR)
  /-- YIELD, opcode 0x9E (R166). -/
  | yield (f : RRR)
  /-- SLEEP, opcode 0x9F (R166). -/
  | sleep (f : RRR)
  /-- MMA_BF16, opcode 0xA0 (R169). -/
  | mmaBf16 (f : FX)
  /-- MMA_F16, opcode 0xA1 (R169). -/
  | mmaF16 (f : FX)
  /-- MMA_E4M3, opcode 0xA2 (R169). -/
  | mmaE4m3 (f : FX)
  /-- MMA_E5M2, opcode 0xA3 (R169). -/
  | mmaE5m2 (f : FX)
  /-- MMA_E2M1, opcode 0xA4 (R169). -/
  | mmaE2m1 (f : FX)
  /-- MMA_E2M1X, opcode 0xA5 (R169). -/
  | mmaE2m1x (f : FX)
  /-- MMA_I8, opcode 0xA6 (R169). -/
  | mmaI8 (f : FX)
  /-- MMA_F32, opcode 0xA7 (R169). -/
  | mmaF32 (f : FX)
  /-- MMA_F64, opcode 0xA8 (R169). -/
  | mmaF64 (f : FX)
  /-- BFENCE, opcode 0xA9 (R181). -/
  | bfence (f : RRR)
  /-- BWAIT, opcode 0xAA (R181). -/
  | bwait (f : RRR)
  /-- ACZERO, opcode 0xAB (R185). -/
  | aczero (f : RRR)
  /-- ACSCL, opcode 0xAC (R186). -/
  | acscl (f : RRR)
  /-- MREP, opcode 0xAD (R183). -/
  | mrep (f : RRR)
  /-- MQRY, opcode 0xAE (R184). -/
  | mqry (f : RRR)
  /-- CPY, opcode 0xB0 (R188). -/
  | cpy (f : FC)
  /-- CPYM, opcode 0xB1 (R192). -/
  | cpym (f : FC)
  /-- CPYT, opcode 0xB2 (R193). -/
  | cpyt (f : FC)
  /-- TININIT, opcode 0xB3 (R195). -/
  | tininit (f : FC)
  /-- TINWAIT, opcode 0xB4 (R196). -/
  | tinwait (f : FC)
  /-- TINREL, opcode 0xB5 (R194). -/
  | tinrel (f : FC)
  /-- TINKILL, opcode 0xB6 (R194). -/
  | tinkill (f : FC)
  /-- TINQ, opcode 0xB7 (R194). -/
  | tinq (f : FC)
  /-- QFENCE, opcode 0xB8 (R198). -/
  | qfence (f : FC)
  /-- COLL, opcode 0xB9 (R199). -/
  | coll (f : FC)
  /-- RPUT, opcode 0xBA (R201). -/
  | rput (f : FC)
  /-- RGET, opcode 0xBB (R201). -/
  | rget (f : FC)
  /-- RATOM, opcode 0xBC (R201). -/
  | ratom (f : FC)
  /-- RFLUSH, opcode 0xBD (R202). -/
  | rflush (f : FC)
  /-- LAUNCH, opcode 0xBE (R203). -/
  | launchI (f : FC)
  /-- BRA, opcode 0xC0 (R127). -/
  | bra (f : FJ)
  /-- BRS, opcode 0xC1 (R127). -/
  | brs (f : FJC)
  /-- BRP, opcode 0xC2 (R127). -/
  | brp (f : FJC)
  /-- CALL, opcode 0xC3 (R128). -/
  | callI (f : FJ)
  /-- RET, opcode 0xC4 (R128). -/
  | retI (f : FJ)
  /-- JMPR, opcode 0xC5 (R127). -/
  | jmpr (f : FJC)
  /-- IF, opcode 0xC6 (R129). -/
  | ifI (f : FJC)
  /-- ELSE, opcode 0xC7 (R129). -/
  | elseI (f : FJ)
  /-- ENDIF, opcode 0xC8 (R129). -/
  | endifI (f : FJ)
  /-- LOOP, opcode 0xC9 (R130). -/
  | loopI (f : FJ)
  /-- ENDLOOP, opcode 0xCA (R130). -/
  | endloopI (f : FJ)
  /-- BREAK, opcode 0xCB (R130). -/
  | breakI (f : FJC)
  /-- CONT, opcode 0xCC (R130). -/
  | contI (f : FJC)
  /-- EXIT, opcode 0xCD (R131). -/
  | exitI (f : FJ)
  /-- SRD, opcode 0xD0 (R32). -/
  | srd (f : FS)
  /-- SWR, opcode 0xD1 (R32). -/
  | swr (f : FS)
  /-- TRAP, opcode 0xD2 (R206). -/
  | trapI (f : FS)
  /-- TRET, opcode 0xD3 (R250). -/
  | tret (f : FS)
  /-- LRD, opcode 0xD4 (R208). -/
  | lrd (f : FS)
  /-- LWR, opcode 0xD5 (R208). -/
  | lwr (f : FS)
  /-- RQRD, opcode 0xD6 (R209). -/
  | rqrd (f : FS)
  /-- RQWR, opcode 0xD7 (R209). -/
  | rqwr (f : FS)
  /-- STEPO, opcode 0xD8 (R211). -/
  | stepo (f : FS)
  /-- STEPM, opcode 0xD9 (R211). -/
  | stepm (f : FS)
  /-- STEPC, opcode 0xDA (R211). -/
  | stepc (f : FS)
  /-- TIME, opcode 0xDB (R212). -/
  | timeI (f : FS)
  /-- ERES, opcode 0xDC (R213). -/
  | eres (f : FS)
  /-- MSAVE, opcode 0xDD (R214). -/
  | msave (f : FS)
  /-- MREST, opcode 0xDE (R214). -/
  | mrest (f : FS)
  /-- BRK, opcode 0xDF (R206). -/
  | brk (f : FS)
  /-- POWER_ON_RESET (R9): Power-on reset sets every register to its reset value. -/
  | powerOnReset
  /-- BRINGUP_STAGE (R382): The MMC performs the next bring-up stage. -/
  | bringupStage
  /-- FIRMWARE_UPDATE (R378): The MMC verifies and writes a new image received over management. -/
  | firmwareUpdate
  /-- THERMAL_TRIP (R383): A sensor at TTRIP makes the MMC remove the site's power and kill its grids. -/
  | thermalTrip
  /-- TOFF_UPDATE (R4): The module management controller corrects a site's TOFF. -/
  | toffUpdate
  /-- OZRIK_LINK_TRAIN (R371): A host port trains at a generation and width. -/
  | ozrikLinkTrain
  /-- CLAUSE_FETCH (R73): Fetch a clause header and check the whole clause. -/
  | clauseFetch
  /-- CLAUSE_WAIT_END (R21): A WAIT_FLAGS coach starts its clause once the named flags are clear. -/
  | clauseWaitEnd
  /-- SLICE_ISSUE_CYCLE (R300): Each slice cycle chooses coaches to issue per octet. -/
  | sliceIssueCycle
  /-- OPERATION_COMPLETE (R76): A trackable instruction completes and lowers its flag. -/
  | operationComplete
  /-- TRAP_TAKE (R246): After older entries drain, the frame and replay queue are formed. -/
  | trapTake
  /-- ASYNC_TRAP_TAKE (R251): A held asynchronous cause is taken at the next issue slot. -/
  | asyncTrapTake
  /-- RESUME (R253): System software resumes an escalated coach from its record. -/
  | resume
  /-- REFLECT (R253): System software reflects an escalated cause to the user handler. -/
  | reflect
  /-- KILL (R253): System software discards every workgroup of the grid, completing it KILLED. -/
  | kill
  /-- COACH_SLOT_FREE (R131): A retired coach's slot is freed once its flags are clear. -/
  | coachSlotFree
  /-- GRID_COMPLETION (R292): The completion record is written after final clocks reach every site. -/
  | gridCompletion
  /-- PREEMPT_REQUEST (R255): A pre-emption of a workgroup is requested, raising PREEMPT_NOTICE. -/
  | preemptRequest
  /-- NOTICE_INTERVAL_EXPIRY (R255): The notice interval ends and the save begins. -/
  | noticeIntervalExpiry
  /-- WORKGROUP_SAVE (R256): A workgroup is saved step by step into the save area. -/
  | workgroupSave
  /-- WORKGROUP_RESTORE (R263): A saved workgroup is restored onto a core with room. -/
  | workgroupRestore
  /-- MIGRATION (R265): A workgroup is saved and restored onto another core. -/
  | migration
  /-- LAUNCH_RECORD_TAKE (R291): The launch unit takes a record and checks it into a grid. -/
  | launchRecordTake
  /-- WORKGROUP_START (R294): A waiting workgroup is placed on a core with room. -/
  | workgroupStart
  /-- STAGGER_REGION_START (R297): A power region's start time arrives in a staggered launch. -/
  | staggerRegionStart
  /-- STEAL_REQUEST (R299): An idle core steals half of a victim's unstarted indices. -/
  | stealRequest
  /-- STEAL_RETRY_WAIT (R299): The 64-cycle wait after an empty answer ends. -/
  | stealRetryWait
  /-- PRIORITY_PREEMPT (R301): The scheduler saves lower-priority work to make room. -/
  | priorityPreempt
  /-- QUANTUM_EXPIRY (R301): A time-slice quantum ends and a workgroup of another context is saved. -/
  | quantumExpiry
  /-- BARRIER_PARK (R304): Parkable workgroups are saved into the park area. -/
  | barrierPark
  /-- WAIT_PARK (R304): Wait-parkable workgroups are saved into the pool. -/
  | waitPark
  /-- SBUF_LEND (R276): A free SBUF unit becomes a column-cache way. -/
  | sbufLend
  /-- SBUF_RECLAIM (R277): A lent unit is drained and returned to the SBUF. -/
  | sbufReclaim
  /-- BARRIER_RELEASE (R150): A completed phase's release reaches a waiting coach. -/
  | barrierRelease
  /-- MONITOR_WAKE (R155): A satisfying write wakes a parked monitor waiter. -/
  | monitorWake
  /-- MONITOR_POLL (R155): An unregistered monitor waiter polls every 2 µs. -/
  | monitorPoll
  /-- WAITCT_DEADLINE (R155): A WAITCT deadline expires. -/
  | waitctDeadline
  /-- QUEUE_WAKE (R317): A queue change wakes the earliest waiter of a side. -/
  | queueWake
  /-- QUEUE_POLL (R317): An unregistered queue waiter polls every 2 µs. -/
  | queuePoll
  /-- SLEEP_EXPIRY (R166): A sleeping coach's interval ends. -/
  | sleepExpiry
  /-- HORIZON_REPORT (R230): Each site reports its largest OCLK every 1 µs. -/
  | horizonReport
  /-- AGE_SWEEP (R236): The slice age sweep removes aged race entries. -/
  | ageSweep
  /-- PAGE_WALK (R286): A walker translates a TLB miss. -/
  | pageWalk
  /-- REX_DEADLINE (R285): An armed region's deadline passes and its L2 lines are discarded. -/
  | rexDeadline
  /-- ARM (R284): REXCMD ARM stops refresh and sets a deadline. -/
  | arm
  /-- DISARM (R284): REXCMD DISARM resumes refresh. -/
  | disarm
  /-- TLBINV_PAGE (R287): Invalidate one page of each size. -/
  | tlbinvPage
  /-- TLBINV_CONTEXT (R287): Invalidate all translations of a context. -/
  | tlbinvContext
  /-- TLBINV_FRD (R287): Invalidate a context's FRD cache. -/
  | tlbinvFrd
  /-- TLBINV_ALL (R287): Invalidate translations of all contexts. -/
  | tlbinvAll
  /-- HOST_ACCESS (R372): A host access through the Ozrik Link is performed at a home slice. -/
  | hostAccess
  /-- HQENQ (R373): The host enqueues HQREC onto a launch queue. -/
  | hqenq
  /-- ATTCMD (R379): Write a signed attestation report. -/
  | attcmd
  /-- CHECKPOINT (R381): Save workgroups and write all DRAM to the remote pool. -/
  | checkpoint
  /-- CHECKPOINT_RESTORE (R381): Restore from the remote pool. -/
  | checkpointRestore
  /-- REGISTER_WRITE (R374): Write of a window register with no behaviour of its own. -/
  | registerWrite
  /-- DSTAT_WRITE (R306): Firmware sets a deck state, possibly failing an open batch. -/
  | dstatWrite
  /-- ECC_SELF_TEST (R380): An ECC or parity error triggers a targeted self-test. -/
  | eccSelfTest
  /-- DRAM_EVACUATE (R367): A hot bank is copied to a spare and remapped. -/
  | dramEvacuate
  /-- BACK (R367): EVACCTL returns a sleeping bank's rows. -/
  | back
  /-- MMA_GATE_START (R174): A gated MMA begins when its tin becomes FULL. -/
  | mmaGateStart
  /-- MMA_COMPLETE (R178): An MMA's operands are consumed and its pins released. -/
  | mmaComplete
  /-- MATRIX_PASS (R307): A pass leaves the decks and its chain is promoted. -/
  | matrixPass
  /-- BATCH_COMPLETE (R307): The last promotion is written and the batch completes. -/
  | batchComplete
  /-- MATRIX_RUNTIME_ERROR (R179): A matrix run-time error halts the queue and marks the tile. -/
  | matrixRuntimeError
  /-- RAMP_START (R359): A ramp start is granted to a core. -/
  | rampStart
  /-- RAMP_STEP (R358): A 4-cycle ramp step advances the activity level. -/
  | rampStep
  /-- BALLAST_STEP (R360): A 4-cycle ballast step lowers the activity level. -/
  | ballastStep
  /-- CURRENT_STEP (R361): A region's 200 ns current step begins. -/
  | currentStep
  /-- DROOP_ALARM (R363): A region's supply falls below its trip level. -/
  | droopAlarm
  /-- THROTTLE_END (R363): The droop throttle ends 2000 ns after the last alarm. -/
  | throttleEnd
  /-- DECK_THERMAL (R365): A deck crossing TDECK is throttled or returned. -/
  | deckThermal
  /-- GOVERNOR_SAMPLE (R354): The governor samples an open step each 1000 ns. -/
  | governorSample
  /-- ISLAND_TARGET (R352): A target arrives at an island's mailbox. -/
  | islandTarget
  /-- CLOCK_SWITCH (R351): The idle generator takes over the core clock. -/
  | clockSwitch
  /-- ISLAND_MOVE_COMPLETE (R351): An island's move ends, starting any pending target. -/
  | islandMoveComplete
  /-- THERMAL_CONTROL (R366): Every 100 µs the stack sensors adjust CAP. -/
  | thermalControl
  /-- SLICE_AUTO_IDLE (R350): An idle slice drops to 4/8 after 1 µs. -/
  | sliceAutoIdle
  /-- BANDED_LATENCY_MEASURE (R328): The SSC re-measures crossing latencies. -/
  | bandedLatencyMeasure
  /-- COPY_START (R188): A copy starts once every coach has arrived and passed. -/
  | copyStart
  /-- COPY_CHUNK (R190): A 4 KiB chunk is written and counted at the tin. -/
  | copyChunk
  /-- COPY_RUNTIME_ERROR (R190): A copy stops at its chunk with ERR and a halt. -/
  | copyRuntimeError
  /-- CPYM_DELIVER (R192): A multicast packet lands at a receiving core's tin. -/
  | cpymDeliver
  /-- CPYM_ACK (R329): The root's combined acknowledgement completes the CPYM. -/
  | cpymAck
  /-- COLL_HEADER_EXCHANGE (R200): Participants exchange and compare collective headers. -/
  | collHeaderExchange
  /-- COLL_CHUNK (R314): A collective chunk arrives and is combined. -/
  | collChunk
  /-- COLL_COMPLETE (R200): DADDR and the completion record are written. -/
  | collComplete
  /-- REMOTE_ACK (R202): A peer acknowledges or negatively acknowledges a remote operation. -/
  | remoteAck
  /-- RMT_TIMEOUT (R335): The endpoint timeout expires for an operation. -/
  | rmtTimeout
  /-- PACKET_RECEIVE (R335): An endpoint receives a packet and acknowledges. -/
  | packetReceive
  /-- ACK_RECEIVE (R336): A selective acknowledgement arrives, adjusting window and retransmits. -/
  | ackReceive
  /-- RETRANSMIT_TIMER (R335): A packet's retransmit timer expires. -/
  | retransmitTimer
  /-- OCCUPANCY_REPORT (R331): Routers report ring occupancy every 100 ns. -/
  | occupancyReport
  /-- OHEALTH_UPDATE (R340): Wavelength health registers update every 10 µs. -/
  | ohealthUpdate
  /-- LINK_NARROW (R342): A direction narrows to a healthy lane group. -/
  | linkNarrow
  /-- LINK_WIDEN (R342): Firmware widens a direction back. -/
  | linkWiden
  /-- ONEWAY_ENTER (R343): Loss of light puts a receive direction ONEWAY. -/
  | onewayEnter
  /-- ONEWAY_HOLD_EXPIRY (R343): The one-way hold ends and the direction goes DOWN. -/
  | onewayHoldExpiry
  /-- POWER_STATE_ANNOUNCE (R344): A transmitter announces a new laser state and dims. -/
  | powerStateAnnounce
  /-- LINK_WAKE (R344): Queued traffic returns a link to LP0. -/
  | linkWake
  /-- RELIGHT_LOCK_TIMEOUT (R344): A lane not locked after relight plus 10 µs turns unhealthy. -/
  | relightLockTimeout
  /-- ARBITER_ROUND (R345): A 1 µs arbiter round sends requests and receives grants. -/
  | arbiterRound
  /-- SLOT_START (R347): A switch slot begins with an identity check. -/
  | slotStart
  /-- SLOT_END (R346): A switch slot ends. -/
  | slotEnd
  /-- HOT_MARK_CHANGE (R295): A core becomes hot when its temperature sensor reads at least THOT, and cool again below THOT − 6 °C. -/
  | hotMarkChange
  /-- LASER_STATE_REACHED (R344): A link's laser finishes its move between LP0, LP1 and LP2, CUR leaves 'moving', and packets waiting for relight flow. -/
  | laserStateReached
  /-- TARGETED_SELF_TEST_END (R380): A targeted self-test finishes, releases the held accesses and classes the error TRANSIENT or LASTING, failing a LASTING deck. -/
  | targetedSelfTestEnd
  /-- LINK_ACKNOWLEDGEMENT (R342): A link-level acknowledgement of flit sequence numbers arrives, freeing the replay buffer and resuming injection stopped at 1024 unacknowledged flits. -/
  | linkAcknowledgement
  deriving DecidableEq, Repr

/-- The operands of an operation or event: which unit it happens at (`site`, `core`, workgroup `slot`, coach `k`),
which entry (`id`), the numbers, address, value and data it carries. Each event's meaning says what it reads. -/
structure EvArgs where
  site : Nat
  core : Nat
  slot : Nat
  k : Nat
  id : Nat
  n : Nat
  m : Nat
  p : Nat
  pa : Nat
  value : BitVec 64
  ok : Bool
  data : List Byte
  sig : List Byte
  words : List Word
  bands : List (Nat × Nat)
  deriving DecidableEq, Repr

/-- Operands that an event does not carry. -/
def EvArgs.zero : EvArgs :=
  { site := 0, core := 0, slot := 0, k := 0, id := 0, n := 0, m := 0, p := 0, pa := 0, value := 0, ok := false,
    data := [], sig := [], words := [], bands := [] }

/-- An operation or event of the device with its operands. -/
structure Event where
  op : Instr
  arg : EvArgs
  deriving DecidableEq, Repr

end Sys2Proof
end

