-- ==== Sys2Proof/Config.lean ====
section
/-! DEFINITION. What the spec leaves open: free values, constants with no body, so that a claim holds whatever they
are. Most take the machine's `tick`, so that each use is a fresh value; those that take operands only are fixed for
the machine. notes/assumptions names each of them. -/

namespace Sys2Proof.Config

/-- Which event happens when nothing else is due (00 R12: one of several outcomes). -/
opaque nextEvent : Nat → Option Event
/-- How many ns a step takes (the timing tables are out of scope). -/
opaque elapsed : Nat → Nat
/-- R77: a read of a pending register obtains the value before the write (true) or after it. -/
opaque readsOld : Nat → Nat → Bool
/-- R77: which of two writes to a pending register is last: true, the later instruction's own. -/
opaque ownLast : Nat → Nat → Bool
/-- The line that a cache set replaces, where the spec does not fix it (R269, R274), and a TLB's entry (R286). -/
opaque victim : Nat → Nat → Nat
/-- The set of an L2 slice that holds a line (R269 gives 2048 sets and not which). -/
opaque l2Set : Nat → Nat
/-- The set of a TLB that holds a page (R286). -/
opaque tlbSet : Nat → Nat
/-- R286: which of the 32 walkers serves a miss. -/
opaque walker : Nat → Nat
/-- R282, R287: whether a read of a descriptor is served by the site's cache of it. -/
opaque frdHit : Nat → Nat → Bool
/-- R285: a byte of a line that a slice has discarded without write-back: the DRAM's own copy of it. -/
opaque lostByte : Nat → Nat → Byte
/-- R66: the deviation, in units of 2^-40 of the reference value's ULP, of a result that R66 bounds, by operation
and operand; the model clamps it to the bound. -/
opaque deviation : Nat → Nat → Int
/-- Energy meters in µJ by tick and island (R210, R360). -/
opaque energy : Nat → Nat → BitVec 64
/-- Bytes of the opaque matrix save image beyond MXVER (R214). -/
opaque imageByte : Nat → Nat → Byte
/-- R379: the signature by the identity key, which no interface reads. -/
opaque sign : List Byte → List Byte
/-- R378: where an image holds its security version is not said. -/
opaque imageVersion : List Byte → BitVec 16
/-- Is a link of a site switched, that is, wired to a port of the pod switch (R345)? -/
opaque linkSwitched : Nat → Nat → Bool
/-- The switch port that leads to a device's site (R331, R345). -/
opaque switchPort : Nat → Nat → Nat
/-- The device at the far end of a link that is not switched (R343). -/
opaque linkPeer : Nat → Nat → Nat
/-- A free choice among alternatives that a rule lists, by tick and a tag of the place that asks. -/
opaque choose : Nat → Nat → Nat

end Sys2Proof.Config
end

