-- ==== Sys2Proof/Machine/State.lean ====
section
/-! DEFINITION. The machine's state as plain data, the reasons a step can stop, and the state after reset. Every
piece of state that spec/ names has a field here (INVENTORY.md, section State, lists them with their rules). -/

namespace Sys2Proof.Machine

/-- A sparse map with natural keys: rising keys, nothing listed that equals the default its reader names. -/
abbrev Table (α : Type) := List (Nat × α)

/-- Memory by 52-bit physical address (R266): what an unlisted address reads as is `unlistedByte`. -/
abbrev Memory := List Host.Cell

/-- The states of a coach (R21). -/
inductive CoachState where
  | runnable
  | waitFlags
  | waitBar
  | parkedMon
  | parkedQueue
  | waitTin
  | waitBatch
  | trapped
  | saved
  | retired
  deriving DecidableEq, Repr

/-- The kinds of divergence-stack entries (R28). -/
inductive DivKind where
  | ifK
  | elseK
  | loopK
  | callK
  deriving DecidableEq, Repr

/-- One divergence-stack entry: a mask, a kind and the address at which it resumes (R28, R261). -/
structure DivEntry where
  mask : Mask
  kind : DivKind
  resume : DWord
  deriving DecidableEq, Repr

/-- The clause state (R78): the header word, the index of the next instruction word and the guard mask, which is
taken when the first instruction issues. `fresh`: the address of its header, when the fetch of a word has faulted before any
word of the clause issued (R73, R90). -/
structure Clause where
  header : Word
  next : Nat
  guard : Mask
  fresh : Option DWord := none
  deriving DecidableEq, Repr

/-- A coach by its workgroup slot (R18) and its index in the workgroup. -/
structure CoachRef where
  slot : Nat
  k : Nat
  deriving DecidableEq, Repr

/-- A register with a pending write (R77): `scalar` for an s register; `old` is its value before the write. -/
structure PendReg where
  scalar : Bool
  reg : Nat
  thread : Nat
  old : Word
  deriving DecidableEq, Repr

/-- What ends an operation in flight. -/
inductive FlightKind where
  /-- Its access is performed; it completes at OPERATION_COMPLETE. -/
  | performed
  /-- A memory instruction that has met a cause on its way: the cause, its address and TMASK reach the coach at
  OPERATION_COMPLETE (R246). -/
  | raised (cause : BitVec 7) (addr : DWord) (tmask : Mask)
  /-- A trackable instruction issued behind one that has met a cause or may still meet one: it performs when it is injected
  again (R246). -/
  | held
  /-- A load, a store or an atomic without ordering that performs later than it issues; younger loads may perform before it (R136, R246). -/
  | late
  /-- A tracked TINWAIT on a physical tin (R196). -/
  | tinWait (tin : Nat)
  /-- An MREP of a batch that has not completed (R183), with the quad it writes. -/
  | mrep (batch reg : Nat)
  /-- A LAUNCH waiting at the controller with its record (R203); `stat` is its STAT register, `clk` the order clock at its
  issue (R232). -/
  | launch (record : List Byte) (stat : Nat) (clk : Word)
  /-- An RFLUSH waiting for the listed remote operations (R202). -/
  | rflush (ids : List Nat)
  /-- A QFENCE waiting for its join (R198). -/
  | qfence (join : Nat)
  /-- An entry accepted by an engine, which completes it itself (R167). -/
  | engine
  deriving DecidableEq, Repr

/-- What a blocking instruction keeps while it waits (R22, R150, R155, R166): the phase a barrier wait is for, with the
barrier's scope and index; the WAITCT deadline in wafer time or the SLEEP end in site time; the queue and the side whose
waiter count includes the coach (its QCB's address, true for a producer); the site that counts its polls, when the
coach could not be registered in a monitor table; the physical tin that an untracked TINWAIT waits on (R196); the
instruction's word, while its wait has not completed, and the order clock at its issue (R232); the batch number of a BWAIT; whether a monitor
entry has been registered for it (R318); the word of a wait that has been cut short (R22). -/
structure Wait where
  joined : Option Word
  bar : Option (Nat × Nat)
  deadline : Option Nat
  queue : Option (Nat × Bool)
  poll : Option Nat
  tin : Option Nat
  word : Option Word
  clk : Option Word := none
  batch : Option Nat := none
  entry : Bool := false
  cut : Option Word := none
  deriving DecidableEq, Repr

/-- What an instruction that performs later than it issues has from its issue: the number of its operation, the order clock (R232) and DPHASE (R33),
with the registers (file, number, thread) that younger instructions have written since, last (R77). -/
structure Issued where
  id : Nat
  clk : Word
  phase : BitVec 5
  overtaken : List (Bool × Nat × Nat)
  deriving DecidableEq, Repr

/-- One replay entry (R209). `sops` are the captured s operands in field order; slot k of thread t of the captured
v operands (R208) is `vops` at 17 * t + k; `wait` is what a cancelled wait keeps; `issued` belongs to an instruction that
performs later, none for an entry that a trap or a save has left: it issues anew; `hdr` is the header of its clause. -/
structure ReplayEntry where
  word : Word
  pc : DWord
  flag : Option Nat
  status : BitVec 2
  mask : Mask
  sops : List Word
  vops : Table Word
  faddr : DWord
  cause : BitVec 7
  wait : Wait
  issued : Option Issued := none
  hdr : Option Word := none
  deriving DecidableEq, Repr

/-- A trackable operation that has issued and not completed (R27, R76, R246). `entry`: it holds one of the coach's
16 replay entries; `rep` is that entry while the operation is not performed. -/
structure Flight where
  id : Nat
  word : Word
  pc : DWord
  flag : Option Nat
  entry : Bool
  kind : FlightKind
  pend : List PendReg
  rep : Option ReplayEntry
  deriving DecidableEq, Repr

/-- What is saved when the handler is entered (R248, R250) beside the registers TCAUSE to TMASK7. -/
structure Frame where
  exec : Mask
  depth : Nat
  clause : Option Clause
  resume : DWord
  deriving DecidableEq, Repr

/-- A detected trap whose older entries have not all completed (R246 step 2). -/
structure PendTrap where
  cause : BitVec 7
  addr : DWord
  mask : Mask
  entries : List ReplayEntry
  tpc : DWord
  clause : Option Clause
  deriving DecidableEq, Repr

/-- A queued remote failure (R202, R251), or a cause held while an escalation is pending (R253). -/
structure RemoteFail where
  cause : BitVec 7
  addr : DWord
  deriving DecidableEq, Repr

/-- The report of a closed batch (R182), and its clock (R181). -/
structure DeckReport where
  batch : Nat
  err : Bool
  decks : BitVec 4
  passes : Nat
  promos : Nat
  ballast : Nat
  clock : Word
  complete : Bool
  deriving DecidableEq, Repr

/-- One coach (R13, R21-R30, R261). `batchWrap`: its batch numbers have passed 0xFFFF (R181). v registers are keyed 256 * n + t, predicates by thread (bit n is pn; p0 is
always read as 1), s registers and flags by number; what is not listed reads 0. `stamp` and `holds` count cycles of the
coach's slice (R300): when its next instruction became ready, and until when its last one holds its octets; `yieldAt` is the slice cycle in which a
YIELD has it issue nothing (R166); `stopped` is the state in which a save has stopped it (R261). -/
structure Coach where
  state : CoachState
  pc : DWord
  clause : Option Clause
  exec : Mask
  exited : Mask
  v : Table Word
  s : Table Word
  p : Table (BitVec 8)
  flags : Table Nat
  div : List DivEntry
  dphase : BitVec 5
  tcause : BitVec 7
  tpc : DWord
  taddr : DWord
  trqn : Nat
  tmask : Mask
  frame : Option Frame
  pendTrap : Option PendTrap
  rq : List ReplayEntry
  flights : List Flight
  nextId : Nat
  wait : Wait
  deadlineRisk : Bool
  preemptNotice : Bool
  rfails : List RemoteFail
  heldCauses : List RemoteFail
  escalated : Option DWord
  stepRec : DWord
  openBatch : Nat
  lastBatch : Nat
  reports : List DeckReport
  batchWrap : Bool
  reconv : Bool
  copies : Nat
  slice : Nat
  octet : Nat
  slotIx : Nat
  stamp : Nat
  holds : Nat
  starv : Nat
  yieldAt : Nat := 0
  stopped : Option CoachState := none
  deriving DecidableEq, Repr

/-- A barrier (R150): expected count, arrived sum, generation, release clock of the last completed phase and the
largest clock of the phase in progress. -/
structure Bar where
  e : Word
  a : Word
  g : Word
  rclk : Word
  m : Word
  deriving DecidableEq, Repr

/-- A barrier of CORE scope or wider: the scope instance it belongs to, its owner (a grid; for POD a context) and
its number among the owner's slots (R153). -/
structure WideBar where
  scope : BitVec 3
  inst : Nat
  owner : Nat
  bix : Nat
  bar : Bar
  deriving DecidableEq, Repr

/-- A resident workgroup (R17, R18, R29-R31). `moveTo`: the core to which its save migrates it (R265). -/
structure Workgroup where
  ctx : Nat
  gid : Nat
  index : Nat
  x : Nat
  y : Nat
  z : Nat
  w : Nat
  logd : Nat
  ncoach : Nat
  vregs : Nat
  sregs : Nat
  haz : Bool
  oclk : Word
  baseSlice : Nat
  sbufBase : Nat
  sbufSize : Nat
  tinBase : Nat
  tins : Nat
  bars : Table Bar
  coaches : Table Coach
  startTime : Nat
  saving : Option Nat
  noticeEnd : Option Nat
  noticeLeft : List Nat
  parkTo : Nat
  moveTo : Option Nat
  deriving DecidableEq, Repr

/-- A grid (R19, R288-R293): the descriptor, the launch record and the progress of its launch. `status` none:
running; `held`: with STAGGER, the workgroups (index, site) whose turn has fallen to a site that has not started (R297). -/
structure Grid where
  ctx : Nat
  num : Nat
  site : Nat
  entry : DWord
  args : DWord
  w : Nat
  logd : Nat
  ncoach : Nat
  vregs : Nat
  sregs : Nat
  haz : Bool
  tins : Nat
  sbuf : Nat
  xbuf : Nat
  wbuf : Nat
  abuf : Nat
  park : Nat
  bwafer : Nat
  bsite : Nat
  bquad : Nat
  bcore : Nat
  bwg : Nat
  bpod : Nat
  xe : Nat
  ye : Nat
  ze : Nat
  notice : Nat
  tree : Bool
  stagger : Bool
  prio : Nat
  sites : DWord
  parkVa : DWord
  crec : DWord
  tag : Word
  clock : Word
  t0 : Nat
  nextIndex : Nat
  nextSite : Nat
  regions : List Nat
  started : Nat
  retired : Nat
  startedAt : Nat
  final : Word
  status : Option Nat
  killed : Bool
  held : List (Nat × Nat)
  deriving DecidableEq, Repr

/-- A context (R19, R40): residence and its two context registers (R30). -/
structure Context where
  resident : Bool
  thbase : DWord
  ctxsave : DWord
  nextGrid : Nat
  live : Nat
  deriving DecidableEq, Repr

/-- One byte of a column-cache line (R274). -/
structure CByte where
  val : Byte
  dirty : Bool
  deriving DecidableEq, Repr

/-- A column-cache line (R274): valid bytes by offset, the owner mask, the way (8 + u for the way of lent SBUF unit u), and
whether it is the line of its set that is replaced next. -/
structure CLine where
  bytes : Table CByte
  owner : BitVec 16
  way : Nat
  next : Bool
  deriving DecidableEq, Repr

/-- A translation held by a TLB (R286): the leaf entry, its level and the address it was read from. -/
structure TlbEntry where
  ctx : Nat
  vpn : Nat
  level : Nat
  leaf : DWord
  deriving DecidableEq, Repr

/-- A tin (R194-R197, R315). -/
structure Tin where
  state : BitVec 2
  err : Bool
  lost : Bool
  wide : Bool
  kind : Nat
  total : Word
  arrived : Word
  clock : Word
  off : Word
  len : Word
  killed : Bool
  deriving DecidableEq, Repr

/-- An operand of an MMA: its descriptor (R171), the physical tin that gates it, and the rows and side records
taken at acceptance or, when gated, when the tin is FULL (R174, R178), the L2 lines it pins (R308), the pages, by level
and number, through which they were translated, and whether a descriptor of a format was read for one of them (R287). -/
structure MOperand where
  addr : DWord
  stride : Nat
  global : Bool
  trans : Bool
  gate : Option Nat
  rows : Option (List Byte)
  side : List Byte
  lines : Nat
  pages : List (Nat × Nat)
  coded : Bool
  deriving DecidableEq, Repr

/-- The work of a matrix-queue entry (R305). -/
inductive MOp where
  | mma (op : Nat) (tile : Nat) (zero : Bool) (p : Nat) (a b : MOperand)
  | aczero (mask : Word)
  | acscl (kind tile : Nat) (scale : Word)
  | close
  deriving DecidableEq, Repr

/-- A matrix-queue entry: its issuer, batch, flight, clock at acceptance, the run-time error its operands met (kind,
cause, address), the copies accepted before it that its tiles must wait for (R191), the k-blocks that have entered the
decks, and whether its operands are consumed. -/
structure MEntry where
  id : Nat
  slot : Nat
  k : Nat
  ctx : Nat
  gid : Nat
  batch : Nat
  flight : Nat
  clock : Word
  pc : DWord
  op : MOp
  err : Option (Nat × Nat × DWord)
  after : List Nat
  blocks : Nat
  consumed : Bool
  deriving DecidableEq, Repr

/-- A run of the matrix array on one tile (R63): the k-blocks that have passed, the element sums promoted so far, the
chain of the group in progress and how many of its blocks it holds. -/
structure Run where
  tile : Nat
  op : Nat
  p : Nat
  blocksDone : Nat
  acc : List DWord
  group : List DWord
  groupFill : Nat
  deriving DecidableEq, Repr

/-- A batch open or incomplete on a core (R175, R181, R182), with the tiles it targets, each with the entry that first
targeted it (R177). -/
structure Batch where
  slot : Nat
  k : Nat
  ctx : Nat
  gid : Nat
  num : Nat
  tiles : Table Nat
  decks : BitVec 4
  fixed : Bool
  passes : Nat
  promos : Nat
  ballastHalves : Nat
  err : Bool
  clock : Word
  closed : Bool
  run : Option Run
  deriving DecidableEq, Repr

/-- A grid's reservation of a core's typed buffers (R294): bases and sizes. -/
structure Resv where
  gid : Nat
  xbase : Nat
  xsize : Nat
  wbase : Nat
  wsize : Nat
  abase : Nat
  asize : Nat
  deriving DecidableEq, Repr

/-- A range of unstarted indices in a core's range queue (R298). -/
structure RangeQ where
  gid : Nat
  lo : Nat
  hi : Nat
  deriving DecidableEq, Repr

/-- What the slew limiter of a core does (R358-R360): nothing, a ramp with the levels still to come, or ballast with the
levels still to come and the half cycles counted. -/
inductive Slew where
  | hold
  | ramp (rest : List Nat)
  | ballast (rest : List Nat) (halves : Nat)
  deriving DecidableEq, Repr

/-- The batch of the last pass a core performed (R360): its coach, its number and its context. -/
structure LastPass where
  slot : Nat
  k : Nat
  batch : Nat
  ctx : Nat
  deriving DecidableEq, Repr

/-- One core (R3, R29). Buffers hold what is listed and 0 elsewhere (R273, R294). `inval` lists the INVALID tiles by
grid and tile (R145, R294); `halted` gives, for a context whose matrix queue is halted, the entry that failed: the
context's later entries are held (R179, R305). `pendDecks`: the deck states that wait for a batch's close, true for one that
firmware wrote (R175, R306). `cycles`, for slice n of the core: at n the cluster cycle of its last
slice cycle plus 1, at 8 + n the slice cycles of the group of 8 cluster cycles in progress (R350) as 16 * group + count, at
16 + n its slice cycles so far; at 24 + n the time until which it has had a RUNNABLE coach; at 32 + n the cluster cycle before which it still has
the ratio of an idle slice. `ratioOld`: SLRATIO as it was, and the cluster cycle in which it was written (R350). `work`: the eighths of a cycle of
pass work that the whole steps of a ramp have delivered to passes that have not left (R358). `bad` lists the 16-byte
blocks of its buffers that hold a double-bit error, by the buffer's kind and the block (R270). -/
structure Core where
  hot : Bool
  sbuf : Table Byte
  xbuf : Table Byte
  wbuf : Table Byte
  abuf : Table Byte
  inval : List (Nat × Nat)
  bad : List (Nat × Nat)
  lent : List Nat
  cc : Table CLine
  tlb : List TlbEntry
  tins : Table Tin
  mq : List MEntry
  batches : List Batch
  halted : Table Nat
  frozen : Bool
  nextId : Nat
  level : Nat
  slew : Slew
  slewAt : Nat
  rampWait : Bool
  lastPass : Option LastPass
  pendDecks : Table (BitVec 2 × Bool)
  lfsr : BitVec 16
  ranges : List RangeQ
  misses : Nat
  stealWait : Bool
  resv : List Resv
  cycles : Table Nat
  autoIdle : BitVec 6
  ratioOld : Option (DWord × Nat)
  work : Int
  deriving DecidableEq, Repr

/-- A monitor-table entry (R155, R318): a compare on a word, or a queue waiter of one side (R317). -/
inductive MonKind where
  | cmp (cond : Nat) (value : Word) (timed : Bool)
  | queue (producer : Bool)
  deriving DecidableEq, Repr

structure MonEntry where
  slice : Nat
  pa : Nat
  va : DWord
  ctx : Nat
  slot : Nat
  k : Nat
  kind : MonKind
  deadline : Nat
  absent : Bool
  fired : Bool
  gid : Nat
  index : Nat
  deriving DecidableEq, Repr

/-- A QCB in a controller's keeping (R158, R316), least recently used first. -/
structure QcbHeld where
  slice : Nat
  pa : Nat
  verified : Bool
  deriving DecidableEq, Repr

/-- What an entry of a copy queue is (R187-R193, R198). -/
inductive CopyKind where
  | cpy
  | cpyt
  | cpym
  | join (id : Nat) (queues : BitVec 16)
  deriving DecidableEq, Repr

/-- One coach's share of a copy: its index and the flight that counts it. -/
structure CopyArr where
  k : Nat
  flight : Nat
  deriving DecidableEq, Repr

/-- A packet of a CPYM on its way to a core (R192, R329): its number among those that the site has injected, and the offsets
from the receiving tin's base, with their bytes. -/
structure CopyPacket where
  seq : Nat
  core : Nat
  parts : List (Nat × List Byte)
  deriving DecidableEq, Repr

/-- An entry of a copy queue (R311): snapshot of the parameter block, the words s[TIN] and s[AUX] of the first arrival
(R188), tins (`dtin` of a CPYM is the tin number on every receiving core), arrivals, the format of a CPYT's encoded side once a
coach has found it, bytes done, the chunks that travel by optics, by their first byte (R330), the batches its ABUF bytes wait
for (R191), the packets not yet delivered, whether a save has paused it (R190), and the run-time error it has met: the byte of the stream where its chunk begins, the kind,
the cause and the address. -/
structure CopyEntry where
  id : Nat
  kind : CopyKind
  slot : Nat
  k : Nat
  ctx : Nat
  gid : Nat
  seq : Nat
  pb : DWord
  params : List Byte
  treg : Word
  areg : Word
  dtin : Option Nat
  stin : Option Nat
  clock : Word
  arrivals : List CopyArr
  fmt : Option Nat
  started : Bool
  done : Nat
  away : List Nat
  flying : List CopyPacket
  after : List (Nat × Nat × Nat)
  paused : Bool
  err : Option (Nat × Nat × Nat × DWord)
  deriving DecidableEq, Repr

/-- An active collective (R199, R200): its block and group, this site's index, the participants whose headers have been
compared, whether one differed, the order in which first chunks have arrived, and what has arrived: each participant's
contribution by its index, and the reduced shares of an all-reduce by 256 + index. `sent`: by the same numbers, the bytes that
this participant has sent to each. `failed`: the KIND, cause and address of the error that stopped it. -/
structure Coll where
  slot : Nat
  k : Nat
  ctx : Nat
  gid : Nat
  flight : Nat
  clock : Word
  pb : DWord
  block : List Byte
  group : List Word
  index : Nat
  headers : List Nat
  mismatch : Bool
  order : List Nat
  shares : Table (List Byte)
  sent : Table Nat
  failed : Option (Nat × Nat × DWord)
  deriving DecidableEq, Repr

/-- A saved workgroup (R256, R260, R304): where its record lies, in the pool or in the park area, and its bytes, which
grid it belongs to, where it ran, and where its tin records lie. `coaches` are its coaches as they were saved: the
restore takes from them only what the record has no field for. The rest is the work in flight that R257 keeps: its
entries of the matrix queue with its batches and its context's halt, its copies by queue with the halts of those queues,
and its collectives; `recs` are the offsets of the coach records, and `image` and `typed` give the VA of the sections that
the last member of a core group carries, `typedWord` the word that the INVALID marks displace in the record. -/
structure SavedWg where
  gid : Nat
  index : Nat
  va : DWord
  size : Nat
  inPark : Bool
  parked : Bool
  oldCore : Nat
  oldSlot : Nat
  tinBase : Nat
  tins : Nat
  tinVa : DWord
  bars : Table Bar
  coaches : Table Coach
  mq : List MEntry
  batches : List Batch
  halted : Option Nat
  copies : List (Nat × CopyEntry)
  copyHalt : List Nat
  colls : List Coll
  recs : List Nat
  typed : Option DWord
  typedWord : Word
  image : Option DWord
  savedAt : Nat
  moveTo : Option Nat
  deriving DecidableEq, Repr

/-- A remote operation in flight (R201, R202, R335): `psite` the peer's site, `ep` the site whose endpoint carries it (R330),
`since` when it was accepted, `heard` whether one of its packets has been acknowledged, `rerouted` whether it began past a lost
port with REROUTE set (R333, R369). -/
structure RemoteOp where
  id : Nat
  slot : Nat
  k : Nat
  ctx : Nat
  kind : Nat
  ord : Bool
  aop : Nat
  flight : Nat
  clock : Word
  pb : DWord
  laddr : DWord
  raddr : DWord
  len : Nat
  peer : Nat
  psite : Nat
  ep : Nat
  operand : Word
  since : Nat
  heard : Bool
  rerouted : Bool
  deriving DecidableEq, Repr

/-- What a packet carries (R330, R335): part of a remote operation (its site and number), of a copy's chunk (the site, the copy
and the chunk's first byte), of a collective's piece (the site and the piece's number), or what answers a peer's operation: the
bytes, or none for a negative acknowledgement. -/
inductive Carried where
  | remote (site id : Nat)
  | chunk (site copy at_ : Nat)
  | piece (site no : Nat)
  | reply (data : Option (List Byte))
  deriving DecidableEq, Repr

/-- A piece of a collective under way (R200, R314, R330): its number, the TAG, the participants (as GROUP names them) that receives
and that sent it, whether it is of a reduced share, its bytes, the site whose endpoint carries it, when it was sent, and whether
one of its packets has been acknowledged. -/
structure Piece where
  no : Nat
  tag : Word
  dest : Word
  src : Word
  red : Bool
  data : List Byte
  ep : Nat
  since : Nat
  heard : Bool
  deriving DecidableEq, Repr

/-- A packet in flight (R334, R335): its sequence number, what it carries, its bytes, its entropy value, when it was sent last,
its retransmit timer in µs, and whether it is to be sent again. -/
structure Packet where
  psn : Word
  what : Carried
  bytes : Nat
  entropy : BitVec 8
  sent : Nat
  timer : Nat
  again : Bool
  deriving DecidableEq, Repr

/-- A packet that has arrived from another device (R201, R335): the kind of its operation, the context and the VA that it
names, its bytes or its operand, and the atomic operation. -/
structure Arrival where
  psn : Word
  kind : Nat
  ctx : Nat
  va : DWord
  aop : Nat
  operand : Word
  data : List Byte
  deriving DecidableEq, Repr

/-- A connection of the endpoint (R334-R336): the next sequence number, the packets that wait to be sent, the cumulative
acknowledgement, the window, the packets in flight, the next entropy value, the smallest round trip observed, the sequence
number whose acknowledgement ends this round trip, whether the window has been reduced in it, what has been received, and what
has arrived ahead of its turn. -/
structure Conn where
  nextPsn : Word
  unsent : List (Carried × Nat)
  cumAck : Word
  window : Nat
  inFlight : List Packet
  entropy : BitVec 8
  minRtt : Option Nat
  roundEnd : Word
  reduced : Bool
  rxCum : Word
  rxMap : BitVec 256
  early : List Arrival
  deriving DecidableEq, Repr

/-- An open step (R210, R211, R353, R356), owned by this site; `sampled` is the TIME of its latest sample, and `choose` the
point that it chose: none before the first. -/
structure OpenStep where
  slot : Nat
  k : Nat
  ctx : Nat
  va : DWord
  deadline : DWord
  work : DWord
  sites : DWord
  post : Bool
  progress : DWord
  risk : Bool
  riskCnt : Word
  opened : DWord
  openClk : Nat
  energy0 : DWord
  choose : Option Nat
  sampled : Option DWord
  deriving DecidableEq, Repr

/-- The link layer of one fibre link (R340-R347): the sequence number of the next flit and of the oldest that the replay
buffer holds, flits sent by time, the end of a one-way hold, the laser state the peer has announced and the time by which
its lanes must lock after a relight, the state the local laser moves to and the earliest end of the move, the slots granted with their
ports and the times at which they begin, the slot in progress and whether its identity matched, the lanes that are unhealthy
and those whose last update was above BERTHR, and, by direction, the lanes to which a narrowing (true) or a widening moves it. -/
structure Link where
  seq : BitVec 16
  acked : BitVec 16
  recent : List (Nat × Nat)
  onewayEnd : Option Nat
  peerLp : Nat
  relightEnd : Option Nat
  moveTo : Nat
  moveEnd : Nat
  granted : List (Nat × Nat × Nat)
  slotNo : Option Nat
  unlocked : Bool
  unhealthy : BitVec 8
  berBad : BitVec 8
  newLanes : Table (Nat × Bool)
  deriving DecidableEq, Repr

/-- A trap notice: 64 bytes (R254). -/
abbrev Notice := List Byte

/-- An evacuation of a DRAM bank (R367): the bank, the layer whose spare takes its rows, and the 4 KiB chunks that have moved. -/
structure Evacuation where
  bank : Nat
  layer : Nat
  chunk : Nat
  deriving DecidableEq, Repr

/-- One site (R1-R4, R29). `win` holds the registers of the service controller's window by offset (R374); an offset
that is not listed holds its reset value (`Ssc.resetReg`). `testing`: the units under a targeted self-test by class and
index (R380); `spare`: by layer, the sleeping bank whose rows its spare holds (R367); `belowSince`: since when every
compute-stack sensor has read below TSTACK − 6 °C, and `thermAt`: when they are next read (R366); `moveAt`: when the part of
a move in progress can end (R351); `clkSince`: in parts of a ns, when the cluster clock has the edge that ends its cycle `clkBase` - 1 (R351);
`mail`: the targets on their way to its compute island, each with the cycle and the time at which it was sent; `sent`: the last of them (R355);
`stale`: a step of the site closed with its coach, and the islands take their targets at the next sample (R211); `evac`: the evacuation that runs (R367); `walk`: what each walker's cache holds, by walker, context and
address, latest first (R286); `cmds`: the commands that run, by their registers' offsets, as they were written; `turn`: by copy
engine, the queue it served last (R311); `pktNo`: the packets of CPYM injected; `occupancy`: by destination site, the occupied
ring buffers on the route as last reported (R331); `pieces`: the pieces of collectives that this site has sent and that have not
arrived; `heads`: by TAG, the headers of participants that left before this site had met them, empty when they stopped (R200). -/
structure Site where
  win : Table DWord
  h : Word
  f : Option Word
  clkBase : Nat
  clkSince : Nat
  skew : Int
  tlb : List TlbEntry
  walk : List (Nat × Nat × Nat × DWord)
  frd : List (Nat × Nat × List Byte)
  notices : List Notice
  armed : BitVec 16
  expired : BitVec 16
  switched : Bool
  moveAt : Nat
  mon : List MonEntry
  qcbs : List QcbHeld
  copyq : Table (List CopyEntry)
  copyHalt : List (Nat × Nat)
  nextId : Nat
  colls : List Coll
  pieces : List Piece
  heads : List (Word × Word × List Word)
  remotes : List RemoteOp
  conns : Table Conn
  steps : List OpenStep
  links : Table Link
  testing : List (Nat × Nat)
  spare : Table Nat
  belowSince : Option Nat
  thermAt : Nat
  balHalf : Table Nat
  occupancy : Table Nat
  powered : Bool
  served : List Nat
  cmds : Table DWord
  turn : Table Nat
  pktNo : Nat
  mail : List (Nat × Nat × Nat)
  sent : Nat
  stale : Bool
  evac : Option Evacuation
  deriving DecidableEq, Repr

/-- A power region (R6, R361, R363): the limit and the number of the current step, what it has granted, the cores it has
denied with the step of the denial, the end of a droop throttle and the times of its latest alarms. -/
structure Region where
  csl : Word
  step : Nat
  granted : Nat
  waiting : List (Nat × Nat)
  throttleEnd : Option Nat
  alarms : List Nat
  deriving DecidableEq, Repr

/-- One 48-bit race entry (R233). -/
structure RaceEntry where
  agent : BitVec 16
  clk : BitVec 24
  gmask : BitVec 8
  deriving DecidableEq, Repr

/-- The metadata of a resident L2 line (R233), and the host sharer bits of R372. -/
structure LineMeta where
  rclk : Word
  dclk : BitVec 24
  drop : Bool
  w0 : RaceEntry
  w1 : RaceEntry
  r0 : RaceEntry
  r1 : RaceEntry
  sharers : BitVec 2
  deriving DecidableEq, Repr

/-- A host port of the Ozrik Link (R371, R373, R383). -/
structure Port where
  up : Bool
  gen3 : Bool
  lanes : Nat
  mgmt : Bool
  deriving DecidableEq, Repr

/-- What a checkpoint has written to a remote pool (R381): the bytes of the device's DRAM, and the saved work they hold. -/
structure Checkpoint where
  mem : Memory
  poison : List Nat
  saved : List SavedWg
  grids : Table Grid
  ctxs : Table Context
  wideBars : List WideBar
  given : List (Nat × Nat × Nat × Nat)
  deriving DecidableEq, Repr

/-- The whole machine. `agenda`: operations and events that happen next, in order; `arg`: the
operands of the event in progress; `issue`: the coaches chosen to
issue; `cur`: the coach whose instruction is executed; `late`: whether the accesses without ordering
that they issue perform later; `missing`: the coach slots of the slice whose accesses find a resource not yet free (R35); `tick`: the counter to which free
values are applied. `regionsOn`: how many power regions bring-up has powered, `powerAt`: when it may power the next, `collL2`: the collective L2 region
(R382); `fwImage`, `fwSig` and `fuseKey`: the firmware slot and the fused hash of the key of its signature block (R378). -/
structure State where
  now : Nat
  tick : Nat
  agenda : List Event
  arg : EvArgs
  issue : List CoachRef
  cur : CoachRef
  late : Bool
  missing : BitVec 8
  mem : Memory
  poison : List Nat
  lines : Table LineMeta
  waferId : BitVec 16
  podId : BitVec 16
  epol : DWord
  csl : Table Word
  toff : Table Word
  stripe : Nat
  ports : Table Port
  stage : Nat
  regionsOn : Nat
  powerAt : Nat
  collL2 : Nat
  failBit : Bool
  mgmtBit : Bool
  failSite : Nat
  fwImage : List Byte
  fwSig : List Byte
  fuseKey : List Byte
  fuseMin : BitVec 16
  serial : DWord
  ctxs : Table Context
  grids : Table Grid
  gidNext : Nat
  wgs : Table Workgroup
  saved : List SavedWg
  wideBars : List WideBar
  given : List (Nat × Nat × Nat × Nat)
  waitRecs : List (Nat × Nat × Grid)
  cores : Table Core
  sites : Table Site
  regions : Table Region
  quadRamp : Table Nat
  images : List (List Byte × List MEntry × List Batch × Table Nat)
  pools : Table Checkpoint
  deriving DecidableEq, Repr

/-- Why the machine stops. -/
inductive Fault where
  /-- Raised by `exec` of an encoded instruction in a state whose `cur` names no resident coach: an instruction word
  is executed by a coach (R14), so the spec gives no effect. Safe: no step of `step` reaches it, because `step`
  executes a word only for a coach that exists. -/
  | noCoach
  deriving DecidableEq, Repr

/-- Why an instruction has no meaning in this model. -/
inductive Refusal where
  /-- Raised by an arm of Dispatch.lean for an instruction that has no meaning yet. Safe: the machine stops. -/
  | notModelled (mnemonic : String)
  deriving DecidableEq, Repr

/-- The bytes of a number, the most significant first. -/
def numBytes (n x : Nat) : List Byte := ((List.range n).map (fun i => BitVec.ofNat 8 (x / 2 ^ (8 * i)))).reverse
/-- The signature block of the empty image: the public key, then r and s. The spec gives neither image nor key: with them a module
that has just left reset passes the check of R378 (DESIGN CHOICE, log 124). -/
def resetSig : Nat :=
  0x9E7E7B7ADB37F63E45659412C5637D82035472FB7B9F6EC430D72C55D18493446A3B8643943AD8431A007CF52A2F22BBA18258829EE89CC03DA7DFA7695667422F3E3BBB719D7BD167563EE9AC6341E8828012CDED26D7E80DF2343D61D57B7C1D3978136E7383B023794ED33EF35A8F9EC67A814B8C2A10C1B7D752BA7DFDB9730096F62C5676A67E60B2B9FDF292739827A6D8BF6F012F8EAE769E6A85969FFAB085571014330C037BF145A34AF49E7FDB71E4213C59C9C99474FA784C1A9F
/-- The fused SHA-384 of that key. -/
def resetFuse : Nat :=
  0xF09AA292DD3D90C399EF27555548EA0C783A3616A1FBB469062459175A86F0A4F89DC3F294B14F0FBC84E00DCCC43864

/-- The machine after power-on reset (R9, R30): registers of units not listed in a table hold the reset values that
their readers name. No context is resident, no workgroup exists, every memory and buffer lists nothing. -/
def State.reset : State :=
  { now := 0, tick := 0, agenda := [], arg := .zero, issue := [], cur := { slot := 0, k := 0 }, late := false, missing := 0, mem := [], poison := [], lines := [],
    waferId := 0, podId := 0, epol := 0, csl := [], toff := [], stripe := 0, ports := [], stage := 0, regionsOn := 0, powerAt := 0, collL2 := 0, failBit := false,
    mgmtBit := false, failSite := 0, fwImage := [], fwSig := numBytes 192 resetSig, fuseKey := numBytes 48 resetFuse, fuseMin := 0, serial := 0,
    ctxs := [], grids := [], gidNext := 0, wgs := [], saved := [], wideBars := [], given := [], waitRecs := [],
    cores := [], sites := [], regions := [], quadRamp := [], images := [], pools := [] }

end Sys2Proof.Machine
end

