-- ==== Sys2Proof/Machine/Table.lean ====
section
/-! DEFINITION. Operations on the sparse tables and lists of State. A table stays sorted by key; `Table.put` removes
an entry whose value is the default its reader names, so that equal contents are equal tables. -/

namespace Sys2Proof.Machine

variable {α : Type}

/-- The entry at a key, if the table lists one. -/
def Table.find (t : Table α) (k : Nat) : Option α :=
  match t with
  | [] => none
  | (j, a) :: r => if j = k then some a else Table.find r k

/-- The entry at a key, or the default. -/
def Table.getD (t : Table α) (k : Nat) (d : α) : α := (Table.find t k).getD d

/-- The table with an entry placed in key order. -/
def Table.insert (t : Table α) (k : Nat) (a : α) : Table α :=
  match t with
  | [] => [(k, a)]
  | (j, b) :: r => if k < j then (k, a) :: (j, b) :: r else if k = j then (k, a) :: r else (j, b) :: Table.insert r k a

/-- The table without the entry at a key. -/
def Table.erase (t : Table α) (k : Nat) : Table α := t.filter (fun e => !decide (e.1 = k))

/-- Write a value at a key of a table whose unlisted entries read as `d`. -/
def Table.put [DecidableEq α] (d : α) (t : Table α) (k : Nat) (a : α) : Table α :=
  if a = d then Table.erase t k else Table.insert t k a

/-- The keys of a table, rising. -/
def Table.keys (t : Table α) : List Nat := t.map Prod.fst

/-- Apply a function to every entry. -/
def Table.mapVal (f : Nat → α → α) (t : Table α) : Table α := t.map (fun e => (e.1, f e.1 e.2))

/-- Replace the n-th element of a list, if there is one. -/
def listSet (l : List α) (n : Nat) (a : α) : List α :=
  match l, n with
  | [], _ => []
  | _ :: r, 0 => a :: r
  | b :: r, n + 1 => b :: listSet r n a

/-- The numbers lo, lo + 1, ... , lo + n - 1. -/
def upFrom (lo : Nat) (n : Nat) : List Nat :=
  match n with
  | 0 => []
  | n + 1 => lo :: upFrom (lo + 1) n

/-- The largest number of a list, 0 for none; the least number that satisfies a test. -/
def listMax (l : List Nat) : Nat := l.foldl max 0
def listMin? (l : List Nat) : Option Nat :=
  match l with
  | [] => none
  | a :: r => some (r.foldl min a)

/-- Insert into a list sorted by a key, after equal keys. -/
def insertBy (key : α → Nat) (a : α) (l : List α) : List α :=
  match l with
  | [] => [a]
  | b :: r => if key a < key b then a :: b :: r else b :: insertBy key a r
/-- Sort by a key, equal keys in their order. -/
def sortBy (key : α → Nat) (l : List α) : List α := l.foldl (fun acc a => insertBy key a acc) []

/-- Bytes of a number, the lowest first (R8), and back. -/
def bytesLE (n : Nat) (x : Nat) : List Byte :=
  match n with
  | 0 => []
  | n + 1 => BitVec.ofNat 8 x :: bytesLE n (x / 256)
def ofBytesLE (bs : List Byte) : Nat :=
  match bs with
  | [] => 0
  | b :: r => b.toNat + 256 * ofBytesLE r
/-- The little-endian field of `n` bytes at an offset of a record. -/
def fieldLE (bs : List Byte) (off n : Nat) : Nat := ofBytesLE ((bs.drop off).take n)
def word32 (bs : List Byte) (off : Nat) : Word := BitVec.ofNat 32 (fieldLE bs off 4)
def dword64 (bs : List Byte) (off : Nat) : DWord := BitVec.ofNat 64 (fieldLE bs off 8)
/-- A list of bytes padded with zeros, or cut, to a length. -/
def padTo (n : Nat) (bs : List Byte) : List Byte := (bs ++ List.replicate (n - bs.length) 0).take n
/-- Write bytes over a record at an offset. -/
def overlay (bs : List Byte) (off : Nat) (new : List Byte) : List Byte :=
  bs.take off ++ new ++ bs.drop (off + new.length)

/-- Bits [hi : lo] of a number as a number. -/
def bits (x lo n : Nat) : Nat := x / 2 ^ lo % 2 ^ n
def bitN (x i : Nat) : Bool := x / 2 ^ i % 2 == 1

/-- Round up to a multiple. -/
def upTo (m x : Nat) : Nat := (x + m - 1) / m * m

end Sys2Proof.Machine
end

