-- ==== Sys2Proof/Machine/Units.lean ====
section
/-! DEFINITION. Sites, cores, contexts and their defaults; times and clocks (R4, R30, R348); the registers of the
site service controllers' windows with their places and reset values (R374); memory as bytes. -/

namespace Sys2Proof.Machine

/-! Defaults of the units that a table does not list. -/

/-- A core after power-on reset (R30, R273, R294, R299, R306, R358): its LFSR is seeded with COREID + 1. -/
def Core.reset (id : Nat) : Core :=
  { hot := false, sbuf := [], xbuf := [], wbuf := [], abuf := [], inval := [], bad := [], lent := [], cc := [], tlb := [], tins := [],
    mq := [], batches := [], halted := [], frozen := false, nextId := 0, level := 0, slew := .hold, slewAt := 0, rampWait := false, lastPass := none,
    pendDecks := [], lfsr := BitVec.ofNat 16 (id + 1), ranges := [], misses := 0, stealWait := false, resv := [],
    cycles := [], autoIdle := 0, ratioOld := none, work := 0 }

/-- A site after power-on reset. -/
def Site.reset : Site :=
  { win := [], h := 0, f := none, clkBase := 0, clkSince := 0, skew := 0, tlb := [], walk := [], frd := [], notices := [],
    armed := 0, expired := 0, switched := false, moveAt := 0, mon := [], qcbs := [], copyq := [], copyHalt := [], nextId := 0, colls := [], pieces := [], heads := [],
    remotes := [], conns := [], steps := [], links := [], testing := [], spare := [], belowSince := none, thermAt := 0,
    balHalf := [], occupancy := [], powered := true, served := [], cmds := [], turn := [], pktNo := 0,
    mail := [], sent := 10, stale := false, evac := none }

/-- CSL resets to 128 A (R30, R361). -/
def cslReset : Word := 0x00000080
def Region.reset : Region :=
  { csl := cslReset, step := 0, granted := 0, waiting := [], throttleEnd := none, alarms := [] }
def Link.reset : Link :=
  { seq := 0, acked := 0, recent := [], onewayEnd := none, peerLp := 0, relightEnd := none, moveTo := 0, moveEnd := 0, granted := [],
    slotNo := none, unlocked := false, unhealthy := 0, berBad := 0, newLanes := [] }
def Context.reset : Context := { resident := false, thbase := 0, ctxsave := 0, nextGrid := 0, live := 0 }
def Wait.none : Wait := { joined := Option.none, bar := Option.none, deadline := Option.none, queue := Option.none, poll := Option.none, tin := Option.none, word := Option.none }
def Tin.free : Tin :=
  { state := 0, err := false, lost := false, wide := false, kind := 0, total := 0, arrived := 0, clock := 0, off := 0, len := 0,
    killed := false }
def Bar.zero : Bar := { e := 0, a := 0, g := 0, rclk := 0, m := 0 }
def Port.down : Port := { up := false, gen3 := false, lanes := 0, mgmt := false }
/-- A new connection (R336): its window is 32 packets. -/
def Conn.fresh : Conn :=
  { nextPsn := 0, unsent := [], cumAck := 0, window := 32, inFlight := [], entropy := 0, minRtt := none, roundEnd := 0, reduced := false, rxCum := 0,
    rxMap := 0, early := [] }
def RaceEntry.empty : RaceEntry := { agent := 0, clk := 0, gmask := 0 }
def LineMeta.fresh : LineMeta :=
  { rclk := 0, dclk := 0, drop := false, w0 := .empty, w1 := .empty, r0 := .empty, r1 := .empty, sharers := 0 }

/-! Units by number. -/

def State.core (s : State) (c : Nat) : Core := Table.getD s.cores c (Core.reset c)
def State.setCore (s : State) (c : Nat) (x : Core) : State := { s with cores := Table.insert s.cores c x }
def State.site (s : State) (n : Nat) : Site := Table.getD s.sites n Site.reset
def State.setSite (s : State) (n : Nat) (x : Site) : State := { s with sites := Table.insert s.sites n x }
def State.region (s : State) (n : Nat) : Region := Table.getD s.regions n Region.reset
def State.setRegion (s : State) (n : Nat) (x : Region) : State := { s with regions := Table.insert s.regions n x }
def State.context (s : State) (n : Nat) : Context := Table.getD s.ctxs n Context.reset
def State.setContext (s : State) (n : Nat) (x : Context) : State := { s with ctxs := Table.insert s.ctxs n x }
def State.wg (s : State) (slot : Nat) : Option Workgroup := Table.find s.wgs slot
def State.setWg (s : State) (slot : Nat) (x : Workgroup) : State := { s with wgs := Table.insert s.wgs slot x }
def State.grid (s : State) (g : Nat) : Option Grid := Table.find s.grids g
def State.setGrid (s : State) (g : Nat) (x : Grid) : State := { s with grids := Table.insert s.grids g x }
def State.link (s : State) (n f : Nat) : Link := Table.getD (s.site n).links f Link.reset
def State.setLink (s : State) (n f : Nat) (x : Link) : State :=
  s.setSite n { s.site n with links := Table.insert (s.site n).links f x }
/-- Append events that are to happen next. -/
def State.later (s : State) (es : List Event) : State := { s with agenda := s.agenda ++ es }

/-- Site of a core, core of a workgroup slot, region of a site, quad of a core (R3, R6, R18). -/
def siteOfCore (c : Nat) : Nat := c / 32
def coreOfSlot (slot : Nat) : Nat := slot / 16
def siteOfSlot (slot : Nat) : Nat := slot / 512
def regionOf (site : Nat) : Nat := site % 8 / 2 + 4 * (site / 8 / 2)
def quadOf (c : Nat) : Nat := c / 4
/-- The stage of a module in service (R382). -/
def stageService : Nat := 6
/-- A site has power: its region has been powered (R382), and no trip has removed it (R368). -/
def State.powered (s : State) (n : Nat) : Bool := (s.site n).powered && decide (regionOf n < s.regionsOn)
/-- The sites of a region and its lowest (R6). -/
def regionSites (r : Nat) : List Nat :=
  let n := 2 * (r % 4) + 16 * (r / 4)
  [n, n + 1, n + 8, n + 9]
def regionLow (r : Nat) : Nat := 2 * (r % 4) + 16 * (r / 4)

/-! Time. -/

/-- A site's 64-bit counter (R4): the wafer reference, which is site 0's counter, plus the site's skew, its offset, which TOFF
measures. That the skew is 0 at reset and stays so is the model's choice (DESIGN CHOICE, log 82): R4 gives no offset. -/
def State.time (s : State) (n : Nat) : DWord := BitVec.ofInt 64 ((s.now : Int) + (s.site n).skew)
/-- TOFF of a site (R30): written only by the module management controller. -/
def State.toffOf (s : State) (n : Nat) : Word := Table.getD s.toff n 0
/-- Wafer time as a site measures it: its counter less its TOFF (R4, R155). -/
def State.waferTime (s : State) (n : Nat) : DWord := s.time n - (s.toffOf n).signExtend 64

/-! Registers of the window (R374). -/

def offBRSTAT : Nat := 0x0000
def offTRAPQ : Nat := 0x0008
def offHQENQ : Nat := 0x0010
def offHQREC : Nat := 0x0040
def offPLACE : Nat := 0x0100
def offTHCFG : Nat := 0x0108
def offRAMPTAB : Nat := 0x0110
def offEVACCTL : Nat := 0x0118
def offBLTADDR : Nat := 0x0120
def offEPCFG : Nat := 0x0128
def offTLBINV : Nat := 0x0130
def offREXCMD : Nat := 0x0138
def offEVLOG : Nat := 0x0140
def offEVNEXT : Nat := 0x0148
def offATTCMD : Nat := 0x0150
def offCKPTCTL : Nat := 0x0158
def offISLPT : Nat := 0x0200
def offRACES : Nat := 0x0300
def offMISSED : Nat := 0x0308
def offDROPPED : Nat := 0x0310
def offLASTRACE : Nat := 0x0318
def offMONPOLL : Nat := 0x0340
def offQPOLL : Nat := 0x0348
def offMONSPILL : Nat := 0x0350
def offERRREC : Nat := 0x0358
def offDSTAT (c : Nat) : Nat := 0x0400 + 8 * c
def offSLRATIO (c : Nat) : Nat := 0x0500 + 8 * c
def offTINDROP (c : Nat) : Nat := 0x0600 + 8 * c
def offDRSTAT : Nat := 0x0700
def offREX (i : Nat) : Nat := 0x0800 + 24 * i
def offOHEALTH (f k : Nat) : Nat := 0x1000 + 8 * (8 * f + k)
def offLSTAT (f d : Nat) : Nat := 0x1100 + 8 * (2 * f + d)
def offLPCTL (f : Nat) : Nat := 0x1140 + 8 * f
def offLINKKEY : Nat := 0x1160
def offLINKCFG (f : Nat) : Nat := 0x1190 + 8 * f
def offEXPECT (i : Nat) : Nat := 0x1200 + 16 * i
def offCTX (c : Nat) : Nat := 0x2000 + 16 * c
def offLAUNCH (c e : Nat) : Nat := 0x3000 + 8 * (16 * c + e)
def offBALCYC (c : Nat) : Nat := 0xB000 + 16 * c
def offMXENERGY (c : Nat) : Nat := 0xB008 + 16 * c
def offPEER (i : Nat) : Nat := 0x10000 + 32 * i

/-- The value a register of the window holds after reset (the Reset columns of R295, R337, R343, R344, R349, R357,
R366, R367, R375, R287, R373, R282); 0 where the spec gives none. -/
def Ssc.resetReg (off : Nat) : DWord :=
  if off = offPLACE then 0x03E8005F
  else if off = offTHCFG then 0x735F6469
  else if off = offRAMPTAB then 0x8888888887654321
  else if off = offEVACCTL then 2
  else if off = offEPCFG then 0x00C8000000000006
  else if off = offTLBINV then 2
  else if off = offREXCMD then 2
  else if off = offHQENQ then 0x4000000000000000
  else if off = offCKPTCTL then 2
  else if off = offISLPT then 0x800AAEAE
  else if 0x1140 ≤ off ∧ off < 0x1160 then 0x100
  else if 0x1190 ≤ off ∧ off < 0x11B0 then 0x0032FE70
  else if off = offCTX 0 then 2
  else 0

/-- The stored value of a window register and its replacement. -/
def State.win (s : State) (n off : Nat) : DWord := Table.getD (s.site n).win off (Ssc.resetReg off)
def State.setWin (s : State) (n off : Nat) (v : DWord) : State :=
  s.setSite n { s.site n with win := Table.insert (s.site n).win off v }
def State.addWin (s : State) (n off : Nat) (d : Nat) : State := s.setWin n off (s.win n off + BitVec.ofNat 64 d)

/-- The command that runs of a register, as it was written. -/
def State.cmd (s : State) (n off : Nat) : Option DWord := Table.find (s.site n).cmds off
/-- A command starts: DONE, the bit of `done`, reads 0, and what it does happens next. -/
def State.startCmd (s : State) (n off : Nat) (v done : DWord) (es : List Event) : State :=
  ((s.setWin n off (s.win n off &&& ~~~done)).setSite n
    { (s.setWin n off (s.win n off &&& ~~~done)).site n with cmds := Table.insert (s.site n).cmds off v }).later es
/-- A command has ended: DONE reads 1. -/
def State.endCmd (s : State) (n off : Nat) (done : DWord) : State :=
  (s.setWin n off (s.win n off ||| done)).setSite n
    { (s.setWin n off (s.win n off ||| done)).site n with cmds := Table.erase (s.site n).cmds off }

/-- A field of a register: bits [lo + n - 1 : lo] as a number, and its replacement. -/
def fld (v : DWord) (lo n : Nat) : Nat := bits v.toNat lo n
def setFld (v : DWord) (lo n : Nat) (x : Nat) : DWord :=
  BitVec.ofNat 64 (v.toNat - bits v.toNat lo n * 2 ^ lo + x % 2 ^ n * 2 ^ lo)
/-- Keep only the bits of a mask: reserved bits read zero and a value written to them is discarded (R9). -/
def maskTo (m v : DWord) : DWord := v &&& m

/-! Islands (R348-R352). -/

def islMOVING (v : DWord) : Bool := v.getLsbD 30
def islTARGET (v : DWord) : Nat := fld v 16 4
def islCUR (v : DWord) : Nat := fld v 12 4
def islCAP (v : DWord) : Nat := fld v 8 4
def islFWPT (v : DWord) : Nat := fld v 4 4
def islMAXPT (v : DWord) : Nat := fld v 0 4
def islGOV (v : DWord) : Bool := v.getLsbD 31

/-- The point the cores of a site run at: CUR, or TARGET once a move has switched (R351). -/
def State.corePoint (s : State) (n : Nat) : Nat :=
  let v := s.win n offISLPT
  if (s.site n).switched then islTARGET v else islCUR v
/-- Twentieths of a cycle of the cluster clock in one ns: 2 * (10 + point), halved under a droop throttle (R348, R363). -/
def State.clkRate (s : State) (n : Nat) : Nat :=
  let r := 10 + s.corePoint n
  if (s.region (regionOf n)).throttleEnd.isSome then r else 2 * r
/-- The parts of a ns in which edges of cluster clocks are counted: the least number by which a period of every rate, of 10 to 48
twentieths of a cycle in a ns, is whole. -/
def nsParts : Nat := 10708457760
/-- The period of a site's cluster clock, in those parts. -/
def State.clkPeriod (s : State) (n : Nat) : Nat := 20 * nsParts / s.clkRate n
/-- CLK: cycles of the cluster clock since power-on (R30, R33). -/
def State.clk (s : State) (n : Nat) : Nat :=
  let x := s.site n
  let t := s.now * nsParts
  if t < x.clkSince then x.clkBase - 1 else x.clkBase + (t - x.clkSince) / s.clkPeriod n
/-- Bring the site's cycle count up to the next edge, before its clock changes: the period that ends there keeps its length, and those
after it have the new one (R351). -/
def State.syncClk (s : State) (n : Nat) : State :=
  let x := s.site n
  let t := s.now * nsParts
  let p := s.clkPeriod n
  if t < x.clkSince then s
  else
    let k := (t - x.clkSince + p - 1) / p
    s.setSite n { x with clkBase := x.clkBase + k, clkSince := x.clkSince + k * p }

/-! Current steps (R361). -/

/-- A region's time in ns, by the counter of its lowest-numbered site, and the number of its current step. -/
def State.regionTime (s : State) (r : Nat) : Nat := (s.time (regionLow r)).toNat
def State.regionStep (s : State) (r : Nat) : Nat := s.regionTime r / 200
/-- CSL of a region (R30). -/
def State.cslOf (s : State) (r : Nat) : Word := Table.getD s.csl r cslReset
/-- Enter the current step of now: nothing is granted yet, and the limit is CSL as it is. -/
def State.enterStep (s : State) (r : Nat) : State :=
  let x := s.region r
  if x.step = s.regionStep r then s
  else s.setRegion r { x with step := s.regionStep r, granted := 0, csl := s.cslOf r }

/-- What the governor sends to a compute island (R355): a step that has not been sampled chooses no point. -/
def State.islandTarget (s : State) (n : Nat) : Nat :=
  let v := s.win n offISLPT
  let wants := (List.range 64).flatMap (fun o => (s.site o).steps.filterMap (fun st =>
    if (st.sites = 0 ∧ o = n) ∨ st.sites.getLsbD n then st.choose else none))
  let target := if islGOV v && !wants.isEmpty then listMax wants else islFWPT v
  min target (min (islMAXPT v) (islCAP v))

/-- Send a compute island its target, when it is not the one sent last (R355). Of those sent in one cycle of its clock the island has the
last, which takes all that changed in it (R370). -/
def State.postTarget (s : State) (n : Nat) : State :=
  let x := s.site n
  let v := s.islandTarget n
  if v = x.sent then s
  else s.setSite n { x with sent := v, mail := x.mail.filter (fun e => decide (e.2.1 ≠ s.clk n)) ++ [(v, s.clk n, s.now)] }
/-- Send the compute islands of a list their targets. -/
def State.sendTargets (s : State) (sites : List Nat) : State := sites.foldl State.postTarget s

/-! The event log (R380). -/

def evCorrected : Nat := 1
def evUncorrectable : Nat := 2
def evParity : Nat := 3
def evSelfTest : Nat := 4
def evDroop : Nat := 5
def evThermal : Nat := 6
def evLink : Nat := 7
def evPeerIdent : Nat := 8
def evTrip : Nat := 9
def evDeck : Nat := 10
def evOther : Nat := 11

/-- What an unlisted byte of memory reads as (the spec gives DRAM no contents after power-on: DESIGN CHOICE, log 1). -/
def unlistedByte : Byte := 0

def Memory.read (m : Memory) (a : Nat) : Byte := Table.getD m a unlistedByte
def Memory.write (m : Memory) (a : Nat) (b : Byte) : Memory := Table.put unlistedByte m a b
def Memory.readN (m : Memory) (a n : Nat) : List Byte := (upFrom a n).map (Memory.read m)
def Memory.writeN (m : Memory) (a : Nat) (bs : List Byte) : Memory :=
  match bs with
  | [] => m
  | b :: r => Memory.writeN (Memory.write m a b) (a + 1) r
/-- The canonical form: addresses strictly rising and no entry that equals what an unlisted address reads as. -/
def Memory.wf (m : Memory) : Bool :=
  match m with
  | [] => true
  | (a, b) :: r => b != unlistedByte && (match r with | [] => true | (a', _) :: _ => decide (a < a')) && Memory.wf r

end Sys2Proof.Machine
end

