-- ==== Sys2Proof/Machine/Home.lean ====
section
/-! DEFINITION. Cause codes (R243), homes (R266-R268), order clocks (R229), the lines of the L2 slices with their race
metadata and the race check (R229-R238), the writes performed at a home, and the event log (R380). -/

namespace Sys2Proof.Machine

/-- A cause code (R243). -/
abbrev Cause := BitVec 7

def cILLEGAL_OPCODE : Cause := 0x00
def cILLEGAL_CLAUSE : Cause := 0x01
def cCLAUSE_CLASS : Cause := 0x02
def cILLEGAL_FIELD : Cause := 0x03
def cREG_RANGE : Cause := 0x04
def cUNALIGNED : Cause := 0x05
def cILLEGAL_CONVERGENCE : Cause := 0x06
def cPRIV : Cause := 0x07
def cHAZARD : Cause := 0x08
def cDIV_OVERFLOW : Cause := 0x09
def cBAD_TARGET : Cause := 0x0A
def cXLATE_NOTPRESENT : Cause := 0x10
def cXLATE_PERM : Cause := 0x11
def cXLATE_FORMAT : Cause := 0x12
def cRETENTION_EXPIRED : Cause := 0x13
def cECC_UNCORRECTABLE : Cause := 0x14
def cBUF_RANGE : Cause := 0x15
def cBUF_ENGINE : Cause := 0x16
def cSAVEAREA_FAULT : Cause := 0x17
def cRESTORE_FAULT : Cause := 0x18
def cDEVWRITE_FAULT : Cause := 0x19
def cRACE_RAW : Cause := 0x20
def cRACE_WAR : Cause := 0x21
def cRACE_WAW : Cause := 0x22
def cQCB_CORRUPT : Cause := 0x23
def cQUEUE_CLOSED : Cause := 0x24
def cTIN_BUSY : Cause := 0x25
def cTIN_FAULT : Cause := 0x26
def cBAR_OVERFLOW : Cause := 0x27
def cBAR_SCOPE_UNDECLARED : Cause := 0x28
def cMTX_DESC : Cause := 0x30
def cMTX_INVALID_ACC : Cause := 0x31
def cCPY_PARAM : Cause := 0x32
def cFMT_RESERVED : Cause := 0x33
def cENGINE_HALT : Cause := 0x34
def cDECK_UNAVAILABLE : Cause := 0x35
def cMXVER_MISMATCH : Cause := 0x36
def cRMT_TIMEOUT : Cause := 0x40
def cRMT_NAK : Cause := 0x41
def cPEER_IDENT : Cause := 0x42
def cSW_TRAP : Cause := 0x50
def cBREAKPOINT : Cause := 0x51
def cDEADLINE_RISK : Cause := 0x52
def cPREEMPT_NOTICE : Cause := 0x53
def cHANDLER_FAULT : Cause := 0x54

/-- Causes with route "system" (R243): always escalated. -/
def causeSystem (c : Cause) : Bool :=
  c == cXLATE_NOTPRESENT || c == cECC_UNCORRECTABLE || c == cMXVER_MISMATCH || c == cHANDLER_FAULT

/-! Homes (R266-R268). -/

/-- The space of a physical address (R266). -/
def paSpace (pa : Nat) : Nat := pa / 2 ^ 50 % 4
/-- The exclusive OR of the consecutive 6-bit fields of a number. -/
def fold6 (fuel : Nat) (x : Nat) : Nat :=
  match fuel with
  | 0 => 0
  | n + 1 => (x % 64) ^^^ fold6 n (x / 64)
/-- The site whose slices, service controller or host port hold a physical address (R266). -/
def homeSite (pa : Nat) : Nat :=
  match paSpace pa with
  | 1 => pa / 128 % 64
  | 2 => if pa / 2 ^ 49 % 2 = 0 then 0 else 63
  | _ => pa / 2 ^ 44 % 64
/-- The home slice (R266). -/
def homeSlice (pa : Nat) : Nat :=
  if paSpace pa = 1 then fold6 7 (pa % 2 ^ 49 / 2 ^ 13) else fold6 7 (pa % 2 ^ 43 / 2 ^ 7)
/-- 48 GiB (R1). -/
def dramBytes : Nat := 48 * 2 ^ 30
/-- The offset in its site's DRAM at which a byte of space 0 or 1 lies (R266, R267). -/
def State.dramOffset (s : State) (pa : Nat) : Nat :=
  if paSpace pa = 1 then dramBytes - s.stripe + 128 * (pa % 2 ^ 50 / 2 ^ 13) + pa % 128 else pa % 2 ^ 44
/-- A physical address with something behind it (R266, R267, R371). -/
def State.paOk (s : State) (pa : Nat) : Bool :=
  match paSpace pa with
  | 0 => decide (pa % 2 ^ 44 < dramBytes - s.stripe)
  | 1 => decide (pa % 2 ^ 50 < 64 * s.stripe)
  | 2 => (Table.getD s.ports (pa / 2 ^ 49 % 2) Port.down).up && !(Table.getD s.ports (pa / 2 ^ 49 % 2) Port.down).mgmt
  | _ => true

/-! Order clocks (R229). -/

/-- x is later than y. -/
def later32 (x y : Word) : Bool := decide (1 ≤ (x - y).toNat ∧ (x - y).toNat < 2 ^ 31)
/-- The later of two clocks. -/
def clkMax (x y : Word) : Word := if later32 x y then x else y
/-- Δ(x, y) on the low 24 bits. -/
def delta24 (x y : BitVec 24) : Int := (x - y).toInt
def low24 (x : Word) : BitVec 24 := x.truncate 24

/-! Race metadata (R233-R238). -/

/-- The kind of an access (R137, R215): whether a synchronising one reads and writes. -/
inductive AccKind where
  | read
  | write
  | sync (reads writes : Bool)
  deriving DecidableEq, Repr

/-- Who makes an access (R216, R232): core (for its column cache), context, agent identity and clock. -/
structure Acc where
  core : Nat
  ctx : Nat
  agent : BitVec 16
  clk : Word
  deriving DecidableEq, Repr

/-- The device's own accesses (R216). -/
def Acc.device (core ctx : Nat) : Acc := { core := core, ctx := ctx, agent := 0x8000, clk := 0 }

def agedLimit : Int := 3 * 2 ^ 20

/-- The aging test of R234 on an entry and on a line. -/
def ageEntry (h : Word) (e : RaceEntry) : RaceEntry :=
  if delta24 (low24 h) e.clk > agedLimit then { e with gmask := 0 } else e
def LineMeta.aged (h : Word) (m : LineMeta) : LineMeta :=
  { m with w0 := ageEntry h m.w0, w1 := ageEntry h m.w1, r0 := ageEntry h m.r0, r1 := ageEntry h m.r1,
           drop := m.drop && !decide (delta24 (low24 h) m.dclk > agedLimit) }

/-- The granules of bytes lo .. hi of a line (R233). -/
def granules (lo hi : Nat) : BitVec 8 :=
  BitVec.ofNat 8 ((List.range 8).foldl (fun a g => if lo / 16 ≤ g ∧ g ≤ hi / 16 then a + 2 ^ g else a) 0)

/-- The conflicting entries of a class (R234): the set C without those at or before the floor, and how many the floor
removed. -/
def raceHits (es : List RaceEntry) (g : BitVec 8) (agent : BitVec 16) (k : BitVec 24) (f : Option Word) :
    List RaceEntry × Nat :=
  let c := es.filter (fun e => e.gmask &&& g != 0 && e.agent != agent && decide (delta24 e.clk k ≥ 0))
  match f with
  | none => (c, 0)
  | some f =>
    let c' := c.filter (fun e => !decide (delta24 (low24 f) e.clk ≥ 0))
    (c', c.length - c'.length)

/-- The check of one line (R234): a cause with the entry that conflicts, and how many checks were skipped. Of two entries of
one class that conflict, the lower-numbered is the one that LASTRACE names (DESIGN CHOICE, log 78: R239 says neither). -/
def raceLine (m : LineMeta) (g : BitVec 8) (kind : AccKind) (agent : BitVec 16) (k : BitVec 24) (f : Option Word) :
    Option (Cause × RaceEntry) × Nat :=
  let w := raceHits [m.w0, m.w1] g agent k f
  let r := raceHits [m.r0, m.r1] g agent k f
  let writes := match kind with | .write => true | .sync _ b => b | .read => false
  let reads := match kind with | .read => true | .sync b _ => b | .write => false
  let miss := w.2 + r.2
  match reads, writes, w.1, r.1 with
  | true, _, e :: _, _ => (some (cRACE_RAW, e), miss)
  | _, true, e :: _, _ => (some (cRACE_WAW, e), miss)
  | _, true, [], e :: _ => (some (cRACE_WAR, e), miss)
  | _, _, _, _ => (none, miss + if m.drop then 1 else 0)

/-- The two entries kept of three, the position freed going to the new one; the discarded entry's clock (R235). -/
def keepTwo (a b n : RaceEntry) : RaceEntry × RaceEntry × RaceEntry :=
  if delta24 a.clk b.clk ≤ 0 ∧ delta24 a.clk n.clk ≤ 0 then (n, b, a)
  else if delta24 b.clk n.clk ≤ 0 ∧ delta24 b.clk a.clk < 0 then (a, n, b)
  else (a, b, n)

/-- `Record` (R235) on a line after a passing plain access; the number of entries discarded. -/
def raceRecord (m : LineMeta) (g : BitVec 8) (isWrite : Bool) (agent : BitVec 16) (k : BitVec 24) : LineMeta × Nat :=
  let tidy (e : RaceEntry) : RaceEntry :=
    if (e.agent = agent ∧ e.clk ≠ k) ∨ (e.agent ≠ agent ∧ delta24 e.clk k < 0) then { e with gmask := e.gmask &&& ~~~g } else e
  let tidyR (e : RaceEntry) : RaceEntry :=
    if e.agent = agent ∨ delta24 e.clk k < 0 then { e with gmask := e.gmask &&& ~~~g } else e
  let own := if isWrite then (tidy m.w0, tidy m.w1) else (tidy m.r0, tidy m.r1)
  let m1 := if isWrite then { m with r0 := tidyR m.r0, r1 := tidyR m.r1 } else m
  let put (x y : RaceEntry) : LineMeta := if isWrite then { m1 with w0 := x, w1 := y } else { m1 with r0 := x, r1 := y }
  let n : RaceEntry := { agent := agent, clk := k, gmask := g }
  if own.1.gmask ≠ 0 ∧ own.1.agent = agent ∧ own.1.clk = k then (put { own.1 with gmask := own.1.gmask ||| g } own.2, 0)
  else if own.2.gmask ≠ 0 ∧ own.2.agent = agent ∧ own.2.clk = k then (put own.1 { own.2 with gmask := own.2.gmask ||| g }, 0)
  else if own.1.gmask = 0 then (put n own.2, 0)
  else if own.2.gmask = 0 then (put own.1 n, 0)
  else
    let r := keepTwo own.1 own.2 n
    let p := put r.1 r.2.1
    let d := if m.drop ∧ ¬ delta24 r.2.2.clk m.dclk > 0 then m.dclk else r.2.2.clk
    ({ p with drop := true, dclk := d }, 1)

/-- The nonempty entries of a line. -/
def LineMeta.count (m : LineMeta) : Nat := ([m.w0, m.w1, m.r0, m.r1].filter (fun e => e.gmask != 0)).length

/-- The release clock of a line is live (R237). -/
def LineMeta.live (h : Word) (m : LineMeta) : Bool := decide (delta24 (low24 h) (low24 m.rclk) ≤ agedLimit)

/-- Raise the wafer release floor at every site (R237). -/
def State.raiseFloor (s : State) (k : Word) : State :=
  (List.range 64).foldl (fun t n =>
    let x := t.site n
    t.setSite n { x with f := some (match x.f with | none => k | some f => clkMax f k) }) s

/-- Bring a line into its slice, replacing another when the set's 16 ways are full (R237, R238, R269). What the host holds of the
replaced line ends with it: a copy of the host is a sharer bit here (R372). -/
def State.touchLine (s : State) (pa : Nat) : State :=
  let key := pa / 128
  if (Table.find s.lines key).isSome then s
  else if s.lines.length < 16 then { s with lines := Table.insert s.lines key LineMeta.fresh }
  else
    let same := s.lines.filter (fun e => decide (homeSite (e.1 * 128) = homeSite pa ∧ homeSlice (e.1 * 128) = homeSlice pa ∧
      Config.l2Set e.1 % 2048 = Config.l2Set key % 2048))
    if same.length < 16 then { s with lines := Table.insert s.lines key LineMeta.fresh }
    else
      let h := (s.site (homeSite pa)).h
      let dead := same.filter (fun e => !LineMeta.live h e.2)
      let pool := if dead.isEmpty then same else dead
      match pool[Config.victim s.tick key % pool.length]? with
      | none => s
      | some (vk, vm) =>
        let s1 := s.addWin (homeSite pa) offDROPPED vm.count
        let s2 := if dead.isEmpty then s1.raiseFloor vm.rclk else s1
        { s2 with lines := Table.insert (Table.erase s2.lines vk) key LineMeta.fresh }

def State.line (s : State) (pa : Nat) : LineMeta := Table.getD s.lines (pa / 128) LineMeta.fresh
def State.setLine (s : State) (pa : Nat) (m : LineMeta) : State := { s with lines := Table.insert s.lines (pa / 128) m }

/-- The bytes of a bank of a site's DRAM: 384 MiB (R367). -/
def bankBytes : Nat := 384 * 2 ^ 20
/-- The parts of an access by line: (address, bytes). -/
def lineParts (fuel pa n : Nat) : List (Nat × Nat) :=
  match fuel with
  | 0 => []
  | f + 1 => if n = 0 then [] else
    let k := min n (128 - pa % 128)
    (pa, k) :: lineParts f (pa + k) (n - k)

/-- An access of n bytes meets an L2 slice or a DRAM bank that a self-test holds (R380). -/
def State.tested (s : State) (pa n : Nat) : Bool :=
  decide (paSpace pa ≤ 1) && (lineParts (n / 128 + 2) pa n).any (fun p =>
    let t := (s.site (homeSite p.1)).testing
    !t.isEmpty && (t.contains (0, homeSlice p.1) || t.contains (1, s.dramOffset p.1 / bankBytes)))
/-- Accesses of n bytes at a home slice bring their lines into it (R269); host memory and registers have none. -/
def State.homeTouch (s : State) (pa : Nat) (n : Nat := 1) : State :=
  if paSpace pa ≤ 1 then (lineParts (n / 128 + 2) pa n).foldl (fun t p => t.touchLine p.1) s else s

/-- The floor a check reads: one that has aged matters no longer (R237). -/
def liveFloor (h : Word) (f : Option Word) : Option Word := f.filter (fun k => decide ((h - k).toInt ≤ agedLimit))

/-- The check of lines, each with the granules G of it that the access covers (R234): none when the access passes, and the
metadata updated; all lines are checked before any is updated, and a race leaves them unchanged. Each line is checked at its
home, whose site counts (R239): of the lines behind one that races nothing is counted. -/
def State.raceLines (s : State) (l : List (Nat × BitVec 8)) (kind : AccKind) (agent : BitVec 16) (k : Word) : Option Cause × State :=
  let look (p : Nat × BitVec 8) : Option (Cause × RaceEntry) × Nat :=
    let x := s.site (homeSite p.1)
    raceLine (LineMeta.aged x.h (s.line p.1)) p.2 kind agent (low24 k) (liveFloor x.h x.f)
  let clear := l.takeWhile (fun p => (look p).1.isNone)
  let seen := l.take (clear.length + 1)
  let s2 := seen.foldl (fun t p => if (look p).2 = 0 then t else t.addWin (homeSite p.1) offMISSED (look p).2) s
  match (seen.filterMap (fun p => (look p).1.map (fun r => (homeSite p.1, r)))).head? with
  | some (site, c, e) =>
    let s3 := s2.addWin site offRACES 1
    (some c, s3.setWin site offLASTRACE (agent ++ e.agent ++ e.clk ++ (0 : BitVec 1) ++ c))
  | none =>
    (none, l.foldl (fun t p =>
      let site := homeSite p.1
      let m := LineMeta.aged (s.site site).h (t.line p.1)
      match kind with
      | .sync _ _ => t.setLine p.1 m
      | _ =>
        let r := raceRecord m p.2 (kind == .write) agent (low24 k)
        let t1 := t.setLine p.1 r.1
        if r.2 = 0 then t1 else t1.addWin site offDROPPED r.2) s2)
/-- The granules of a line's part that begins at an address. -/
def partGranules (pa n : Nat) : BitVec 8 := granules (pa % 128) (pa % 128 + n - 1)
/-- `RaceCheck` (R234) of n bytes. -/
def State.raceCheck (s : State) (pa n : Nat) (kind : AccKind) (agent : BitVec 16) (k : Word) : Option Cause × State :=
  if agent.getLsbD 15 then (none, s)
  else (s.homeTouch pa n).raceLines ((lineParts (n / 128 + 2) pa n).map (fun p => (p.1, partGranules p.1 p.2))) kind agent k

/-! Writes performed at a home (R155, R158, R318, R372). -/

/-- The compare of WAITC and WAITCT (R154). -/
def waitCompare (cond : Nat) (w t : Word) : Bool :=
  match cond with
  | 0 => w == t
  | 1 => w != t
  | 2 => w.slt t
  | 3 => !w.slt t
  | 4 => w.ult t
  | 5 => !w.ult t
  | 6 => w &&& t != 0
  | _ => w &&& t != t

/-- A monitor entry is satisfied by a write of n bytes at pa: it watches a word of them, and its compare holds. -/
def State.satisfies (s : State) (pa n : Nat) (e : MonEntry) : Bool :=
  match e.kind with
  | .cmp cond v _ =>
    !e.fired && decide (e.pa + 4 > pa ∧ e.pa < pa + n) &&
      waitCompare cond (BitVec.ofNat 32 (ofBytesLE (Memory.readN s.mem e.pa 4))) v
  | .queue _ => false
/-- Compare a write against the monitor entries of the words it touches (R155, R156, R318): each that is satisfied is marked
FIRED, and a parked coach is woken. -/
def State.fireMonitors (s : State) (pa n : Nat) : State :=
  s.sites.foldl (fun t x =>
    if x.2.mon.any (s.satisfies pa n) then
      (t.setSite x.1 { t.site x.1 with mon := x.2.mon.map (fun e => if s.satisfies pa n e then { e with fired := true } else e) }).later
        ((x.2.mon.filter (fun e => s.satisfies pa n e && !e.absent)).map
          (fun e => ⟨.monitorWake, { EvArgs.zero with slot := e.slot, k := e.k }⟩))
    else t) s

/-- The queue controllers that hold a block of which n bytes at pa have been written verify it again (R158). -/
def State.doubtQcbs (s : State) (pa n : Nat) : State :=
  s.sites.foldl (fun t x =>
    if x.2.qcbs.any (fun q => decide (q.pa + 64 > pa ∧ q.pa < pa + n)) then
      t.setSite x.1 { t.site x.1 with qcbs := x.2.qcbs.map (fun q => if q.pa + 64 > pa ∧ q.pa < pa + n then { q with verified := false } else q) }
    else t) s
/-- A device write ends the host's copies of the lines it touches (R372). -/
def State.dropSharers (s : State) (pa n : Nat) : State :=
  (upFrom (pa / 128) ((pa + n + 127) / 128 - pa / 128)).foldl (fun (t : State) line =>
    match Table.find t.lines line with
    | some m => if m.sharers = 0 then t else t.setLine (128 * line) { m with sharers := 0 }
    | none => t) s

/-- Perform a write at its home. A block of 16 bytes that is written whole has new check bits (R270). An ordinary write to a
line that a queue controller holds marks it for verification (R158); a device write ends the host's copies of the line (R372). -/
def State.homeWrite (s : State) (pa : Nat) (bs : List Byte) (controller : Bool := false) : State :=
  let s0 := s.homeTouch pa bs.length
  let s1 := { s0 with mem := Memory.writeN s0.mem pa bs,
                      poison := s0.poison.filter (fun b => !decide (pa ≤ 16 * b ∧ 16 * b + 16 ≤ pa + bs.length)) }
  let s2 := if controller then s1 else s1.doubtQcbs pa bs.length
  (s2.dropSharers pa bs.length).fireMonitors pa bs.length
def State.homeRead (s : State) (pa n : Nat) : List Byte := Memory.readN s.mem pa n
/-! The event log (R380). -/

/-- Write an entry of the site's event log (R380). -/
def State.logEvent (s : State) (n kind cls unit result addr : Nat) : State :=
  let next := s.win n offEVNEXT
  let base := fld (s.win n offEVLOG) 17 35 * 2 ^ 17
  let e := bytesLE 4 (kind * 2 ^ 24 + cls % 256 * 2 ^ 16 + unit % 65536) ++ bytesLE 4 result ++ bytesLE 8 (s.time n).toNat ++
    bytesLE 8 addr ++ bytesLE 8 0
  (s.homeWrite (base + 32 * (next.toNat % 4096)) e).setWin n offEVNEXT (next + 1)

end Sys2Proof.Machine
end

