-- ==== Sys2Proof/Machine/Ssc.lean ====
section
/-! DEFINITION. The windows of the site service controllers (R374): the read and the write of every register they hold. -/

namespace Sys2Proof.Machine

/-- The decks of a core by state (R306): DSTAT field d. -/
def State.deck (s : State) (c d : Nat) : Nat := fld (s.win (siteOfCore c) (offDSTAT (c % 32))) (2 * d) 2
def State.setDeck (s : State) (c d v : Nat) : State :=
  let n := siteOfCore c
  s.setWin n (offDSTAT (c % 32)) (setFld (s.win n (offDSTAT (c % 32))) (2 * d) 2 v)
/-- The number of a deck in the self-test's class 4 (R380). -/
def deckUnit (c d : Nat) : Nat := 4 * (c % 32) + d
/-- The decks available now (R175, R184): AVAILABLE, and not under a self-test (R380). -/
def State.decksAvail (s : State) (c : Nat) : BitVec 4 :=
  BitVec.ofNat 4 ((List.range 4).foldl (fun a d =>
    if s.deck c d = 0 ∧ (s.site (siteOfCore c)).testing.contains (4, deckUnit c d) = false then a + 2 ^ d else a) 0)

/-- RAMPTAB is valid when every entry is 1-8, the entries never fall and entry 15 is 8 (R357). -/
def rampEntry (v : DWord) (e : Nat) : Nat := fld v (4 * e) 4
def rampValid (v : DWord) : Bool :=
  (List.range 16).all (fun e => decide (1 ≤ rampEntry v e ∧ rampEntry v e ≤ 8)) &&
    (List.range 15).all (fun e => decide (rampEntry v e ≤ rampEntry v (e + 1))) && decide (rampEntry v 15 = 8)
/-- The ramp entries (R357): the entries before the first that equals 8. -/
def rampEntries (v : DWord) : List Nat := ((List.range 16).map (rampEntry v)).takeWhile (fun a => decide (a ≠ 8))

/-- The site register a device access reads (R374, R383, R349, R337, R364); offsets not listed read 0. -/
def Ssc.read (s : State) (n off : Nat) : DWord :=
  let isl := s.win n offISLPT
  if off = offBRSTAT then
    BitVec.ofNat 64 (s.stage % 16 + (if s.failBit then 16 else 0) + (if s.mgmtBit then 32 else 0) + s.failSite % 64 * 256)
  else if (off = offHQENQ ∨ (offHQREC ≤ off ∧ off < offHQREC + 64)) ∧ n ≠ 0 ∧ n ≠ 63 then 0
  else if (off = offATTCMD ∨ off = offCKPTCTL) ∧ n ≠ 0 then 0
  else if off = offISLPT + 8 then (isl &&& 0xE0FFF000) ||| 0xEAE
  else if off = offISLPT + 16 then 0x000AAEAE
  else if off = offEPCFG then
    let k := (s.site n).conns.length
    setFld (setFld (s.win n off) 32 16 (min k 4096)) 16 16 (min (k - 4096) 65535)
  else if off = offDRSTAT then s.win (regionLow (regionOf n)) off
  else if 0x1140 ≤ off ∧ off < 0x1160 then
    setFld (s.win n off) 32 32 (((s.link n ((off - 0x1140) / 8)).recent.filter (fun e => decide (s.now < e.1 + 1000))).foldl (fun a e => a + e.2) 0)
  else if offLINKKEY ≤ off ∧ off < offLINKKEY + 48 then 0
  else if off < 0x30000 then s.win n off
  else 0

/-- Merge the writable bits of a register. -/
def Ssc.merge (s : State) (n off : Nat) (mask v : DWord) : State :=
  s.setWin n off ((s.win n off &&& ~~~mask) ||| (v &&& mask))

/-- SLRATIO with each code of 5-7 discarded for its slice (R350). -/
def slratioWrite (old v : DWord) : DWord :=
  (List.range 6).foldl (fun a i => if fld v (3 * i) 3 ≤ 4 then setFld a (3 * i) 3 (fld v (3 * i) 3) else a)
    (setFld (maskTo 0x7FFFF old) 18 1 (fld v 18 1))

/-- SLRATIO of a core takes a value: the slices run by the old one until the next edge of the cluster clock, and AUTO counts no time
before it was set (R350). -/
def State.setRatio (s : State) (n off : Nat) (v : DWord) : State :=
  let core := 32 * n + (off - 0x0500) / 8
  let old := s.win n off
  let c := s.core core
  let k := s.clk n
  let s1 := s.setWin n off v
  s1.setCore core { c with
    ratioOld := match c.ratioOld with | some (o, at_) => if at_ = k then some (o, at_) else some (old, k) | none => some (old, k)
    cycles := if v.getLsbD 18 && !old.getLsbD 18 then (List.range 6).foldl (fun t i => Table.insert t (24 + i) s.now) c.cycles else c.cycles }

/-- A write of a window register (R374 and each register's Access column). Commands that take time are events that
happen next; while DONE is 0 a GO is discarded. -/
def Ssc.write (s : State) (n off : Nat) (v : DWord) : State :=
  let old := s.win n off
  let go := v.getLsbD 0
  if off = offTRAPQ then (s.setWin n off (maskTo 0x0000FFFFFFFFFFC0 v)).later [⟨.queueWake, { EvArgs.zero with ok := true }⟩]
  else if off = offHQENQ then
    if n = 0 ∨ n = 63 then
      let s1 := Ssc.merge s n off 0x00FFFFFFFFFFFFC0 v
      if v.getLsbD 63 && old.getLsbD 62 then
        s1.startCmd n off v 0x4000000000000000 [⟨.hqenq, { EvArgs.zero with site := n, value := v }⟩]
      else s1
    else s
  else if offHQREC ≤ off ∧ off < offHQREC + 64 then if n = 0 ∨ n = 63 then s.setWin n off v else s
  else if off = offPLACE then s.setWin n off (maskTo 0xFFFF00FF v)
  else if off = offTHCFG then s.setWin n off (maskTo 0xFFFFFFFF v)
  else if off = offRAMPTAB then
    -- the event's KIND, class and unit are the model's choice (DESIGN CHOICE, log 123)
    if rampValid v then s.setWin n off v else s.logEvent n evOther 6 0 0 0
  else if off = offEVACCTL then
    let s1 := Ssc.merge s n off 0xFF4 v
    if go && old.getLsbD 1 && v.getLsbD 2 then s1.startCmd n off v 2 [⟨.back, { EvArgs.zero with site := n }⟩] else s1
  else if off = offBLTADDR then s.setWin n off v
  else if off = offEPCFG then Ssc.merge s n off 0xFFFF000000000007 v
  else if off = offTLBINV then
    let s1 := Ssc.merge s n off 0xFFFFFFFFFFFFFF1C v
    let c := fld v 8 8
    if go && old.getLsbD 1 && decide (fld v 2 3 ≤ 3) then
      s1.startCmd n off v 2
        [match fld v 2 3 with
         | 0 => ⟨.tlbinvPage, { EvArgs.zero with site := n, n := c, value := v &&& 0xFFFFFFFFFFFF0000 }⟩
         | 1 => ⟨.tlbinvContext, { EvArgs.zero with site := n, n := c }⟩
         | 2 => ⟨.tlbinvFrd, { EvArgs.zero with site := n, n := c }⟩
         | _ => ⟨.tlbinvAll, { EvArgs.zero with site := n }⟩]
    else s1
  else if off = offREXCMD then
    let s1 := Ssc.merge s n off 0x3F0 v
    let r := fld v 6 4
    if go && old.getLsbD 1 && fld v 4 2 == 1 then s1.startCmd n off v 2 [⟨.arm, { EvArgs.zero with site := n, n := r }⟩]
    else if go && old.getLsbD 1 && fld v 4 2 == 2 then s1.startCmd n off v 2 [⟨.disarm, { EvArgs.zero with site := n, n := r }⟩]
    else s1
  else if off = offEVLOG then s.setWin n off (maskTo 0x000FFFFFFFFE0000 v)
  else if off = offEVNEXT then s.setWin n off v
  else if off = offATTCMD then
    if n = 0 then (s.setWin n off (v &&& ~~~1)).later [⟨.attcmd, { EvArgs.zero with pa := fld v 0 52 }⟩] else s
  else if off = offCKPTCTL then
    if n = 0 then
      let s1 := Ssc.merge s n off 0x0000FFFFFFFF0004 v
      if go && old.getLsbD 1 then
        (s1.setWin n off (setFld (s1.win n off) 3 1 0)).startCmd n off v 2
          [⟨if v.getLsbD 2 then .checkpointRestore else .checkpoint, { EvArgs.zero with n := fld v 16 32, ok := Config.choose s.tick 1 % 2 = 0 }⟩]
      else s1
    else s
  else if off = offISLPT then
    let v1 := setFld old 31 1 (fld v 31 1)
    let v2 := if fld v 4 4 = 15 then v1 else setFld v1 4 4 (fld v 4 4)
    let v3 := if fld v 0 4 = 15 then v2 else setFld v2 0 4 (fld v 0 4)
    (s.setWin n off v3).postTarget n
  else if off = offISLPT + 8 ∨ off = offISLPT + 16 then s
  else if off = offLASTRACE then s.setWin n off (maskTo 0xFFFFFFFFFFFFFF7F v)
  else if (offRACES ≤ off ∧ off < 0x0320) ∨ (offMONPOLL ≤ off ∧ off < 0x0360) then s.setWin n off v
  else if 0x0400 ≤ off ∧ off < 0x0500 then s.later [⟨.dstatWrite, { EvArgs.zero with core := 32 * n + (off - 0x0400) / 8, value := v }⟩]
  else if 0x0500 ≤ off ∧ off < 0x0600 then s.setRatio n off (slratioWrite old v)
  else if 0x0600 ≤ off ∧ off < 0x0700 then s.setWin n off v
  else if off = offDRSTAT then
    let m := regionLow (regionOf n)
    let o := s.win m off
    s.setWin m off ((v &&& 0xFFFFFFFF00000000) ||| (o &&& 2) ||| (o &&& 1 &&& ~~~v))
  else if 0x0800 ≤ off ∧ off < 0x0980 then s.setWin n off v
  else if 0x1100 ≤ off ∧ off < 0x1140 then Ssc.merge s n off 0xFF0000 v
  else if 0x1140 ≤ off ∧ off < 0x1160 then
    let s1 := Ssc.merge s n off 0x103 v
    let t := if fld v 0 2 = 3 then 0 else fld v 0 2
    if t ≠ fld old 4 4 then s1.later [⟨.powerStateAnnounce, { EvArgs.zero with site := n, n := (off - 0x1140) / 8 }⟩] else s1
  else if offLINKKEY ≤ off ∧ off < offLINKKEY + 48 then s.setWin n off v
  else if 0x1190 ≤ off ∧ off < 0x11B0 then s.setWin n off (maskTo 0xFFFFFFFF v)
  else if 0x1200 ≤ off ∧ off < 0x1300 then s.setWin n off v
  else if off = offCTX 0 then s.setWin n off (maskTo 0x000FFFFFFFFFF003 v ||| 2)
  else if 0x2000 ≤ off ∧ off < 0x3000 then
    s.setWin n off (if off % 16 = 0 then maskTo 0x000FFFFFFFFFF003 v else maskTo 0x000FFFFFFFFFFFFF v)
  else if 0x3000 ≤ off ∧ off < 0xB000 then s.setWin n off v
  else if 0xB000 ≤ off ∧ off < 0xC000 then
    let s1 := s.setWin n off v
    if off % 16 = 0 then s1.setSite n { s1.site n with balHalf := Table.erase (s1.site n).balHalf ((off - 0xB000) / 16) } else s1
  else if 0x10000 ≤ off ∧ off < 0x30000 then
    s.setWin n off (if off % 32 = 0 then maskTo 0xFFFFFF v else if off % 32 = 8 then maskTo 0x0000FFFFFFFFFFFF v else v)
  else s

/-- The context-table entry of a context at a site (R282). -/
def State.ctxEntry (s : State) (n c : Nat) : DWord × DWord := (s.win n (offCTX c), s.win n (offCTX c + 8))
/-- Code of a context is privileged at a site when it is context 0 or its entry has SERVICE = 1 (R41). -/
def State.privileged (s : State) (n c : Nat) : Bool := decide (c = 0) || (s.win n (offCTX c)).getLsbD 1
/-- A context may translate at a site: VALID (R282). -/
def State.ctxValid (s : State) (n c : Nat) : Bool := (s.win n (offCTX c)).getLsbD 0

end Sys2Proof.Machine
end

