-- ==== Sys2Proof/Machine/Mem.lean ====
section
/-! DEFINITION. Memory: page tables and TLBs (R278-R287), refresh-exempt regions (R284, R285), the column cache (R274,
R275) and the loads and stores that go through them. -/

namespace Sys2Proof.Machine

/-! Translation (R278-R287). -/

structure Need where
  r : Bool
  w : Bool
  x : Bool
  deriving DecidableEq, Repr
def Need.read : Need := { r := true, w := false, x := false }
def Need.write : Need := { r := false, w := true, x := false }
def Need.both : Need := { r := true, w := true, x := false }
def Need.exec : Need := { r := false, w := false, x := true }

/-- Fields of a leaf entry (R280). -/
def leafR (e : DWord) : Bool := e.getLsbD 2
def leafW (e : DWord) : Bool := e.getLsbD 3
def leafX (e : DWord) : Bool := e.getLsbD 4
def leafRDC (e : DWord) : Bool := e.getLsbD 5
def leafREX (e : DWord) : Bool := e.getLsbD 6
def leafCACHE (e : DWord) : Nat := fld e 7 2
def leafHOME (e : DWord) : Nat := fld e 9 2
def leafHSITE (e : DWord) : Nat := fld e 11 6
def leafFMTEN (e : DWord) : Bool := e.getLsbD 17
def leafFMT (e : DWord) : Nat := fld e 18 4
def leafA (e : DWord) : Bool := e.getLsbD 22
def leafD (e : DWord) : Bool := e.getLsbD 23
def leafFRAME (e : DWord) : Nat := fld e 28 36 * 2 ^ 16

/-- A translated address: the physical address, its leaf and the leaf's level. -/
structure Xl where
  pa : Nat
  leaf : DWord
  level : Nat
  deriving DecidableEq, Repr

/-- A canonical 48-bit address (R70, R133). -/
def canonical (va : DWord) : Bool := decide (fld va 48 16 = if va.getLsbD 47 then 0xFFFF else 0)

/-- log2 of the page size of a leaf level. -/
def pageShift (level : Nat) : Nat :=
  match level with
  | 0 => 16
  | 1 => 21
  | _ => 30
/-- The index of a VA into a table of a level (R278). -/
def vaIndex (level : Nat) (va : DWord) : Nat :=
  match level with
  | 0 => fld va 16 5
  | 1 => fld va 21 9
  | 2 => fld va 30 9
  | _ => fld va 39 9

/-- The checks on a leaf that do not depend on the access (R280, R281). -/
def leafOk (level : Nat) (e : DWord) : Bool :=
  let fr := leafFRAME e
  decide (level ≤ 2) && decide (fld e 24 4 = 0) && decide (leafHOME e ≠ 3) && decide (leafCACHE e ≠ 3) &&
    (decide (leafHSITE e = 0) || decide (leafHOME e = 2)) && decide (fr % 2 ^ pageShift level = 0) &&
    (match paSpace fr with
     | 0 => decide (leafHOME e = 0) || (decide (leafHOME e = 2) && decide (fr / 2 ^ 44 % 64 = leafHSITE e))
     | 1 => decide (leafHOME e = 1)
     | _ => true)

def readDW (m : Memory) (pa : Nat) : DWord := BitVec.ofNat 64 (ofBytesLE (Memory.readN m pa 8))

/-- The bytes of n at pa include a block with an uncorrectable error (R270). -/
def State.poisoned (s : State) (pa n : Nat) : Bool :=
  !s.poison.isEmpty && (upFrom (pa / 16) ((pa + n + 15) / 16 - pa / 16)).any s.poison.contains

/-- A walker's view of a table entry (R286): its own cache's copy, or the entry in memory, read through the L2. -/
def State.walkRead (s : State) (site ctx pa : Nat) : DWord × State :=
  let held := (s.site site).walk.filter (fun e => decide (e.2.1 = ctx ∧ e.2.2.1 = pa))
  let fresh := (readDW s.mem pa, s.homeTouch pa)
  if held.isEmpty then fresh
  else match held.find? (fun e => e.1 == Config.walker s.tick % 32) with | some e => (e.2.2.2, s) | none => fresh
/-- A walker keeps a table entry, in the place of another when its cache holds 256. -/
def State.walkKeep (s : State) (site ctx pa : Nat) (e : DWord) : State :=
  let x := s.site site
  let k := Config.walker s.tick % 32
  let rest := x.walk.filter (fun w => !decide (w.2.2.1 = pa ∧ w.2.1 = ctx ∧ w.1 = k))
  let kept :=
    if rest.length < 256 then rest
    else
      let mine := rest.filter (fun w => w.1 == k)
      if mine.length < 256 then rest
      else match mine[Config.victim s.tick pa % mine.length]? with | none => rest | some v => rest.erase v
  s.setSite site { x with walk := (k, ctx, pa, e) :: kept }

/-- Walk the page table from a table at a level (R278-R281): the leaf, its level and where it lies, or a fault. -/
def State.walkFrom (s : State) (site ctx level table : Nat) (va : DWord) : Except Cause (Nat × Nat × DWord) × State :=
  let pa := table + 8 * vaIndex level va
  let r := s.walkRead site ctx pa
  let e := r.1
  let s1 := r.2
  if s.poisoned pa 8 then (.error cECC_UNCORRECTABLE, s1)
  else if !e.getLsbD 0 then (.error cXLATE_NOTPRESENT, s1)
  else if e.getLsbD 1 then
    if leafOk level e then (.ok (level, pa, e), s1) else (.error cXLATE_NOTPRESENT, s1)
  else
    match level with
    | 0 => (.error cXLATE_NOTPRESENT, s1)
    | l + 1 =>
      let next := fld e 20 44 * 2 ^ 8
      if fld e 2 18 ≠ 0 ∨ (l + 1 ≥ 2 ∧ next % 2 ^ 12 ≠ 0) ∨ paSpace next ≥ 2 ∨ s1.paOk next = false then (.error cXLATE_NOTPRESENT, s1)
      else State.walkFrom (s1.walkKeep site ctx pa e) site ctx l next va
  termination_by structural level

/-- A TLB lookup: the entry of the page of any size that holds the VA (R286). -/
def tlbFind (l : List TlbEntry) (ctx : Nat) (va : DWord) : Option TlbEntry :=
  l.find? (fun e => decide (e.ctx = ctx ∧ va.toNat / 2 ^ pageShift e.level = e.vpn))
/-- Add an entry to a TLB of sets of `ways` entries, replacing that of the same page; when its set is full, one entry of
the set goes. A core's TLB has 128 sets of 8; the spec gives the site's 16,384 entries and no sets (log 79). -/
def tlbAdd (sets ways tick : Nat) (l : List TlbEntry) (e : TlbEntry) : List TlbEntry :=
  let r := l.filter (fun x => !decide (x.ctx = e.ctx ∧ x.level = e.level ∧ x.vpn = e.vpn))
  if r.length < ways then e :: r
  else
    let same := r.filter (fun x => decide (Config.tlbSet x.vpn % sets = Config.tlbSet e.vpn % sets))
    if same.length < ways then e :: r
    else e :: (match same[Config.victim tick e.vpn % same.length]? with | none => r | some v => r.erase v)

/-- Permissions of a leaf for an access, and what depends on the machine: the port of host memory, space 3 (R281, R371). -/
def State.permit (s : State) (priv : Bool) (need : Need) (va : DWord) (level : Nat) (leaf : DWord) : Except Cause Xl :=
  let pa := leafFRAME leaf + va.toNat % 2 ^ pageShift level
  if !s.paOk pa then .error cXLATE_NOTPRESENT
  else if (need.r && !leafR leaf) || (need.w && !leafW leaf) || (need.x && !leafX leaf) then .error cXLATE_PERM
  else if paSpace pa = 3 ∧ priv = false then .error cXLATE_PERM
  else .ok { pa := pa, leaf := leaf, level := level }

/-- Translate a virtual address for an access from a core (its TLB first) or, with no core, from a site (R281, R286).
A and D are set by the walker in the entry; a cached entry with D = 0 is walked again for a write. -/
def State.translate (s : State) (core : Option Nat) (site ctx : Nat) (va : DWord) (need : Need) : Except Cause Xl × State :=
  let priv := s.privileged site ctx
  if !canonical va then (.error cXLATE_NOTPRESENT, s)
  else
    let inCore := match core with | none => none | some c => tlbFind (s.core c).tlb ctx va
    let hit := match inCore with | some e => some e | none => tlbFind (s.site site).tlb ctx va
    match hit with
    | some e =>
      if need.w && !leafD e.leaf then walk priv
      else
        let s1 := match core with
          | none => s
          | some c => if inCore.isSome then s else s.setCore c { s.core c with tlb := tlbAdd 128 8 s.tick (s.core c).tlb e }
        (s1.permit priv need va e.level e.leaf, s1)
    | none => walk priv
where
  /-- The walk, with the TLBs filled and A and D set at the entry's home (R282). -/
  walk (priv : Bool) : Except Cause Xl × State :=
    let ce := s.ctxEntry site ctx
    let root := fld ce.1 12 40 * 2 ^ 12
    if !ce.1.getLsbD 0 || decide (paSpace root ≥ 2) || !s.paOk root then (.error cXLATE_NOTPRESENT, s)
    else
      match s.walkFrom site ctx 3 root va with
      | (.error c, s1) => (.error c, s1)
      | (.ok (level, pa, e), s1) =>
        match s1.permit priv need va level e with
        | .error c => (.error c, s1)
        | .ok x =>
          let e' := e ||| 0x400000 ||| (if need.w then 0x800000 else 0)
          let s2 := if e' = e then s1 else s1.homeWrite pa (bytesLE 8 e'.toNat)
          let te : TlbEntry := { ctx := ctx, vpn := va.toNat / 2 ^ pageShift level, level := level, leaf := e' }
          let s3 := s2.setSite site { s2.site site with tlb := tlbAdd 1 16384 s2.tick (s2.site site).tlb te }
          let s4 := match core with
            | none => s3
            | some c => s3.setCore c { s3.core c with tlb := tlbAdd 128 8 s3.tick (s3.core c).tlb te }
          (.ok { x with leaf := e' }, s4)

/-! What the home slice decides (R135 orders 7 and 8). -/

/-- A byte that lies in no armed refresh-exempt region, or in one whose deadline has passed (R285). -/
def State.retentionExpired (s : State) (pa : Nat) : Bool :=
  let n := homeSite pa
  let o := s.dramOffset pa
  !(List.range 16).any (fun i =>
    (s.site n).armed.getLsbD i && decide ((s.win n (offREX i)).toNat % 2 ^ 44 ≤ o ∧
      o < (s.win n (offREX i)).toNat % 2 ^ 44 + (s.win n (offREX i + 8)).toNat) &&
      decide ((s.time n).toNat < (s.win n (offREX i + 16)).toNat))

/-- Some line of an access of n bytes is expired at its home. -/
def State.expiredIn (s : State) (pa n : Nat) : Bool := (lineParts (n / 128 + 2) pa n).any (fun p => s.retentionExpired p.1)

/-- The cause of order 7 of R135 that an access of n bytes meets at its home; a register of space 3 takes 8 aligned bytes (R374). -/
def State.homeFault (s : State) (x : Xl) (n : Nat) : Option Cause :=
  if paSpace x.pa = 3 then (if n = 8 ∧ x.pa % 8 = 0 then none else some cUNALIGNED)
  else if paSpace x.pa = 2 then none
  else if leafREX x.leaf && s.expiredIn x.pa n then some cRETENTION_EXPIRED
  else if s.poisoned x.pa n then some cECC_UNCORRECTABLE
  else none
/-- The checks at the home slice of an access of n bytes (R135 orders 7, 8): no cause, and the race metadata updated. -/
def State.homeCheck (s : State) (a : Acc) (x : Xl) (n : Nat) (kind : AccKind) : Option Cause × State :=
  match s.homeFault x n with
  | some c => (some c, s)
  | none => if decide (paSpace x.pa ≤ 1) && leafRDC x.leaf then s.raceCheck x.pa n kind a.agent a.clk else (none, s)

/-! The column cache (R274, R275). -/

/-- Write back the dirty bytes of a line; they become clean. -/
def State.ccClean (s : State) (core key : Nat) : State :=
  match Table.find (s.core core).cc key with
  | none => s
  | some l =>
    let s1 := l.bytes.foldl (fun t e => if e.2.dirty then t.homeWrite (key * 128 + e.1) [e.2.val] else t) s
    s1.setCore core { s1.core core with
      cc := Table.insert (s1.core core).cc key { l with bytes := l.bytes.map (fun e => (e.1, { e.2 with dirty := false })), owner := 0 } }
/-- Drop a line after writing back its dirty bytes. -/
def State.ccDrop (s : State) (core key : Nat) : State :=
  match Table.find (s.core core).cc key with
  | none => s
  | some _ => let s1 := s.ccClean core key; s1.setCore core { s1.core core with cc := Table.erase (s1.core core).cc key }
/-- The ways a line may take: 8 of the cache, and one for each lent SBUF unit (R274, R276). -/
def Core.ways (c : Core) : List Nat := List.range 8 ++ c.lent.map (fun u => 8 + u)
/-- Lines of one set of the column cache. -/
def sameSet (a b : Nat) : Bool := decide (a % 256 = b % 256)
/-- Place a line in a way; a streaming one is the next of its set to be replaced (R274). -/
def ccPlace (cc : Table CLine) (key way : Nat) (stream : Bool) : Table CLine :=
  let old := if stream then Table.mapVal (fun k l => if sameSet k key then { l with next := false } else l) cc else cc
  Table.insert old key { bytes := [], owner := 0, way := way, next := stream }
/-- Make a line present, replacing another of its set when every way is taken (R274): the streaming one, if there is one. -/
def State.ccAlloc (s : State) (core key : Nat) (stream : Bool) : State :=
  let c := s.core core
  if (Table.find c.cc key).isSome then s
  else
    let set := c.cc.filter (fun e => sameSet e.1 key)
    let free := c.ways.filter (fun w => !set.any (fun e => decide (e.2.way = w)))
    match free with
    | w :: _ => s.setCore core { c with cc := ccPlace c.cc key w stream }
    | [] =>
      let victim := match set.find? (fun e => e.2.next) with
        | some e => some e
        | none => set[Config.victim s.tick key % set.length]?
      match victim with
      | none => s
      | some (vk, vl) =>
        let s1 := s.ccDrop core vk
        s1.setCore core { s1.core core with cc := ccPlace (s1.core core).cc key vl.way stream }
/-- The value of a byte a load of the core sees: the valid byte of the column cache, or the home's. -/
def State.ccByte (s : State) (core pa : Nat) : Byte :=
  match Table.find (s.core core).cc (pa / 128) with
  | none => Memory.read s.mem pa
  | some l => match Table.find l.bytes (pa % 128) with | some b => b.val | none => Memory.read s.mem pa
/-- The value of a byte that the core has written and not written back, or else the home's. -/
def State.ccOwn (s : State) (core pa : Nat) : Byte :=
  match (Table.find (s.core core).cc (pa / 128)).bind (fun l => Table.find l.bytes (pa % 128)) with
  | some b => if b.dirty then b.val else Memory.read s.mem pa
  | none => Memory.read s.mem pa
/-- Fetch the blocks of 16 bytes of a present line that miss a byte from the home slice: all their bytes but those that
are dirty, so that a block's clean bytes are of one moment (R134, R224). A block with an uncorrectable error stays missing. -/
def State.ccFill (s : State) (core key : Nat) : State :=
  match Table.find (s.core core).cc key with
  | none => s
  | some l =>
    let full (b : Nat) : Bool := (upFrom (16 * b) 16).all (fun i => (Table.find l.bytes i).isSome)
    let bs := (List.range 8).flatMap (fun b =>
      if full b || s.poison.contains (8 * key + b) then
        (upFrom (16 * b) 16).filterMap (fun i => (Table.find l.bytes i).map (fun x => (i, x)))
      else (upFrom (16 * b) 16).map (fun i => (i, match Table.find l.bytes i with
        | some x => if x.dirty then x else { val := Memory.read s.mem (key * 128 + i), dirty := false }
        | none => { val := Memory.read s.mem (key * 128 + i), dirty := false })))
    s.setCore core { s.core core with cc := Table.insert (s.core core).cc key { l with bytes := bs } }
/-- Clear the valid bytes of n at pa that are not dirty. -/
def State.ccForget (s : State) (core pa n : Nat) : State :=
  let c := s.core core
  if c.cc.any (fun e => decide (pa / 128 ≤ e.1 ∧ e.1 * 128 < pa + n)) then
    let kept := Table.mapVal (fun k (l : CLine) =>
      { l with bytes := l.bytes.filter (fun b => b.2.dirty || !decide (pa ≤ k * 128 + b.1 ∧ k * 128 + b.1 < pa + n)) }) c.cc
    s.setCore core { c with cc := kept.filter (fun e => !e.2.bytes.isEmpty) }
  else s
/-- Write back and drop the core's lines of n bytes at pa. -/
def State.ccPurge (s : State) (core pa n : Nat) : State :=
  (lineParts (n / 128 + 2) pa n).foldl (fun t p => t.ccDrop core (p.1 / 128)) s
/-- Update bytes of a present line. -/
def State.ccPut (s : State) (core pa : Nat) (bs : List Byte) (dirty : Bool) (owner : BitVec 16) : State :=
  match Table.find (s.core core).cc (pa / 128) with
  | none => s
  | some l =>
    let upd := (List.zip (upFrom (pa % 128) bs.length) bs).foldl (fun t e => Table.insert t e.1 { val := e.2, dirty := dirty }) l.bytes
    s.setCore core { s.core core with cc := Table.insert (s.core core).cc (pa / 128) { l with bytes := upd, owner := l.owner ||| owner } }

/-- A streaming page (R274). -/
def streaming (x : Xl) : Bool := decide (leafCACHE x.leaf = 2)
/-- A page that the column cache may allocate lines of, for an access with the NT bit (R274). -/
def cacheable (x : Xl) (nt : Bool) : Bool :=
  decide (paSpace x.pa ≤ 1) && !nt && !leafREX x.leaf && decide (leafCACHE x.leaf ≠ 1)

/-- Every byte of an access within a line is valid in the core's column cache. -/
def State.ccHit (s : State) (core pa n : Nat) : Bool :=
  match Table.find (s.core core).cc (pa / 128) with
  | none => false
  | some l => (upFrom (pa % 128) n).all (fun i => (Table.find l.bytes i).isSome)

/-- A plain load after its checks: the bytes and the state (R139, R274). A load that misses a byte takes every byte that the
core has not itself written from the home, at once (R224). -/
def State.loadBytes (s : State) (a : Acc) (x : Xl) (n : Nat) (nt : Bool) : List Byte × State :=
  match paSpace x.pa with
  | 3 => ((bytesLE 8 (Ssc.read s (homeSite x.pa) (x.pa % 2 ^ 44)).toNat).take n, s)
  | 2 => (s.homeRead x.pa n, s)
  | _ =>
    if s.ccHit a.core x.pa n then ((upFrom x.pa n).map (s.ccByte a.core), s)
    else
      let s1 := s.homeTouch x.pa n
      ((upFrom x.pa n).map (s.ccOwn a.core),
        if cacheable x nt then (s1.ccAlloc a.core (x.pa / 128) (streaming x)).ccFill a.core (x.pa / 128) else s1.ccForget a.core x.pa n)

/-- A plain store after its checks (R139, R274): on a streaming page it allocates as on any other. -/
def State.storeBytes (s : State) (a : Acc) (x : Xl) (bs : List Byte) (nt : Bool) : State :=
  match paSpace x.pa with
  | 3 => Ssc.write s (homeSite x.pa) (x.pa % 2 ^ 44) (BitVec.ofNat 64 (ofBytesLE bs))
  | 2 => s.homeWrite x.pa bs
  | _ =>
    if cacheable x nt && !leafRDC x.leaf then
      (s.ccAlloc a.core (x.pa / 128) false).ccPut a.core x.pa bs true (BitVec.ofNat 16 (2 ^ (a.agent.toNat % 16)))
    else (s.ccPut a.core x.pa bs false 0).homeWrite x.pa bs

/-- A read and a write performed at the home by a synchronising access (R215, R374). -/
def State.homeLoad (s : State) (x : Xl) (n : Nat) : List Byte :=
  if paSpace x.pa = 3 then (bytesLE 8 (Ssc.read s (homeSite x.pa) (x.pa % 2 ^ 44)).toNat).take n else s.homeRead x.pa n
def State.homeStore (s : State) (x : Xl) (bs : List Byte) : State :=
  if paSpace x.pa = 3 then Ssc.write s (homeSite x.pa) (x.pa % 2 ^ 44) (BitVec.ofNat 64 (ofBytesLE bs)) else s.homeWrite x.pa bs
/-- The release clock of the line of an address (R140); memory of the host and registers have none. -/
def State.lineClock (s : State) (pa : Nat) : Word := if paSpace pa ≤ 1 then (s.line pa).rclk else 0
/-- Raise it to a release's clock. -/
def State.raiseLine (s : State) (pa : Nat) (k : Word) : State :=
  if paSpace pa ≤ 1 then s.setLine pa { s.line pa with rclk := clkMax (s.line pa).rclk k } else s

/-- Release at CORE scope or wider: clean the workgroup's dirty lines (R275). `w` is its slot on the core. -/
def State.ccRelease (s : State) (core w : Nat) : State :=
  (s.core core).cc.foldl (fun t e => if e.2.owner.getLsbD w then t.ccClean core e.1 else t) s
/-- Acquire at CORE scope or wider: clear every valid byte that is not dirty (R275). -/
def State.ccAcquire (s : State) (core : Nat) : State :=
  let c := s.core core
  if c.cc.isEmpty then s
  else
    let kept := c.cc.map (fun e => (e.1, { e.2 with bytes := e.2.bytes.filter (fun b => b.2.dirty) }))
    s.setCore core { c with cc := kept.filter (fun e => !e.2.bytes.isEmpty) }

/-! Accesses of the device on a context's behalf (R404, agent 0x8000). -/

/-- Translate and check a device access of at most one page (R135 order 7, R285): the address, or the cause. Its lines come
into their slices (R269). -/
def State.devAddr (s : State) (site ctx : Nat) (va : DWord) (n : Nat) (need : Need) : Except Cause Xl × State :=
  match s.translate none site ctx va need with
  | (.error c, s1) => (.error c, s1)
  | (.ok x, s1) =>
    match s1.homeFault x n with
    | some c => (.error c, s1)
    | none => (.ok x, s1.homeTouch x.pa n)
/-- Read n bytes, translating each 64 KiB page; none and the failing VA when a page faults. -/
def State.devRead (fuel : Nat) (s : State) (site ctx : Nat) (va : DWord) (n : Nat) : Except (Cause × DWord) (List Byte) × State :=
  match fuel with
  | 0 => (.ok [], s)
  | f + 1 =>
    if n = 0 then (.ok [], s)
    else
      let k := min n (65536 - va.toNat % 65536)
      match s.devAddr site ctx va k Need.read with
      | (.error c, s1) => (.error (c, va), s1)
      | (.ok x, s1) =>
        match State.devRead f s1 site ctx (va + BitVec.ofNat 64 k) (n - k) with
        | (.error e, s2) => (.error e, s2)
        | (.ok r, s2) => (.ok (s1.homeLoad x k ++ r), s2)
/-- Bytes written by the device reach a register of space 3 next (R374). -/
def State.devStore (s : State) (x : Xl) (bs : List Byte) : State :=
  if paSpace x.pa = 3 then
    s.later [⟨.registerWrite, { EvArgs.zero with site := homeSite x.pa, pa := x.pa % 2 ^ 44, value := BitVec.ofNat 64 (ofBytesLE bs) }⟩]
  else s.homeWrite x.pa bs
/-- Write bytes, translating each page; the failing VA when a page faults, with nothing written from there on. -/
def State.devWrite (fuel : Nat) (s : State) (site ctx : Nat) (va : DWord) (bs : List Byte) : Option (Cause × DWord) × State :=
  match fuel with
  | 0 => (none, s)
  | f + 1 =>
    if bs.isEmpty then (none, s)
    else
      let k := min bs.length (65536 - va.toNat % 65536)
      match s.devAddr site ctx va k Need.write with
      | (.error c, s1) => (some (c, va), s1)
      | (.ok x, s1) => State.devWrite f (s1.devStore x (bs.take k)) site ctx (va + BitVec.ofNat 64 k) (bs.drop k)

/-! Format region descriptors (R283). -/

/-- A format region descriptor (R283). -/
structure Frd where
  dbase : DWord
  len : Nat
  sbase : DWord
  block : Nat
  format : Nat
  rsv : Bool
  deriving DecidableEq, Repr
def Frd.ofBytes (bs : List Byte) : Frd :=
  { dbase := dword64 bs 0, len := fieldLE bs 8 8, sbase := dword64 bs 16, block := fieldLE bs 25 1, format := fieldLE bs 24 1 % 16,
    rsv := decide (fieldLE bs 0 1 % 16 ≠ 0 ∨ fieldLE bs 24 1 / 16 ≠ 0 ∨ fieldLE bs 26 2 ≠ 0 ∨ fieldLE bs 28 4 ≠ 0) }
/-- The bytes of an access, 1 for a pair of 4-bit elements. -/
def Frd.size (d : Frd) : Nat := match d.format with | 0 => 4 | 6 | 7 => 2 | _ => 1
def Frd.half (d : Frd) : Bool := d.format == 3 || d.format == 4
def Frd.blockBytes (d : Frd) : Nat := if d.half then 16 else 32
/-- The offset of an address from DBASE, when it lies in the region. -/
def Frd.offset (d : Frd) (va : DWord) : Option Nat :=
  if d.dbase.toNat ≤ va.toNat ∧ va.toNat < d.dbase.toNat + d.len then some (va.toNat - d.dbase.toNat) else none
/-- The VA of the side record of an offset. -/
def Frd.sideVa (d : Frd) (off : Nat) : DWord := d.sbase + BitVec.ofNat 64 (2 * (off / d.blockBytes))

/-- Descriptor n of a context at a site: from the FRD table, an access of the device, or from the site's cache of it (R282,
R287); none when the table holds an uncorrectable error there (R270). -/
def State.frdOf (s : State) (site ctx n : Nat) : Option Frd × State :=
  let pa := (s.win site (offCTX ctx + 8)).toNat + 32 * n
  let x := s.site site
  let fresh : Option Frd × State :=
    if s.poisoned pa 32 then (none, s)
    else
      let bs := s.homeRead pa 32
      let s1 := s.homeTouch pa
      (some (Frd.ofBytes bs), s1.setSite site { s1.site site with
        frd := (ctx, n, bs) :: x.frd.filter (fun e => !decide (e.1 = ctx ∧ e.2.1 = n)) })
  match x.frd.find? (fun e => decide (e.1 = ctx ∧ e.2.1 = n)) with
  | some e => if Config.frdHit s.tick pa then (some (Frd.ofBytes e.2.2), s) else fresh
  | none => fresh

end Sys2Proof.Machine
end

