-- ==== Sys2Proof/Machine/Qcb.lean ====
section
/-! DEFINITION. Queue control blocks and slots (R157-R162, R316, R317): CRC-16, verification, and the controller's
steps on a queue, shared by the queue instructions, LAUNCH, HQENQ, the launch unit and the trap notices. -/

namespace Sys2Proof.Machine

/-- One bit of the CRC-16 register: polynomial 0x1021, no reflection (R157). -/
def crcBit (c : BitVec 16) : BitVec 16 := if c.getLsbD 15 then (c <<< 1) ^^^ 0x1021 else c <<< 1
def crcByte (c : BitVec 16) (b : Byte) : BitVec 16 :=
  crcBit (crcBit (crcBit (crcBit (crcBit (crcBit (crcBit (crcBit (c ^^^ (b.zeroExtend 16 <<< 8)))))))))
/-- CRC-16 from 0xFFFF over bytes in rising order, with no final exclusive OR (R157). -/
def crc16 (bs : List Byte) : BitVec 16 := bs.foldl crcByte 0xFFFF

/-- The fields of a QCB (R157); `r14`, `r2c` and `r3e` are its reserved bytes at these offsets. -/
structure Qcb where
  magic : Word
  ctl : Word
  head : Word
  tail : Word
  free : Word
  dbase : DWord
  pclk : Word
  cclk : Word
  cwait : Nat
  pwait : Nat
  check : BitVec 16
  crc : BitVec 16
  r14 : Nat := 0
  r2c : Nat := 0
  r3e : Nat := 0
  deriving DecidableEq, Repr

def Qcb.esize (q : Qcb) : Nat := bits q.ctl.toNat 16 8
def Qcb.logn (q : Qcb) : Nat := bits q.ctl.toNat 8 5
def Qcb.scope (q : Qcb) : Nat := bits q.ctl.toNat 4 3
def Qcb.state (q : Qcb) : Nat := bits q.ctl.toNat 0 2
def Qcb.setState (q : Qcb) (st : Nat) : Qcb := { q with ctl := BitVec.ofNat 32 (q.ctl.toNat / 4 * 4 + st) }

/-- A reserved field is nonzero. -/
def Qcb.rsv (q : Qcb) : Bool := decide (q.ctl &&& 0xFF00E08C ≠ 0 ∨ q.r14 ≠ 0 ∨ q.r2c ≠ 0 ∨ q.r3e ≠ 0)
/-- The block as its 64 bytes read. -/
def Qcb.ofBytes (bs : List Byte) : Qcb :=
  let ctl := word32 bs 4
  { magic := word32 bs 0, ctl := ctl, head := word32 bs 8, tail := word32 bs 12, free := word32 bs 16, dbase := dword64 bs 0x18,
    pclk := word32 bs 0x20, cclk := word32 bs 0x24, cwait := fieldLE bs 0x2A 2, pwait := fieldLE bs 0x28 2,
    r14 := fieldLE bs 0x14 4, r2c := fieldLE bs 0x2C 16, r3e := fieldLE bs 0x3E 2, check := BitVec.ofNat 16 (fieldLE bs 0x3C 2), crc := crc16 (bs.take 60) }
/-- The 64 bytes of a block, with a matching CHECK. -/
def Qcb.toBytes (q : Qcb) : List Byte :=
  let b := bytesLE 4 q.magic.toNat ++ bytesLE 4 q.ctl.toNat ++ bytesLE 4 q.head.toNat ++ bytesLE 4 q.tail.toNat ++
    bytesLE 4 q.free.toNat ++ bytesLE 4 q.r14 ++ bytesLE 8 q.dbase.toNat ++ bytesLE 4 q.pclk.toNat ++ bytesLE 4 q.cclk.toNat ++
    bytesLE 2 q.pwait ++ bytesLE 2 q.cwait ++ bytesLE 16 q.r2c
  b ++ bytesLE 2 (crc16 b).toNat ++ bytesLE 2 q.r3e

/-- The scopes a queue may have (R157). -/
def qScopeOk (sc : Nat) : Bool := decide ((1 ≤ sc ∧ sc ≤ 5) ∨ sc = 7)
/-- ESIZE is 4-64 and a multiple of 4; LOGN is 0-20 (R157). -/
def qShapeOk (esize logn : Nat) : Bool := decide (4 ≤ esize ∧ esize ≤ 64 ∧ esize % 4 = 0 ∧ logn ≤ 20)
def qcbMagic : Word := 0x51434201

/-- The tests of R158 on the block; the slot headers are tested where they are met. -/
def Qcb.valid (q : Qcb) : Bool :=
  decide (q.magic = qcbMagic) && decide (q.check = q.crc) && !q.rsv && qShapeOk q.esize q.logn && qScopeOk q.scope &&
    decide (q.state ≠ 3) && decide (q.free.toNat + (q.tail - q.head).toNat = 2 ^ q.logn)

/-- The bytes of a slot and the VA of slot index i (R159). -/
def Qcb.slotSize (q : Qcb) : Nat := 8 + upTo 8 q.esize
def Qcb.slotVa (q : Qcb) (i : Word) : DWord := q.dbase + BitVec.ofNat 64 (i.toNat % 2 ^ q.logn * q.slotSize)

/-- The controller that holds a QCB: it joins the slice's list as the most recently used of 32 (R316). -/
def State.holdQcb (s : State) (pa : Nat) : State :=
  let n := homeSite pa
  let x := s.site n
  let rest := x.qcbs.filter (fun q => !decide (q.pa = pa))
  let mine := rest.filter (fun q => decide (q.slice = homeSlice pa))
  let kept := if mine.length < 32 then rest else match mine.head? with | some q => rest.erase q | none => rest
  s.setSite n { x with qcbs := kept ++ [{ slice := homeSlice pa, pa := pa, verified := true }] }

/-- Write the block back with a matching CHECK. -/
def State.writeQcb (s : State) (pa : Nat) (q : Qcb) : State := s.homeWrite pa q.toBytes true

/-- Wake every queue waiter of a QCB that is registered, or the earliest of one side (R317, R318): a waiter that is
absent is marked FIRED, and the wake goes on to the next of that side. A service controller whose notices wait for room
is a producer too (R376). -/
def State.queueWakeEv (s : State) (pa : Nat) (producers : Bool) : State :=
  let x := s.site (homeSite pa)
  if x.mon.any (fun e => e.pa == pa && e.kind == .queue producers) || (producers && s.sites.any (fun y => !y.2.notices.isEmpty)) then
    s.later [⟨.queueWake, { EvArgs.zero with pa := pa, ok := producers }⟩]
  else s
def State.queueWakeAll (s : State) (pa : Nat) : State :=
  let n := homeSite pa
  let x := s.site n
  let q := x.mon.filter (fun e => e.pa == pa && (match e.kind with | .queue _ => true | _ => false))
  if q.isEmpty then s
  else
    let s1 := s.setSite n { x with mon := x.mon.map (fun e => if q.contains e then { e with fired := true } else e) }
    s1.later ((q.filter (fun e => !e.absent)).map (fun e => ⟨.queuePoll, { EvArgs.zero with slot := e.slot, k := e.k }⟩))

/-- Count a coach among a queue's waiters of one side, or no longer (R157, R161). -/
def Qcb.count (q : Qcb) (producer up : Bool) : Qcb :=
  if producer then { q with pwait := if up then q.pwait + 1 else q.pwait - 1 }
  else { q with cwait := if up then q.cwait + 1 else q.cwait - 1 }
/-- A cancelled queue wait, or one that ends, leaves the waiter count (R161, R165). -/
def State.uncount (s : State) (w : Wait) : State :=
  match w.queue with
  | none => s
  | some (pa, producer) =>
    let q := Qcb.ofBytes (s.homeRead pa 64)
    if q.check = q.crc then s.writeQcb pa (q.count producer false) else s

/-- A corrupt QCB is poisoned with a matching CHECK, and every waiter wakes (R158, R317). -/
def State.poisonQcb (s : State) (pa : Nat) (q : Qcb) : State := (s.writeQcb pa (q.setState 2)).queueWakeAll pa

/-- Why a queue operation does not proceed; a self-test may hold it (R380). -/
inductive QStop where
  | trap (c : Cause) (addr : DWord)
  | corrupt
  | held
  deriving DecidableEq, Repr

/-- A synchronising access is performed at the home: the issuing core drops its copies of the bytes (R215, R224). -/
def State.ownDrop (s : State) (core : Option Nat) (pa n : Nat) : State := match core with | some c => s.ccPurge c pa n | none => s

/-- Reach a QCB at its controller: alignment, translation and memory of this device (R157). -/
def State.reachQcb (s : State) (core : Option Nat) (site ctx : Nat) (va : DWord) (need : Need) : Except QStop Xl × State :=
  if va.toNat % 64 ≠ 0 then (.error (.trap cUNALIGNED va), s)
  else
    match s.translate core site ctx va need with
    | (.error c, s1) => (.error (.trap c va), s1)
    | (.ok x, s1) =>
      if paSpace x.pa ≥ 2 then (.error (.trap cXLATE_PERM va), s1)
      else if s1.tested x.pa 64 then (.error .held, s1)
      else (.ok x, (s1.homeTouch x.pa 64).holdQcb x.pa)

/-- Bring a QCB before its controller, which verifies it (R158). A POISONED queue counts as corrupt. -/
def State.openQcb (s : State) (core : Option Nat) (site ctx : Nat) (va : DWord) (need : Need) : Except QStop (Xl × Qcb) × State :=
  match s.reachQcb core site ctx va need with
  | (.error e, s1) => (.error e, s1)
  | (.ok x, s1) =>
    let q := Qcb.ofBytes (s1.homeRead x.pa 64)
    if !q.valid then (.error .corrupt, s1.poisonQcb x.pa q)
    else if q.state = 2 then (.error .corrupt, s1)
    else (.ok (x, q), s1)

/-- A slot where it lies (R159): its VA, its first bytes up to the end of a 64 KiB page, how many they are, and the place of
the rest on the next page. -/
structure Slot where
  va : DWord
  x : Xl
  n : Nat
  y : Xl
  deriving DecidableEq, Repr
/-- The physical address of a byte of the slot. -/
def Slot.at (l : Slot) (k : Nat) : Nat := if k < l.n then l.x.pa + k else l.y.pa + (k - l.n)
/-- A part of a controller's access: its kind, the VA that a cause of it names, where it lies, and its bytes. -/
abbrev Part := AccKind × DWord × Xl × Nat
/-- The parts of an access of n bytes of the slot from byte k: on its first page, and on the next. -/
def Slot.part (l : Slot) (kind : AccKind) (k n : Nat) : List Part :=
  let a := min n (l.n - k)
  (if a = 0 then [] else [(kind, l.va, { l.x with pa := l.at k }, a)]) ++
    (if a < n then [(kind, l.va + BitVec.ofNat 64 l.n, { l.y with pa := l.at (k + a) }, n - a)] else [])
/-- Find a slot, translating each page that it touches (R161). -/
def State.findSlot (s : State) (core : Option Nat) (site ctx : Nat) (va : DWord) (size : Nat) (need : Need) : Except QStop Slot × State :=
  let n := 65536 - va.toNat % 65536
  match s.translate core site ctx va need with
  | (.error c, s1) => (.error (.trap c va), s1)
  | (.ok x, s1) =>
    if paSpace x.pa ≥ 2 then (.error (.trap cXLATE_PERM va), s1)
    else if s1.tested x.pa (min n size) then (.error .held, s1)
    else if size ≤ n then (.ok { va := va, x := x, n := size, y := x }, s1)
    else
      let va2 := va + BitVec.ofNat 64 n
      match s1.translate core site ctx va2 need with
      | (.error c, s2) => (.error (.trap c va2), s2)
      | (.ok y, s2) => if paSpace y.pa ≥ 2 then (.error (.trap cXLATE_PERM va2), s2) else if s2.tested y.pa (size - n) then (.error .held, s2) else (.ok { va := va, x := x, n := n, y := y }, s2)
/-- Find the first `size` bytes of each of the n slots from an index. -/
def State.findSlots (s : State) (core : Option Nat) (site ctx : Nat) (q : Qcb) (need : Need) (size : Nat) (i : Word) (n : Nat) :
    Except QStop (List Slot) × State :=
  match n with
  | 0 => (.ok [], s)
  | n + 1 =>
    match s.findSlot core site ctx (q.slotVa i) size need with
    | (.error e, s1) => (.error e, s1)
    | (.ok l, s1) =>
      match State.findSlots s1 core site ctx q need size (i + 1) n with
      | (.error e, s2) => (.error e, s2)
      | (.ok r, s2) => (.ok (l :: r), s2)
/-- The checks of a controller's accesses at their homes (R137, R232, R285): the causes met, with the VA of the part. -/
def State.checkParts (s : State) (core : Option Nat) (a : Acc) (l : List Part) : List (Cause × DWord) × State :=
  match l with
  | [] => ([], s)
  | (kind, va, x, n) :: r =>
    match s.homeCheck a x n kind with
    | (some c, s1) => let q := State.checkParts s1 core a r; ((c, va) :: q.1, q.2)
    | (none, s1) => State.checkParts ((s1.ownDrop core x.pa n).homeTouch x.pa n) core a r
/-- A cause of the race check (R135 order 8). -/
def causeRace (c : Cause) : Bool := c == cRACE_RAW || c == cRACE_WAR || c == cRACE_WAW
/-- Check a controller's step on a block at `va` and the parts of its slots, when nothing of order 6 of R135 is met: a cause of
order 7, else one of order 8. -/
def State.useQcb (s : State) (core : Option Nat) (a : Acc) (va : DWord) (x : Xl) (writes : Bool) (l : List Part) :
    Option (Cause × DWord) × State :=
  let r := s.checkParts core a ((.sync true writes, va, x, 64) :: l)
  ((r.1.filter (fun c => !causeRace c.1) ++ r.1).head?, r.2)

/-- Read and write bytes of a slot. -/
def State.slotRead (s : State) (l : Slot) (k n : Nat) : List Byte :=
  if k + n ≤ l.n then s.homeRead (l.at k) n else (upFrom k n).flatMap (fun j => s.homeRead (l.at j) 1)
def State.slotWrite (s : State) (l : Slot) (k : Nat) (bs : List Byte) : State :=
  if k + bs.length ≤ l.n ∨ l.n ≤ k then s.homeWrite (l.at k) bs true
  else (s.homeWrite (l.at k) (bs.take (l.n - k)) true).homeWrite l.y.pa (bs.drop (l.n - k)) true
/-- The state and clock of a slot, and its element (R159). -/
def State.slotHead (s : State) (l : Slot) : Nat := ofBytesLE (s.slotRead l 0 4) % 4
def State.slotClock (s : State) (l : Slot) : Word := BitVec.ofNat 32 (ofBytesLE (s.slotRead l 4 4))
def State.slotElem (s : State) (l : Slot) (esize : Nat) : List Byte := s.slotRead l 8 esize
/-- A slot becomes EMPTY. -/
def State.slotEmpty (s : State) (l : Slot) : State := s.slotWrite l 0 (bytesLE 4 0)
/-- What an enqueue and a dequeue access of slots (R137, R161): headers, and elements that are only written, or only read. -/
def enqParts (q : Qcb) (l : List Slot) : List Part :=
  l.flatMap (fun x => x.part (.sync false true) 0 8 ++ x.part (.sync false true) 8 q.esize)
def deqParts (q : Qcb) (l : List Slot) : List Part :=
  l.flatMap (fun x => x.part (.sync true true) 0 8 ++ x.part (.sync true false) 8 q.esize)
/-- The slots an enqueue fills, from TAIL (R161): a header of state 3 among them makes the QCB corrupt (R158), and orders 7 and 8 of
R135 come after. R161 translates them for write and also asks for read permission: both are required (DESIGN CHOICE, log 80). -/
def State.enqAddrs (s : State) (core : Option Nat) (site : Nat) (a : Acc) (va : DWord) (x : Xl) (q : Qcb) (n : Nat) :
    Except QStop (List Slot) × State :=
  match s.findSlots core site a.ctx q .both q.slotSize q.tail n with
  | (.error z, s1) => (.error z, s1)
  | (.ok l, s1) =>
    if l.any (fun y => s1.slotHead y == 3) then (.error .corrupt, s1.poisonQcb x.pa q)
    else
      match s1.useQcb core a va x true (enqParts q l) with
      | (some (c, v), s2) => (.error (.trap c v), s2)
      | (none, s2) => (.ok l, s2)
/-- The number of READY slots in a run from HEAD, up to a bound; none when a header holds state 3 (R158, R161). -/
def State.readyRun (s : State) (slots : List Slot) : Option Nat :=
  match slots with
  | [] => some 0
  | a :: r =>
    match s.slotHead a with
    | 2 => (State.readyRun s r).map (· + 1)
    | 3 => none
    | _ => some 0
/-- The READY slots in a run from HEAD that a dequeue of n elements finds (R161), order 6 of R135 being met by none. -/
def State.readySlots (s : State) (core : Option Nat) (site ctx pa : Nat) (q : Qcb) (n : Nat) : Except QStop (List Slot) × State :=
  match s.findSlots core site ctx q .both q.slotSize q.head (min n (q.tail - q.head).toNat) with
  | (.error z, s1) => (.error z, s1)
  | (.ok l, s1) => match s1.readyRun l with | some r => (.ok (l.take r), s1) | none => (.error .corrupt, s1.poisonQcb pa q)
/-- The slots a dequeue of n elements takes by a unit of the device, checked with the block. -/
def State.deqAddrs (s : State) (core : Option Nat) (site : Nat) (a : Acc) (va : DWord) (x : Xl) (q : Qcb) (n : Nat) :
    Except QStop (List Slot) × State :=
  match s.readySlots core site a.ctx x.pa q n with
  | (.error z, s1) => (.error z, s1)
  | (.ok l, s1) =>
    match s1.useQcb core a va x true (deqParts q l) with
    | (some (c, v), s2) => (.error (.trap c v), s2)
    | (none, s2) => (.ok l, s2)

/-- Fill reserved slots: each element, then its header READY with the publishing clock (R161). -/
def State.fillSlots (s : State) (k : Word) (slots : List Slot) (elems : List (List Byte)) : State :=
  (List.zip slots elems).foldl (fun t e => ((t.slotWrite e.1 8 e.2).slotWrite e.1 4 (bytesLE 4 k.toNat)).slotWrite e.1 0 (bytesLE 4 2)) s

/-- Publish elements whose slots have been translated: TAIL, FREE and PCLK move, a waiting consumer is woken. -/
def State.enqCommit (s : State) (pa : Nat) (q : Qcb) (k : Word) (slots : List Slot) (elems : List (List Byte)) : State :=
  let n := elems.length
  let s1 := s.fillSlots k slots elems
  let q1 := { q with tail := q.tail + BitVec.ofNat 32 n, free := q.free - BitVec.ofNat 32 n, pclk := clkMax q.pclk k }
  (s1.writeQcb pa q1).queueWakeEv pa false

/-- Take elements from HEAD: headers EMPTY, HEAD, FREE and CCLK move, a waiting producer is woken (R161). -/
def State.deqCommit (s : State) (pa : Nat) (q : Qcb) (oclk : Word) (slots : List Slot) : State :=
  let n := slots.length
  let s1 := slots.foldl State.slotEmpty s
  let q1 := { q with head := q.head + BitVec.ofNat 32 n, free := q.free + BitVec.ofNat 32 n, cclk := clkMax q.cclk oclk }
  (s1.writeQcb pa q1).queueWakeEv pa true

/-- The largest clock of a list of slots. -/
def State.slotClocks (s : State) (slots : List Slot) (k : Word) : Word := slots.foldl (fun a p => clkMax a (s.slotClock p)) k

/-- Status codes (R160). -/
def qOK : Nat := 0
def qFULL : Nat := 1
def qEMPTY : Nat := 2
def qEND : Nat := 3
def qBUSY : Nat := 4
def qBADPARAM : Nat := 5
def qFAULT : Nat := 6
def qStat (code count : Nat) : Word := BitVec.ofNat 32 (code * 2 ^ 28 + count)

/-! Trap notices (R254, R376). -/

/-- Post a notice on the system trap queue of a site's service controller; it waits in the controller's buffer when
the queue is full or corrupt, and is dropped and logged when the buffer is full too (R376). A queue that is closed, whose ESIZE
is not 64, or that cannot be reached counts as corrupt (DESIGN CHOICE, log 114). -/
def State.tryNotice (s : State) (site : Nat) (nt : List Byte) : Bool × State :=
  let raw := s.win site offTRAPQ
  let va : DWord := (raw &&& 0x0000FFFFFFFFFFC0) ||| (if raw.getLsbD 47 then 0xFFFF000000000000 else 0)
  match s.openQcb none site 0 va Need.both with
  | (.error _, s1) => (false, s1)
  | (.ok (x, q), s1) =>
    if q.esize ≠ 64 ∨ q.state ≠ 0 ∨ q.free = 0 then (false, s1)
    else
      match s1.enqAddrs none site (Acc.device (32 * site) 0) va x q 1 with
      | (.error _, s2) => (false, s2)
      | (.ok l, s2) => (true, s2.enqCommit x.pa q (s2.site site).h l [nt])
def State.postNotice (s : State) (site : Nat) (nt : List Byte) : State :=
  if raw0 then keep s
  else
    match s.tryNotice site nt with
    | (true, s1) => s1
    | (false, s1) => keep s1
where
  /-- No queue is named while TRAPQ is 0. -/
  raw0 : Bool := decide (s.win site offTRAPQ = 0) || !(s.site site).notices.isEmpty
  keep (t : State) : State :=
    let x := t.site site
    if x.notices.length < 64 then t.setSite site { x with notices := x.notices ++ [nt] }
    else t.logEvent site evOther 6 0 0 0
/-- Notices that wait are posted, oldest first, while there is room (R376). -/
def State.flushNotices (n : Nat) (s : State) (site : Nat) : State :=
  match n with
  | 0 => s
  | n + 1 =>
    match (s.site site).notices with
    | [] => s
    | nt :: r =>
      match s.tryNotice site nt with
      | (true, s1) => State.flushNotices n (s1.setSite site { s1.site site with notices := r }) site
      | (false, s1) => s1
/-- The notices that wait at every site. -/
def State.flushAll (s : State) : State :=
  s.sites.foldl (fun t x => if x.2.notices.isEmpty then t else t.flushNotices x.2.notices.length x.1) s

/-- The bytes of a notice (R254). -/
def noticeBytes (s : State) (site ctx : Nat) (noHandler report inHandler : Bool) (cause : Cause) (agent : Nat)
    (taddr record detail : DWord) : List Byte :=
  bytesLE 2 (cause.toNat + (if inHandler then 256 else 0) + (if report then 512 else 0) + (if noHandler then 1024 else 0)) ++
    bytesLE 2 ctx ++ bytesLE 4 agent ++ bytesLE 8 taddr.toNat ++ bytesLE 8 record.toNat ++ bytesLE 8 (s.time site).toNat ++
    bytesLE 8 detail.toNat ++ List.replicate 24 0
/-- Post a report (R244): no coach stops. -/
def State.report (s : State) (site ctx : Nat) (cause : Cause) (agent : Nat) (detail : DWord) : State :=
  s.postNotice site (noticeBytes s site ctx false true false cause agent 0 0 detail)

/-! Device writes into a context (R404) and the arithmetic status word (R55, R259). -/

/-- A write on the context's behalf: a failed one is not performed and is reported (R404). -/
def State.ctxWrite (s : State) (site ctx : Nat) (va : DWord) (bs : List Byte) : Bool × State :=
  match State.devWrite (bs.length / 65536 + 2) s site ctx va bs with
  | (none, s1) => (true, s1)
  | (some (_, v), s1) => (false, s1.report site ctx cDEVWRITE_FAULT 0 v)
/-- OR bits into the context's arithmetic status word, at CTXSAVE + 0x1_0000 (R55, R258, R259, R404). -/
def State.orStatus (s : State) (site ctx : Nat) (b : Word) : State :=
  if b = 0 then s
  else
    let base := (s.context ctx).ctxsave
    let va := base + 0x10000
    if base = 0 then s.report site ctx cDEVWRITE_FAULT 0 va
    else
      match s.devAddr site ctx va 4 Need.both with
      | (.error _, s1) => s1.report site ctx cDEVWRITE_FAULT 0 va
      | (.ok x, s1) => s1.homeWrite x.pa (bytesLE 4 (BitVec.ofNat 32 (ofBytesLE (s1.homeRead x.pa 4)) ||| b).toNat)
/-- No column cache keeps clean bytes of n at pa. -/
def State.forgetAll (s : State) (pa n : Nat) : State := s.cores.foldl (fun t c => t.ccForget c.1 pa n) s
/-- Write an error record (R309, R310): NEXT is advanced, then the record written; ERRREC counts it. No coach reads what was there
before once a consequence shows: the column caches give up their copies (DESIGN CHOICE of how, log 116). -/
def State.errorRecord (s : State) (site ctx : Nat) (bs : List Byte) : State :=
  let base := (s.context ctx).ctxsave
  let va := base + 0x10004
  if base = 0 then s.report site ctx cDEVWRITE_FAULT 0 va
  else
    match s.devAddr site ctx va 4 Need.write with
    | (.error _, s1) => s1.report site ctx cDEVWRITE_FAULT 0 va
    | (.ok x, s1) =>
      let n := ofBytesLE (s1.homeRead x.pa 4)
      let s2 := (s1.homeWrite x.pa (bytesLE 4 (n + 1))).forgetAll x.pa 4
      let at_ := base + BitVec.ofNat 64 (0x10040 + 64 * (n % 1023))
      match s2.devAddr site ctx at_ 64 Need.write with
      | (.error _, s3) => s3.report site ctx cDEVWRITE_FAULT 0 at_
      | (.ok y, s3) => ((s3.homeWrite y.pa bs).forgetAll y.pa 64).addWin site offERRREC 1
/-- The bytes of an error record (R309). -/
def errorBytes (s : State) (site : Nat) (source kind : Nat) (cause : Option Cause) (agent ctx coach : Nat) (addr : DWord)
    (batch tin tile engine : Nat) (origin : DWord) (done : Nat) : List Byte :=
  bytesLE 4 (source * 2 ^ 28 + kind * 2 ^ 24 + (match cause with | some c => 2 ^ 23 + c.toNat | none => 0)) ++
    bytesLE 4 (agent * 65536 + ctx * 256 + coach) ++ bytesLE 8 addr.toNat ++ bytesLE 8 (s.time site).toNat ++
    bytesLE 4 (batch * 65536 + tin * 32 + tile) ++ bytesLE 4 engine ++ bytesLE 8 origin.toNat ++ bytesLE 8 done ++
    List.replicate 16 0

end Sys2Proof.Machine
end

