-- ==== Sys2Proof/Machine/Endpoint.lean ====
section
/-! DEFINITION. The endpoints (R330-R336): the routes between sites, the route selector's estimates and choices, connections,
packets on the links, acknowledgements and retransmission. -/

namespace Sys2Proof.Machine

/-! The registers of a link. -/

/-- LSTAT of a direction (R341): 0 transmit, 1 receive. -/
def State.lstat (s : State) (n f d : Nat) : DWord := s.win n (offLSTAT f d)
def State.setLstat (s : State) (n f d : Nat) (v : DWord) : State := s.setWin n (offLSTAT f d) v
def lsSTATE (v : DWord) : Nat := fld v 0 3
def lsLANES (v : DWord) : Nat := fld v 24 8
def stDOWN : Nat := 0
def stTRAINING : Nat := 1
def stUP : Nat := 2
def stNARROWING : Nat := 3
def stONEWAY : Nat := 4
def stDARK : Nat := 5
/-- LPCTL: the laser's state, 3 while it moves. -/
def State.lpCur (s : State) (n f : Nat) : Nat := fld (s.win n (offLPCTL f)) 4 4
/-- A link and a lane exist (R339). -/
def linkOk (n f : Nat) : Bool := decide (n < 64 ∧ f < 4)
/-- The time a relight takes, in ns (R331, R344). -/
def relightNs (lp : Nat) : Nat :=
  match lp with
  | 0 => 0
  | 1 => 2000
  | _ => 50000
/-- REROUTE of EPOL (R369). -/
def epREROUTE (s : State) : Bool := s.epol.getLsbD 0
/-- A site's port is lost: each of its four links is DOWN in some direction (R333). -/
def State.portLost (s : State) (site : Nat) : Bool :=
  (List.range 4).all (fun f => lsSTATE (s.lstat site f 0) == stDOWN || lsSTATE (s.lstat site f 1) == stDOWN)

/-! Routes over the mesh (R324, R325). -/

/-- The ring position of a coordinate, and the crossings of a ring link. -/
def ringPos (x : Nat) : Nat := if x % 2 = 0 then x / 2 else 7 - (x - 1) / 2
def linkCost (p : Nat) : Nat := if p = 3 ∨ p = 7 then 1 else 2
/-- The stitch crossings between two coordinates. -/
def dimCost (a b : Nat) : Nat :=
  if a = b then 0
  else if a + 1 = b ∨ b + 1 = a then 1
  else
    let d := (ringPos b + 8 - ringPos a) % 8
    if d ≤ 4 then (List.range d).foldl (fun t i => t + linkCost ((ringPos a + i) % 8)) 0
    else (List.range (8 - d)).foldl (fun t i => t + linkCost ((ringPos a + 7 - i) % 8)) 0
def crossings (a b : Nat) : Nat := dimCost (a % 8) (b % 8) + dimCost (a / 8) (b / 8)
/-- The band of the banded-latency record that covers a number of crossings (R328). -/
def bandOf (c : Nat) : Nat := (c + 1) / 2 - (if c = 1 then 1 else 0)
/-- The adjacent sites: east, north, west, south (R333). -/
def adjacent (n : Nat) : List Nat :=
  (if n % 8 < 7 then [n + 1] else []) ++ (if n / 8 < 7 then [n + 8] else []) ++ (if n % 8 > 0 then [n - 1] else []) ++
    (if n / 8 > 0 then [n - 8] else [])

/-! Connections (R334). -/

/-- The connection of an endpoint with a peer's site in one delivery mode: ordered, for ORD = 1. -/
def connKey (dev site : Nat) (ord : Bool) : Nat := 2 * (64 * dev + site) + (if ord then 1 else 0)
/-- The device and the site of a connection. -/
def connDev (key : Nat) : Nat := key / 128
def connSite (key : Nat) : Nat := key / 2 % 64
def connMax : Nat := 65536
/-- The entries of a site's peer table that name a device (R377): their sites and transports. -/
def State.peerEntries (s : State) (site dev : Nat) : List (Nat × Nat) :=
  (s.site site).win.filterMap (fun e =>
    if 0x10000 ≤ e.1 ∧ e.1 < 0x30000 ∧ e.1 % 32 = 0 ∧ fld e.2 0 16 = dev then some (fld e.2 16 6, fld e.2 22 2) else (none : Option (Nat × Nat)))
/-- How a peer is reached from an endpoint (R337, R338, R377): 1 Ultra Ethernet Transport, 2 RoCE v2; none: the operation fails
with RMT_NAK. -/
def State.transport (s : State) (e dev site : Nat) : Option Nat :=
  let cfg := s.win e offEPCFG
  (((s.peerEntries e dev).filter (fun x => x.1 == site)).map Prod.snd).find? (fun t => (t == 1 && cfg.getLsbD 1) || (t == 2 && cfg.getLsbD 2))
/-- An endpoint takes the packets of a peer: by RoCE v2 those of a peer that its peer table marks so, else by Ultra Ethernet
Transport (R337). -/
def State.hearsPeer (s : State) (e dev site : Nat) : Bool :=
  let cfg := s.win e offEPCFG
  cfg.getLsbD 0 && cfg.getLsbD (if (s.peerEntries e dev).any (fun x => x == (site, 2)) then 2 else 1)
def State.conn (s : State) (n key : Nat) : Conn := Table.getD (s.site n).conns key Conn.fresh
def State.setConn (s : State) (n key : Nat) (c : Conn) : State :=
  s.setSite n { s.site n with conns := Table.insert (s.site n).conns key c }
/-- A connection exists, or there is room for it (R334). -/
def State.connRoom (s : State) (n key : Nat) : Bool :=
  (Table.find (s.site n).conns key).isSome || decide ((s.site n).conns.length < connMax)
/-- The bytes that a connection has still to send. -/
def Conn.waiting (c : Conn) : Nat :=
  (c.unsent.map Prod.snd ++ (c.inFlight.filter Packet.again).map Packet.bytes).foldl (fun a b => a + b) 0

/-! The route selector (R330, R331, R333). Its scores are in 1/800 ns, in which they are exact. -/

/-- MINNS of the record in the site's DRAM; 0 where BLTADDR names none. -/
def State.minNs (s : State) (n band : Nat) : Nat :=
  let pa := fld (s.win n offBLTADDR) 0 52
  if paSpace pa ≠ 0 ∨ homeSite pa ≠ n then 0 else ofBytesLE (s.homeRead (pa + 8 * band) 2)
/-- EMesh. -/
def State.meshScore (s : State) (n t : Nat) : Nat :=
  800 * ((if n = t then 0 else s.minNs n (bandOf (crossings n t))) + 8 * Table.getD (s.site n).occupancy t 0)
/-- Q: the bytes queued ahead at an endpoint. -/
def State.queued (s : State) (e : Nat) : Nat := (s.site e).conns.foldl (fun a c => a + c.2.waiting) 0
/-- Wait of a link: until a slot to the peer's port, 3000 when none is granted. A link that is not switched waits for none. -/
def State.slotWait (s : State) (e f dev site : Nat) : Nat :=
  let l := s.link e f
  if !Config.linkSwitched e f then 0
  else
    let mine := l.granted.filter (fun g => g.2.1 == Config.switchPort dev site)
    if mine.any (fun g => l.slotNo == some g.1) then 0
    else match sortBy id ((mine.filter (fun g => decide (s.now ≤ g.2.2))).map (fun g => g.2.2 - s.now)) with | w :: _ => w | [] => 3000
/-- Relight of a link; a laser that moves counts as what it moves to. -/
def State.relightWait (s : State) (e f : Nat) : Nat := relightNs (if s.lpCur e f = 3 then (s.link e f).moveTo else s.lpCur e f)
/-- EOpt, by the link that is soonest ready. -/
def State.optScore (s : State) (e dev site : Nat) : Nat :=
  let up := (List.range 4).filter (fun f => lsSTATE (s.lstat e f 0) != stDOWN)
  let ws := (if up.isEmpty then List.range 4 else up).map (fun f => s.slotWait e f dev site + s.relightWait e f)
  800 * (150 + (sortBy id ws).headD 0) + s.queued e
/-- With REROUTE set, the site in whose place an endpoint with a lost port is taken (R333). -/
def State.rerouted (s : State) (e : Nat) : Nat :=
  if !epREROUTE s || !s.portLost e then e
  else
    match (adjacent e).find? (fun n => !s.portLost n) with
    | some n => n
    | none => (sortBy (fun n => 64 * crossings e n + n) ((List.range 64).filter (fun n => !s.portLost n))).headD e
/-- The endpoint for a remote operation of a site: this site's, or an adjacent one's that is in service, by the lowest score;
ties go to this site's endpoint, then to the lowest site number (R330, R331). -/
def State.routeRemote (s : State) (n dev site : Nat) : Nat :=
  let cands := (n :: (adjacent n).filter (fun e => (s.win e offEPCFG).getLsbD 0)).map s.rerouted
  (sortBy (fun e => 65 * (s.optScore e dev site + (if e = n then 0 else s.meshScore n e)) + (if e = n then 0 else e + 1)) cands).headD n
/-- A copy chunk between two sites of the wafer goes by optics when EOpt < EMesh (R331). -/
def State.byOptics (s : State) (n t : Nat) : Bool :=
  decide (n ≠ t) && decide (s.optScore (s.rerouted n) s.waferId.toNat t < s.meshScore n t)

/-! Packets (R334-R336) on links (R342). -/

/-- Flits of a packet (R339), at least one; what heads a packet is not counted. The flits a link may have unacknowledged (R342). -/
def flitsOf (bytes : Nat) : Nat := max 1 ((bytes + 255) / 256)
def flitMax : Nat := 1024
/-- The packets of a payload, of up to 4096 bytes each; one, empty, for none. -/
def packetSizes (bytes : Nat) : List Nat :=
  if bytes = 0 then [0] else (List.range ((bytes + 4095) / 4096)).map (fun i => min 4096 (bytes - 4096 * i))
/-- The slot in progress of a link is granted to a port, and its identity has matched (R345, R347). -/
def Link.openTo (l : Link) (port : Nat) : Bool := l.unlocked && l.granted.any (fun g => l.slotNo == some g.1 && g.2.1 == port)
/-- A link on which n flits may be sent now to a port: UP, its laser on, the port's slot open, with room in its replay buffer. -/
def State.linkSends (s : State) (e n port f : Nat) : Bool :=
  let l := s.link e f
  lsSTATE (s.lstat e f 0) == stUP && s.lpCur e f == 0 && (!Config.linkSwitched e f || l.openTo port) &&
    decide ((l.seq - l.acked).toNat + n ≤ flitMax)
/-- Flits leave on a link. -/
def State.sendFlits (s : State) (e f n : Nat) (fresh : Bool) : State :=
  let l := s.link e f
  s.setLink e f { l with
    seq := if fresh then l.seq + BitVec.ofNat 16 n else l.seq,
    recent := l.recent.filter (fun e => decide (s.now < e.1 + 1000)) ++ [(s.now, n)] }
/-- The next packet of a connection: the first that is to be sent again, else the first unsent one, as the window allows. An
unordered packet takes the next entropy value (R334). -/
def Conn.next (c : Conn) (key now : Nat) : Option (Packet × Conn) :=
  match c.inFlight.find? Packet.again with
  | some p => some (p, { c with inFlight := c.inFlight.map (fun q => if q.psn = p.psn then { q with again := false, sent := now } else q) })
  | none =>
    match c.unsent with
    | (w, n) :: r =>
      if c.inFlight.length ≥ c.window then none
      else
        let p : Packet := { psn := c.nextPsn, what := w, bytes := n, entropy := c.entropy, sent := now, timer := 16, again := false }
        some (p, { c with nextPsn := c.nextPsn + 1, unsent := r, inFlight := c.inFlight ++ [p],
                          entropy := if key % 2 = 0 then c.entropy + 1 else c.entropy })
    | [] => none
/-- Send one packet of a connection, if its transport is in service (R337), its window allows and a link does. -/
def State.sendPacket (s : State) (e key : Nat) : State :=
  if (s.win e offEPCFG).getLsbD 0 = false ∨ (s.transport e (connDev key) (connSite key)).isNone then s
  else
    match (s.conn e key).next key s.now with
    | none => s
    | some (p, c) =>
      let k := flitsOf p.bytes
      let ls := (List.range 4).filter (s.linkSends e k (Config.switchPort (connDev key) (connSite key)))
      match ls[Config.choose s.tick (p.psn.toNat + 7) % ls.length]? with
      | none => s
      | some f => (s.sendFlits e f k true).setConn e key c
/-- Send what may be sent of a connection, and of every connection of a site. -/
def State.pump (s : State) (n key : Nat) : State :=
  (List.range ((s.conn n key).unsent.length + (s.conn n key).inFlight.length)).foldl (fun t _ => t.sendPacket n key) s
def State.pumpAll (s : State) (n : Nat) : State := (s.site n).conns.foldl (fun t e => t.pump n e.1) s
/-- Packets of a payload wait on a connection of an endpoint. -/
def State.queuePackets (s : State) (e key : Nat) (what : Carried) (bytes : Nat) : State :=
  if !s.connRoom e key then s
  else
    let c := s.conn e key
    (s.setConn e key { c with unsent := c.unsent ++ (packetSizes bytes).map (fun n => (what, n)) }).pump e key
/-- What was to be sent of something is sent no more. -/
def State.unqueue (s : State) (e : Nat) (what : Carried) : State :=
  s.setSite e { s.site e with conns := (s.site e).conns.map (fun c => (c.1, { c.2 with unsent := c.2.unsent.filter (fun u => u.1 != what) })) }
/-- Some packet of something waits or is not acknowledged. -/
def State.carries (s : State) (e : Nat) (what : Carried) : Bool :=
  (s.site e).conns.any (fun c => c.2.unsent.any (fun u => u.1 == what) || c.2.inFlight.any (fun p => p.what == what))

/-! Acknowledgements (R335, R336). -/

/-- A packet of sequence number p is acknowledged: below the cumulative sequence, or in the bitmap above it. -/
def ackedBy (cum : Word) (map : DWord) (p : Word) : Bool :=
  later32 cum p || (let d := (p - cum).toNat; decide (1 ≤ d ∧ d ≤ 64) && map.getLsbD (d - 1))
/-- A packet is missing: three later ones are marked received (R335). -/
def missing (cum : Word) (map : DWord) (p : Word) : Bool :=
  decide (((List.range 64).filter (fun i => map.getLsbD i && later32 (cum + BitVec.ofNat 32 (i + 1)) p)).length ≥ 3)
/-- What an acknowledgement does to a connection: acknowledged packets leave, missing ones are to be sent again, with the
retransmit timer started afresh at 16 µs (DESIGN CHOICE, log 117: R335 does not say); a congestion
mark, or a round trip above twice the smallest observed (`rtt`, 0 for none reported), reduces the window at most once per round
trip, and a round trip without a reduction adds 1 (R336). A round trip ends with the acknowledgement of the packets sent before it began. -/
def Conn.acked (c : Conn) (cum : Word) (map : DWord) (ecn : Bool) (rtt : Nat) : Conn :=
  let left := (c.inFlight.filter (fun p => !ackedBy cum map p.psn)).map (fun p => if missing cum map p.psn then { p with again := true, timer := 16 } else p)
  let long := match c.minRtt with | some m => decide (rtt > 2 * m) | none => false
  let cut := (ecn || long) && !c.reduced
  let w := if cut then max 1 (c.window * 7 / 8) else c.window
  let ends := cum != c.cumAck && !later32 c.roundEnd cum
  { c with
    cumAck := cum, inFlight := left, minRtt := if rtt = 0 then c.minRtt else some (match c.minRtt with | some m => min m rtt | none => rtt),
    window := if ends && !c.reduced && !cut then min 256 (w + 1) else w, reduced := !ends && (c.reduced || cut),
    roundEnd := if ends then c.nextPsn else c.roundEnd }
/-- A remote operation or a piece of a collective of which a packet has been acknowledged does not time out (R335). -/
def State.hear (s : State) (w : Carried) : State :=
  match w with
  | .remote site id =>
    s.setSite site { s.site site with remotes := (s.site site).remotes.map (fun o => if o.id = id then { o with heard := true } else o) }
  | .piece site no =>
    s.setSite site { s.site site with pieces := (s.site site).pieces.map (fun p => if p.no = no then { p with heard := true } else p) }
  | _ => s
/-- ACK_RECEIVE (R335, R336): `n` the connection, `value` the cumulative sequence, the bitmap, `ok` a congestion mark, `p` the
round trip in ns. -/
def execAckReceive (s : State) : Host.Outcome State Fault Refusal :=
  let n := s.arg.site
  .next (match Table.find (s.site n).conns s.arg.n with
    | none => s
    | some c =>
      let cum : Word := s.arg.value.truncate 32
      let map : DWord := s.arg.words.getD 1 0 ++ s.arg.words.getD 0 0
      if (cum - c.cumAck).toNat > (c.nextPsn - c.cumAck).toNat then s
      else
        let got := (c.inFlight.filter (fun p => ackedBy cum map p.psn)).map Packet.what
        (got.foldl State.hear (s.setConn n s.arg.n (c.acked cum map s.arg.ok s.arg.p))).pump n s.arg.n)
/-- RETRANSMIT_TIMER (R335): a packet whose timer has run out is to be sent again, and its timer doubles up to 128 µs. -/
def execRetransmitTimer (s : State) : Host.Outcome State Fault Refusal :=
  let n := s.arg.site
  .next (match Table.find (s.site n).conns s.arg.n with
    | none => s
    | some c => (s.setConn n s.arg.n { c with
        inFlight := c.inFlight.map (fun p =>
          if p.psn = s.arg.value.truncate 32 ∧ s.now ≥ p.sent + 1000 * p.timer then { p with again := true, timer := min 128 (2 * p.timer) } else p) }).pump n
            s.arg.n)
/-- The endpoint timeout in ns (R337). -/
def State.endpointTimeout (s : State) (site : Nat) : Nat := 1000 * max 1 (fld (s.win site offEPCFG) 48 16)
/-- OCCUPANCY_REPORT (R331): the occupied ring buffers on the route from a site to site m. -/
def execOccupancyReport (s : State) : Host.Outcome State Fault Refusal :=
  let n := s.arg.site
  .next (if n < 64 ∧ s.arg.m < 64 then
      s.setSite n { s.site n with occupancy := Table.put 0 (s.site n).occupancy s.arg.m s.arg.n }
    else s)

end Sys2Proof.Machine
end

