-- ==== Sys2Proof/Decode.lean ====
section
/-! DEFINITION. Decoding and encoding of Pligil words (R79-R90) and the field rules of every instruction (R82).
A word with a listed opcode is read into an instruction by its format with no bit lost (`parse`); whether its
fields are accepted is `Instr.fieldsOk`, and a word whose fields are not accepted is refused by name
(`DecodeError.illegalField`), as is an opcode that R89 leaves out (`DecodeError.illegalOpcode`). -/

namespace Sys2Proof

/-- Bits [hi : lo] of a word, `n` = hi - lo + 1 of them (R8). -/
abbrev field (w : Word) (lo n : Nat) : BitVec n := w.extractLsb' lo n

/-- Bit i of a word. -/
abbrev bit (w : Word) (i : Nat) : Bool := w.getLsbD i

/-- The opcode, bits [31:24] (R79). -/
def opcodeOf (w : Word) : BitVec 8 := field w 24 8

/-- The fields of each format (R80). -/
def rrrOf (w : Word) : RRR :=
  { u := bit w 23, fb := bit w 22, s := bit w 21, m := field w 18 3, d := field w 12 6, a := field w 6 6, b := field w 0 6 }
def riOf (w : Word) : RI := { u := bit w 23, fb := bit w 22, d := field w 16 6, imm := field w 0 16 }
def fmOf (w : Word) : FM :=
  { u := bit w 23, fb := bit w 22, t := field w 16 6, base := field w 10 6, idx := field w 4 6, scope := field w 1 3, nt := bit w 0 }
def faOf (w : Word) : FA :=
  { u := bit w 23, fb := bit w 22, t := field w 16 6, base := field w 10 6, idx := field w 4 6, aop := field w 0 4 }
def fbOf (w : Word) : FB :=
  { u := bit w 23, fb := bit w 22, cnt := field w 16 6, gen := field w 10 6, scope := field w 7 3, bix := field w 0 7 }
def fwOf (w : Word) : FW :=
  { u := bit w 23, fb := bit w 22, t := field w 16 6, base := field w 10 6, z := field w 4 6, cond := field w 0 4 }
def fqOf (w : Word) : FQ :=
  { u := bit w 23, fb := bit w 22, t := field w 16 6, qcb := field w 10 6, stat := field w 4 6, nregM1 := field w 0 4 }
def fxOf (w : Word) : FX :=
  { u := bit w 23, fb := bit w 22, acc := field w 16 6, adesc := field w 10 6, bdesc := field w 4 6, p := field w 2 2, dpol := field w 0 2 }
def fcOf (w : Word) : FC :=
  { u := bit w 23, fb := bit w 22, pb := field w 16 6, tin := field w 10 6, aux := field w 4 6, qsel := field w 0 4 }
def fjOf (w : Word) : FJ := { u := bit w 23, fb := bit w 22, off := field w 0 22 }
def fjcOf (w : Word) : FJC := { u := bit w 23, fb := bit w 22, reg := field w 16 6, cond := field w 13 3, off := field w 0 13 }
def fsOf (w : Word) : FS := { u := bit w 23, fb := bit w 22, d := field w 16 6, sysreg := field w 6 10, a := field w 0 6 }

/-- The instruction that a word's opcode and fields name (R87, R88), or none for an opcode of R89's first row. -/
def parse (w : Word) : Option Instr :=
  match (opcodeOf w).toNat with
  | 0x00 => some (.nop (rrrOf w))
  | 0x01 => some (.iadd (rrrOf w))
  | 0x02 => some (.isub (rrrOf w))
  | 0x03 => some (.imul (rrrOf w))
  | 0x04 => some (.imulh (rrrOf w))
  | 0x05 => some (.imad (rrrOf w))
  | 0x06 => some (.imin (rrrOf w))
  | 0x07 => some (.imax (rrrOf w))
  | 0x08 => some (.iabs (rrrOf w))
  | 0x09 => some (.ineg (rrrOf w))
  | 0x0A => some (.popc (rrrOf w))
  | 0x0B => some (.clz (rrrOf w))
  | 0x0C => some (.brev (rrrOf w))
  | 0x0D => some (.idot4 (rrrOf w))
  | 0x10 => some (.andI (rrrOf w))
  | 0x11 => some (.orI (rrrOf w))
  | 0x12 => some (.xorI (rrrOf w))
  | 0x13 => some (.notI (rrrOf w))
  | 0x14 => some (.shl (rrrOf w))
  | 0x15 => some (.shr (rrrOf w))
  | 0x16 => some (.sar (rrrOf w))
  | 0x17 => some (.rotl (rrrOf w))
  | 0x18 => some (.bfx (rrrOf w))
  | 0x19 => some (.bfi (rrrOf w))
  | 0x1A => some (.icmp (rrrOf w))
  | 0x1B => some (.fcmp (rrrOf w))
  | 0x1C => some (.sel (rrrOf w))
  | 0x1D => some (.movI (rrrOf w))
  | 0x1E => some (.prmt (rrrOf w))
  | 0x20 => some (.fadd (rrrOf w))
  | 0x21 => some (.fsub (rrrOf w))
  | 0x22 => some (.fmul (rrrOf w))
  | 0x23 => some (.ffma (rrrOf w))
  | 0x24 => some (.fmin (rrrOf w))
  | 0x25 => some (.fmax (rrrOf w))
  | 0x26 => some (.fabs (rrrOf w))
  | 0x27 => some (.fneg (rrrOf w))
  | 0x28 => some (.fdiv (rrrOf w))
  | 0x29 => some (.fsqrt (rrrOf w))
  | 0x2A => some (.frcp (rrrOf w))
  | 0x2B => some (.frsq (rrrOf w))
  | 0x2C => some (.fscl (rrrOf w))
  | 0x2D => some (.frnd (rrrOf w))
  | 0x30 => some (.hadd2 (rrrOf w))
  | 0x31 => some (.hsub2 (rrrOf w))
  | 0x32 => some (.hmul2 (rrrOf w))
  | 0x33 => some (.hfma2 (rrrOf w))
  | 0x34 => some (.hmin2 (rrrOf w))
  | 0x35 => some (.hmax2 (rrrOf w))
  | 0x36 => some (.hdot2 (rrrOf w))
  | 0x38 => some (.dadd (rrrOf w))
  | 0x39 => some (.dsub (rrrOf w))
  | 0x3A => some (.dmul (rrrOf w))
  | 0x3B => some (.dfma (rrrOf w))
  | 0x3C => some (.dmin (rrrOf w))
  | 0x3D => some (.dmax (rrrOf w))
  | 0x3E => some (.ddiv (rrrOf w))
  | 0x3F => some (.dsqrt (rrrOf w))
  | 0x40 => some (.cvt (rrrOf w))
  | 0x41 => some (.cvtsr (rrrOf w))
  | 0x42 => some (.fsin (rrrOf w))
  | 0x43 => some (.fcos (rrrOf w))
  | 0x44 => some (.fsincos (rrrOf w))
  | 0x45 => some (.fexp2 (rrrOf w))
  | 0x46 => some (.flog2 (rrrOf w))
  | 0x47 => some (.fexp (rrrOf w))
  | 0x48 => some (.fln (rrrOf w))
  | 0x49 => some (.ftanh (rrrOf w))
  | 0x4A => some (.fsigm (rrrOf w))
  | 0x4B => some (.bscale (rrrOf w))
  | 0x4C => some (.benc (rrrOf w))
  | 0x4D => some (.bdec (rrrOf w))
  | 0x50 => some (.lxch (rrrOf w))
  | 0x51 => some (.lshfl (rrrOf w))
  | 0x52 => some (.lbcast (rrrOf w))
  | 0x53 => some (.lrot (rrrOf w))
  | 0x54 => some (.cred (rrrOf w))
  | 0x55 => some (.cscan (rrrOf w))
  | 0x56 => some (.pand (rrrOf w))
  | 0x57 => some (.por (rrrOf w))
  | 0x58 => some (.pxor (rrrOf w))
  | 0x59 => some (.pnot (rrrOf w))
  | 0x5A => some (.pmask (rrrOf w))
  | 0x5B => some (.psets (rrrOf w))
  | 0x5C => some (.vote (rrrOf w))
  | 0x5D => some (.elect (rrrOf w))
  | 0x5E => some (.vget (rrrOf w))
  | 0x5F => some (.vput (rrrOf w))
  | 0x60 => some (.movi (riOf w))
  | 0x61 => some (.movih (riOf w))
  | 0x62 => some (.iaddi (riOf w))
  | 0x63 => some (.imuli (riOf w))
  | 0x64 => some (.andi (riOf w))
  | 0x65 => some (.ori (riOf w))
  | 0x66 => some (.xori (riOf w))
  | 0x67 => some (.shli (riOf w))
  | 0x68 => some (.shri (riOf w))
  | 0x69 => some (.fmovi (riOf w))
  | 0x6A => some (.faddi (riOf w))
  | 0x6B => some (.fmuli (riOf w))
  | 0x6C => some (.haddi2h (riOf w))
  | 0x6D => some (.haddi2b (riOf w))
  | 0x6E => some (.hmuli2h (riOf w))
  | 0x6F => some (.hmuli2b (riOf w))
  | 0xE0 => some (.f8muli (riOf w))
  | 0xE1 => some (.f8addi (riOf w))
  | 0x70 => some (.ld8 (fmOf w))
  | 0x71 => some (.ld16 (fmOf w))
  | 0x72 => some (.ld32 (fmOf w))
  | 0x73 => some (.ld64 (fmOf w))
  | 0x74 => some (.ld128 (fmOf w))
  | 0x75 => some (.st8 (fmOf w))
  | 0x76 => some (.st16 (fmOf w))
  | 0x77 => some (.st32 (fmOf w))
  | 0x78 => some (.st64 (fmOf w))
  | 0x79 => some (.st128 (fmOf w))
  | 0x7A => some (.ldacq (fmOf w))
  | 0x7B => some (.strel (fmOf w))
  | 0x7C => some (.fence (fmOf w))
  | 0x7D => some (.ldq (fmOf w))
  | 0x7E => some (.stq (fmOf w))
  | 0x7F => some (.pref (fmOf w))
  | 0x80 => some (.lds (fmOf w))
  | 0x81 => some (.sts (fmOf w))
  | 0x82 => some (.lds128 (fmOf w))
  | 0x83 => some (.sts128 (fmOf w))
  | 0x84 => some (.ldx (fmOf w))
  | 0x85 => some (.stx (fmOf w))
  | 0x86 => some (.ldw (fmOf w))
  | 0x87 => some (.stw (fmOf w))
  | 0x88 => some (.ldac (fmOf w))
  | 0x89 => some (.stac (fmOf w))
  | 0x8A => some (.atom (faOf w))
  | 0x8B => some (.atomar (faOf w))
  | 0x8C => some (.acas (faOf w))
  | 0x8D => some (.acasar (faOf w))
  | 0x8E => some (.atoms (faOf w))
  | 0x8F => some (.aredg (faOf w))
  | 0x90 => some (.bara (fbOf w))
  | 0x91 => some (.barw (fbOf w))
  | 0x92 => some (.baraw (fbOf w))
  | 0x93 => some (.barinit (fbOf w))
  | 0x94 => some (.waitc (fwOf w))
  | 0x95 => some (.waitct (fwOf w))
  | 0x96 => some (.enq (fqOf w))
  | 0x97 => some (.deq (fqOf w))
  | 0x98 => some (.enqnb (fqOf w))
  | 0x99 => some (.deqnb (fqOf w))
  | 0x9A => some (.qinit (fqOf w))
  | 0x9B => some (.qclose (fqOf w))
  | 0x9C => some (.qstat (fqOf w))
  | 0x9D => some (.ocrd (rrrOf w))
  | 0x9E => some (.yield (rrrOf w))
  | 0x9F => some (.sleep (rrrOf w))
  | 0xA0 => some (.mmaBf16 (fxOf w))
  | 0xA1 => some (.mmaF16 (fxOf w))
  | 0xA2 => some (.mmaE4m3 (fxOf w))
  | 0xA3 => some (.mmaE5m2 (fxOf w))
  | 0xA4 => some (.mmaE2m1 (fxOf w))
  | 0xA5 => some (.mmaE2m1x (fxOf w))
  | 0xA6 => some (.mmaI8 (fxOf w))
  | 0xA7 => some (.mmaF32 (fxOf w))
  | 0xA8 => some (.mmaF64 (fxOf w))
  | 0xA9 => some (.bfence (rrrOf w))
  | 0xAA => some (.bwait (rrrOf w))
  | 0xAB => some (.aczero (rrrOf w))
  | 0xAC => some (.acscl (rrrOf w))
  | 0xAD => some (.mrep (rrrOf w))
  | 0xAE => some (.mqry (rrrOf w))
  | 0xB0 => some (.cpy (fcOf w))
  | 0xB1 => some (.cpym (fcOf w))
  | 0xB2 => some (.cpyt (fcOf w))
  | 0xB3 => some (.tininit (fcOf w))
  | 0xB4 => some (.tinwait (fcOf w))
  | 0xB5 => some (.tinrel (fcOf w))
  | 0xB6 => some (.tinkill (fcOf w))
  | 0xB7 => some (.tinq (fcOf w))
  | 0xB8 => some (.qfence (fcOf w))
  | 0xB9 => some (.coll (fcOf w))
  | 0xBA => some (.rput (fcOf w))
  | 0xBB => some (.rget (fcOf w))
  | 0xBC => some (.ratom (fcOf w))
  | 0xBD => some (.rflush (fcOf w))
  | 0xBE => some (.launchI (fcOf w))
  | 0xC0 => some (.bra (fjOf w))
  | 0xC1 => some (.brs (fjcOf w))
  | 0xC2 => some (.brp (fjcOf w))
  | 0xC3 => some (.callI (fjOf w))
  | 0xC4 => some (.retI (fjOf w))
  | 0xC5 => some (.jmpr (fjcOf w))
  | 0xC6 => some (.ifI (fjcOf w))
  | 0xC7 => some (.elseI (fjOf w))
  | 0xC8 => some (.endifI (fjOf w))
  | 0xC9 => some (.loopI (fjOf w))
  | 0xCA => some (.endloopI (fjOf w))
  | 0xCB => some (.breakI (fjcOf w))
  | 0xCC => some (.contI (fjcOf w))
  | 0xCD => some (.exitI (fjOf w))
  | 0xD0 => some (.srd (fsOf w))
  | 0xD1 => some (.swr (fsOf w))
  | 0xD2 => some (.trapI (fsOf w))
  | 0xD3 => some (.tret (fsOf w))
  | 0xD4 => some (.lrd (fsOf w))
  | 0xD5 => some (.lwr (fsOf w))
  | 0xD6 => some (.rqrd (fsOf w))
  | 0xD7 => some (.rqwr (fsOf w))
  | 0xD8 => some (.stepo (fsOf w))
  | 0xD9 => some (.stepm (fsOf w))
  | 0xDA => some (.stepc (fsOf w))
  | 0xDB => some (.timeI (fsOf w))
  | 0xDC => some (.eres (fsOf w))
  | 0xDD => some (.msave (fsOf w))
  | 0xDE => some (.mrest (fsOf w))
  | 0xDF => some (.brk (fsOf w))
  | _ => none

/-- The word of an opcode and the fields of each format: the layouts of R80, written the other way round. -/
def packRRR (op : BitVec 8) (f : RRR) : Word :=
  op ++ (BitVec.ofBool f.u ++ (BitVec.ofBool f.fb ++ (BitVec.ofBool f.s ++ (f.m ++ (f.d ++ (f.a ++ f.b))))))
def packRI (op : BitVec 8) (f : RI) : Word := op ++ (BitVec.ofBool f.u ++ (BitVec.ofBool f.fb ++ (f.d ++ f.imm)))
def packM (op : BitVec 8) (f : FM) : Word :=
  op ++ (BitVec.ofBool f.u ++ (BitVec.ofBool f.fb ++ (f.t ++ (f.base ++ (f.idx ++ (f.scope ++ BitVec.ofBool f.nt))))))
def packA (op : BitVec 8) (f : FA) : Word :=
  op ++ (BitVec.ofBool f.u ++ (BitVec.ofBool f.fb ++ (f.t ++ (f.base ++ (f.idx ++ f.aop)))))
def packB (op : BitVec 8) (f : FB) : Word :=
  op ++ (BitVec.ofBool f.u ++ (BitVec.ofBool f.fb ++ (f.cnt ++ (f.gen ++ (f.scope ++ f.bix)))))
def packW (op : BitVec 8) (f : FW) : Word :=
  op ++ (BitVec.ofBool f.u ++ (BitVec.ofBool f.fb ++ (f.t ++ (f.base ++ (f.z ++ f.cond)))))
def packQ (op : BitVec 8) (f : FQ) : Word :=
  op ++ (BitVec.ofBool f.u ++ (BitVec.ofBool f.fb ++ (f.t ++ (f.qcb ++ (f.stat ++ f.nregM1)))))
def packX (op : BitVec 8) (f : FX) : Word :=
  op ++ (BitVec.ofBool f.u ++ (BitVec.ofBool f.fb ++ (f.acc ++ (f.adesc ++ (f.bdesc ++ (f.p ++ f.dpol))))))
def packC (op : BitVec 8) (f : FC) : Word :=
  op ++ (BitVec.ofBool f.u ++ (BitVec.ofBool f.fb ++ (f.pb ++ (f.tin ++ (f.aux ++ f.qsel)))))
def packJ (op : BitVec 8) (f : FJ) : Word := op ++ (BitVec.ofBool f.u ++ (BitVec.ofBool f.fb ++ f.off))
def packJC (op : BitVec 8) (f : FJC) : Word :=
  op ++ (BitVec.ofBool f.u ++ (BitVec.ofBool f.fb ++ (f.reg ++ (f.cond ++ f.off))))
def packS (op : BitVec 8) (f : FS) : Word :=
  op ++ (BitVec.ofBool f.u ++ (BitVec.ofBool f.fb ++ (f.d ++ (f.sysreg ++ f.a))))
/-- The word of an instruction (R79, R80, R87); none for an operation or event of the device, which has no word. -/
def encode (i : Instr) : Option Word :=
  match i with
  | .nop f => some (packRRR 0x00 f)
  | .iadd f => some (packRRR 0x01 f)
  | .isub f => some (packRRR 0x02 f)
  | .imul f => some (packRRR 0x03 f)
  | .imulh f => some (packRRR 0x04 f)
  | .imad f => some (packRRR 0x05 f)
  | .imin f => some (packRRR 0x06 f)
  | .imax f => some (packRRR 0x07 f)
  | .iabs f => some (packRRR 0x08 f)
  | .ineg f => some (packRRR 0x09 f)
  | .popc f => some (packRRR 0x0A f)
  | .clz f => some (packRRR 0x0B f)
  | .brev f => some (packRRR 0x0C f)
  | .idot4 f => some (packRRR 0x0D f)
  | .andI f => some (packRRR 0x10 f)
  | .orI f => some (packRRR 0x11 f)
  | .xorI f => some (packRRR 0x12 f)
  | .notI f => some (packRRR 0x13 f)
  | .shl f => some (packRRR 0x14 f)
  | .shr f => some (packRRR 0x15 f)
  | .sar f => some (packRRR 0x16 f)
  | .rotl f => some (packRRR 0x17 f)
  | .bfx f => some (packRRR 0x18 f)
  | .bfi f => some (packRRR 0x19 f)
  | .icmp f => some (packRRR 0x1A f)
  | .fcmp f => some (packRRR 0x1B f)
  | .sel f => some (packRRR 0x1C f)
  | .movI f => some (packRRR 0x1D f)
  | .prmt f => some (packRRR 0x1E f)
  | .fadd f => some (packRRR 0x20 f)
  | .fsub f => some (packRRR 0x21 f)
  | .fmul f => some (packRRR 0x22 f)
  | .ffma f => some (packRRR 0x23 f)
  | .fmin f => some (packRRR 0x24 f)
  | .fmax f => some (packRRR 0x25 f)
  | .fabs f => some (packRRR 0x26 f)
  | .fneg f => some (packRRR 0x27 f)
  | .fdiv f => some (packRRR 0x28 f)
  | .fsqrt f => some (packRRR 0x29 f)
  | .frcp f => some (packRRR 0x2A f)
  | .frsq f => some (packRRR 0x2B f)
  | .fscl f => some (packRRR 0x2C f)
  | .frnd f => some (packRRR 0x2D f)
  | .hadd2 f => some (packRRR 0x30 f)
  | .hsub2 f => some (packRRR 0x31 f)
  | .hmul2 f => some (packRRR 0x32 f)
  | .hfma2 f => some (packRRR 0x33 f)
  | .hmin2 f => some (packRRR 0x34 f)
  | .hmax2 f => some (packRRR 0x35 f)
  | .hdot2 f => some (packRRR 0x36 f)
  | .dadd f => some (packRRR 0x38 f)
  | .dsub f => some (packRRR 0x39 f)
  | .dmul f => some (packRRR 0x3A f)
  | .dfma f => some (packRRR 0x3B f)
  | .dmin f => some (packRRR 0x3C f)
  | .dmax f => some (packRRR 0x3D f)
  | .ddiv f => some (packRRR 0x3E f)
  | .dsqrt f => some (packRRR 0x3F f)
  | .cvt f => some (packRRR 0x40 f)
  | .cvtsr f => some (packRRR 0x41 f)
  | .fsin f => some (packRRR 0x42 f)
  | .fcos f => some (packRRR 0x43 f)
  | .fsincos f => some (packRRR 0x44 f)
  | .fexp2 f => some (packRRR 0x45 f)
  | .flog2 f => some (packRRR 0x46 f)
  | .fexp f => some (packRRR 0x47 f)
  | .fln f => some (packRRR 0x48 f)
  | .ftanh f => some (packRRR 0x49 f)
  | .fsigm f => some (packRRR 0x4A f)
  | .bscale f => some (packRRR 0x4B f)
  | .benc f => some (packRRR 0x4C f)
  | .bdec f => some (packRRR 0x4D f)
  | .lxch f => some (packRRR 0x50 f)
  | .lshfl f => some (packRRR 0x51 f)
  | .lbcast f => some (packRRR 0x52 f)
  | .lrot f => some (packRRR 0x53 f)
  | .cred f => some (packRRR 0x54 f)
  | .cscan f => some (packRRR 0x55 f)
  | .pand f => some (packRRR 0x56 f)
  | .por f => some (packRRR 0x57 f)
  | .pxor f => some (packRRR 0x58 f)
  | .pnot f => some (packRRR 0x59 f)
  | .pmask f => some (packRRR 0x5A f)
  | .psets f => some (packRRR 0x5B f)
  | .vote f => some (packRRR 0x5C f)
  | .elect f => some (packRRR 0x5D f)
  | .vget f => some (packRRR 0x5E f)
  | .vput f => some (packRRR 0x5F f)
  | .movi f => some (packRI 0x60 f)
  | .movih f => some (packRI 0x61 f)
  | .iaddi f => some (packRI 0x62 f)
  | .imuli f => some (packRI 0x63 f)
  | .andi f => some (packRI 0x64 f)
  | .ori f => some (packRI 0x65 f)
  | .xori f => some (packRI 0x66 f)
  | .shli f => some (packRI 0x67 f)
  | .shri f => some (packRI 0x68 f)
  | .fmovi f => some (packRI 0x69 f)
  | .faddi f => some (packRI 0x6A f)
  | .fmuli f => some (packRI 0x6B f)
  | .haddi2h f => some (packRI 0x6C f)
  | .haddi2b f => some (packRI 0x6D f)
  | .hmuli2h f => some (packRI 0x6E f)
  | .hmuli2b f => some (packRI 0x6F f)
  | .f8muli f => some (packRI 0xE0 f)
  | .f8addi f => some (packRI 0xE1 f)
  | .ld8 f => some (packM 0x70 f)
  | .ld16 f => some (packM 0x71 f)
  | .ld32 f => some (packM 0x72 f)
  | .ld64 f => some (packM 0x73 f)
  | .ld128 f => some (packM 0x74 f)
  | .st8 f => some (packM 0x75 f)
  | .st16 f => some (packM 0x76 f)
  | .st32 f => some (packM 0x77 f)
  | .st64 f => some (packM 0x78 f)
  | .st128 f => some (packM 0x79 f)
  | .ldacq f => some (packM 0x7A f)
  | .strel f => some (packM 0x7B f)
  | .fence f => some (packM 0x7C f)
  | .ldq f => some (packM 0x7D f)
  | .stq f => some (packM 0x7E f)
  | .pref f => some (packM 0x7F f)
  | .lds f => some (packM 0x80 f)
  | .sts f => some (packM 0x81 f)
  | .lds128 f => some (packM 0x82 f)
  | .sts128 f => some (packM 0x83 f)
  | .ldx f => some (packM 0x84 f)
  | .stx f => some (packM 0x85 f)
  | .ldw f => some (packM 0x86 f)
  | .stw f => some (packM 0x87 f)
  | .ldac f => some (packM 0x88 f)
  | .stac f => some (packM 0x89 f)
  | .atom f => some (packA 0x8A f)
  | .atomar f => some (packA 0x8B f)
  | .acas f => some (packA 0x8C f)
  | .acasar f => some (packA 0x8D f)
  | .atoms f => some (packA 0x8E f)
  | .aredg f => some (packA 0x8F f)
  | .bara f => some (packB 0x90 f)
  | .barw f => some (packB 0x91 f)
  | .baraw f => some (packB 0x92 f)
  | .barinit f => some (packB 0x93 f)
  | .waitc f => some (packW 0x94 f)
  | .waitct f => some (packW 0x95 f)
  | .enq f => some (packQ 0x96 f)
  | .deq f => some (packQ 0x97 f)
  | .enqnb f => some (packQ 0x98 f)
  | .deqnb f => some (packQ 0x99 f)
  | .qinit f => some (packQ 0x9A f)
  | .qclose f => some (packQ 0x9B f)
  | .qstat f => some (packQ 0x9C f)
  | .ocrd f => some (packRRR 0x9D f)
  | .yield f => some (packRRR 0x9E f)
  | .sleep f => some (packRRR 0x9F f)
  | .mmaBf16 f => some (packX 0xA0 f)
  | .mmaF16 f => some (packX 0xA1 f)
  | .mmaE4m3 f => some (packX 0xA2 f)
  | .mmaE5m2 f => some (packX 0xA3 f)
  | .mmaE2m1 f => some (packX 0xA4 f)
  | .mmaE2m1x f => some (packX 0xA5 f)
  | .mmaI8 f => some (packX 0xA6 f)
  | .mmaF32 f => some (packX 0xA7 f)
  | .mmaF64 f => some (packX 0xA8 f)
  | .bfence f => some (packRRR 0xA9 f)
  | .bwait f => some (packRRR 0xAA f)
  | .aczero f => some (packRRR 0xAB f)
  | .acscl f => some (packRRR 0xAC f)
  | .mrep f => some (packRRR 0xAD f)
  | .mqry f => some (packRRR 0xAE f)
  | .cpy f => some (packC 0xB0 f)
  | .cpym f => some (packC 0xB1 f)
  | .cpyt f => some (packC 0xB2 f)
  | .tininit f => some (packC 0xB3 f)
  | .tinwait f => some (packC 0xB4 f)
  | .tinrel f => some (packC 0xB5 f)
  | .tinkill f => some (packC 0xB6 f)
  | .tinq f => some (packC 0xB7 f)
  | .qfence f => some (packC 0xB8 f)
  | .coll f => some (packC 0xB9 f)
  | .rput f => some (packC 0xBA f)
  | .rget f => some (packC 0xBB f)
  | .ratom f => some (packC 0xBC f)
  | .rflush f => some (packC 0xBD f)
  | .launchI f => some (packC 0xBE f)
  | .bra f => some (packJ 0xC0 f)
  | .brs f => some (packJC 0xC1 f)
  | .brp f => some (packJC 0xC2 f)
  | .callI f => some (packJ 0xC3 f)
  | .retI f => some (packJ 0xC4 f)
  | .jmpr f => some (packJC 0xC5 f)
  | .ifI f => some (packJC 0xC6 f)
  | .elseI f => some (packJ 0xC7 f)
  | .endifI f => some (packJ 0xC8 f)
  | .loopI f => some (packJ 0xC9 f)
  | .endloopI f => some (packJ 0xCA f)
  | .breakI f => some (packJC 0xCB f)
  | .contI f => some (packJC 0xCC f)
  | .exitI f => some (packJ 0xCD f)
  | .srd f => some (packS 0xD0 f)
  | .swr f => some (packS 0xD1 f)
  | .trapI f => some (packS 0xD2 f)
  | .tret f => some (packS 0xD3 f)
  | .lrd f => some (packS 0xD4 f)
  | .lwr f => some (packS 0xD5 f)
  | .rqrd f => some (packS 0xD6 f)
  | .rqwr f => some (packS 0xD7 f)
  | .stepo f => some (packS 0xD8 f)
  | .stepm f => some (packS 0xD9 f)
  | .stepc f => some (packS 0xDA f)
  | .timeI f => some (packS 0xDB f)
  | .eres f => some (packS 0xDC f)
  | .msave f => some (packS 0xDD f)
  | .mrest f => some (packS 0xDE f)
  | .brk f => some (packS 0xDF f)
  | .powerOnReset => none
  | .bringupStage => none
  | .firmwareUpdate => none
  | .thermalTrip => none
  | .toffUpdate => none
  | .ozrikLinkTrain => none
  | .clauseFetch => none
  | .clauseWaitEnd => none
  | .sliceIssueCycle => none
  | .operationComplete => none
  | .trapTake => none
  | .asyncTrapTake => none
  | .resume => none
  | .reflect => none
  | .kill => none
  | .coachSlotFree => none
  | .gridCompletion => none
  | .preemptRequest => none
  | .noticeIntervalExpiry => none
  | .workgroupSave => none
  | .workgroupRestore => none
  | .migration => none
  | .launchRecordTake => none
  | .workgroupStart => none
  | .staggerRegionStart => none
  | .stealRequest => none
  | .stealRetryWait => none
  | .priorityPreempt => none
  | .quantumExpiry => none
  | .barrierPark => none
  | .waitPark => none
  | .sbufLend => none
  | .sbufReclaim => none
  | .barrierRelease => none
  | .monitorWake => none
  | .monitorPoll => none
  | .waitctDeadline => none
  | .queueWake => none
  | .queuePoll => none
  | .sleepExpiry => none
  | .horizonReport => none
  | .ageSweep => none
  | .pageWalk => none
  | .rexDeadline => none
  | .arm => none
  | .disarm => none
  | .tlbinvPage => none
  | .tlbinvContext => none
  | .tlbinvFrd => none
  | .tlbinvAll => none
  | .hostAccess => none
  | .hqenq => none
  | .attcmd => none
  | .checkpoint => none
  | .checkpointRestore => none
  | .registerWrite => none
  | .dstatWrite => none
  | .eccSelfTest => none
  | .dramEvacuate => none
  | .back => none
  | .mmaGateStart => none
  | .mmaComplete => none
  | .matrixPass => none
  | .batchComplete => none
  | .matrixRuntimeError => none
  | .rampStart => none
  | .rampStep => none
  | .ballastStep => none
  | .currentStep => none
  | .droopAlarm => none
  | .throttleEnd => none
  | .deckThermal => none
  | .governorSample => none
  | .islandTarget => none
  | .clockSwitch => none
  | .islandMoveComplete => none
  | .thermalControl => none
  | .sliceAutoIdle => none
  | .bandedLatencyMeasure => none
  | .copyStart => none
  | .copyChunk => none
  | .copyRuntimeError => none
  | .cpymDeliver => none
  | .cpymAck => none
  | .collHeaderExchange => none
  | .collChunk => none
  | .collComplete => none
  | .remoteAck => none
  | .rmtTimeout => none
  | .packetReceive => none
  | .ackReceive => none
  | .retransmitTimer => none
  | .occupancyReport => none
  | .ohealthUpdate => none
  | .linkNarrow => none
  | .linkWiden => none
  | .onewayEnter => none
  | .onewayHoldExpiry => none
  | .powerStateAnnounce => none
  | .linkWake => none
  | .relightLockTimeout => none
  | .arbiterRound => none
  | .slotStart => none
  | .slotEnd => none
  | .hotMarkChange => none
  | .laserStateReached => none
  | .targetedSelfTestEnd => none
  | .linkAcknowledgement => none

/-- The register files (R23). -/
inductive RFile where
  | v
  | s
  deriving DecidableEq, Repr

/-- One register operand of an instruction: `n` registers from `reg`, whose number must be a multiple of `align`
(R25), read or written. -/
structure Use where
  file : RFile
  reg : Nat
  n : Nat
  align : Nat
  rd : Bool
  wr : Bool
  deriving DecidableEq, Repr

/-- The file of a D, A, B or T field: v with U=0, s with U=1 (R81). -/
def fileOf (u : Bool) : RFile := if u then .s else .v

/-- The file of operand B of format RRR: s when U or S is set (R81). -/
def fileB (f : RRR) : RFile := if f.u || f.s then .s else .v

def Use.read (file : RFile) (r : RegNo) (n : Nat := 1) : Use :=
  { file := file, reg := r.toNat, n := n, align := if n = 3 then 4 else n, rd := true, wr := false }
def Use.write (file : RFile) (r : RegNo) (n : Nat := 1) : Use :=
  { file := file, reg := r.toNat, n := n, align := n, rd := false, wr := true }
def Use.both (file : RFile) (r : RegNo) (n : Nat := 1) : Use :=
  { file := file, reg := r.toNat, n := n, align := n, rd := true, wr := true }
/-- A run of NREG registers, which needs no alignment (R81). -/
def Use.run (file : RFile) (r : RegNo) (n : Nat) (rd wr : Bool) : Use :=
  { file := file, reg := r.toNat, n := n, align := 1, rd := rd, wr := wr }

/-- How many registers an integer operand names: a pair with W64 (R101, R102). -/
def RRR.width (f : RRR) : Nat := if f.m.getLsbD 1 then 2 else 1

def RRR.dab (f : RRR) (n : Nat) : List Use :=
  [.write (fileOf f.u) f.d n, .read (fileOf f.u) f.a n, .read (fileB f) f.b n]
def RRR.dabAcc (f : RRR) (n : Nat) : List Use :=
  [.both (fileOf f.u) f.d n, .read (fileOf f.u) f.a n, .read (fileB f) f.b n]
def RRR.da (f : RRR) (n : Nat) : List Use := [.write (fileOf f.u) f.d n, .read (fileOf f.u) f.a n]

/-- The BASE pair, unless BASE is 0, and, with U=0, the index register of a memory operand (R133). -/
def memUses (u : Bool) (base idx : RegNo) : List Use :=
  (if base = 0 then [] else [.read .s base 2]) ++ (if !u && idx != 0 then [.read .v idx] else [])
def FM.load (f : FM) (n : Nat) : List Use := .write (fileOf f.u) f.t n :: memUses f.u f.base f.idx
def FM.store (f : FM) (n : Nat) : List Use := .read (fileOf f.u) f.t n :: memUses f.u f.base f.idx
def FA.atom (f : FA) : List Use := .both (fileOf f.u) f.t 1 :: memUses f.u f.base f.idx
/-- The expected and the new value, of which the old value replaces the expected one alone (R147). -/
def FA.cas (f : FA) : List Use :=
  let n := if f.aop = 0 then 1 else 2
  .read (fileOf f.u) f.t (2 * n) :: .write (fileOf f.u) f.t n :: memUses f.u f.base f.idx
def FX.mma (f : FX) : List Use := [.read .s f.acc, .read .s f.adesc 4, .read .s f.bdesc 4]
def FC.copy (f : FC) : List Use := [.read .s f.pb 2, .read .s f.tin, .read .s f.aux]
def FQ.move (f : FQ) (rd wr : Bool) : List Use :=
  [.run (fileOf f.u) f.t (f.nregM1.toNat + 1) rd wr, .read .s f.qcb 2, .write .s f.stat]

/-- How many registers CVT reads from A and writes to D (R111). -/
def cvtSrcRegs (code : Nat) : Nat :=
  if code = 0x02 ∨ code = 0x03 ∨ code = 0x09 ∨ code = 0x18 then 2 else if code = 0x0A ∨ code = 0x0B then 4 else 1
def cvtDstRegs (code : Nat) : Nat := if code = 0x08 ∨ code = 0x19 then 2 else 1

/-- How wide a system register is (R30), or none for a number R30 does not list. -/
def sysregWidth (n : Nat) : Option Nat :=
  if n ≤ 0x00E then some 32
  else if n = 0x010 ∨ n = 0x011 then some 64
  else if n = 0x012 ∨ n = 0x013 ∨ n = 0x014 then some 32
  else if n = 0x020 then some 64
  else if n = 0x021 then some 32
  else if n = 0x022 ∨ n = 0x023 then some 64
  else if n = 0x024 then some 32
  else if 0x028 ≤ n ∧ n ≤ 0x02F then some 32
  else if n = 0x030 then some 32
  else if n = 0x031 then some 64
  else if n = 0x040 ∨ n = 0x041 then some 64
  else if n = 0x042 then some 32
  else if 0x050 ≤ n ∧ n ≤ 0x05F then some 32
  else none

/-- The registers with one value per thread (R30). -/
def sysregIsThread (n : Nat) : Bool := decide (n ≤ 0x002)

/-- Who may write a system register: any code, privileged code only with a user read (RO for users), privileged
code only with no user access, or nobody (R30). -/
inductive SysAccess where
  | all
  | privElseRO
  | privOnly
  | readOnly
  | privReadOnly
  deriving DecidableEq, Repr

def sysregAccess (n : Nat) : SysAccess :=
  if n = 0x014 ∨ n = 0x020 ∨ n = 0x022 then .all
  else if n = 0x00C ∨ n = 0x00D then .privElseRO
  else if n = 0x040 ∨ n = 0x041 ∨ (0x050 ≤ n ∧ n ≤ 0x05F) then .privOnly
  else if n = 0x042 then .privReadOnly
  else .readOnly

def sysregRegs (n : Nat) : Nat := if sysregWidth n = some 64 then 2 else 1

/-- The register operands of every instruction, from the form and field columns of its description. -/
def Instr.uses (i : Instr) : List Use :=
  match i with
  | .iadd f | .isub f | .imul f | .imulh f | .imin f | .imax f => f.dab f.width
  | .imad f => f.dabAcc f.width
  | .iabs f | .ineg f | .popc f | .clz f | .brev f => f.da f.width
  | .idot4 f => f.dabAcc 1
  | .andI f | .orI f | .xorI f | .shl f | .shr f | .sar f | .rotl f => f.dab f.width
  | .notI f => f.da f.width
  | .bfx f => f.dab 1
  | .bfi f | .prmt f => f.dabAcc 1
  | .icmp f => [.read (fileOf f.u) f.a f.width, .read (fileB f) f.b f.width]
  | .fcmp f => let n := if f.m.getLsbD 0 then 2 else 1; [.read (fileOf f.u) f.a n, .read (fileB f) f.b n]
  | .sel f => f.dab 1
  | .movI f => [.write (fileOf f.u) f.d f.width, .read (fileB f) f.b f.width]
  | .fadd f | .fsub f | .fmul f | .fmin f | .fmax f | .fdiv f | .fscl f => f.dab 1
  | .ffma f => f.dabAcc 1
  | .fabs f | .fneg f | .fsqrt f | .frcp f | .frsq f | .frnd f => f.da 1
  | .hadd2 f | .hsub2 f | .hmul2 f | .hmin2 f | .hmax2 f => f.dab 1
  | .hfma2 f | .hdot2 f => f.dabAcc 1
  | .dadd f | .dsub f | .dmul f | .dmin f | .dmax f | .ddiv f => f.dab 2
  | .dfma f => f.dabAcc 2
  | .dsqrt f => f.da 2
  | .cvt f | .cvtsr f =>
    [.write (fileOf f.u) f.d (cvtDstRegs f.b.toNat), .read (fileOf f.u) f.a (cvtSrcRegs f.b.toNat)]
  | .fsin f | .fcos f | .fexp2 f | .flog2 f | .fexp f | .fln f | .ftanh f | .fsigm f => f.da 1
  | .fsincos f => [.write (fileOf f.u) f.d 2, .read (fileOf f.u) f.a 1]
  | .bscale f => f.da 1
  | .benc f | .bdec f => f.dab 1
  | .lxch f | .lrot f | .cred f | .cscan f => f.da 1
  | .lshfl f => f.dab 1
  | .lbcast f => [.write .v f.d, .read .v f.a, .read .s f.b]
  | .pmask f | .psets f => [.read .s f.b]
  | .vote f => [.write (fileOf f.u) f.d]
  | .vget f => [.write .s f.d, .read .v f.a, .read .s f.b]
  | .vput f => [.write .v f.d, .read .s f.a, .read .s f.b]
  | .movi f | .fmovi f => [.write (fileOf f.u) f.d]
  | .movih f | .iaddi f | .imuli f | .andi f | .ori f | .xori f | .shli f | .shri f | .faddi f | .fmuli f
  | .haddi2h f | .haddi2b f | .hmuli2h f | .hmuli2b f | .f8muli f | .f8addi f => [.both (fileOf f.u) f.d]
  | .ld8 f | .ld16 f | .ld32 f | .ldacq f | .ldq f | .lds f => f.load 1
  | .ld64 f => f.load 2
  | .ld128 f | .lds128 f | .ldx f | .ldw f | .ldac f => f.load 4
  | .st8 f | .st16 f | .st32 f | .strel f | .stq f | .sts f => f.store 1
  | .st64 f => f.store 2
  | .st128 f | .sts128 f | .stx f | .stw f | .stac f => f.store 4
  | .pref f => memUses f.u f.base f.idx
  | .atom f | .atomar f | .atoms f => f.atom
  | .aredg f => .read (fileOf f.u) f.t 1 :: memUses f.u f.base f.idx
  | .acas f | .acasar f => f.cas
  | .bara f | .baraw f | .barinit f => [.read .s f.cnt, .write .s f.gen]
  | .barw f => [.read .s f.gen]
  | .waitc f => [.both .s f.t 2, .read .s f.base 2]
  | .waitct f => [.both .s f.t 4, .read .s f.base 2]
  | .enq f | .enqnb f => f.move true false
  | .deq f | .deqnb f => f.move false true
  | .qinit f => [.read .s f.t 4, .read .s f.qcb 2, .write .s f.stat]
  | .qclose f => [.read .s f.qcb 2, .write .s f.stat]
  | .qstat f => [.run .s f.t (f.nregM1.toNat + 1) false true, .read .s f.qcb 2, .write .s f.stat]
  | .ocrd f => [.write .s f.d 2]
  | .sleep f => [.read .s f.a]
  | .mmaBf16 f | .mmaF16 f | .mmaE4m3 f | .mmaE5m2 f | .mmaE2m1 f | .mmaE2m1x f | .mmaI8 f | .mmaF32 f | .mmaF64 f => f.mma
  | .bfence f => [.write .s f.d]
  | .bwait f | .aczero f => [.read .s f.a]
  | .acscl f => [.read .s f.a, .read .s f.b]
  | .mrep f => [.write .s f.d 4, .read .s f.a]
  | .mqry f => [.write .s f.d 2, .read .s f.a]
  | .cpy f | .cpym f | .cpyt f | .tininit f => f.copy
  | .tinwait f | .tinrel f | .tinkill f => [.read .s f.tin]
  | .tinq f => [.write .s f.pb 2, .read .s f.tin]
  | .qfence f => [.read .s f.aux]
  | .coll f | .rput f | .rget f | .ratom f => [.read .s f.pb 2]
  | .launchI f => [.read .s f.pb 2, .write .s f.tin]
  | .brs f => [.read .s f.reg]
  | .jmpr f => [.read .s f.reg 2]
  | .srd f => [.write (fileOf f.u) f.d (sysregRegs f.sysreg.toNat)]
  | .swr f => [.read (fileOf f.u) f.d (sysregRegs f.sysreg.toNat)]
  | .lrd f =>
    [.write .s f.d, .read .s (f.sysreg.extractLsb' 0 6)] ++ (if f.sysreg.extractLsb' 6 2 = 0 then [.read .v f.a] else [])
  | .lwr f =>
    [.read .s f.a, .read .s (f.sysreg.extractLsb' 0 6)] ++ (if f.sysreg.extractLsb' 6 2 = 0 then [.write .v f.d] else [])
  | .rqrd f => [.write .s f.d, .read .s f.a]
  | .rqwr f => [.read .s f.d, .read .s f.a]
  | .stepo f | .msave f | .mrest f => [.read .s f.d 2]
  | .stepm f => [.read .s f.a]
  | .timeI f => [.write .s f.d 4]
  | .eres f => [.write .s f.d, .read .s f.a]
  | _ => []

/-- S only with U=0 (R81); FB is 0 in a fixed-latency instruction (R76). -/
def RRR.plain (f : RRR) : Bool := !f.fb && !(f.u && f.s)
/-- `plain` with no operand B. -/
def RRR.unary (f : RRR) : Bool := !f.fb && !f.s && f.b == 0
/-- The M bits outside `mask` are 0 (R83). -/
def RRR.mIn (f : RRR) (mask : BitVec 3) : Bool := (f.m &&& ~~~mask) == 0
/-- A predicate number 0-7 (R99). -/
def isPred (r : RegNo) : Bool := decide (r.toNat < 8)
/-- The fields of a row 0xC word (R125). -/
def FJ.ctl (f : FJ) : Bool := !f.u && !f.fb
def FJC.ctl (f : FJC) : Bool := !f.u && !f.fb
/-- IDX is 0 with U=1 (R81). -/
def idxOk (u : Bool) (idx : RegNo) : Bool := !(u && idx != 0)
/-- The buffer forms of format M take SCOPE 0 and NT 0 (R144). -/
def FM.bufOk (f : FM) : Bool := idxOk f.u f.idx && f.scope == 0 && !f.nt
/-- The RRR forms of rows 0x9 and 0xA: U=1, S and M zero (R166, R180). -/
def RRR.uniform (f : RRR) : Bool := f.u && !f.s && f.m == 0
/-- The scopes a barrier instruction may name (R149). -/
def barScope (sc : BitVec 3) : Bool := sc != 0 && sc != 7

/-- The values each instruction accepts in its fields, from the word alone (R82-R86 and each description);
register alignment (R25) is checked beside them in `fieldsOk`. -/
def Instr.fieldRules (i : Instr) : Bool :=
  match i with
  | .nop f => f == { u := false, fb := false, s := false, m := 0, d := 0, a := 0, b := 0 }
  | .iadd f | .isub f | .imul f | .imad f => f.plain
  | .imulh f | .imin f | .imax f => f.plain && f.mIn 0b110
  | .iabs f | .ineg f => f.unary && f.mIn 0b011
  | .popc f | .clz f | .brev f | .notI f => f.unary && f.mIn 0b010
  | .idot4 f => f.plain && f.mIn 0b101
  | .andI f | .orI f | .xorI f | .shl f | .shr f | .sar f | .rotl f => f.plain && f.mIn 0b010
  | .bfx f => f.plain && f.mIn 0b100
  | .bfi f | .prmt f => f.plain && f.mIn 0
  | .icmp f => f.plain && f.mIn 0b110 && decide (f.d.toNat < 48)
  | .fcmp f => f.plain && f.mIn 0b101 && !(f.m.getLsbD 0 && f.m.getLsbD 2)
  | .sel f => !f.u && !f.fb
  | .movI f => f.plain && f.mIn 0b010 && f.a == 0
  | .fadd f | .fsub f | .fmul f | .ffma f | .fdiv f | .fscl f => f.plain
  | .fmin f | .fmax f => f.plain && f.mIn 0b100
  | .fabs f | .fneg f => f.unary && f.mIn 0
  | .fsqrt f | .frcp f | .frsq f | .frnd f => f.unary
  | .hadd2 f | .hsub2 f | .hmul2 f | .hfma2 f | .hdot2 f => f.plain
  | .hmin2 f | .hmax2 f => f.plain && f.mIn 0b001
  | .dadd f | .dsub f | .dmul f | .dfma f | .ddiv f => f.plain && f.mIn 0b011
  | .dmin f | .dmax f => f.plain && f.mIn 0
  | .dsqrt f => f.unary && f.mIn 0b011
  | .cvt f =>
    let c := f.b.toNat
    !f.fb && !f.s && decide (c ≤ 0x1C) &&
      (!(decide (0x04 ≤ c ∧ c ≤ 0x08) || decide (0x0C ≤ c ∧ c ≤ 0x13) || decide (c = 0x19)) || f.m &&& 3 == 0) &&
      (!(decide (c = 0x18 ∨ c = 0x19 ∨ c = 0x1B ∨ c = 0x1C)) || !f.m.getLsbD 2)
  | .cvtsr f =>
    let c := f.b.toNat
    !f.fb && !f.s && f.mIn 0b100 && decide (c ≤ 0x03 ∨ c = 0x09 ∨ c = 0x0A ∨ c = 0x0B)
  | .fsin f | .fcos f | .fsincos f | .fexp2 f | .flog2 f | .fexp f | .fln f | .ftanh f | .fsigm f => f.unary && f.mIn 0b100
  | .bscale f => !f.u && f.unary && decide (f.m.toNat ≤ 4)
  | .benc f | .bdec f => !f.u && !f.fb && decide (f.m.toNat ≤ 4)
  | .lxch f | .lrot f => !f.u && !f.fb && !f.s && f.mIn 0
  | .lshfl f => !f.u && !f.fb && f.mIn 0
  | .lbcast f => !f.u && !f.fb && !f.s && f.mIn 0
  | .cred f | .cscan f => !f.u && f.unary
  | .pand f | .por f | .pxor f => !f.u && !f.fb && !f.s && f.mIn 0 && isPred f.d && isPred f.a && isPred f.b
  | .pnot f => !f.u && f.unary && f.mIn 0 && isPred f.d && isPred f.a
  | .pmask f => !f.u && !f.fb && !f.s && f.mIn 0 && isPred f.d && isPred f.a
  | .psets f => !f.u && !f.fb && !f.s && f.mIn 0 && isPred f.d && f.a == 0
  | .vote f => !f.fb && !f.s && f.mIn 0b011 && isPred f.a && (if f.m == 0 then isPred f.b else f.b == 0)
  | .elect f => !f.u && f.unary && f.mIn 0 && isPred f.d && f.a == 0
  | .vget f | .vput f => !f.u && !f.fb && !f.s && f.mIn 0
  | .movi f | .movih f | .iaddi f | .imuli f | .andi f | .ori f | .xori f | .fmovi f | .faddi f | .fmuli f
  | .haddi2h f | .haddi2b f | .hmuli2h f | .hmuli2b f | .f8muli f | .f8addi f => !f.fb
  | .shli f | .shri f => !f.fb && decide (f.imm.toNat < 32)
  | .ld8 f | .ld16 f | .stq f => idxOk f.u f.idx && decide (f.scope.toNat ≤ 1)
  | .ld32 f | .ld64 f | .ld128 f | .st8 f | .st16 f | .st32 f | .st64 f | .st128 f | .ldq f => idxOk f.u f.idx && f.scope == 0
  | .ldacq f | .strel f => idxOk f.u f.idx && !f.nt
  | .fence f => !f.fb && decide (1 ≤ f.t.toNat ∧ f.t.toNat ≤ 3) && f.base == 0 && f.idx == 0 && !f.nt
  | .pref f => !f.fb && f.bufOk && decide (f.t.toNat ≤ 1)
  | .lds f | .sts f | .lds128 f | .sts128 f | .ldx f | .stx f | .ldw f | .stw f | .ldac f | .stac f => f.bufOk
  | .atom f | .atomar f | .atoms f | .aredg f => idxOk f.u f.idx
  | .acas f | .acasar f => idxOk f.u f.idx && decide (f.aop.toNat ≤ 1)
  | .bara f => f.u && barScope f.scope
  | .barinit f => f.u && barScope f.scope && !(f.bix == 0 && (f.scope == 1 || f.scope == 5))
  | .barw f => f.u && !f.fb && barScope f.scope && f.cnt == 0
  | .baraw f => f.u && !f.fb && barScope f.scope
  | .waitc f | .waitct f => f.u && !f.fb && f.z == 0 && decide (f.cond.toNat < 8)
  | .enq f | .deq f => !f.fb
  | .enqnb _ | .deqnb _ => true
  | .qinit f => f.u && f.nregM1 == 3
  | .qclose f => f.u && f.t == 0 && f.nregM1 == 0
  | .qstat f => f.u
  | .ocrd f => f.uniform && !f.fb && f.a == 0 && f.b == 0
  | .yield f => f.uniform && !f.fb && f.d == 0 && f.a == 0 && f.b == 0
  | .sleep f => f.uniform && !f.fb && f.d == 0 && f.b == 0
  | .mmaBf16 f | .mmaF16 f | .mmaE4m3 f | .mmaE5m2 f | .mmaE2m1 f | .mmaE2m1x f | .mmaI8 f | .mmaF32 f | .mmaF64 f =>
    f.u && f.dpol != 3
  | .bfence f => f.uniform && !f.fb && f.a == 0 && f.b == 0
  | .bwait f => f.uniform && !f.fb && f.d == 0 && f.b == 0
  | .aczero f => f.uniform && f.d == 0 && f.b == 0
  | .acscl f => f.uniform && f.d == 0
  | .mrep f | .mqry f => f.uniform && f.b == 0
  | .cpy f | .cpym f | .cpyt f => f.u
  | .tininit f => f.u && decide (1 ≤ f.qsel.toNat ∧ f.qsel.toNat ≤ 4)
  | .tinwait f | .tinrel f | .tinkill f => f.u && f.pb == 0 && f.aux == 0 && f.qsel == 0
  | .tinq f => f.u && f.aux == 0 && f.qsel == 0
  | .qfence f => f.u && f.pb == 0 && f.tin == 0 && f.qsel == 0
  | .coll f => f.u && f.tin == 0 && f.aux == 0 && f.qsel == 0
  | .rput f | .rget f => f.u && f.tin == 0 && f.aux == 0 && decide (f.qsel.toNat ≤ 1)
  | .ratom f => f.u && f.tin == 0 && f.aux == 0
  | .rflush f => f.u && f.pb == 0 && f.tin == 0 && f.aux == 0 && f.qsel == 0
  | .launchI f => f.u && f.aux == 0 && decide (f.qsel.toNat ≤ 1)
  | .bra f | .callI f | .elseI f | .loopI f | .endloopI f => f.ctl
  | .retI f | .endifI f | .exitI f => f.ctl && f.off == 0
  | .brs f => f.ctl && decide (f.cond.toNat ≤ 5)
  | .brp f => f.ctl && decide (f.cond.toNat ≤ 3) && isPred f.reg
  | .jmpr f => f.ctl && f.cond == 0 && f.off == 0
  | .ifI f => f.ctl && decide (f.cond.toNat ≤ 1) && isPred f.reg
  | .breakI f | .contI f => f.ctl && decide (f.cond.toNat ≤ 1) && isPred f.reg && f.off == 0
  | .srd f =>
    !f.fb && (sysregWidth f.sysreg.toNat).isSome && !(f.u && sysregIsThread f.sysreg.toNat) &&
      (if f.sysreg == 0x030 then decide (f.a.toNat < 8) else f.a == 0)
  | .swr f => !f.fb && (sysregWidth f.sysreg.toNat).isSome && f.a == 0
  | .trapI f | .brk f => !f.fb && f.d == 0 && f.a == 0
  | .tret f => f.u && !f.fb && f.d == 0 && f.sysreg == 0 && f.a == 0
  | .lrd f =>
    let sp := f.sysreg.extractLsb' 6 2
    f.u && !f.fb && f.sysreg.extractLsb' 8 2 == 0 && sp != 3 && (sp != 1 || f.a == 0) && (sp != 2 || decide (f.a.toNat ≤ 16))
  | .lwr f =>
    let sp := f.sysreg.extractLsb' 6 2
    f.u && !f.fb && f.sysreg.extractLsb' 8 2 == 0 && sp != 3 && (sp != 1 || f.d == 0) && (sp != 2 || decide (f.d.toNat ≤ 16))
  | .rqrd f => f.u && !f.fb && decide (f.sysreg.toNat < 32)
  | .rqwr f => f.u && !f.fb && decide (3 ≤ f.sysreg.toNat ∧ f.sysreg.toNat ≤ 27)
  | .stepo f | .timeI f => f.u && !f.fb && f.sysreg == 0 && f.a == 0
  | .stepm f => f.u && !f.fb && f.sysreg == 0 && f.d == 0
  | .stepc f => f.u && !f.fb && f.sysreg == 0 && f.d == 0 && f.a == 0
  | .eres f => f.u && !f.fb && f.sysreg == 0
  | .msave f | .mrest f => f.u && f.sysreg == 0 && f.a == 0
  | _ => true

/-- A register field obeys the alignment of its operand (R25). -/
def Use.aligned (x : Use) : Bool := x.reg % x.align == 0

/-- Every field of the instruction holds a value its description accepts (R82). -/
def Instr.fieldsOk (i : Instr) : Bool := i.fieldRules && i.uses.all Use.aligned

/-- The opcodes that R87 lists: all but those of R89's first row. -/
def listedOpcode (op : BitVec 8) : Bool := (parse (op ++ 0#24)).isSome

/-- Why a word in an instruction position is not an instruction (R89). -/
inductive DecodeError where
  /-- An opcode of R89's first row: the coach that meets it traps with ILLEGAL_OPCODE. Safe. -/
  | illegalOpcode
  /-- A listed opcode with a field value that is not accepted: ILLEGAL_FIELD, after CLAUSE_CLASS and PRIV. Safe. -/
  | illegalField
  deriving DecidableEq, Repr

/-- What a word in an instruction position is (R89), as far as the word alone decides it. -/
def decode (w : Word) : Except DecodeError Instr :=
  match parse w with
  | none => .error .illegalOpcode
  | some i => if i.fieldsOk then .ok i else .error .illegalField

/-- The four bytes of a word as code memory holds them, the lowest address first (R8), and back. -/
def wordBytes (w : Word) : List Byte := [field w 0 8, field w 8 8, field w 16 8, field w 24 8]
def wordOfBytes (bs : List Byte) : Word :=
  match bs with
  | b0 :: b1 :: b2 :: b3 :: _ => b3 ++ b2 ++ b1 ++ b0
  | _ => 0

/-- The instruction that the machine reads from the bits `w` of an opcode-table row (every row has one 32-bit word). A word
whose fields are not accepted still is its row's instruction, which traps at issue with ILLEGAL_FIELD (R89, R90). -/
def decodeTableWord (nbits w : Nat) : Option Instr := parse (wordOfBytes (wordBytes (BitVec.ofNat 32 (w % 2 ^ nbits))))

/-- An operation or event of the device, which no word encodes. -/
def Instr.isEvent (i : Instr) : Bool := (encode i).isNone

end Sys2Proof
end

