-- ==== Sys2Proof/Machine/Coach.lean ====
section
/-! DEFINITION. Coaches: threads and masks (R13, R28), the one reading and the one writing of registers with their
hazards (R23-R26, R77), flags (R27), and the environment in which an instruction is executed. -/

namespace Sys2Proof.Machine

/-! Threads and masks. -/

/-- D and the number of threads of a coach (R13). -/
def Workgroup.depth (w : Workgroup) : Nat := 2 ^ w.logd
def Workgroup.threads (w : Workgroup) : Nat := w.w * 2 ^ w.logd
def Grid.threads (g : Grid) : Nat := g.w * 2 ^ g.logd

/-- The mask of the threads below n that satisfy a test. -/
def maskOf (n : Nat) (p : Nat → Bool) : Mask :=
  BitVec.ofNat 256 ((List.range n).foldl (fun a t => if p t then a + 2 ^ t else a) 0)
/-- All n threads. -/
def maskAll (n : Nat) : Mask := BitVec.ofNat 256 (2 ^ n - 1)
/-- The threads of a mask, rising (R10). -/
def threadsOf (n : Nat) (m : Mask) : List Nat := (List.range n).filter (fun t => m.getLsbD t)
/-- The lowest thread of a mask. -/
def lowest (n : Nat) (m : Mask) : Option Nat := (threadsOf n m).head?
def maskOne (t : Nat) : Mask := BitVec.ofNat 256 (2 ^ t)

/-! Coaches by reference. -/

def Workgroup.coach (w : Workgroup) (k : Nat) : Option Coach := Table.find w.coaches k
def State.coach (s : State) (r : CoachRef) : Option Coach := (s.wg r.slot).bind (fun w => w.coach r.k)
def Workgroup.setCoach (w : Workgroup) (k : Nat) (c : Coach) : Workgroup := { w with coaches := Table.insert w.coaches k c }
def State.setCoach (s : State) (r : CoachRef) (c : Coach) : State :=
  match s.wg r.slot with
  | none => s
  | some w => s.setWg r.slot (w.setCoach r.k c)
/-- Change a coach, if it is resident. -/
def State.modCoach (s : State) (r : CoachRef) (f : Coach → Coach) : State :=
  match s.coach r with
  | none => s
  | some c => s.setCoach r (f c)
def State.modWg (s : State) (slot : Nat) (f : Workgroup → Workgroup) : State :=
  match s.wg slot with
  | none => s
  | some w => s.setWg slot (f w)

/-! Registers (R23-R26) and their hazards (R77). -/

/-- The pending write of a register is of this number. -/
def PendReg.is (p : PendReg) (scalar : Bool) (n t : Nat) : Bool := p.scalar == scalar && p.reg == n && p.thread == t
/-- The pending write of a register, if a flight has one. -/
def Coach.pendOf (c : Coach) (scalar : Bool) (n t : Nat) : Option PendReg :=
  (c.flights.flatMap Flight.pend).find? (fun p => p.is scalar n t)
/-- The key under which a hazard asks for its free value. -/
def hazardKey (scalar : Bool) (n t : Nat) : Nat := (if scalar then 0 else 65536) + 256 * n + t

/-- v_n of thread t: its value, or, while a write is pending, freely the value before or after it (R77). -/
def Coach.readV (c : Coach) (tick n t : Nat) : Word :=
  let now := Table.getD c.v (256 * n + t) 0
  match c.pendOf false n t with
  | none => now
  | some p => if Config.readsOld tick (hazardKey false n t) then p.old else now
/-- s_n; s0 reads zero (R23, R25). -/
def Coach.readS (c : Coach) (tick n : Nat) : Word :=
  if n = 0 then 0
  else
    let now := Table.getD c.s n 0
    match c.pendOf true n 0 with
    | none => now
    | some p => if Config.readsOld tick (hazardKey true n 0) then p.old else now
/-- p_n of thread t; p0 reads 1 (R23). -/
def Coach.readP (c : Coach) (n t : Nat) : Bool :=
  if n = 0 then true else (Table.getD c.p t 0).getLsbD n

/-- A register has been written last by another instruction than this one, which performs later. -/
def ReplayEntry.overtake (en : ReplayEntry) (scalar : Bool) (n t : Nat) : ReplayEntry :=
  { en with issued := en.issued.map (fun i => { i with overtaken := (scalar, n, t) :: i.overtaken }) }
/-- Change the pending write of a register: `none` removes it. -/
def Coach.setPend (c : Coach) (scalar : Bool) (n t : Nat) (old : Option Word) : Coach :=
  { c with flights := c.flights.map (fun f =>
      if f.pend.any (fun p => p.is scalar n t) then
        match old with
        | none => { f with pend := f.pend.filter (fun p => !p.is scalar n t), rep := f.rep.map (fun en => en.overtake scalar n t) }
        | some o => { f with pend := f.pend.map (fun p => if p.is scalar n t then { p with old := o } else p) }
      else f) }
/-- The result that is pending for a register is known: its access has performed. -/
def Coach.pendKnown (c : Coach) (scalar : Bool) (n t : Nat) : Bool :=
  c.flights.any (fun f => f.kind == .performed && f.pend.any (fun p => p.is scalar n t))

/-- Store a register's value with no regard to hazards. -/
def Coach.putV (c : Coach) (n t : Nat) (x : Word) : Coach := { c with v := Table.put 0 c.v (256 * n + t) x }
def Coach.putS (c : Coach) (n : Nat) (x : Word) : Coach := if n = 0 then c else { c with s := Table.put 0 c.s n x }

/-- Write v_n of thread t. Over a pending write the register is left holding freely either result (R77): until the pending
one is known it holds this one. -/
def Coach.writeV (c : Coach) (tick n t : Nat) (x : Word) : Coach :=
  match c.pendOf false n t with
  | none => c.putV n t x
  | some _ =>
    if Config.ownLast tick (hazardKey false n t) then (c.setPend false n t none).putV n t x
    else if c.pendKnown false n t then c.setPend false n t (some x)
    else (c.setPend false n t (some x)).putV n t x
/-- Write s_n; a write to s0 is discarded (R25). -/
def Coach.writeS (c : Coach) (tick n : Nat) (x : Word) : Coach :=
  if n = 0 then c
  else
    match c.pendOf true n 0 with
    | none => c.putS n x
    | some _ =>
      if Config.ownLast tick (hazardKey true n 0) then (c.setPend true n 0 none).putS n x
      else if c.pendKnown true n 0 then c.setPend true n 0 (some x)
      else (c.setPend true n 0 (some x)).putS n x
/-- Write p_n of thread t; a write to p0 is ignored (R23). -/
def Coach.writeP (c : Coach) (n t : Nat) (b : Bool) : Coach :=
  if n = 0 ∨ n > 7 then c
  else
    let old := Table.getD c.p t 0
    let new := if b then old ||| BitVec.ofNat 8 (2 ^ n) else old &&& ~~~(BitVec.ofNat 8 (2 ^ n))
    { c with p := Table.put 0 c.p t new }

/-- One register write of an instruction: the file, the register, the thread (0 for an s register) and the value. -/
structure RegWrite where
  scalar : Bool
  reg : Nat
  thread : Nat
  val : Word
  deriving DecidableEq, Repr

def Coach.writeReg (c : Coach) (tick : Nat) (w : RegWrite) : Coach :=
  if w.scalar then c.writeS tick w.reg w.val else c.writeV tick w.reg w.thread w.val
def Coach.writeRegs (c : Coach) (tick : Nat) (ws : List RegWrite) : Coach := ws.foldl (fun c w => c.writeReg tick w) c

/-- A register's stored value, whatever is pending. -/
def Coach.rawReg (c : Coach) (scalar : Bool) (n t : Nat) : Word :=
  if scalar then (if n = 0 then 0 else Table.getD c.s n 0) else Table.getD c.v (256 * n + t) 0

/-! Flags (R27). -/

def Coach.flagCount (c : Coach) (f : Nat) : Nat := Table.getD c.flags f 0
def Coach.setFlag (c : Coach) (f n : Nat) : Coach := { c with flags := Table.put 0 c.flags f n }
def Coach.raiseFlag (c : Coach) (f : Option Nat) : Coach :=
  match f with
  | none => c
  | some f => c.setFlag f (c.flagCount f + 1)
def Coach.lowerFlag (c : Coach) (f : Option Nat) : Coach :=
  match f with
  | none => c
  | some f => c.setFlag f (c.flagCount f - 1)

/-- Fields of a clause header (R72). -/
def hdrGP (h : Word) : Nat := bits h.toNat 29 3
def hdrSETBV (h : Word) : Bool := h.getLsbD 28
def hdrSETBF (h : Word) : Nat := bits h.toNat 24 4
def hdrSETAV (h : Word) : Bool := h.getLsbD 23
def hdrSETAF (h : Word) : Nat := bits h.toNat 19 4
def hdrWAIT (h : Word) : Nat := bits h.toNat 7 12
def hdrCLS (h : Word) : Nat := bits h.toNat 4 3
def hdrCNT (h : Word) : Nat := bits h.toNat 0 4

/-- The flag that counts a trackable instruction of a clause (R76). -/
def hdrFlag (h : Word) (fb : Bool) : Option Nat :=
  if fb then (if hdrSETBV h then some (hdrSETBF h) else none) else (if hdrSETAV h then some (hdrSETAF h) else none)
/-- The flags a header waits for that are not clear (R21, R72). -/
def Coach.waiting (c : Coach) (h : Word) : Bool :=
  (List.range 12).any (fun f => bitN (hdrWAIT h) f && decide (c.flagCount f ≠ 0))

/-- The guard of a clause as its first instruction reads it (R74). -/
def Coach.guardMask (c : Coach) (n gp : Nat) : Mask :=
  if gp = 0 then maskAll n else maskOf n (fun t => c.readP gp t)

/-! The environment of an instruction. -/

/-- What an instruction is executed in: its coach, Active(c), the replay entry when it is re-injected (R250), the cycle
of its slice and the slice cycles for which it holds its octets (R300), and whether a resource of its accesses is not yet
free (R35). -/
structure Env where
  ref : CoachRef
  wg : Workgroup
  c : Coach
  active : Mask
  replay : Option ReplayEntry
  tick : Nat
  clk : Nat
  dur : Nat
  miss : Bool
  deriving DecidableEq, Repr

def Env.core (e : Env) : Nat := coreOfSlot e.ref.slot
def Env.site (e : Env) : Nat := siteOfSlot e.ref.slot
def Env.ctx (e : Env) : Nat := e.wg.ctx
/-- The workgroup's agent identity (R18, R216) and its accesses with the clock at issue (R232). -/
def Env.acc (e : Env) : Acc :=
  { core := e.core, ctx := e.ctx, agent := BitVec.ofNat 16 e.ref.slot,
    clk := match e.replay.bind ReplayEntry.issued, e.c.wait.clk with | some i, _ => i.clk | none, some k => k | none, none => e.wg.oclk }
/-- DPHASE at the instruction's issue (R33, R58). -/
def Env.phase (e : Env) : BitVec 5 := match e.replay.bind ReplayEntry.issued with | some i => i.phase | none => e.c.dphase
/-- The header of the instruction's clause. -/
def Env.header (e : Env) : Option Word := match e.replay with | some en => en.hdr | none => e.c.clause.map Clause.header
/-- The writes of an instruction but for registers that a younger instruction has written last (R77). -/
def Env.due (e : Env) (ws : List RegWrite) : List RegWrite :=
  match e.replay.bind ReplayEntry.issued with
  | some i => ws.filter (fun w => !i.overtaken.contains (w.scalar, w.reg, if w.scalar then 0 else w.thread))
  | none => ws
/-- The active threads in rising order. -/
def Env.threads (e : Env) : List Nat := threadsOf e.wg.threads e.active

/-- A coach runs, or awaits, its trap handler from the taking of a trap to its return (R249). -/
def Coach.inHandler (c : Coach) : Bool := c.frame.isSome
/-- The state of a coach that may issue: TRAPPED in its handler, else RUNNABLE (R21). -/
def Coach.ready (c : Coach) : CoachState := if c.inHandler then .trapped else .runnable
/-- The clause of which words have still to issue (R69). -/
def Coach.openClause (c : Coach) : Option Clause := c.clause.filter (fun cl => decide (cl.next < hdrCNT cl.header))
/-- A waiting coach may issue again. -/
def Coach.wake (c : Coach) : Coach := { c with state := c.ready }

/-- A coach's wait has been ended, and its instruction has not been executed again. -/
def Coach.woken (c : Coach) : Bool := c.state == c.ready && c.wait.word.isSome && c.pendTrap.isNone
/-- What a cancelled wait keeps. -/
def cutShort (w : Wait) : Wait := { w with queue := none, poll := none, tin := none, word := none, clk := none, cut := w.word.orElse (fun _ => w.cut) }

/-- A coach re-executes entries while its replay queue is not empty and it is not in its handler (R250, R263). -/
def Coach.replaying (c : Coach) : Option ReplayEntry := if c.inHandler then none else c.rq.head?

/-- The cycles that a slice of a core has had (R300, R350). -/
def State.sliceCycle (s : State) (core slice : Nat) : Nat := Table.getD (s.core core).cycles (16 + slice) 0

/-- The octets of a coach of width w, from its first (R15). -/
def octetsOf (w : Nat) : Nat := (w + 7) / 8
/-- Two octet groups overlap. -/
def octetsMeet (o1 n1 o2 n2 : Nat) : Bool := decide (o1 < o2 + n2 ∧ o2 < o1 + n1)
/-- The slot number of a coach that has given its slot back. -/
def noSlot : Nat := 255
/-- The coaches that hold slots of a slice. -/
def State.onSlice (s : State) (core slice : Nat) : List (CoachRef × Workgroup × Coach) :=
  (s.wgs.filter (fun w => coreOfSlot w.1 == core)).flatMap (fun w =>
    (w.2.coaches.filter (fun c => c.2.slice == slice && decide (c.2.slotIx ≠ noSlot))).map (fun c => ({ slot := w.1, k := c.1 }, w.2, c.2)))
/-- The octets of a coach are free in its slice's cycle: no instruction holds one of them (R300), and no self-test its slice's register
file (R380). -/
def State.octetsFree (s : State) (r : CoachRef) (w : Workgroup) (c : Coach) : Bool :=
  let core := coreOfSlot r.slot
  !(s.site (siteOfCore core)).testing.contains (3, 6 * (core % 32) + c.slice) && (s.onSlice core c.slice).all (fun x =>
    decide (x.2.2.holds ≤ s.sliceCycle core c.slice) || !octetsMeet x.2.2.octet (octetsOf x.2.1.w) c.octet (octetsOf w.w))

/-- The environment of the coach named, if it is resident. -/
def State.env (s : State) (r : CoachRef) : Option Env :=
  match s.wg r.slot with
  | none => none
  | some w =>
    match w.coach r.k with
    | none => none
    | some c =>
      let n := w.threads
      let active := match c.replaying with
        | some en => en.mask
        | none =>
          match c.clause with
          | none => c.exec
          | some cl => c.exec &&& (if cl.next = 0 then c.guardMask n (hdrGP cl.header) else cl.guard)
      some { ref := r, wg := w, c := c, active := active &&& maskAll n &&& ~~~c.exited, replay := c.replaying, tick := s.tick,
             clk := s.sliceCycle (coreOfSlot r.slot) c.slice, dur := w.depth, miss := s.missing.getLsbD c.slotIx }

/-- A captured or current s operand: `pos` is its place in the captured field order (R209). -/
def Env.sop (e : Env) (pos : Nat) (r : RegNo) : Word :=
  match e.replay with
  | some en => en.sops.getD pos 0
  | none => e.c.readS e.tick r.toNat
/-- Register r + i of an s pair or quad. -/
def Env.sopAt (e : Env) (pos : Nat) (r : RegNo) (i : Nat) : Word :=
  match e.replay with
  | some en => en.sops.getD (pos + i) 0
  | none => e.c.readS e.tick (r.toNat + i)
/-- An s pair as a 64-bit value (R25). -/
def Env.sop64 (e : Env) (pos : Nat) (r : RegNo) : DWord := e.sopAt pos r 1 ++ e.sopAt pos r 0
/-- The IDX offset of a thread (R133): captured slot 0 (R208). -/
def Env.idx (e : Env) (r : RegNo) (t : Nat) : Word :=
  match e.replay with
  | some en => Table.getD en.vops (17 * t) 0
  | none => e.c.readV e.tick r.toNat t
/-- Data register T + i of a thread, captured slot i + 1; the s registers of a U=1 instruction are slots of thread 0. -/
def Env.data (e : Env) (u : Bool) (r : RegNo) (i t : Nat) : Word :=
  match e.replay with
  | some en => Table.getD en.vops (17 * (if u then 0 else t) + i + 1) 0
  | none => if u then e.c.readS e.tick (r.toNat + i) else e.c.readV e.tick (r.toNat + i) t
def Env.data64 (e : Env) (u : Bool) (r : RegNo) (i t : Nat) : DWord := e.data u r (i + 1) t ++ e.data u r i t

/-- EA(t) of formats M and A (R133): the BASE pair is captured first; BASE = 0 gives the base 0. -/
def Env.ea (e : Env) (u : Bool) (base idx : RegNo) (t : Nat) : DWord :=
  (if base = 0 then 0 else e.sop64 0 base) + (if u || idx == 0 then 0 else (e.idx idx t).signExtend 64)

/-- The threads an instruction acts for: the active ones, or thread 0 standing for the coach with U=1. -/
def Env.units (e : Env) (u : Bool) : List Nat := if u then [0] else e.threads

end Sys2Proof.Machine
end

