-- ==== Sys2Proof/Machine/SaveRec.lean ====
section
/-! DEFINITION. The record images of the save area: replay-entry words (R209), deck reports (R182), coach records
(R261), workgroup record headers (R260), tin and monitor records (R262), and the context header (R258). -/

namespace Sys2Proof.Machine

/-- Bytes of a mask, and a mask from bytes. -/
def maskBytes (m : Mask) : List Byte := bytesLE 32 m.toNat
def maskOfBytes (bs : List Byte) (off : Nat) : Mask := BitVec.ofNat 256 (fieldLE bs off 32)

/-- The lowest depth slot that holds a thread of a mask; 0 when it is empty (R209). -/
def lowSlot (w n : Nat) (m : Mask) : Nat := match lowest n m with | some t => t / w | none => 0

/-- Word w of a replay entry (R209), for a coach of width `wid` with `n` threads. -/
def ReplayEntry.readWord (en : ReplayEntry) (wid n w : Nat) : Word :=
  if w = 0 then en.word
  else if w = 1 then en.pc.truncate 32
  else if w = 2 then (en.pc >>> 32).truncate 32
  else if w = 3 then
    BitVec.ofNat 32 ((match en.flag with | some f => f | none => 15) * 256 + lowSlot wid n en.mask * 4 + en.status.toNat)
  else if w < 12 then (en.mask >>> (32 * (w - 4))).truncate 32
  else if w < 28 then en.sops.getD (w - 12) 0
  else if w = 28 then en.faddr.truncate 32
  else if w = 29 then (en.faddr >>> 32).truncate 32
  else if w = 30 then en.cause.zeroExtend 32
  else 0
def ReplayEntry.bytes (en : ReplayEntry) (wid n : Nat) : List Byte :=
  (List.range 32).flatMap (fun w => bytesLE 4 (en.readWord wid n w).toNat)
/-- An entry read back from a record; what the record has no field for comes from the entry it was made of. -/
def ReplayEntry.ofBytes (old : ReplayEntry) (bs : List Byte) : ReplayEntry :=
  { old with
    word := word32 bs 0, pc := dword64 bs 4, status := BitVec.ofNat 2 (fieldLE bs 12 1),
    flag := (let f := fieldLE bs 13 1 % 16; if f = 15 then none else some f),
    mask := maskOfBytes bs 16, sops := (List.range 16).map (fun i => word32 bs (48 + 4 * i)), faddr := dword64 bs 112,
    cause := BitVec.ofNat 7 (fieldLE bs 120 1) }
def ReplayEntry.empty : ReplayEntry :=
  { word := 0, pc := 0, flag := none, status := 0, mask := 0, sops := [], vops := [], faddr := 0, cause := 0, wait := Wait.none }

/-- The decks of a set by descending number: chain order (R61, R182). -/
def deckChain (m : BitVec 4) : List Nat := [3, 2, 1, 0].filter (fun d => m.getLsbD d)
/-- The four words of a deck report (R182). -/
def DeckReport.wordsOf (r : DeckReport) : List Word :=
  let ch := deckChain r.decks
  [BitVec.ofNat 32 (r.batch * 65536 + (if r.err then 32768 else 0) + 16384 + (ch.length - 1) * 4096 + ch.getD 3 0 * 1024 +
      ch.getD 2 0 * 256 + ch.getD 1 0 * 64 + ch.getD 0 0 * 16 + r.decks.toNat),
   BitVec.ofNat 32 r.passes, BitVec.ofNat 32 r.promos, BitVec.ofNat 32 r.ballast]
def DeckReport.bytes (r : DeckReport) : List Byte := r.wordsOf.flatMap (fun w => bytesLE 4 w.toNat)
/-- A deck report read back from a record; its clock, which the record does not hold, is that of the report it was made of. -/
def DeckReport.ofBytes (old : Option DeckReport) (bs : List Byte) : DeckReport :=
  let w := fieldLE bs 0 4
  { batch := w / 65536, err := bitN w 15, decks := BitVec.ofNat 4 w, passes := fieldLE bs 4 4, promos := fieldLE bs 8 4, ballast := fieldLE bs 12 4,
    clock := (old.map DeckReport.clock).getD 0, complete := (old.map DeckReport.complete).getD true }
/-- The deck reports of a record: those whose VALID bit is set, oldest first (R261). -/
def deckReports (old : List DeckReport) (bs : List Byte) : List DeckReport :=
  (List.range 8).filterMap (fun i =>
    let b := (bs.drop (16 * i)).take 16
    if bitN (fieldLE b 0 4) 14 then some (DeckReport.ofBytes old[i]? b) else none)

/-- The codes of R21's order. -/
def CoachState.code (st : CoachState) : Nat :=
  match st with
  | .runnable => 0
  | .waitFlags => 1
  | .waitBar => 2
  | .parkedMon => 3
  | .parkedQueue => 4
  | .waitTin => 5
  | .waitBatch => 6
  | .trapped => 7
  | .saved => 8
  | .retired => 9
def DivKind.code (k : DivKind) : Nat :=
  match k with
  | .ifK => 0
  | .elseK => 1
  | .loopK => 2
  | .callK => 3
def DivKind.ofCode (n : Nat) : DivKind :=
  match n with
  | 0 => .ifK
  | 1 => .elseK
  | 2 => .loopK
  | _ => .callK

/-- The capture section (R261): slot k of entry e for thread t. -/
def Coach.captBytes (c : Coach) (n : Nat) : List Byte :=
  c.rq.flatMap (fun en => (List.range n).flatMap (fun t => (List.range 17).flatMap (fun k =>
    bytesLE 4 (Table.getD en.vops (17 * t + k) 0).toNat)))

/-- The clause state a record holds: the frame's when TRAPPED, else the coach's (R261, R244). -/
def Coach.recClause (c : Coach) : Option Clause :=
  match c.frame with
  | some f => f.clause
  | none => c.clause

/-- The fixed part of a coach record, 0x1200 bytes (R261). -/
def Coach.recordHead (c : Coach) (w : Workgroup) : List Byte :=
  let n := w.threads
  let cl := match c.recClause with | some cl => if cl.next = 0 then none else some cl | none => none
  let isT := c.inHandler
  let w0 := (if isT then 7 else c.state.code) + (if cl.isSome then 64 else 0) + (if c.reconv then 128 else 0) + (if c.deadlineRisk then 256 else 0) +
    (if c.preemptNotice then 512 else 0) + c.rfails.length % 16 * 4096
  let exec := match c.frame with | some f => if isT then f.exec else c.exec | none => c.exec
  let depth := match c.frame with | some f => if isT then f.depth else 0 | none => 0
  let a := bytesLE 4 w0 ++ bytesLE 4 c.tcause.toNat ++ bytesLE 8 c.pc.toNat ++ bytesLE 8 c.tpc.toNat ++ bytesLE 8 c.taddr.toNat ++
    bytesLE 8 (match cl with | some x => x.header.toNat + x.next % 16 * 2 ^ 32 | none => 0) ++
    (List.range 12).map (fun f => BitVec.ofNat 8 (c.flagCount f)) ++ bytesLE 4 (c.div.length + depth * 65536) ++
    bytesLE 4 c.dphase.toNat ++ bytesLE 4 (c.openBatch + c.lastBatch * 65536) ++ bytesLE 8 c.stepRec.toNat ++ bytesLE 4 c.trqn
  let b := padTo 0x80 a ++ maskBytes exec ++ maskBytes (match cl with | some x => x.guard | none => 0) ++ maskBytes c.tmask
  let d := padTo 0x100 b ++ (List.range 64).flatMap (fun i => bytesLE 4 (c.rawReg true i 0).toNat) ++
    (List.range 256).map (fun t => if t < n then Table.getD c.p t 0 ||| 1 else 0)
  let e := padTo 0x380 (padTo 0x300 d ++ c.reports.flatMap DeckReport.bytes) ++ c.rfails.flatMap (fun r => bytesLE 8 r.addr.toNat)
  let f := padTo 0x400 e ++ c.div.reverse.flatMap (fun x => maskBytes x.mask ++ bytesLE 8 x.resume.toNat ++ bytesLE 8 x.kind.code)
  padTo 0x1200 (padTo 0xA00 f ++ c.rq.flatMap (fun en => en.bytes w.w n))

/-- A coach record with its v section, and its capture section when present, rounded up to 256 (R261). -/
def Coach.record (c : Coach) (w : Workgroup) (vsec capt : Bool) : List Byte :=
  let n := w.threads
  let v := if vsec then (List.range w.vregs).flatMap (fun r => (List.range n).flatMap (fun t => bytesLE 4 (c.rawReg false r t).toNat)) else []
  let b := c.recordHead w ++ v
  let b1 := padTo (upTo 256 b.length) b
  if capt then let k := c.captBytes n; b1 ++ padTo (upTo 256 k.length) k else b1

/-- The codes that R243 lists: no other is written to TCAUSE. -/
def causeListed (n : Nat) : Bool :=
  n < 0x0B || (0x10 ≤ n && n < 0x1A) || (0x20 ≤ n && n < 0x29) || (0x30 ≤ n && n < 0x37) || (0x40 ≤ n && n < 0x43) || (0x50 ≤ n && n < 0x55)
/-- A coach reloaded from a record (R253, R263); `old` gives what the record has no field for. -/
def Coach.ofRecord (old : Coach) (w : Workgroup) (bs : List Byte) (vsec capt : Bool) : Coach :=
  let n := w.threads
  let w0 := fieldLE bs 0 4
  let clw := fieldLE bs 0x20 8
  let cl : Option Clause := if bitN w0 6 then
    some { header := BitVec.ofNat 32 clw, next := clw / 2 ^ 32 % 16, guard := maskOfBytes bs 0xA0 } else none
  let isT := w0 % 16 == 7
  let depth := fieldLE bs 0x34 2 % 64
  let exec := maskOfBytes bs 0x80
  let vsz := if vsec then 4 * w.vregs * n else 0
  let cap := upTo 256 (0x1200 + vsz)
  let rq := (List.range (min 16 (fieldLE bs 0x48 4))).map (fun e =>
    let en := ReplayEntry.ofBytes (old.rq.getD e ReplayEntry.empty) ((bs.drop (0xA00 + 128 * e)).take 128)
    if capt then
      { en with vops := (List.range (17 * n)).foldl (fun t i => Table.put 0 t i (word32 bs (cap + 4 * (17 * n * e + i)))) [] }
    else en)
  { old with
    pc := dword64 bs 8, tpc := dword64 bs 0x10, taddr := dword64 bs 0x18,
    tcause := if causeListed (fieldLE bs 4 4) then BitVec.ofNat 7 (fieldLE bs 4 4) else old.tcause,
    clause := if isT then old.clause else cl,
    exec := if isT then old.exec else exec,
    frame := if isT then (match old.frame with
        | some f => some { f with exec := exec, depth := fieldLE bs 0x36 2 % 64, clause := cl.orElse (fun _ => f.clause.filter (fun x => x.fresh.isSome)) }
        | none => some { exec := exec, depth := fieldLE bs 0x36 2 % 64, clause := cl, resume := dword64 bs 0x10 })
      else none,
    flags := (List.range 12).foldl (fun t f => Table.put 0 t f (fieldLE bs (0x28 + f) 1)) [],
    dphase := BitVec.ofNat 5 (fieldLE bs 0x38 4), openBatch := fieldLE bs 0x3C 2, lastBatch := fieldLE bs 0x3E 2,
    stepRec := dword64 bs 0x40, trqn := fieldLE bs 0x48 4, tmask := maskOfBytes bs 0xC0,
    s := (List.range 64).foldl (fun t i => if i = 0 then t else Table.put 0 t i (word32 bs (0x100 + 4 * i))) [],
    p := (List.range n).foldl (fun t i => Table.put 0 t i (BitVec.ofNat 8 (fieldLE bs (0x200 + i) 1) &&& 0xFE)) [],
    v := if vsec then (List.range w.vregs).foldl (fun a r => (List.range n).foldl (fun b t =>
        Table.put 0 b (256 * r + t) (word32 bs (0x1200 + 4 * (r * n + t)))) a) [] else old.v,
    reconv := bitN w0 7, deadlineRisk := bitN w0 8, preemptNotice := bitN w0 9, reports := deckReports old.reports (bs.drop 0x300),
    rfails := (List.range (w0 / 4096 % 16)).map (fun i =>
      { cause := (match old.rfails[i]? with | some r => r.cause | none => cRMT_NAK), addr := dword64 bs (0x380 + 8 * i) }),
    div := ((List.range depth).map (fun i =>
      let o := 0x400 + 48 * i
      { mask := maskOfBytes bs o, resume := dword64 bs (o + 32), kind := DivKind.ofCode (fieldLE bs (o + 40) 1 % 4) })).reverse,
    rq := rq }

/-- A coach with the frame and the replay queue that an escalation record now holds (R253). -/
def Coach.reframed (c : Coach) (w : Workgroup) (bs : List Byte) : Coach :=
  let r := Coach.ofRecord c w bs false true
  { c with
    tcause := r.tcause, tpc := r.tpc, taddr := r.taddr, tmask := r.tmask, trqn := r.trqn, rq := r.rq, reconv := r.reconv,
    frame := if r.frame.isSome then r.frame else c.frame }

/-- The header of a workgroup record, 256 bytes (R260). -/
def recordHeader (w : Workgroup) (gnum size : Nat) (next : Nat) (oldCore slotIx : Nat) (escal matrix typed parked : Bool)
    (offs : List Nat) : List Byte :=
  padTo 256 (bytesLE 4 0x57475201 ++ bytesLE 4 size ++ bytesLE 8 next ++
    bytesLE 4 ((w.ncoach - 1) * 65536 + w.logd * 256 + w.w) ++ bytesLE 4 (w.x + w.y * 65536 + w.z * 2 ^ 24) ++ bytesLE 4 gnum ++
    bytesLE 4 w.oclk.toNat ++ bytesLE 4 (oldCore + slotIx * 65536) ++
    bytesLE 4 ((if parked then 1 else 0) + (if typed then 2 else 0) + (if matrix then 4 else 0) + (if escal then 8 else 0)) ++
    bytesLE 4 w.sbufSize ++ bytesLE 4 (w.vregs + w.sregs * 256 + w.tins * 65536) ++ offs.flatMap (bytesLE 4))

/-- A WG barrier record of 16 bytes: E, A, g and the release clock (R260). -/
def Bar.bytes (b : Bar) : List Byte := bytesLE 4 b.e.toNat ++ bytesLE 4 b.a.toNat ++ bytesLE 4 b.g.toNat ++ bytesLE 4 b.rclk.toNat
def Bar.ofBytes (bs : List Byte) : Bar := { e := word32 bs 0, a := word32 bs 4, g := word32 bs 8, rclk := word32 bs 12, m := 0 }

/-- A tin record of 128 bytes (R262), with the paused copy when the tin has one: (engine, queue, bytes done, source tin
index, snapshot). -/
def Tin.record (t : Tin) (copy : Option (Nat × Nat × Nat × Nat × List Byte)) : List Byte :=
  let base := t.state.toNat + (if t.err then 4 else 0) + (if t.lost then 8 else 0) + (if t.wide then 16 else 0) + t.kind * 256
  match copy with
  | none =>
    padTo 128 (bytesLE 4 base ++ bytesLE 4 t.total.toNat ++ bytesLE 4 t.arrived.toNat ++ bytesLE 4 t.clock.toNat ++
      bytesLE 4 t.off.toNat ++ bytesLE 4 t.len.toNat)
  | some (e, q, done, src, snap) =>
    padTo 128 (bytesLE 4 (base + 2048 + e * 4096 + q * 65536) ++ bytesLE 4 t.total.toNat ++ bytesLE 4 t.arrived.toNat ++
      bytesLE 4 t.clock.toNat ++ bytesLE 4 t.off.toNat ++ bytesLE 4 t.len.toNat ++ bytesLE 4 done ++ bytesLE 4 src ++ padTo 64 snap)
def Tin.ofRecord (bs : List Byte) : Tin :=
  let w := fieldLE bs 0 4
  { state := BitVec.ofNat 2 w, err := bitN w 2, lost := bitN w 3, wide := bitN w 4, kind := bits w 8 3, total := word32 bs 4,
    arrived := word32 bs 8, clock := word32 bs 12, off := word32 bs 16, len := word32 bs 20, killed := false }

/-- A monitor entry of 32 bytes (R262). -/
def MonEntry.bytes (m : MonEntry) : List Byte :=
  match m.kind with
  | .cmp cond v timed =>
    padTo 32 (bytesLE 8 m.va.toNat ++ bytesLE 4 v.toNat ++
      bytesLE 4 (cond + (if m.fired then 16 else 0) + (if timed then 32 else 0) + m.k * 256 + m.slot * 65536) ++
      bytesLE 8 m.deadline ++ bytesLE 8 m.ctx)
  | .queue _ => padTo 32 []

/-! The context header (R258). -/

def saveMagic : Nat := 0x43534101
structure SaveHeader where
  ok : Bool
  limit : Nat
  pool : Nat
  nsaved : Nat
  first : Nat
  nspill : Nat
  deriving DecidableEq, Repr
/-- Read the header of a context's save area; none when the area cannot be read. -/
def State.saveHeader (s : State) (site ctx : Nat) : Option SaveHeader × State :=
  let base := (s.context ctx).ctxsave
  if base = 0 then (none, s)
  else
    match State.devRead 2 s site ctx base 48 with
    | (.error _, s1) => (none, s1)
    | (.ok bs, s1) =>
      (some { ok := decide (fieldLE bs 0 4 = saveMagic ∧ fieldLE bs 4 1 = 1), limit := fieldLE bs 8 8, pool := fieldLE bs 0x10 8,
              nsaved := fieldLE bs 0x18 4, first := fieldLE bs 0x20 8, nspill := fieldLE bs 0x28 8 }, s1)
/-- Write a field of the header; the VA of a write that faults. -/
def State.saveField (s : State) (site ctx off n v : Nat) : Option DWord × State :=
  let r := State.devWrite 2 s site ctx ((s.context ctx).ctxsave + BitVec.ofNat 64 off) (bytesLE n v)
  (r.1.map Prod.snd, r.2)
/-- Take bytes of the pool (R258): their VA, when the record does not pass LIMIT and POOL can be advanced. -/
def State.poolAlloc (s : State) (site ctx n : Nat) : Option DWord × State :=
  match s.saveHeader site ctx with
  | (none, s1) => (none, s1)
  | (some h, s1) =>
    let at_ := upTo 256 h.pool
    if !h.ok || decide (at_ + n > h.limit) then (none, s1)
    else
      match s1.saveField site ctx 0x10 8 (at_ + n) with
      | (none, s2) => (some ((s1.context ctx).ctxsave + BitVec.ofNat 64 at_), s2)
      | (some _, s2) => (none, s2)
/-- POOL returns to 0x3_0000 when no saved workgroup and no escalation record is live (R258). -/
def State.poolReset (s : State) (site ctx : Nat) : State :=
  match s.saveHeader site ctx with
  | (none, s1) => s1
  | (some h, s1) => if h.nsaved = 0 ∧ (s1.context ctx).live = 0 then (s1.saveField site ctx 0x10 8 0x30000).2 else s1

end Sys2Proof.Machine
end

