-- ==== Sys2Proof/Machine/Ops.lean ====
section
/-! DEFINITION. The shared operations of the instructions: classes and tracking (R75, R76), the checks of R90 groups
4 to 8, capture (R209), taking a trap and escalating it (R243-R254), returning from one (R250), release and acquire
(R91), and the ways an instruction ends: finished, tracked, stalled, waiting, trapped. -/

namespace Sys2Proof

/-- The opcode of an encoded instruction. -/
def Instr.op (i : Instr) : Nat := match encode i with | some w => (opcodeOf w).toNat | none => 0
/-- The FB bit of an instruction. -/
def Instr.fb (i : Instr) : Bool := match encode i with | some w => bit w 22 | none => false

/-- The s registers captured as operands, in field order. -/
def Instr.captS (i : Instr) : List Nat :=
  let pair (r : RegNo) : List Nat := [r.toNat, r.toNat + 1]
  let quad (r : RegNo) : List Nat := [r.toNat, r.toNat + 1, r.toNat + 2, r.toNat + 3]
  let reads := i.uses.filter (fun u => u.rd && u.file == .s)
  let regs (us : List Use) : List Nat := us.flatMap (fun u => Machine.upFrom u.reg u.n)
  let op := i.op
  match encode i with
  | none => []
  | some w =>
    if op / 16 = 7 ∨ op / 16 = 8 then (let b : RegNo := field w 10 6; if b = 0 then [0, 0] else pair b)
    else if 0x90 ≤ op ∧ op ≤ 0x93 then [(field w 16 6).toNat, (field w 10 6).toNat]
    else if op = 0x94 ∨ op = 0x95 then pair (field w 10 6)
    else if 0x96 ≤ op ∧ op ≤ 0x9C then pair (field w 10 6) ++ [(field w 4 6).toNat]
    else if 0xA0 ≤ op ∧ op ≤ 0xA8 then [(field w 16 6).toNat] ++ quad (field w 10 6) ++ quad (field w 4 6)
    else if op / 16 = 11 then pair (field w 16 6) ++ [(field w 10 6).toNat, (field w 4 6).toNat]
    else if op / 16 = 12 then []
    else if bit w 23 then regs (reads.filter (fun u => !u.wr)) ++ regs (reads.filter (fun u => u.wr))
    else []
/-- The index register and the data run: (IDX, U, T, count). -/
def Instr.captV (i : Instr) : Option (Nat × Bool × Nat × Nat) :=
  match encode i with
  | none => none
  | some w =>
    let op := i.op
    let t := (field w 16 6).toNat
    let n0 := match i.uses.find? (fun u => u.reg = t && u.file == fileOf (bit w 23)) with | some u => u.n | none => 1
    let n := if op = 0x7D ∨ op = 0x7E then 2 else n0
    if op / 16 = 7 ∨ op / 16 = 8 then some ((field w 4 6).toNat, bit w 23, t, n)
    else if 0x94 ≤ op ∧ op ≤ 0x9C then some (0, bit w 23, t, n)
    else none

end Sys2Proof

namespace Sys2Proof.Machine

/-! What an instruction is. -/

/-- The class of an opcode row (R75). -/
def classOf (op : Nat) : Nat :=
  match op / 16 with
  | 4 => 1
  | 7 | 8 | 9 => 2
  | 10 => 3
  | 11 => 4
  | 12 => 5
  | 13 => 6
  | _ => 0
/-- Trackable opcodes (R76). -/
def trackableOp (op : Nat) : Bool :=
  ((op / 16 == 7 || op / 16 == 8) && op != 0x7C && op != 0x7F) || op == 0x90 || op == 0x93 ||
    decide (0x98 ≤ op ∧ op ≤ 0x9C) || decide (0xA0 ≤ op ∧ op ≤ 0xA8) || decide (0xAB ≤ op ∧ op ≤ 0xAE) || op / 16 == 11 ||
    op == 0xDD || op == 0xDE
/-- Does a trackable instruction wait for its older trackables to pass their last fault points (R246)? All but loads,
which may perform earlier. -/
def waitsOlder (op : Nat) : Bool :=
  trackableOp op && !(decide (0x70 ≤ op ∧ op ≤ 0x74) || op == 0x7D || op == 0x80 || op == 0x82 || op == 0x84 || op == 0x86 || op == 0x88)
/-- Row 0xC (R71). -/
def isControl (op : Nat) : Bool := op / 16 == 12

/-! Privilege and field checks that need more than the word (R90 groups 5 and 6). -/

/-- PRIV (R32, R41, R89, R213). -/
def privCause (e : Env) (priv : Bool) (i : Instr) : Bool :=
  !priv && (match i with
    | .msave _ | .mrest _ => true
    | .swr f | .srd f =>
      match sysregAccess f.sysreg.toNat with
      | .privOnly | .privReadOnly => (sysregWidth f.sysreg.toNat).isSome
      | _ => false
    | .eres f =>
      let c := bits (e.sop 0 f.a).toNat 16 16
      decide (c ≠ 0xFFFF ∧ c ≠ e.ctx)
    | _ => false)

/-- How many slots a kernel has of a barrier scope (R20, R149, R153): WG slot 0 is always there. -/
def barSlots (g : Option Grid) (scope : Nat) : Nat :=
  match g with
  | none => 0
  | some g =>
    match scope with
    | 1 => max 1 g.bwg
    | 2 => g.bcore
    | 3 => g.bquad
    | 4 => g.bsite
    | 5 => g.bwafer
    | 6 => g.bpod
    | _ => 0

/-- Barrier index beyond the declared slots, except at WAFER scope in a kernel that declared none (R149). -/
def barIndexBad (g : Option Grid) (f : FB) : Bool :=
  decide (barSlots g f.scope.toNat ≤ f.bix.toNat) && !(f.scope == 5 && barSlots g 5 == 0)

/-- ILLEGAL_FIELD causes beside the word's own (R32, R118, R125, R149, R207, R208). -/
def fieldCause (e : Env) (g : Option Grid) (priv : Bool) (i : Instr) : Bool :=
  !i.fieldsOk || (match i with
    | .swr f =>
      match sysregAccess f.sysreg.toNat with
      | .readOnly | .privReadOnly => true
      | .privElseRO => !priv
      | _ => false
    | .tret _ | .lrd _ | .lwr _ => !e.c.inHandler
    | .bara f | .baraw f | .barw f | .barinit f => barIndexBad g f
    | .lxch f | .lrot f => decide (e.wg.w ≤ f.b.toNat)
    | .callI _ | .retI _ | .ifI _ | .elseI _ | .endifI _ | .loopI _ | .endloopI _ | .breakI _ | .contI _ =>
      match e.header with | some h => decide (hdrGP h ≠ 0) | none => false
    | _ => false)

/-- A register beyond VREGS or SREGS (R24). -/
def Use.inRange (w : Workgroup) (u : Use) : Bool :=
  match u.file with
  | .v => decide (u.reg + u.n ≤ w.vregs)
  | .s => decide (u.reg + u.n ≤ w.sregs)
/-- A register of the operand has a pending write (R77). -/
def Coach.usePending (c : Coach) (u : Use) : Bool :=
  (c.flights.flatMap Flight.pend).any (fun p =>
    p.scalar == (u.file == .s) && decide (u.reg ≤ p.reg ∧ p.reg < u.reg + u.n) && (u.rd || u.wr))

/-- The instruction is the last of its clause; one that is injected again stands where it issued. -/
def Env.last (e : Env) : Bool :=
  match e.replay, e.c.clause with
  | none, some cl => decide (hdrCNT cl.header ≤ cl.next + 1)
  | _, _ => true
/-- An instruction of another class than its clause's, but a control instruction at its end (R75). -/
def classBad (e : Env) (i : Instr) : Bool :=
  match e.header with
  | some h => classOf i.op != hdrCLS h && !(isControl i.op && e.last)
  | none => false
/-- The cause of R90 groups 4 to 8 that an instruction meets, if any. -/
def wordCause (e : Env) (g : Option Grid) (priv : Bool) (i : Instr) : Option Cause :=
  if classBad e i then some cCLAUSE_CLASS
  else if privCause e priv i then some cPRIV
  else if fieldCause e g priv i then some cILLEGAL_FIELD
  else if !i.uses.all (Use.inRange e.wg) then some cREG_RANGE
  else if e.replay.isNone && e.wg.haz && i.uses.any e.c.usePending then some cHAZARD
  else none

/-- What a re-executed blocking instruction has kept of its wait (R22, R155, R166). -/
def Env.kept (e : Env) : Wait :=
  match e.replay with
  | some en => if e.c.wait = Wait.none then en.wait else e.c.wait
  | none => e.c.wait

/-! Capture (R208, R209). -/

/-- The replay entry of an instruction as it issues (R209). -/
def capture (e : Env) (i : Instr) (flag : Option Nat) (status : BitVec 2) (mask : Mask) (addr : DWord) (cause : Cause)
    (wait : Wait) : ReplayEntry :=
  match e.replay with
  | some en => { en with status := status, mask := mask, faddr := addr, cause := cause, wait := wait }
  | none =>
    let vs : List (Nat × Word) :=
      match i.captV with
      | none => []
      | some (idx, u, t, n) =>
        (if u then [0] else e.threads).flatMap (fun th =>
          (17 * th, if u || idx == 0 then 0 else e.c.readV e.tick idx th) ::
            (List.range (min n 16)).map (fun j =>
              (17 * th + j + 1, if u then e.c.readS e.tick (t + j) else e.c.readV e.tick (t + j) th)))
    { word := (match encode i with | some w => w | none => 0), pc := e.c.pc, flag := flag, status := status, mask := mask,
      sops := i.captS.map (e.c.readS e.tick), vops := vs.foldl (fun t x => Table.put 0 t x.1 x.2) [], faddr := addr,
      cause := cause, wait := wait, hdr := e.header }

/-- The flag that counts a trackable instruction in the current clause, or in its replay entry. -/
def Env.flagOf (e : Env) (i : Instr) : Option Nat :=
  match e.replay with
  | some en => en.flag
  | none =>
    match e.c.clause with
    | some cl => if trackableOp i.op then hdrFlag cl.header i.fb else none
    | none => none

/-! The end of an instruction. -/

/-- The coach after its instruction has issued: the next word of the clause, or the header that follows it (R69, R74);
the guard is the one that the clause's first instruction read, before it wrote anything; the clause state stays when every
word has issued (R244); for a re-injected entry, the next entry (R250). The end of a wait is no issue: the instruction held its octets when it issued
(R300). -/
def Coach.advance (c : Coach) (e : Env) : Coach :=
  let waited := e.c.wait.word.isSome
  let stamp := if waited then e.clk + 1 else e.clk + e.dur
  let holds := if waited then c.holds else e.clk + e.dur
  let starv := if waited then c.starv else 0
  match e.replay with
  | some _ => { c with rq := c.rq.tail, starv := starv, stamp := stamp, holds := holds, state := c.ready, wait := Wait.none }
  | none =>
    { c with
      pc := c.pc + 4, starv := starv, stamp := stamp, holds := holds, wait := Wait.none, state := c.ready,
      clause := c.clause.map (fun cl =>
        { cl with next := cl.next + 1, guard := if cl.next = 0 then e.c.guardMask e.wg.threads (hdrGP cl.header) else cl.guard }) }

/-- Finish an instruction (fixed latency, blocking, or with no effect). -/
def finish (e : Env) (s : State) : State := s.modCoach e.ref (fun c => c.advance e)
/-- Finish an instruction that wrote registers; p and EXEC effects are applied by `f` first. -/
def finishC (e : Env) (f : Coach → Coach) (s : State) : State := s.modCoach e.ref (fun c => (f c).advance e)
/-- Finish with register writes. -/
def finishW (e : Env) (ws : List RegWrite) (s : State) : State := finishC e (fun c => c.writeRegs e.tick ws) s

/-- A resource stall: nothing changes, and the coach stays RUNNABLE (R35). -/
def stall (s : State) : State := s

/-- Enter a waiting state (R21), keeping what the wait keeps, the instruction and its clock. At its first issue the instruction holds
the coach's octets (R300); a wait that goes on does not issue again. -/
def waitIn (e : Env) (i : Instr) (st : CoachState) (w : Wait) (s : State) : State :=
  let again := e.c.wait.word.isSome
  s.modCoach e.ref (fun c => { c with
    state := st, wait := { w with word := encode i, clk := some e.acc.clk },
    holds := if again then c.holds else e.clk + e.dur, starv := if again then c.starv else 0 })

/-- Issue a trackable instruction: its flag rises unless it is re-injected (R27), its register results are pending
(R77), and it stays in flight until its completion. -/
def track (e : Env) (i : Instr) (kind : FlightKind) (entry : Bool) (rep : Option ReplayEntry) (ws0 : List RegWrite) (s : State) : State :=
  s.modCoach e.ref (fun c =>
    let ws := e.due ws0
    let flag := e.flagOf i
    let pend := ws.filterMap (fun w => if w.scalar && w.reg == 0 then none else
      some { scalar := w.scalar, reg := w.reg, thread := w.thread, old := c.rawReg w.scalar w.reg w.thread : PendReg })
    let c1 := c.writeRegs e.tick ws
    let c2 := if e.replay.isSome then c1 else c1.raiseFlag flag
    let fl : Flight := { id := c2.nextId, word := (match encode i with | some w => w | none => 0), pc := e.c.pc, flag := flag,
                         entry := entry, kind := kind, pend := pend, rep := rep }
    ({ c2 with flights := c2.flights ++ [fl], nextId := c2.nextId + 1 }).advance e)
/-- A trackable instruction whose access is performed as it issues. -/
def tracked (e : Env) (i : Instr) (ws : List RegWrite) (s : State) : State := track e i .performed true none ws s
/-- An instruction accepted by an engine gives up its entry (R167). -/
def accepted (e : Env) (i : Instr) (kind : FlightKind) (s : State) : State := track e i kind false none [] s
/-- An operation whose entry performs after its issue (R246). -/
def Flight.back (f : Flight) : Bool :=
  f.entry && (match f.kind with | .raised _ _ _ | .held | .late => true | _ => false)
/-- The coach holds operations back: their accesses have met a cause that has not arrived, or have not performed (R246). -/
def Coach.shadowed (c : Coach) : Bool := c.flights.any Flight.back
/-- The entries of the operations that the coach holds back, in program order. -/
def Coach.backlog (c : Coach) : List ReplayEntry := (c.flights.filter Flight.back).filterMap Flight.rep
/-- The coach without them. -/
def Coach.unburdened (c : Coach) : Coach := { c with flights := c.flights.filter (fun f => !f.back) }
/-- An entry that issues anew when it is injected again. -/
def ReplayEntry.anew (en : ReplayEntry) : ReplayEntry := { en with issued := none }
/-- Put an entry at its place in program order, before the first of a higher number. -/
def placeEntry (x : Nat × ReplayEntry) (l : List (Nat × ReplayEntry)) : List (Nat × ReplayEntry) :=
  match l with
  | [] => [x]
  | y :: r => if x.1 < y.1 then x :: y :: r else y :: placeEntry x r
/-- The entries of operations in flight, with those of a queue at their places in program order (R247). -/
def inOrder (fs rq : List (Nat × ReplayEntry)) : List ReplayEntry := (rq.foldl (fun l x => placeEntry x l) fs).map Prod.snd
/-- The entries of a coach's queue with their places in program order: one that has not issued since a trap comes last. -/
def numbered (rq : List ReplayEntry) : List (Nat × ReplayEntry) :=
  rq.map (fun en => (match en.issued with | some i => i.id | none => 2 ^ 64, en))
/-- The entries of some flights with their places in program order. -/
def flightEntries (fs : List Flight) : List (Nat × ReplayEntry) := fs.filterMap (fun f => f.rep.map (fun en => (f.id, en)))
/-- Entries to inject join the queue. A coach that waits for flags comes back to its clause's header. -/
def Coach.inject (c : Coach) (es : List ReplayEntry) : Coach :=
  let d := { c with rq := c.rq ++ es }
  if c.state = .waitFlags then { d with state := c.ready, clause := none, pc := c.pc - 4 } else d
/-- An operation that has issued is still to perform, or its cause to arrive (R256 step 2). -/
def Coach.unperformed (c : Coach) : Bool :=
  c.flights.any (fun f => match f.kind with | .raised _ _ _ | .late => true | _ => false) || c.rq.any (fun en => en.issued.isSome)
/-- The next entry to inject is of such an operation. -/
def Coach.injected (c : Coach) : Bool := !c.inHandler && (match c.rq with | en :: _ => en.issued.isSome | [] => false)
/-- An operation held back is older than the one numbered `id`. -/
def Coach.olderBack (c : Coach) (id : Nat) : Bool := c.flights.any (fun f => f.back && decide (f.id < id))
/-- When nothing older can fault any longer, the instructions held back perform: their entries are injected in order, before
the coach issues anything else (R246). -/
def Coach.letGo (c : Coach) : Coach :=
  let free (f : Flight) : Bool := f.kind == .held && !c.flights.any (fun g => g.rep.isSome && g.kind != .held && decide (g.id < f.id))
  if !c.flights.any free then c
  else { c with flights := c.flights.filter (fun f => !free f) }.inject ((c.flights.filter free).filterMap Flight.rep)
/-- The flight number that `track` gives next. -/
def State.nextFlight (s : State) (r : CoachRef) : Nat := match s.coach r with | some c => c.nextId | none => 0
/-- The flight is a tile of a dithering instruction (R58): CVTSR, or a performed STQ with .sr. -/
def Flight.tile (f : Flight) : Bool :=
  f.kind == .performed && ((opcodeOf f.word).toNat == 0x41 || ((opcodeOf f.word).toNat == 0x7E && bits f.word.toNat 1 3 == 1))
/-- A flight has completed: its flag falls, and a tile advances DPHASE (R33). -/
def Coach.afterFlight (c : Coach) (f : Flight) : Coach :=
  let d := c.lowerFlag f.flag
  if f.tile then { d with dphase := d.dphase + 1 } else d
/-- Complete a flight (R76): it goes, its flag falls, its pending registers settle. -/
def State.completeFlight (s : State) (r : CoachRef) (id : Nat) : State :=
  s.modCoach r (fun c =>
    match c.flights.find? (fun f => f.id == id) with
    | none => c
    | some f => (({ c with flights := c.flights.filter (fun g => g.id != id) }).afterFlight f).letGo)
/-- The writes that make s registers pending while an operation's results are not known (R77): their present values. -/
def Coach.pendingRun (c : Coach) (d n : Nat) : List RegWrite :=
  (upFrom d n).map (fun r => { scalar := true, reg := r, thread := 0, val := c.rawReg true r 0 })
/-- Complete a flight that writes registers as it completes: those whose write is still pending (R77). -/
def State.completeWith (s : State) (r : CoachRef) (id : Nat) (ws : List RegWrite) : State :=
  (s.modCoach r (fun c =>
    match c.flights.find? (fun f => f.id == id) with
    | none => c
    | some f =>
      let due := ws.filter (fun w => f.pend.any (fun p => p.scalar == w.scalar && p.reg == w.reg && p.thread == w.thread))
      { c with flights := c.flights.map (fun (g : Flight) => if g.id = id then { g with pend := [] } else g) }.writeRegs s.tick due)).completeFlight r id

/-! Release and Acquire (R91, R275). -/

def scWG : Nat := 1
def scCORE : Nat := 2
def scWAFER : Nat := 5
def scPOD : Nat := 6
def scSYS : Nat := 7

/-- Engine writes of the coach that a release waits for: its copies, its collectives, its remote operations that
write locally; at POD scope every remote operation (R91, R202). -/
def State.engineBusy (s : State) (r : CoachRef) (scope : Nat) : Bool :=
  let x := s.site (siteOfSlot r.slot)
  x.copyq.any (fun q => q.2.any (fun c => c.slot == r.slot && (c.arrivals.any (fun a => a.k == r.k) || c.k == r.k) &&
    (match c.kind with | .join _ _ => false | _ => true))) ||
  x.colls.any (fun c => c.slot == r.slot && c.k == r.k) ||
  x.remotes.any (fun o => o.slot == r.slot && o.k == r.k && (o.kind != 0 || scope == scPOD))

/-- Release(scope) of a workgroup: the clock carried, and the state (R91). -/
def State.release (s : State) (slot scope : Nat) : Word × State :=
  let s1 := if scope ≥ scCORE then s.ccRelease (coreOfSlot slot) (slot % 16) else s
  match s1.wg slot with
  | none => (0, s1)
  | some w => (w.oclk + 1, s1.setWg slot { w with oclk := w.oclk + 1 })
/-- Acquire(scope, k) (R91). -/
def State.acquire (s : State) (slot scope : Nat) (k : Word) : State :=
  let s1 := s.modWg slot (fun w => { w with oclk := clkMax w.oclk k })
  if scope ≥ scCORE then s1.ccAcquire (coreOfSlot slot) else s1
def State.oclk (s : State) (slot : Nat) : Word := match s.wg slot with | some w => w.oclk | none => 0

/-! Taking a trap (R243-R254). -/

/-- Elected thread (R248): the lowest of TMASK for a precise cause, else the lowest that has not exited. -/
def elected (n : Nat) (tmask exited : Mask) (async : Bool) : Nat :=
  match (if async then none else lowest n tmask) with
  | some t => t
  | none => match lowest n (maskAll n &&& ~~~exited) with | some t => t | none => 0

/-- Enter a handler (R248): EXEC is the elected thread, the state TRAPPED, the PC the handler. -/
def Coach.enterHandler (c : Coach) (n : Nat) (pc : DWord) (async : Bool) : Coach :=
  { c with exec := maskOne (elected n c.tmask c.exited async), state := .trapped, pc := pc, clause := none, wait := Wait.none }

/-- The handler of a cause in the context's table (R245): none when it is 0, misaligned, not canonical or faults. -/
def State.handler (s : State) (site ctx : Nat) (cause : Cause) : Option DWord × State :=
  let va := (s.context ctx).thbase + BitVec.ofNat 64 (8 * cause.toNat)
  match State.devRead 2 s site ctx va 8 with
  | (.error _, s1) => (none, s1)
  | (.ok bs, s1) =>
    let h := dword64 bs 0
    if h = 0 ∨ h.toNat % 4 ≠ 0 ∨ canonical h = false then (none, s1) else (some h, s1)

/-- AGENT of a notice (R254): the workgroup slot and the coach. -/
def agentField (r : CoachRef) : Nat := r.slot + r.k * 65536

/-- Escalate a cause (R253): the coach stays TRAPPED with its frame, an escalation record is written to the pool and a
notice posted. While an escalation is pending the cause is held. -/
def State.escalate (s : State) (r : CoachRef) (cause : Cause) (addr : DWord) (noHandler inHandler : Bool) : State :=
  match s.wg r.slot, s.coach r with
  | some w, some c =>
    if c.escalated.isSome then
      s.setCoach r { c with heldCauses := c.heldCauses ++ [{ cause := if inHandler then cHANDLER_FAULT else cause, addr := addr }] }
    else
    let site := siteOfSlot r.slot
    let c1 := { c with state := .trapped, wait := Wait.none }
    let body := c1.record w false true
    let num := match s.grid w.gid with | some g => g.num | none => 0
    let hd := recordHeader w num (256 + body.length) 0 (coreOfSlot r.slot) (r.slot % 16) true false false false [256, 0, 0, 0, 0, 0, 0, 0]
    let s1 := s.setCoach r c1
    let al := s1.poolAlloc site w.ctx (256 + body.length)
    let wr := match al with
      | (none, t) => (none, t)
      | (some va, t) =>
        match State.devWrite 32 t site w.ctx va (hd ++ body) with
        | (none, u) => (some va, u.setContext w.ctx { u.context w.ctx with live := (u.context w.ctx).live + 1 })
        | (some _, u) => (none, u)
    let rec_ : DWord := match wr.1 with | some va => va | none => 0
    let s2 := wr.2.modCoach r (fun c => { c with escalated := some rec_ })
    s2.postNotice site (noticeBytes s2 site w.ctx noHandler false inHandler (if inHandler then cHANDLER_FAULT else cause)
      (agentField r) addr rec_ 0)
  | _, _ => s

/-- Form the frame and deliver the cause by its route (R245-R248). -/
def State.formFrame (s : State) (r : CoachRef) (cause : Cause) (addr : DWord) (tmask : Mask) (entries : List ReplayEntry)
    (tpc : DWord) (clause : Option Clause) (async : Bool) : State :=
  match s.wg r.slot, s.coach r with
  | some w, some c =>
    let site := siteOfSlot r.slot
    let c1 := { c with
      tcause := cause, taddr := addr, tmask := tmask, tpc := tpc, trqn := entries.length, rq := entries.map ReplayEntry.anew,
      frame := some { exec := c.exec, depth := c.div.length, clause := clause, resume := tpc },
      state := .trapped, pendTrap := none, clause := none, wait := Wait.none }
    let s1 := s.setCoach r c1
    if causeSystem cause then s1.escalate r cause addr false false
    else
      match s1.handler site w.ctx cause with
      | (some h, s2) => s2.modCoach r (fun c => c.enterHandler w.threads h async)
      | (none, s2) => s2.escalate r cause addr true false
  | _, _ => s

/-- Take a precise trap at an instruction (R246, R249): at once when no older entry is unfinished, else when the older
entries have completed (TRAP_TAKE). A cause in a handler escalates as HANDLER_FAULT. Behind instructions that are held back an
instruction with a cause does not issue; it meets its cause when they have performed. -/
def State.takeTrap (s : State) (r : CoachRef) (cause : Cause) (addr : DWord) (tmask : Mask) (entries : List ReplayEntry)
    (tpc : DWord) (clause : Option Clause) : State :=
  match s.coach r with
  | none => s
  | some c =>
    if c.inHandler then s.escalate r cause addr false true
    else if c.shadowed then s
    else if c.flights.any Flight.entry then
      s.setCoach r { c with pendTrap := some { cause := cause, addr := addr, mask := tmask, entries := entries, tpc := tpc, clause := clause } }
    else s.formFrame r cause addr tmask entries tpc clause false

/-- The registers that an instruction is still to write in the threads of a mask. -/
def Coach.dueRegs (c : Coach) (i : Instr) (n : Nat) (mask : Mask) : List PendReg :=
  (i.uses.filter Use.wr).flatMap (fun u => (upFrom u.reg u.n).flatMap (fun r =>
    if u.file == .s then (if r = 0 then [] else [{ scalar := true, reg := r, thread := 0, old := c.rawReg true r 0 }])
    else (threadsOf n mask).map (fun t => { scalar := false, reg := r, thread := t, old := c.rawReg false r t })))
/-- The number of a load that performs before an older operation of its coach that is held back (R136). -/
def Env.overtakes (e : Env) : Option Nat :=
  e.replay.bind (fun en => en.issued.bind (fun x => if e.c.olderBack x.id then some x.id else none))
/-- The cause of such a load waits for the older operations (R246 step 2). -/
def keepCause (e : Env) (i : Instr) (id : Nat) (cause : Cause) (addr : DWord) (tmask mask : Mask) (s : State) : State :=
  let rep := { capture e i (e.flagOf i) 0 mask 0 0 Wait.none with issued := e.replay.bind ReplayEntry.issued }
  let overtaken := (rep.issued.map Issued.overtaken).getD []
  s.modCoach e.ref (fun c =>
    let due := (c.dueRegs i e.wg.threads mask).filter (fun p => !overtaken.contains (p.scalar, p.reg, p.thread))
    let fl : Flight := { id := id, word := rep.word, pc := rep.pc, flag := rep.flag, entry := true,
                         kind := .raised cause addr tmask, pend := due, rep := some rep }
    let older (f : Flight) : Bool := decide (f.id < id)
    ({ c with flights := c.flights.filter older ++ fl :: c.flights.filter (fun f => !older f) }).advance e)

/-- An instruction traps: its entry, FAULTED, holds the threads that did not perform (R135, R247); the frame's resume
point is after its issue (R244). Behind it stand the entries not yet injected and the operations held back. With no thread
active it counts on no flag (R74). -/
def trapWith (e : Env) (i : Instr) (cause : Cause) (addr : DWord) (tmask mask : Mask) (s : State) : State :=
  let flag := if e.replay.isNone && e.active == 0 then none else e.flagOf i
  let en := capture e i flag 1 mask addr cause (cutShort e.kept)
  let c1 := e.c.advance e
  if e.c.inHandler then s.takeTrap e.ref cause addr tmask (en :: e.c.rq.tail) c1.pc c1.clause
  else if e.replay.isSome then
    match e.overtakes with
    | some id => keepCause e i id cause addr tmask mask s
    | none => (s.modCoach e.ref Coach.unburdened).takeTrap e.ref cause addr tmask (en :: inOrder (flightEntries (e.c.flights.filter Flight.back)) (numbered e.c.rq.tail)) c1.pc c1.clause
  else if e.c.shadowed then stall s
  else (s.modCoach e.ref (fun c => c.raiseFlag flag)).takeTrap e.ref cause addr tmask (en :: e.c.rq.tail) c1.pc c1.clause
/-- A cause of every active thread, none having performed. -/
def trapAll (e : Env) (i : Instr) (cause : Cause) (addr : DWord) (s : State) : State :=
  trapWith e i cause addr e.active e.active s

/-- Issue a trackable instruction without performing what its entry still holds: its flag rises, its registers are
pending, and it keeps its entry (R246). -/
def hold (e : Env) (i : Instr) (kind : FlightKind) (mask : Mask) (s : State) : State :=
  let flag := e.flagOf i
  s.modCoach e.ref (fun c =>
    let iss : Issued := { id := c.nextId, clk := e.acc.clk, phase := e.phase, overtaken := [] }
    let rep := { capture e i flag 0 mask 0 0 (cutShort e.kept) with issued := some iss }
    let fl : Flight := { id := c.nextId, word := rep.word, pc := e.c.pc, flag := flag, entry := true, kind := kind,
                         pend := c.dueRegs i e.wg.threads mask, rep := some rep }
    ({ c.raiseFlag flag with flights := c.flights ++ [fl], nextId := c.nextId + 1 }).advance e)
/-- A cause that an access meets beyond the coach: its translation's, or the home slice's (R135 orders 2, 6, 7 and 8). It
reaches the coach later, at OPERATION_COMPLETE (R246); in a handler, or of a re-injected entry, at once. -/
def raiseCause (e : Env) (i : Instr) (cause : Cause) (addr : DWord) (tmask mask : Mask) (s : State) : State :=
  if e.replay.isSome || e.c.inHandler || !trackableOp i.op then trapWith e i cause addr tmask mask s
  else hold e i (.raised cause addr tmask) mask s

/-- The entries an asynchronous trap or a save leaves, in program order (R247): operations that have not performed, a cancelled
wait or an instruction still to be re-injected; `away` changes those of operations that wait. A performed operation is complete. -/
def Coach.unfinished (c : Coach) (away : ReplayEntry → ReplayEntry) : List ReplayEntry :=
  inOrder (flightEntries ((c.flights.filter Flight.entry).map (fun f => if f.back then f else { f with rep := f.rep.map away }))) (numbered c.rq)
/-- The coach with its entries drained: performed operations complete; those not performed leave flight with their
flags counted; engine work stays in flight. -/
def Coach.drained (c : Coach) : Coach :=
  let done := c.flights.filter (fun f => f.entry && f.rep.isNone)
  let c1 := done.foldl Coach.afterFlight c
  { c1 with flights := c1.flights.filter (fun f => !f.entry) }

/-- A coach in a state in which it waits (R22). -/
def CoachState.waits (st : CoachState) : Bool :=
  match st with
  | .waitBar | .parkedMon | .parkedQueue | .waitTin | .waitBatch => true
  | _ => false

/-- Forget a coach's registrations in the monitor tables and its place among a queue's waiters (R165). -/
def State.dropWaiter (s : State) (r : CoachRef) : State :=
  s.sites.foldl (fun t e =>
    if e.2.mon.any (fun m => m.slot == r.slot && m.k == r.k && !m.absent) then
      t.setSite e.1 { t.site e.1 with mon := (t.site e.1).mon.filter (fun m => !(m.slot == r.slot && m.k == r.k && !m.absent)) }
    else t) s

/-- Cancel the wait of a waiting coach (R22), or of one whose wait has been ended and whose instruction has not been
executed again: the blocking instruction becomes a CANCELLED entry, and the coach's resume point is after it. In a handler
it is executed again from its word. A coach in WAIT_FLAGS has no entry: it resumes at its clause's header. -/
def State.cancelWait (s : State) (r : CoachRef) : State :=
  match s.env r with
  | none => s
  | some e =>
    if e.c.state = .waitFlags then s.modCoach r (fun c => { c with state := c.ready, clause := none, pc := c.pc - 4 })
    else if e.c.state.waits || e.c.woken then
      let s1 := (s.dropWaiter r).uncount e.c.wait
      if e.c.inHandler then s1.modCoach r (fun c => { c.wake with wait := cutShort c.wait })
      else
        match e.replay, e.c.wait.word.bind parse with
        | some en, _ => s1.modCoach r (fun c => { c.wake with wait := Wait.none, rq := { en with status := 2, wait := cutShort c.wait } :: c.rq.tail })
        | none, none => s1.modCoach r Coach.wake
        | none, some i =>
          let en := capture e i (e.flagOf i) 2 e.active 0 0 (cutShort e.c.wait)
          s1.modCoach r (fun c => let d := c.advance e; { d with rq := en :: d.rq })
    else s

/-- The point at which a coach resumes (R244): for a coach that has issued no word of its clause, the header, with no
clause state. -/
def Coach.resumePoint (c : Coach) : DWord × Option Clause :=
  match c.clause with
  | some cl => if cl.next = 0 then (c.pc - 4, none) else (c.pc, some cl)
  | none => (c.pc, none)

/-- Take an asynchronous cause (R251): waits are cancelled, the unfinished entries form the replay queue. -/
def State.asyncTrap (s : State) (r : CoachRef) (cause : Cause) (addr : DWord) : State :=
  let s1 := s.cancelWait r
  match s1.coach r with
  | none => s1
  | some c =>
    let rp := c.resumePoint
    (s1.setCoach r c.drained).formFrame r cause addr 0 (c.unfinished id) rp.1 rp.2 true

/-- The asynchronous causes that a coach holds, in the order in which they came, each with the coach it leaves (R251, R253). -/
def Coach.asyncs (c : Coach) : List (Cause × DWord × Coach) :=
  c.rfails.map (fun f => (f.cause, f.addr, { c with rfails := c.rfails.erase f })) ++
    (if c.deadlineRisk then [(cDEADLINE_RISK, 0, { c with deadlineRisk := false })] else []) ++
    (if c.preemptNotice then [(cPREEMPT_NOTICE, 0, { c with preemptNotice := false })] else []) ++
    c.heldCauses.map (fun f => (f.cause, f.addr, { c with heldCauses := c.heldCauses.erase f }))
/-- The asynchronous cause to take next: lowest code first (R251, R252). -/
def Coach.nextAsync (c : Coach) : Option (Cause × DWord × Coach) := (sortBy (fun x => x.1.toNat) c.asyncs).head?

/-- Return from the handler (R207, R250): EXEC restored, the stack cut to the saved depth, entries with no thread left
discarded with their flags lowered, the rest re-injected, and the coach resumed at TPC with the saved clause state when
TPC is unchanged: at the clause's header when the fetch of one of its words has faulted before any of them issued (R78). -/
def Coach.returnFromTrap (c : Coach) : Coach :=
  match c.frame with
  | none => c
  | some f =>
    let all : List ReplayEntry := c.rq.map (fun en => { en with mask := en.mask &&& ~~~c.exited, status := if en.status = 1 then 0 else en.status })
    let c1 := (all.filter (fun en => en.mask == 0)).foldl (fun d en => d.lowerFlag en.flag) c
    let same := decide (c.tpc = f.resume)
    let at_ : DWord × Option Clause := match same, f.clause with
      | true, some cl => (match cl.fresh with | some h => (h, none) | none => (c.tpc, some cl))
      | _, _ => (c.tpc, none)
    { c1 with
      exec := f.exec &&& ~~~c.exited, div := c.div.drop (c.div.length - f.depth), state := .runnable,
      rq := all.filter (fun en => en.mask != 0), pc := at_.1, clause := at_.2, reconv := c.reconv && same, frame := none,
      wait := Wait.none, escalated := none }

/-! The execution of an encoded instruction. -/

/-- What issues while the coach holds operations back: trackable instructions, and those of fixed latency in rows 0x0 to
0x6. The rest stalls (R246). -/
def passesShadow (i : Instr) : Bool := trackableOp i.op || decide (i.op / 16 < 7)
/-- A load or store of memory or a buffer, or an atomic with no ordering (R139, R142, R144, R146-R148). -/
def plainOp (op : Nat) : Bool :=
  decide (0x70 ≤ op ∧ op ≤ 0x79) || op == 0x7D || op == 0x7E || decide (0x80 ≤ op ∧ op ≤ 0x8A) || op == 0x8C || op == 0x8E || op == 0x8F
/-- The bytes of one access of such an instruction, and the kind of the buffer it reaches; 0 for memory. -/
def plainSize (op : Nat) : Nat :=
  if op < 0x75 then 2 ^ (op - 0x70) else if op < 0x7A then 2 ^ (op - 0x75) else if op < 0x82 then 4 else if op < 0x8A then 16
  else if op = 0x8C then 8 else 4
def plainSpace (op : Nat) : Nat :=
  if decide (0x80 ≤ op ∧ op ≤ 0x83) || op == 0x8E then 1 else if 0x84 ≤ op ∧ op ≤ 0x89 then 2 + (op - 0x84) / 2 else 0
/-- The addresses that the entry of such an access names (R133, R134). -/
def ReplayEntry.addrs (en : ReplayEntry) (n : Nat) : List DWord :=
  let base : DWord := en.sops.getD 1 0 ++ en.sops.getD 0 0
  (if bit en.word 23 then [0] else threadsOf n en.mask).map (fun t => base + (Table.getD en.vops (17 * t) (0 : Word)).signExtend 64)
/-- Where n bytes at a VA lie: none when they do not translate. -/
def Env.placeOf (e : Env) (s : State) (va : DWord) (n : Nat) : Option (Nat × Nat × Nat) :=
  match (s.translate (some e.core) e.site e.ctx va .read).1, (s.translate (some e.core) e.site e.ctx va .write).1 with
  | .ok x, _ | .error _, .ok x => some (0, x.pa, n)
  | _, _ => none
/-- What an element access of LDQ or STQ reaches: its element and its side record (R142). -/
def Env.elemPlaces (e : Env) (s : State) (va : DWord) : List (Option (Nat × Nat × Nat)) :=
  match (s.translate (some e.core) e.site e.ctx va .read).1, (s.translate (some e.core) e.site e.ctx va .write).1 with
  | .ok x, _ | .error _, .ok x =>
    if !leafFMTEN x.leaf then [none]
    else
      match (s.frdOf e.site e.ctx (leafFMT x.leaf)).1 with
      | none => [none]
      | some d => [some (0, x.pa, d.size), if 1 ≤ d.format ∧ d.format ≤ 5 then e.placeOf s (d.sideVa (va - d.dbase).toNat) 2 else some (0, x.pa, d.size)]
  | _, _ => [none]
/-- A synchronising operation that performs at a place of its own and acquires nothing (R140, R149, R161-R164): a later access of
other bytes is not ordered behind it. -/
def releaseOp (op : Nat) : Bool := op == 0x7B || op == 0x90 || op == 0x93 || op == 0x98 || op == 0x9A || op == 0x9B || op == 0x9C
/-- An operation that may perform later than it issues (R136, R246): log 9. -/
def lateOp (op : Nat) : Bool := plainOp op || releaseOp op
/-- Where n bytes from a VA lie, page by page. -/
def Env.placesOf (fuel : Nat) (e : Env) (s : State) (va : DWord) (n : Nat) : List (Option (Nat × Nat × Nat)) :=
  match fuel with
  | 0 => []
  | f + 1 =>
    if n = 0 then []
    else
      let k := min n (65536 - va.toNat % 65536)
      e.placeOf s va k :: Env.placesOf f e s (va + BitVec.ofNat 64 k) (n - k)
/-- The bytes that a queue operation may reach: its block, and the slots of the queue that it fills or makes. -/
def Env.queuePlaces (e : Env) (s : State) (en : ReplayEntry) : List (Option (Nat × Nat × Nat)) :=
  let op := (opcodeOf en.word).toNat
  let block := e.placeOf s (en.sops.getD 1 0 ++ en.sops.getD 0 0) 64
  let d (j : Nat) : Word := Table.getD en.vops (j + 1) 0
  let slots (dbase : DWord) (esize logn : Nat) : List (Option (Nat × Nat × Nat)) :=
    let n := 2 ^ logn * (8 + upTo 8 esize)
    Env.placesOf (n / 65536 + 2) e s dbase n
  match block with
  | none => [none]
  | some b =>
    some b :: (if op = 0x9A then slots (d 3 ++ d 2) (bits (d 0).toNat 0 8) (bits (d 0).toNat 8 5)
      else if op = 0x98 then (let q := Qcb.ofBytes (s.homeRead b.2.1 64); slots q.dbase q.esize q.logn)
      else [])
/-- The bytes that the entry of such an access reaches, as (space, first byte, bytes); none when an address does not translate. -/
def Env.reaches (e : Env) (s : State) (en : ReplayEntry) : List (Option (Nat × Nat × Nat)) :=
  let op := (opcodeOf en.word).toNat
  if op / 16 = 9 then (if op < 0x98 then [] else e.queuePlaces s en)
  else (en.addrs e.wg.threads).flatMap (fun va =>
    if plainSpace op ≠ 0 then [some (plainSpace op, va.toNat, plainSize op)]
    else if op = 0x7D ∨ op = 0x7E then e.elemPlaces s va
    else [e.placeOf s va (plainSize op)])
/-- Two accesses that share no byte. -/
def apart (x y : Option (Nat × Nat × Nat)) : Bool :=
  match x, y with
  | some a, some b => a.1 != b.1 || decide (a.2.1 + a.2.2 ≤ b.2.1 ∨ b.2.1 + b.2.2 ≤ a.2.1)
  | _, _ => false
/-- A load that performs before the older operations that are held back: each is an access of other bytes (R136, R246), and acquires
nothing. A store or an atomic does not: none performs before the older ones have passed their last fault points (R246). -/
def passesBack (e : Env) (i : Instr) (s : State) : Bool :=
  plainOp i.op && !waitsOlder i.op &&
    (let own := e.reaches s (capture e i none 0 e.active 0 0 Wait.none)
     e.c.flights.all (fun f => !f.back || (match f.rep with
       | some en => lateOp (opcodeOf en.word).toNat && (e.reaches s en).all (fun x => own.all (apart x))
       | none => false)))
/-- A TINWAIT that counts on no flag: its coach waits in WAIT_TIN (R196). -/
def blockingTinwait (e : Env) (i : Instr) : Bool := i.op == 0xB4 && e.replay.isNone && (e.flagOf i).isNone
/-- A trackable instruction that issues and is held back (R246): an older one has met a cause, or may still meet one, or is
held back itself. In a handler and from the replay queue it stalls instead. -/
def heldBack (e : Env) (i : Instr) (s : State) : Bool :=
  e.replay.isNone && !e.c.inHandler && trackableOp i.op && !blockingTinwait e i &&
    (if waitsOlder i.op then e.c.flights.any (fun f => f.rep.isSome) else e.c.shadowed && !passesBack e i s)
/-- Such an operation is to perform later than it issues. -/
def issuesLate (e : Env) (i : Instr) (s : State) : Bool := s.late && e.replay.isNone && !e.c.inHandler && lateOp i.op
/-- An instruction whose accesses may find a column-cache miss, no landing buffer or no walker (R35): one of rows 0x7 to 0xB that
reads or writes memory. -/
def reachesMemory (op : Nat) : Bool :=
  decide (0x70 ≤ op ∧ op ≤ 0x7F) || decide (0x8A ≤ op ∧ op ≤ 0x8D) || op == 0x8F || decide (0x94 ≤ op ∧ op ≤ 0x9C) || op / 16 == 10 || op / 16 == 11
/-- An issue that must stall (R27, R35, R246, R251): a full flag, 16 entries held, a trackable instruction younger than an
operation that may still fault, an access whose resource is not free, an RPUT, RGET or RATOM while 8 remote failures are
queued. -/
def issueStalls (e : Env) (i : Instr) (s : State) : Bool :=
  let op := i.op
  decide ((e.c.flights.filter Flight.entry).length ≥ 16) ||
    (e.replay.isNone && (match e.flagOf i with | some f => decide (e.c.flagCount f ≥ 63) | none => false)) ||
    (e.c.shadowed && (!passesShadow i || blockingTinwait e i)) || (e.miss && reachesMemory op) ||
    (waitsOlder op && !heldBack e i s && !blockingTinwait e i && e.c.flights.any (fun f => f.rep.isSome && !f.back)) ||
    (decide (0xBA ≤ op ∧ op ≤ 0xBC) && decide (e.c.rfails.length ≥ 8))

/-- An instruction with U=1 and a control instruction hold the coach's octets for one cycle, another one for its D depth
slots (R14, R300). -/
def Env.holding (e : Env) (i : Instr) : Env :=
  { e with dur := if isControl i.op || (match encode i with | some w => bit w 23 | none => true) then 1 else e.dur }

/-- Execute an instruction of the current coach: the checks of R90 groups 4 to 8, no effect when no thread is active
(R74), the stalls of issue, the holding back behind an operation that may still fault, and else its own effect. -/
def issue (i : Instr) (s : State) (body : Env → State → State) : Host.Outcome State Fault Refusal :=
  match s.env s.cur with
  | none => .fault .noCoach
  | some e0 =>
    let e := e0.holding i
    .next (match wordCause e (s.grid e.wg.gid) (s.privileged e.site e.ctx) i with
      | some c => if e.active ≠ 0 ∧ issueStalls e i s then stall s else trapAll e i c 0 s
      | none =>
        if e.active = 0 then finish e s
        else if issueStalls e i s then stall s
        else if heldBack e i s then hold e i .held e.active s
        else if issuesLate e i s then hold e i .late e.active s
        else body e s)

end Sys2Proof.Machine
end

