-- ==== Sys2Proof/Machine/Barriers.lean ====
section
/-! DEFINITION. Barriers (R149-R153, R405): the instance an instruction reaches, arrivals, releases and waits. -/

namespace Sys2Proof.Machine

/-- The number of the scope instance that holds a core; the wafer and the pod have one here (R20, R153). -/
def scopeInst (scope core : Nat) : Nat :=
  match scope with
  | 2 => core
  | 3 => quadOf core
  | 4 => siteOfCore core
  | _ => 0
/-- Who owns a barrier beyond the workgroup: the grid, or at POD scope the context (R153). -/
def barOwner (scope ctx gid : Nat) : Nat := if scope = 6 then ctx else gid
/-- The threads of a grid (R150). -/
def Grid.allThreads (g : Grid) : Nat := g.threads * g.ncoach * (g.xe * g.ye * g.ze)
/-- A barrier that nothing has changed: WG barrier 0 expects the workgroup's threads, WAFER barrier 0 the grid's (R150). -/
def freshBar (w : Workgroup) (g : Option Grid) (scope bix : Nat) : Bar :=
  if bix ≠ 0 then Bar.zero
  else if scope = 1 then { Bar.zero with e := BitVec.ofNat 32 (w.threads * w.ncoach) }
  else if scope = 5 then (match g with | some g => { Bar.zero with e := BitVec.ofNat 32 g.allThreads } | none => Bar.zero)
  else Bar.zero

/-- Is it the barrier of these numbers? -/
def WideBar.is (b : WideBar) (scope inst owner bix : Nat) : Bool :=
  b.scope.toNat == scope && b.inst == inst && b.owner == owner && b.bix == bix
/-- The barrier that a coach of a workgroup slot reaches (R150, R153), and its replacement. -/
def State.bar (s : State) (slot scope bix : Nat) : Bar :=
  match s.wg slot with
  | none => Bar.zero
  | some w =>
    let new := freshBar w (s.grid w.gid) scope bix
    if scope = 1 then Table.getD w.bars bix new
    else
      match s.wideBars.find? (fun b => b.is scope (scopeInst scope (coreOfSlot slot)) (barOwner scope w.ctx w.gid) bix) with
      | some b => b.bar
      | none => new
def State.setBar (s : State) (slot scope bix : Nat) (x : Bar) : State :=
  match s.wg slot with
  | none => s
  | some w =>
    if scope = 1 then s.setWg slot { w with bars := Table.insert w.bars bix x }
    else
      let inst := scopeInst scope (coreOfSlot slot)
      let owner := barOwner scope w.ctx w.gid
      { s with wideBars := s.wideBars.filter (fun b => !b.is scope inst owner bix) ++
          [{ scope := BitVec.ofNat 3 scope, inst := inst, owner := owner, bix := bix, bar := x }] }

/-- A phase that a wait names has completed: (g - h) mod 2^32 is in 1 .. 2^31 (R150). -/
def phaseDone (g h : Word) : Bool := decide (1 ≤ (g - h).toNat ∧ (g - h).toNat ≤ 2 ^ 31)
/-- The coach's wait at a barrier has ended. -/
def State.barReady (s : State) (r : CoachRef) (c : Coach) : Bool :=
  match c.wait.bar, c.wait.joined with
  | some (scope, bix), some h => phaseDone (s.bar r.slot scope bix).g h
  | _, _ => false
/-- Every coach in WAIT_BAR whose wait has ended is to be released. -/
def State.barWaiters (s : State) : List CoachRef :=
  s.wgs.flatMap (fun w => (w.2.coaches.filter (fun c => c.2.state == .waitBar && s.barReady { slot := w.1, k := c.1 } c.2)).map
    (fun c => { slot := w.1, k := c.1 }))
/-- Complete a phase: g + 1, A = 0, the release clock above every arrival's, and the release to every waiter (R150). -/
def State.completePhase (s : State) (slot scope bix : Nat) (b : Bar) : State :=
  let s1 := s.setBar slot scope bix { b with g := b.g + 1, a := 0, rclk := b.m + 1, m := 0 }
  s1.later (s1.barWaiters.map (fun r => ⟨.barrierRelease, { EvArgs.zero with slot := r.slot, k := r.k }⟩))

/-- An arrival at the root (R150): the phase joined, or a refusal when the count would pass E. -/
def State.arrive (s : State) (slot scope bix n : Nat) (k : Word) : Option Word × State :=
  let b := s.bar slot scope bix
  if b.a.toNat + n > b.e.toNat then (none, s)
  else
    let b1 := { b with a := b.a + BitVec.ofNat 32 n, m := clkMax b.m k }
    (some b.g, if b1.a = b1.e then s.completePhase slot scope bix b1 else s.setBar slot scope bix b1)

/-- Messages of a scope's barriers are carried: those of POD scope wait unless the device's links are UP both ways (R405). -/
def State.barCarried (s : State) (scope : Nat) : Bool :=
  scope != 6 || (List.range 64).all (fun n => (List.range 4).all (fun f => lsSTATE (s.lstat n f 0) == stUP && lsSTATE (s.lstat n f 1) == stUP))
/-- A WAFER barrier of a kernel that declared none (R38, R149). -/
def undeclared (e : Env) (f : FB) (s : State) : Bool := f.scope == 5 && barSlots (s.grid e.wg.gid) 5 == 0
/-- The count of an arrival. -/
def arrivalCount (e : Env) (f : FB) : Nat := if f.cnt = 0 then (threadsOf e.wg.threads e.active).length else (e.sop 0 f.cnt).toNat
def genWrite (f : FB) (g : Word) : List RegWrite := [{ scalar := true, reg := f.gen.toNat, thread := 0, val := g }]

/-- The wait of BARW and BARAW: complete with the acquire when the phase is done, else WAIT_BAR. -/
def barWait (e : Env) (i : Instr) (f : FB) (h : Word) (ws : List RegWrite) (s : State) : State :=
  let scope := f.scope.toNat
  let b := s.bar e.ref.slot scope f.bix.toNat
  if phaseDone b.g h ∧ s.barCarried scope then finishW e ws (s.acquire e.ref.slot scope b.rclk)
  else waitIn e i .waitBar { Wait.none with joined := some h, bar := some (scope, f.bix.toNat) }
    (s.modCoach e.ref (fun c => c.writeRegs e.tick ws))

/-- The arrival of BARA and BARAW, then what follows it. -/
def barArrive (e : Env) (i : Instr) (f : FB) (s : State) (k : Word → State → State) : State :=
  if undeclared e f s then trapAll e i cBAR_SCOPE_UNDECLARED 0 s
  else if s.engineBusy e.ref f.scope.toNat ∨ s.barCarried f.scope.toNat = false then stall s
  else
    let r := s.release e.ref.slot f.scope.toNat
    match r.2.arrive e.ref.slot f.scope.toNat f.bix.toNat (arrivalCount e f) r.1 with
    | (none, s1) => raiseCause e i cBAR_OVERFLOW 0 e.active e.active s1
    | (some g, s1) => k g s1

def execBara (f : FB) (s : State) : Host.Outcome State Fault Refusal :=
  issue (.bara f) s (fun e s => barArrive e (.bara f) f s (fun g s => tracked e (.bara f) (genWrite f g) s))
def execBarw (f : FB) (s : State) : Host.Outcome State Fault Refusal :=
  issue (.barw f) s (fun e s =>
    if undeclared e f s then trapAll e (.barw f) cBAR_SCOPE_UNDECLARED 0 s else barWait e (.barw f) f (e.sop 1 f.gen) [] s)
/-- BARAW: an arrival that has reached the root is never made again (R152). -/
def execBaraw (f : FB) (s : State) : Host.Outcome State Fault Refusal :=
  issue (.baraw f) s (fun e s =>
    match e.kept.joined with
    | some h => barWait e (.baraw f) f h [] s
    | none => barArrive e (.baraw f) f s (fun g s => barWait e (.baraw f) f g (genWrite f g) s))
/-- BARINIT (R151): a new E applies to the arrivals that are pending. -/
def execBarinit (f : FB) (s : State) : Host.Outcome State Fault Refusal :=
  issue (.barinit f) s (fun e s =>
    if undeclared e f s then trapAll e (.barinit f) cBAR_SCOPE_UNDECLARED 0 s
    else if !s.barCarried f.scope.toNat then stall s
    else
      let b := s.bar e.ref.slot f.scope.toNat f.bix.toNat
      let n : Word := if f.cnt = 0 then 0 else e.sop 0 f.cnt
      if n.ult b.a then raiseCause e (.barinit f) cBAR_OVERFLOW 0 e.active e.active s
      else
        let b1 := { b with e := n }
        let s1 := if b.a ≠ 0 ∧ b.a = n then s.completePhase e.ref.slot f.scope.toNat f.bix.toNat b1
          else s.setBar e.ref.slot f.scope.toNat f.bix.toNat b1
        tracked e (.barinit f) (genWrite f b.g) s1)

/-- BARRIER_RELEASE (R22, R150, R405): the release reaches a waiting coach, whose wait completes with the acquire. -/
def execBarrierRelease (s : State) : Host.Outcome State Fault Refusal :=
  let r : CoachRef := { slot := s.arg.slot, k := s.arg.k }
  .next (match s.env r with
    | some e =>
      match e.c.wait.bar with
      | some (scope, bix) =>
        if e.c.state = .waitBar ∧ s.barReady r e.c ∧ s.barCarried scope then finish e (s.acquire r.slot scope (s.bar r.slot scope bix).rclk) else s
      | none => s
    | none => s)

end Sys2Proof.Machine
end

