-- ==== Sys2Proof/Machine/Flags.lean ====
section
/-! DEFINITION. The arithmetic flags FMT, NV and OF of the arithmetic status word (R55), and the one OR an
instruction performs with those that its threads raise. -/

namespace Sys2Proof.Machine

/-- Flags of the arithmetic status word: bit 0 FMT, bit 1 NV, bit 2 OF (R55). -/
def flNone : Word := 0
def flFMT : Word := 1
def flNV : Word := 2
def flOF : Word := 4
def flagIf (b : Bool) (f : Word) : Word := if b then f else 0
/-- The flags of all threads together. -/
def flagsAll (fs : List Word) : Word := fs.foldl (· ||| ·) 0

/-- One OR per instruction, before it completes (R55). -/
def State.raise (s : State) (e : Env) (fs : Word) : State := s.orStatus e.site e.ctx fs

end Sys2Proof.Machine
end

