-- ==== Sys2Proof/Machine/Operands.lean ====
section
/-! DEFINITION. Operands of formats RRR and RI (R79-R81, R99): where A, B and D are read and where a result goes, for
one thread or for the coach with U=1, as 32-bit words or as the numbers that register runs hold. -/

namespace Sys2Proof.Machine

/-- The number in consecutive registers, the lowest register least significant (R25), and back. -/
def wordsToNat (ws : List Word) : Nat :=
  match ws with
  | [] => 0
  | w :: r => w.toNat + 2 ^ 32 * wordsToNat r
def natToWords (n x : Nat) : List Word :=
  match n with
  | 0 => []
  | n + 1 => BitVec.ofNat 32 x :: natToWords n (x / 2 ^ 32)

/-- Register r as an operand: a v register of the thread, or with U=1 an s register, captured at place `pos` (R209). -/
def Env.opReg (e : Env) (u : Bool) (pos r t : Nat) : Word :=
  if u then (match e.replay with | some en => en.sops.getD pos 0 | none => e.c.readS e.tick r) else e.c.readV e.tick r t
/-- A run of n registers as an operand. -/
def Env.opRun (e : Env) (u : Bool) (pos r n t : Nat) : List Word := (List.range n).map (fun i => e.opReg u (pos + i) (r + i) t)

/-- Operand A of n registers, operand B of n registers after an A of `na`, and the old D at a place of its own (R99). -/
def Env.opA (e : Env) (f : RRR) (n t : Nat) : Nat := wordsToNat (e.opRun f.u 0 f.a.toNat n t)
def Env.opB (e : Env) (f : RRR) (na n t : Nat) : Nat :=
  if f.s && !f.u then wordsToNat ((List.range n).map (fun i => e.c.readS e.tick (f.b.toNat + i)))
  else wordsToNat (e.opRun f.u na f.b.toNat n t)
def Env.opD (e : Env) (f : RRR) (pos n t : Nat) : Nat := wordsToNat (e.opRun f.u pos f.d.toNat n t)

/-- The writes of a result of n registers at D, for one thread. -/
def putRun (u : Bool) (d n t x : Nat) : List RegWrite :=
  (List.zip (List.range n) (natToWords n x)).map (fun w => { scalar := u, reg := d + w.1, thread := if u then 0 else t, val := w.2 })

/-- An instruction that computes one result and its flags in each unit: every source is read before any destination
is written (R99), the flags are raised once (R55), and the coach goes on. -/
def lanewise (u : Bool) (d n : Nat) (f : Env → Nat → Nat × Word) (e : Env) (s : State) : State :=
  let rs := (e.units u).map (fun t => (t, f e t))
  finishW e (rs.flatMap (fun r => putRun u d n r.1 r.2.1)) (s.raise e (flagsAll (rs.map (fun r => r.2.2))))

/-- The forms D := f(A, B), D := f(A), D := f(A, B, old D), D := f(B), all operands of n registers. -/
def opDAB (f : RRR) (n : Nat) (g : Nat → Nat → Nat × Word) : Env → State → State :=
  lanewise f.u f.d.toNat n (fun e t => g (e.opA f n t) (e.opB f n n t))
def opDA (f : RRR) (n : Nat) (g : Nat → Nat × Word) : Env → State → State :=
  lanewise f.u f.d.toNat n (fun e t => g (e.opA f n t))
def opDABD (f : RRR) (n : Nat) (g : Nat → Nat → Nat → Nat × Word) : Env → State → State :=
  lanewise f.u f.d.toNat n (fun e t => g (e.opA f n t) (e.opB f n n t) (e.opD f (2 * n) n t))
def opDB (f : RRR) (n : Nat) (g : Nat → Nat × Word) : Env → State → State :=
  lanewise f.u f.d.toNat n (fun e t => g (e.opB f 0 n t))
/-- A result with no flag. -/
def clean (x : Nat) : Nat × Word := (x, flNone)

/-- The RI form D := f(old D) (R84). -/
def opRI (f : RI) (g : Nat → Nat × Word) : Env → State → State :=
  lanewise f.u f.d.toNat 1 (fun e t => g (e.opReg f.u 0 f.d.toNat t).toNat)

/-- Write a predicate in every active thread (R99, R104, R120). -/
def setPreds (p : Nat) (g : Nat → Bool) (e : Env) (s : State) : State :=
  finishC e (fun c => e.threads.foldl (fun d t => d.writeP p t (g t)) c) s

end Sys2Proof.Machine
end

