-- ==== Sys2Proof/Machine/Float.lean ====
section
/-! DEFINITION. Number formats and arithmetic (R43-R60): values as exact dyadic numbers, `Round` into every format,
the FTZ treatment, the ordered dither, and the exact operations of the floating-point instructions. -/

namespace Sys2Proof.Machine

/-- A floating-point format (R43, R44, R45, R51): significand bits p, exponent of the smallest normal, largest finite
magnitude maxM * 2 ^ maxE, whether it has infinities, its width and its default NaN (R54). -/
structure FloatFmt where
  width : Nat
  p : Nat
  emin : Int
  maxM : Nat
  maxE : Int
  inf : Bool
  nan : Nat
  deriving DecidableEq, Repr

def fp64 : FloatFmt := { width := 64, p := 53, emin := -1022, maxM := 2 ^ 53 - 1, maxE := 971, inf := true, nan := 0x7FF8000000000000 }
def fp32 : FloatFmt := { width := 32, p := 24, emin := -126, maxM := 2 ^ 24 - 1, maxE := 104, inf := true, nan := 0x7FC00000 }
def fp16 : FloatFmt := { width := 16, p := 11, emin := -14, maxM := 2 ^ 11 - 1, maxE := 5, inf := true, nan := 0x7E00 }
def bf16 : FloatFmt := { width := 16, p := 8, emin := -126, maxM := 2 ^ 8 - 1, maxE := 120, inf := true, nan := 0x7FC0 }
def e5m2 : FloatFmt := { width := 8, p := 3, emin := -14, maxM := 7, maxE := 13, inf := true, nan := 0x7F }
def e4m3 : FloatFmt := { width := 8, p := 4, emin := -6, maxM := 14, maxE := 5, inf := false, nan := 0x7F }
def e2m1 : FloatFmt := { width := 4, p := 2, emin := 0, maxM := 3, maxE := 1, inf := false, nan := 0 }
def fp24 : FloatFmt := { width := 24, p := 16, emin := -126, maxM := 2 ^ 16 - 1, maxE := 112, inf := true, nan := 0x7FC000 }

/-- The value of a number: NaN, an infinity, or exactly ±m * 2^e (a zero keeps its sign). -/
inductive Fv where
  | nan
  | inf (neg : Bool)
  | num (neg : Bool) (m : Nat) (e : Int)
  deriving DecidableEq, Repr

def Fv.isNan (x : Fv) : Bool := match x with | .nan => true | _ => false
def Fv.isInf (x : Fv) : Bool := match x with | .inf _ => true | _ => false
def Fv.isZero (x : Fv) : Bool := match x with | .num _ 0 _ => true | _ => false
def Fv.neg? (x : Fv) : Bool := match x with | .nan => false | .inf n => n | .num n _ _ => n
def Fv.negate (x : Fv) : Fv := match x with | .nan => .nan | .inf n => .inf (!n) | .num n m e => .num (!n) m e
def Fv.zero : Fv := .num false 0 0
/-- The number 2^k. -/
def Fv.pow2 (k : Int) : Fv := .num false 1 k
def Fv.ofInt (x : Int) : Fv := .num (decide (x < 0)) x.natAbs 0
def Fv.scale (x : Fv) (k : Int) : Fv := match x with | .num n m e => .num n m (e + k) | y => y

/-- The fraction and exponent fields of a format. -/
def FloatFmt.fracBits (f : FloatFmt) : Nat := f.p - 1
def FloatFmt.expBits (f : FloatFmt) : Nat := f.width - f.p

/-- The value of a bit pattern (R43-R45, R51). -/
def Fv.ofBits (f : FloatFmt) (b : Nat) : Fv :=
  let neg := bitN b (f.width - 1)
  let ex := bits b f.fracBits f.expBits
  let fr := bits b 0 f.fracBits
  let top := decide (ex = 2 ^ f.expBits - 1)
  if top && f.inf then (if fr = 0 then .inf neg else .nan)
  else if top && f.width == 8 && fr == 7 then .nan
  else if ex = 0 then .num neg fr (f.emin - f.fracBits)
  else .num neg (fr + 2 ^ f.fracBits) (f.emin - f.fracBits + (ex - 1 : Nat))
/-- As `ofBits`, with a subnormal read as zero of its sign when `ftz` (R53). -/
def Fv.ofBitsFtz (f : FloatFmt) (ftz : Bool) (b : Nat) : Fv :=
  match Fv.ofBits f b with
  | .num n m e => if ftz && decide (m < 2 ^ f.fracBits) then .num n 0 e else .num n m e
  | x => x

/-! Rounding (R52). -/

inductive RMode where
  | rne
  | rtz
  | rdn
  | rup
  deriving DecidableEq, Repr
def RMode.of (n : BitVec 2) : RMode :=
  match n.toNat with
  | 0 => .rne
  | 1 => .rtz
  | 2 => .rdn
  | _ => .rup

/-- m * 2^e in units of 2^q: the whole units, what is left and the unit in the scale of what is left. -/
def unitsOf (m : Nat) (e q : Int) : Nat × Nat × Nat :=
  if q ≤ e then (m * 2 ^ (e - q).toNat, 0, 1)
  else let d := (q - e).toNat; (m / 2 ^ d, m % 2 ^ d, 2 ^ d)
/-- Does the mode take the next larger magnitude? -/
def roundsUp (mode : RMode) (neg : Bool) (t rem unit : Nat) : Bool :=
  decide (rem ≠ 0) && (match mode with
    | .rne => decide (2 * rem > unit ∨ (2 * rem = unit ∧ t % 2 = 1))
    | .rtz => false
    | .rdn => neg
    | .rup => !neg)
/-- ⌊log2 (m * 2^e)⌋ for m ≠ 0. -/
def lead (m : Nat) (e : Int) : Int := (Nat.log2 m : Int) + e
/-- The exponent of the last place of a magnitude in a format. -/
def FloatFmt.ulpExp (f : FloatFmt) (m : Nat) (e : Int) : Int := max (lead m e) f.emin - f.fracBits
/-- A magnitude exceeds the largest finite one of a format. -/
def FloatFmt.over (f : FloatFmt) (m : Nat) (e : Int) : Bool :=
  if e ≥ f.maxE then decide (m * 2 ^ (e - f.maxE).toNat > f.maxM) else decide (m > f.maxM * 2 ^ (f.maxE - e).toNat)
/-- The bit pattern of a sign and a magnitude that the format holds exactly. -/
def FloatFmt.packFin (f : FloatFmt) (neg : Bool) (m : Nat) (e : Int) : Nat :=
  let sgn := if neg then 2 ^ (f.width - 1) else 0
  if m = 0 then sgn
  else
    let x := lead m e
    let fr := (unitsOf m e (max x f.emin - f.fracBits)).1
    if x < f.emin then sgn + fr else sgn + ((x - f.emin).toNat + 1) * 2 ^ f.fracBits + (fr - 2 ^ f.fracBits)
def FloatFmt.packInf (f : FloatFmt) (neg : Bool) : Nat :=
  if f.inf then (if neg then 2 ^ (f.width - 1) else 0) + (2 ^ f.expBits - 1) * 2 ^ f.fracBits else f.packFin neg f.maxM f.maxE
/-- The result of an overflow (R52): OF is set. -/
def FloatFmt.overflow (f : FloatFmt) (mode : RMode) (neg : Bool) : Nat × Word :=
  let toInf := match mode with | .rne => true | .rtz => false | .rdn => neg | .rup => !neg
  (if f.inf && toInf then f.packInf neg else f.packFin neg f.maxM f.maxE, flOF)

/-- `Round` of an exact magnitude (R52), with the FTZ treatment of a tiny result (R53: tiny after rounding with an
unbounded exponent). -/
def FloatFmt.roundNum (f : FloatFmt) (mode : RMode) (ftz : Bool) (neg : Bool) (m : Nat) (e : Int) : Nat × Word :=
  if m = 0 then (f.packFin neg 0 0, flNone)
  else
    let q := f.ulpExp m e
    let r := unitsOf m e q
    let t := if roundsUp mode neg r.1 r.2.1 r.2.2 then r.1 + 1 else r.1
    if f.over t q then f.overflow mode neg
    else
      let qu := lead m e - f.fracBits
      let u := unitsOf m e qu
      let tu := if roundsUp mode neg u.1 u.2.1 u.2.2 then u.1 + 1 else u.1
      if ftz && decide (lead tu qu < f.emin) then (f.packFin neg 0 0, flNone)
      else (f.packFin neg t q, flNone)
/-- Round a value into a format (R52, R54, R56): an infinity into a format without one saturates and sets OF. -/
def FloatFmt.roundF (f : FloatFmt) (mode : RMode) (ftz : Bool) (x : Fv) : Nat × Word :=
  match x with
  | .nan => (f.nan, flNone)
  | .inf n => (f.packInf n, flagIf (!f.inf) flOF)
  | .num n m e => f.roundNum mode ftz n m e

/-- A result that may be invalid: NV is set when a NaN arises from non-NaN inputs (R54, R55). -/
structure FRes where
  val : Fv
  invalid : Bool
  deriving DecidableEq, Repr
def FRes.ok (x : Fv) : FRes := { val := x, invalid := false }
def FRes.bad : FRes := { val := .nan, invalid := true }
def FloatFmt.deliver (f : FloatFmt) (mode : RMode) (ftz : Bool) (r : FRes) : Nat × Word :=
  let x := f.roundF mode ftz r.val
  (x.1, x.2 ||| flagIf r.invalid flNV)

/-! The dither (R57). -/

/-- The 5-bit bit reversal. -/
def bitRev5 (n : Nat) : Nat := bits n 0 1 * 16 + bits n 1 1 * 8 + bits n 2 1 * 4 + bits n 3 1 * 2 + bits n 4 1
/-- The threshold of element index i and phase φ, in 1/32 (R57). -/
def dither (i phase : Nat) : Nat := bitRev5 ((i + phase) % 32)
/-- Rounding by the dither with a threshold (R57): the magnitude saturates at the largest finite, with OF. -/
def FloatFmt.ditherF (f : FloatFmt) (thr : Nat) (ftz : Bool) (x : Fv) : Nat × Word :=
  match x with
  | .num n m e =>
    if m = 0 then (f.packFin n 0 0, flNone)
    else
      let q := f.ulpExp m e
      let r := unitsOf m e q
      let t := if 32 * r.2.1 > thr * r.2.2 then r.1 + 1 else r.1
      if f.over t q then (f.packFin n f.maxM f.maxE, flOF)
      else if ftz && decide (t ≠ 0) && decide (lead t q < f.emin) then (f.packFin n 0 0, flNone)
      else (f.packFin n t q, flNone)
  | y => f.roundF .rne ftz y

/-! Exact operations (R59, R106-R109). -/

/-- An exact sum of finite terms (R52: the sign of a zero sum). -/
def sumNums (mode : RMode) (xs : List Fv) : Fv :=
  let es := xs.filterMap (fun x => match x with | .num _ m e => if m = 0 then none else some e | _ => none)
  let lo := match es with | [] => (0 : Int) | a :: r => r.foldl min a
  let tot := xs.foldl (fun (a : Int) x => match x with
    | .num n m e => if m = 0 then a else let v : Int := (m * 2 ^ (e - lo).toNat : Nat); if n then a - v else a + v
    | _ => a) 0
  if tot = 0 then
    let neg := match xs with | [] => false | _ => xs.all Fv.neg? || (mode == .rdn && xs.any Fv.neg?)
    .num neg 0 0
  else .num (decide (tot < 0)) tot.natAbs lo
/-- A sum of values: NaN of a NaN, invalid for infinities of both signs (R54). -/
def sumF (mode : RMode) (xs : List Fv) : FRes :=
  if xs.any Fv.isNan then .ok .nan
  else
    let infs := xs.filter Fv.isInf
    match infs with
    | [] => .ok (sumNums mode xs)
    | x :: r => if r.all (fun y => y == x) then .ok x else .bad
/-- A product: invalid for 0 · ∞ (R54). -/
def mulF (x y : Fv) : FRes :=
  match x, y with
  | .nan, _ | _, .nan => .ok .nan
  | .inf a, z | z, .inf a => if z.isZero then .bad else .ok (.inf (a != z.neg?))
  | .num a m e, .num b n g => .ok (.num (a != b) (m * n) (e + g))
def addF (mode : RMode) (x y : Fv) : FRes := sumF mode [x, y]
def subF (mode : RMode) (x y : Fv) : FRes := sumF mode [x, y.negate]
/-- Products and addends summed exactly (R59): a NaN among the inputs sets nothing, else any invalid part does. -/
def dotF (mode : RMode) (ps : List (Fv × Fv)) (cs : List Fv) : FRes :=
  if ps.any (fun p => p.1.isNan || p.2.isNan) || cs.any Fv.isNan then .ok .nan
  else
    let rs := ps.map (fun p => mulF p.1 p.2)
    if rs.any FRes.invalid then .bad else sumF mode (rs.map FRes.val ++ cs)
def fmaF (mode : RMode) (x y z : Fv) : FRes := dotF mode [(x, y)] [z]

/-- An odd low bit stands for what a quotient or root leaves. -/
def stick (q rem : Nat) : Nat := 2 * q + (if rem = 0 then 0 else 1)
/-- A / B to enough bits to be rounded once into a format (R106): x / 0 is an infinity with no flag. -/
def divF (f : FloatFmt) (x y : Fv) : FRes :=
  match x, y with
  | .nan, _ | _, .nan => .ok .nan
  | .inf _, .inf _ => .bad
  | .inf a, z => .ok (.inf (a != z.neg?))
  | z, .inf a => .ok (.num (a != z.neg?) 0 0)
  | .num a m e, .num b n g =>
    if n = 0 then (if m = 0 then .bad else .ok (.inf (a != b)))
    else if m = 0 then .ok (.num (a != b) 0 0)
    else
      let k := f.p + 4 + Nat.log2 n
      let w := m * 2 ^ k
      .ok (.num (a != b) (stick (w / n) (w % n)) (e - g - k - 1))
/-- The integer square root, from bit `n` down. -/
def isqrt (n x r : Nat) : Nat :=
  match n with
  | 0 => r
  | n + 1 => isqrt n x (if (r + 2 ^ n) * (r + 2 ^ n) ≤ x then r + 2 ^ n else r)
/-- √(m * 2^e) with at least p + 4 bits: magnitude and exponent. -/
def sqrtMag (p m : Nat) (e : Int) : Nat × Int :=
  let odd := e % 2
  let m1 := if odd = 0 then m else 2 * m
  let k := p + 4
  let w := m1 * 2 ^ (2 * k)
  let r := isqrt (Nat.log2 w / 2 + 1) w 0
  (stick r (w - r * r), (e - odd) / 2 - k - 1)
/-- √A (R106): −0 stays, a negative number is invalid. -/
def sqrtF (f : FloatFmt) (x : Fv) : FRes :=
  match x with
  | .nan => .ok .nan
  | .inf n => if n then .bad else .ok x
  | .num n m e =>
    if m = 0 then .ok x
    else if n then .bad
    else let r := sqrtMag f.p m e; .ok (.num false r.1 r.2)

/-- x < y with −0 below +0, for values that are not NaN (R107). -/
def ltF (x y : Fv) : Bool :=
  match x, y with
  | .nan, _ | _, .nan => false
  | .inf a, .inf b => a && !b
  | .inf a, _ => a
  | _, .inf b => !b
  | .num a m e, .num b n g =>
    let lo := min e g
    let v (neg : Bool) (k : Nat) (x : Int) : Int := let w : Int := (k * 2 ^ (x - lo).toNat : Nat); if neg then -w else w
    let p := v a m e
    let q := v b n g
    decide (p < q) || (decide (p = q) && a && !b && decide (m = 0))
/-- FMIN and FMAX (R107). -/
def minF (x y : Fv) : Fv := if x.isNan then y else if y.isNan then x else if ltF y x then y else x
def maxF (x y : Fv) : Fv := if x.isNan then y else if y.isNan then x else if ltF x y then y else x
/-- Equality with −0 = +0 (R104). -/
def eqF (x y : Fv) : Bool :=
  match x, y with
  | .nan, _ | _, .nan => false
  | .num _ 0 _, .num _ 0 _ => true
  | _, _ => !ltF x y && !ltF y x
/-- The order of FCMP (R104): −0 equals +0. -/
def ltE (x y : Fv) : Bool := ltF x y && !eqF x y

/-- Rounded to an integral value in a mode (R107): a zero keeps its sign. -/
def integralF (mode : RMode) (x : Fv) : Fv :=
  match x with
  | .num n m e =>
    let r := unitsOf m e 0
    .num n (if roundsUp mode n r.1 r.2.1 r.2.2 then r.1 + 1 else r.1) 0
  | y => y
/-- A conversion into an integer of a range (R56): clamped with NV, a NaN gives 0 with NV. -/
def toIntF (mode : RMode) (lo hi : Int) (x : Fv) : Int × Word :=
  match x with
  | .nan => (0, flNV)
  | .inf n => (if n then lo else hi, flNV)
  | .num n m e =>
    -- a magnitude of 2^80 or more lies beyond every range
    if m ≠ 0 ∧ lead m e > 80 then (if n then lo else hi, flNV)
    else
      match integralF mode (.num n m e) with
      | .num n' m' _ =>
        let v : Int := if n' then -(m' : Int) else m'
        if v < lo then (lo, flNV) else if hi < v then (hi, flNV) else (v, flNone)
      | _ => (0, flNV)

end Sys2Proof.Machine
end

