-- ==== Sys2Proof/Machine/Block.lean ====
section
/-! DEFINITION. Block-scaled formats (R46-R50, R56, R114): scales, ill-formed blocks, decoding, encoding and the choice
of a scale. Shared by BSCALE, BENC, BDEC, LDQ, STQ, CPYT and the matrix engine. -/

namespace Sys2Proof.Machine

/-- The block formats (R46, R114). -/
inductive BlkFmt where
  | e2m1x
  | mxfp4
  | e4m3
  | e5m2
  | mxint8
  deriving DecidableEq, Repr
/-- M[2:0] of the block-scale instructions (R114). -/
def BlkFmt.of (n : Nat) : BlkFmt :=
  match n with
  | 0 => .e2m1x
  | 1 => .mxfp4
  | 2 => .e4m3
  | 3 => .e5m2
  | _ => .mxint8
/-- Bits of an element. -/
def BlkFmt.bits (f : BlkFmt) : Nat := match f with | .e2m1x | .mxfp4 => 4 | _ => 8
/-- Emax as m * 2^e (R114). -/
def BlkFmt.emax (f : BlkFmt) : Nat × Int :=
  match f with
  | .e2m1x | .mxfp4 => (3, 1)
  | .e4m3 => (14, 5)
  | .e5m2 => (7, 13)
  | .mxint8 => (127, -6)
/-- An ill-formed side record (R48). -/
def illFormed (f : BlkFmt) (x z : Nat) : Bool := decide (x = 0xFF) || (f == .e2m1x && decide (z % 128 = 0x7F))

/-- The value of an element (R46, R47). -/
def decodeElem (f : BlkFmt) (x z code : Nat) : Fv :=
  if illFormed f x z then .nan
  else
    let k : Int := (x : Int) - 127
    match f with
    | .e2m1x => if code = 8 then (if z % 128 = 0 then .num true 0 0 else (Fv.ofBits Machine.e4m3 z).scale k) else (Fv.ofBits Machine.e2m1 code).scale k
    | .mxfp4 => (Fv.ofBits Machine.e2m1 code).scale k
    | .e4m3 => (Fv.ofBits Machine.e4m3 code).scale k
    | .e5m2 => (Fv.ofBits Machine.e5m2 code).scale k
    | .mxint8 => (Fv.ofInt (BitVec.ofNat 8 code).toInt).scale (k - 6)

/-- A candidate of R50 for a scaled value `b`, both in units of 2^lo: its code, its value. -/
def nearestCode (cs : List (Nat × Int)) (b : Int) : Nat × Int :=
  match cs with
  | [] => (0, 0)
  | c :: r => r.foldl (fun best d =>
      let db := (best.2 - b).natAbs
      let dd := (d.2 - b).natAbs
      -- ties: an ordinary code over 0b1000, then the even fraction bit
      if dd < db ∨ (dd = db ∧ (best.1 = 8 ∨ (d.1 ≠ 8 ∧ best.1 % 2 = 1))) then d else best) c
/-- The candidates of R50 in units of 2^lo. -/
def candidates (z : Nat) (lo : Int) : List (Nat × Int) :=
  let val (x : Fv) : Int := match x with | .num n m e => let v : Int := (unitsOf m e lo).1; if n then -v else v | _ => 0
  ((List.range 16).filter (fun c => decide (c ≠ 8))).map (fun c => (c, val (Fv.ofBits e2m1 c))) ++
    (if z % 128 = 0 then [] else [(8, val (Fv.ofBits e4m3 z))])
/-- Encode a 4-bit element under a well-formed side record (R50): MXFP4 takes Z as zero. With a threshold, the two
nearest candidates are chosen by the dither (R56, R57). -/
def encode4 (x z : Nat) (thr : Option Nat) (a : Fv) : Nat × Word :=
  match a with
  | .nan => (0, flNV)
  | .inf n =>
    let cs := (candidates z (-9)).filter (fun c => decide (c.2 < 0) == n)
    ((cs.foldl (fun best c => if c.2.natAbs > best.2.natAbs then c else best) (if n then 15 else 7, if n then -6 * 2 ^ 9 else 6 * 2 ^ 9)).1, flOF)
  | .num n m e =>
    let e' := e - ((x : Int) - 127)
    let lo := min e' (-9)
    let bv : Int := (unitsOf m e' lo).1
    let b := if n then -bv else bv
    let cs := candidates z lo
    let own := cs.filter (fun c => if n then decide (c.2 ≤ 0) else decide (c.2 ≥ 0))
    let sat := own.all (fun c => decide (c.2.natAbs < b.natAbs))
    let pick := match thr with
      | none => (nearestCode cs b).1
      | some t =>
        if sat then (nearestCode cs b).1
        else
          -- the largest candidate magnitude of the sign not above |b|, and the next larger one
          let below := own.filter (fun c => decide (c.2.natAbs ≤ b.natAbs))
          let above := own.filter (fun c => decide (c.2.natAbs ≥ b.natAbs))
          let l := below.foldl (fun best c => if c.2.natAbs > best.2.natAbs ∨ (c.2 = best.2 ∧ best.1 = 8) then c else best) (0, 0)
          match above with
          | [] => l.1
          | c0 :: r =>
            let h := r.foldl (fun best c => if c.2.natAbs < best.2.natAbs ∨ (c.2 = best.2 ∧ best.1 = 8) then c else best) c0
            if h.2 = l.2 then l.1
            else if 32 * (b.natAbs - l.2.natAbs) > t * (h.2.natAbs - l.2.natAbs) then h.1 else l.1
    let zero := match cs.find? (fun c => c.1 == pick) with | some c => decide (c.2 = 0) | none => true
    ((if zero then (if n && decide (z % 128 = 0) then 8 else 0) else pick), flagIf sat flOF)
/-- An MXINT8 element (R56): a multiple of 2^-6, saturating; with a threshold, by the dither. -/
def encodeInt8 (x : Nat) (thr : Option Nat) (a : Fv) : Nat × Word :=
  match a with
  | .nan => (0, flNV)
  | .inf n => (if n then 0x80 else 0x7F, flOF ||| flNV)
  | .num n m e =>
    let e' := e - ((x : Int) - 127) + 6
    if m ≠ 0 ∧ lead m e' > 20 then (if n then 0x80 else 0x7F, flOF)
    else
      let r := unitsOf m e' 0
      let up := match thr with | none => roundsUp .rne n r.1 r.2.1 r.2.2 | some t => decide (32 * r.2.1 > t * r.2.2)
      let t := if up then r.1 + 1 else r.1
      let v : Int := if n then -(t : Int) else t
      if v < -128 then (0x80, flOF) else if 127 < v then (0x7F, flOF) else ((v % 256).toNat, flNone)
/-- An input that R56 marks NV for a block element: a NaN of a 4-bit format, a NaN or an infinity of MXINT8. -/
def marksNV (f : BlkFmt) (a : Fv) : Bool :=
  match f, a with
  | .e2m1x, .nan | .mxfp4, .nan | .mxint8, .nan | .mxint8, .inf _ => true
  | _, _ => false
/-- Encode one element under a side record (R50, R56, R116); an ill-formed record gives code 0 and FMT (R48). An input that R56
marks NV sets it under any record, and OF, which is a saturation (R55), is set under a well-formed one alone (DEDUCED, log 60). -/
def encodeElem (f : BlkFmt) (x z : Nat) (thr : Option Nat) (a : Fv) : Nat × Word :=
  if illFormed f x z then
    (0, flFMT ||| flagIf (marksNV f a) flNV)
  else
    let sc := a.scale (127 - (x : Int))
    match f with
    | .e2m1x => encode4 x z thr a
    | .mxfp4 => encode4 x 0 thr a
    | .e4m3 => match thr with | none => Machine.e4m3.roundF .rne false sc | some t => Machine.e4m3.ditherF t false sc
    | .e5m2 => match thr with | none => Machine.e5m2.roundF .rne false sc | some t => Machine.e5m2.ditherF t false sc
    | .mxint8 => encodeInt8 x thr a

/-- The smallest e with m * 2^x ≤ Emax * 2^e (R49). -/
def scaleExp (f : BlkFmt) (m : Nat) (x : Int) : Int :=
  let mx := f.emax
  let a := lead m x - lead mx.1 mx.2
  let lo := min x (mx.2 + a)
  if m * 2 ^ (x - lo).toNat ≤ mx.1 * 2 ^ (mx.2 + a - lo).toNat then a else a + 1
/-- A finite magnitude in units of 2^lo. -/
def magAt (a : Fv) (lo : Int) : Nat := match a with | .num _ m e => (unitsOf m e lo).1 | _ => 0
/-- BScale (R49, R115): X and Z of a block. -/
def bscale (f : BlkFmt) (as : List Fv) : Nat × Nat :=
  let hasZ := f == .e2m1x
  if as.any (fun a => a.isNan || a.isInf) then (0xFF, if hasZ then 0x7F else 0)
  else
    let lo := as.foldl (fun l a => match a with | .num _ _ e => min l e | _ => l) (0 : Int)
    let m := listMax (as.map (fun a => magAt a lo))
    if m = 0 then (0x7F, 0)
    else
      let e := max (-127) (min 127 (scaleExp f m lo))
      let x := (e + 127).toNat
      if !hasZ then (x, 0)
      else
        let errs := as.map (fun a =>
          let b := a.scale (-e)
          let l := min (lo - e) (-1)
          let q := (e2m1.roundF .rne false b).1
          let bv := magAt b l
          let qv := magAt (Fv.ofBits e2m1 q) l
          if bv ≥ qv then bv - qv else qv - bv)
        let worst := listMax errs
        if worst = 0 then (x, 0)
        else
          match as[errs.idxOf worst]? with
          | none => (x, 0)
          | some a => (x, (e4m3.roundF .rne false (a.scale (-e))).1)

end Sys2Proof.Machine
end

