-- ==== Sys2Proof/Machine/MemOps.lean ====
section
/-! DEFINITION. Row 0x7 (R133-R143) and the accesses that rows 0x7 to 0x9 share: the causes of every thread decided
before any performs (R135 orders 1 to 4), the accesses performed in rising thread index with the causes of the home
slice (orders 7 and 8), and what a partly performed instruction leaves. -/

namespace Sys2Proof.Machine

/-- Threads as a mask; with U=1 the coach's Active(c). -/
def Env.unitMask (e : Env) (u : Bool) (ts : List Nat) : Mask :=
  if u then e.active else maskOf e.wg.threads (fun t => ts.contains t)
/-- A cause met before any thread performed (R135 orders 1 to 5). -/
def trapUnits (e : Env) (i : Instr) (u : Bool) (c : Cause) (addr : DWord) (ts : List Nat) (s : State) : State :=
  trapWith e i c addr (e.unitMask u ts) e.active s

/-- A cause of an access's translation: no thread performs, and the cause is on its way (R135 order 2, R246). -/
def raiseUnits (e : Env) (i : Instr) (u : Bool) (c : Cause) (addr : DWord) (ts : List Nat) (s : State) : State :=
  raiseCause e i c addr (e.unitMask u ts) e.active s

/-- An access of a unit (a thread, or the coach with U=1): its address and translation. -/
structure Target where
  t : Nat
  va : DWord
  x : Xl
  deriving DecidableEq, Repr

/-- A cause met by a unit at an address. -/
structure Miss where
  t : Nat
  cause : Cause
  va : DWord
  deriving DecidableEq, Repr

/-- Translate an address for every unit. -/
def translateEach (e : Env) (need : Need) (l : List (Nat × DWord)) (s : State) : List Target × List Miss × State :=
  match l with
  | [] => ([], [], s)
  | (t, va) :: r =>
    match s.translate (some e.core) e.site e.ctx va need with
    | (.ok x, s1) => let q := translateEach e need r s1; ({ t := t, va := va, x := x } :: q.1, q.2)
    | (.error c, s1) => let q := translateEach e need r s1; (q.1, { t := t, cause := c, va := va } :: q.2.1, q.2.2)
/-- The cause of the lowest unit of a list, with the units that raised it. -/
def lowestMiss (l : List Miss) : Option (Cause × DWord × List Nat) :=
  match l with
  | [] => none
  | m :: _ => some (m.cause, m.va, (l.filter (fun n => n.cause == m.cause)).map Miss.t)

/-- A register of space 3 is accessed by 8 bytes (R374). -/
def badWindow (size : Nat) (x : Xl) : Bool := decide (paSpace x.pa = 3 ∧ size ≠ 8)

/-- Orders 1 and 2 of R135 for an access of `size` bytes of every unit; then go on, unless a self-test holds one (R380). -/
def accessAll (e : Env) (i : Instr) (u : Bool) (size : Nat) (need : Need) (ea : Nat → DWord) (s : State)
    (k : List Target → State → State) : State :=
  let us := e.units u
  match us.filter (fun t => decide ((ea t).toNat % size ≠ 0)) with
  | t :: r => trapUnits e i u cUNALIGNED (ea t) (t :: r) s
  | [] =>
    let q := translateEach e need (us.map (fun t => (t, ea t))) s
    match lowestMiss q.2.1 with
    | some (c, va, ts) => raiseUnits e i u c va ts q.2.2
    | none =>
      match q.1.filter (fun g => badWindow size g.x) with
      | g :: r => trapUnits e i u cUNALIGNED g.va ((g :: r).map Target.t) q.2.2
      | [] => if q.1.any (fun g => q.2.2.tested g.x.pa size) then stall q.2.2 else k q.1 q.2.2

/-- What the units of an instruction have done: registers written, the latest line clock read, flags raised, causes. -/
structure Done where
  ws : List RegWrite
  clk : Option Word
  fl : Word
  misses : List Miss
  deriving DecidableEq, Repr
def Done.none : Done := { ws := [], clk := Option.none, fl := 0, misses := [] }

/-- Perform each access in turn (R136): one that the home slice refuses is not performed. -/
def performEach (check : Target → State → Option (Cause × DWord) × State)
    (act : Target → State → (List RegWrite × Option Word × Word) × State) (l : List Target) (d : Done) (s : State) : Done × State :=
  match l with
  | [] => (d, s)
  | g :: r =>
    match check g s with
    | (some (c, va), s1) => performEach check act r { d with misses := d.misses ++ [{ t := g.t, cause := c, va := va }] } s1
    | (none, s1) =>
      let q := act g s1
      let clk := match d.clk, q.1.2.1 with | some a, some b => some (clkMax a b) | a, none => a | none, b => b
      performEach check act r { d with ws := d.ws ++ q.1.1, clk := clk, fl := d.fl ||| q.1.2.2 } q.2

/-- The cause taken of those that the home slices raised: order 7 before order 8, then the lowest unit (R135). -/
def worstMiss (l : List Miss) : Option (Cause × DWord × List Nat) :=
  match lowestMiss (l.filter (fun m => m.cause == cRETENTION_EXPIRED || m.cause == cECC_UNCORRECTABLE)) with
  | some m => some m
  | none => lowestMiss l

/-- End a trackable memory instruction: what passed is performed, and the rest makes its FAULTED entry (R135). -/
def settleMem (e : Env) (i : Instr) (u : Bool) (d : Done) (s : State) : State :=
  let s1 := s.raise e d.fl
  match worstMiss d.misses with
  | none => tracked e i d.ws s1
  | some (c, va, ts) =>
    raiseCause e i c va (e.unitMask u ts) (e.unitMask u (d.misses.map Miss.t)) (s1.modCoach e.ref (fun c => c.writeRegs e.tick d.ws))

/-- The home slice's check of one access (R135 orders 7 and 8). A load or a store that the column cache serves on an
RDC=0 page does not reach the home. -/
def checkHome (e : Env) (size : Nat) (kind : AccKind) (g : Target) (s : State) : Option (Cause × DWord) × State :=
  match s.homeCheck e.acc g.x size kind with
  | (some c, s1) => (some (c, g.va), s1)
  | (none, s1) => (none, s1)
def loadAway (e : Env) (size : Nat) (g : Target) (s : State) : Bool := leafRDC g.x.leaf || leafREX g.x.leaf || !s.ccHit e.core g.x.pa size
def storeAway (nt : Bool) (g : Target) : Bool := !cacheable g.x nt || leafRDC g.x.leaf
def checkLoad (e : Env) (size : Nat) (g : Target) (s : State) : Option (Cause × DWord) × State :=
  if loadAway e size g s then checkHome e size .read g s else (none, s)
def checkStore (e : Env) (size : Nat) (nt : Bool) (g : Target) (s : State) : Option (Cause × DWord) × State :=
  if storeAway nt g then checkHome e size .write g s else (none, s)

/-! Plain loads and stores (R139). -/

/-- The register words of loaded bytes: extended when smaller than a register. -/
def loadWords (size : Nat) (sx : Bool) (bs : List Byte) : List Word :=
  let v := ofBytesLE bs
  match size with
  | 1 => [if sx then (BitVec.ofNat 8 v).signExtend 32 else BitVec.ofNat 32 v]
  | 2 => [if sx then (BitVec.ofNat 16 v).signExtend 32 else BitVec.ofNat 32 v]
  | _ => natToWords (size / 4) v
/-- The writes of a run of words at T. -/
def putWords (u : Bool) (r : RegNo) (t : Nat) (ws : List Word) : List RegWrite :=
  (List.zip (List.range ws.length) ws).map (fun w => { scalar := u, reg := r.toNat + w.1, thread := if u then 0 else t, val := w.2 })
/-- The bytes a unit stores from T. -/
def Env.storeData (e : Env) (f : FM) (size t : Nat) : List Byte :=
  bytesLE size (wordsToNat ((List.range ((size + 3) / 4)).map (fun j => e.data f.u f.t j t)))

def loadM (i : Instr) (f : FM) (size : Nat) (e : Env) (s : State) : State :=
  accessAll e i f.u size .read (e.ea f.u f.base f.idx) s (fun gs s =>
    let r := performEach (checkLoad e size) (fun g s =>
      let q := s.loadBytes e.acc g.x size f.nt
      ((putWords f.u f.t g.t (loadWords size (f.scope == 1) q.1), none, 0), q.2)) gs .none s
    settleMem e i f.u r.1 r.2)
def storeM (i : Instr) (f : FM) (size : Nat) (e : Env) (s : State) : State :=
  accessAll e i f.u size .write (e.ea f.u f.base f.idx) s (fun gs s =>
    let r := performEach (checkStore e size f.nt) (fun g s =>
      (([], none, 0), s.storeBytes e.acc g.x (e.storeData f size g.t) f.nt)) gs .none s
    settleMem e i f.u r.1 r.2)

def execLd8 (f : FM) (s : State) : Host.Outcome State Fault Refusal := issue (.ld8 f) s (loadM (.ld8 f) f 1)
def execLd16 (f : FM) (s : State) : Host.Outcome State Fault Refusal := issue (.ld16 f) s (loadM (.ld16 f) f 2)
def execLd32 (f : FM) (s : State) : Host.Outcome State Fault Refusal := issue (.ld32 f) s (loadM (.ld32 f) f 4)
def execLd64 (f : FM) (s : State) : Host.Outcome State Fault Refusal := issue (.ld64 f) s (loadM (.ld64 f) f 8)
def execLd128 (f : FM) (s : State) : Host.Outcome State Fault Refusal := issue (.ld128 f) s (loadM (.ld128 f) f 16)
def execSt8 (f : FM) (s : State) : Host.Outcome State Fault Refusal := issue (.st8 f) s (storeM (.st8 f) f 1)
def execSt16 (f : FM) (s : State) : Host.Outcome State Fault Refusal := issue (.st16 f) s (storeM (.st16 f) f 2)
def execSt32 (f : FM) (s : State) : Host.Outcome State Fault Refusal := issue (.st32 f) s (storeM (.st32 f) f 4)
def execSt64 (f : FM) (s : State) : Host.Outcome State Fault Refusal := issue (.st64 f) s (storeM (.st64 f) f 8)
def execSt128 (f : FM) (s : State) : Host.Outcome State Fault Refusal := issue (.st128 f) s (storeM (.st128 f) f 16)

/-! Synchronising accesses (R140) and fences (R141). -/

/-- Acquire with the clock an instruction read, if it read any. -/
def State.acquireOpt (s : State) (slot scope : Nat) (k : Option Word) : State :=
  match k with | none => s | some k => s.acquire slot scope k

/-- LDACQ: a unit's word and line clock are read at the home in one step, where the core's copy is dropped, and the acquire
follows the last of them. -/
def execLdacq (f : FM) (s : State) : Host.Outcome State Fault Refusal :=
  issue (.ldacq f) s (fun e s =>
    accessAll e (.ldacq f) f.u 4 .read (e.ea f.u f.base f.idx) s (fun gs s =>
      let r := performEach (checkHome e 4 (.sync true false)) (fun g s =>
        let s1 := (s.ccDrop e.core (g.x.pa / 128)).homeTouch g.x.pa
        ((putWords f.u f.t g.t [BitVec.ofNat 32 (ofBytesLE (s1.homeLoad g.x 4))], some (s1.lineClock g.x.pa), 0), s1)) gs .none s
      settleMem e (.ldacq f) f.u r.1 (r.2.acquireOpt e.ref.slot f.scope.toNat r.1.clk)))
/-- STREL: one release for the coach, then each unit's store and the line clock at its home. -/
def execStrel (f : FM) (s : State) : Host.Outcome State Fault Refusal :=
  issue (.strel f) s (fun e s =>
    accessAll e (.strel f) f.u 4 .write (e.ea f.u f.base f.idx) s (fun gs s =>
      if s.engineBusy e.ref f.scope.toNat then stall s
      else
        let k := s.release e.ref.slot f.scope.toNat
        let r := performEach (checkHome e 4 (.sync false true)) (fun g s =>
          let s1 := (s.ccDrop e.core (g.x.pa / 128)).homeTouch g.x.pa
          (([], none, 0), (s1.homeStore g.x (e.storeData f 4 g.t)).raiseLine g.x.pa k.1)) gs .none k.2
        settleMem e (.strel f) f.u r.1 r.2))
/-- FENCE: kind T[1:0] is 1 acquire, 2 release, 3 both. -/
def execFence (f : FM) (s : State) : Host.Outcome State Fault Refusal :=
  issue (.fence f) s (fun e s =>
    let rel := f.t.getLsbD 1
    if rel && s.engineBusy e.ref f.scope.toNat then stall s
    else
      let s1 := if rel then (s.release e.ref.slot f.scope.toNat).2 else s
      finish e (if f.t.getLsbD 0 then s1.acquire e.ref.slot f.scope.toNat (s1.oclk e.ref.slot) else s1))

/-! PREF (R143). -/

/-- Fetch the line of an address; a prefetch that would fault, here or of an uncorrectable error in the line, or of a
refresh-exempt page, is dropped. -/
def prefOne (e : Env) (cc : Bool) (s : State) (va : DWord) : State :=
  match s.translate (some e.core) e.site e.ctx va .read with
  | (.error _, s1) => s1
  | (.ok x, s1) =>
    if paSpace x.pa ≥ 2 || leafREX x.leaf || s1.poisoned (x.pa / 128 * 128) 128 then s1
    else
      let s2 := s1.homeTouch x.pa
      if cc && cacheable x false then (s2.ccAlloc e.core (x.pa / 128) (streaming x)).ccFill e.core (x.pa / 128) else s2
def execPref (f : FM) (s : State) : Host.Outcome State Fault Refusal :=
  issue (.pref f) s (fun e s =>
    finish e ((e.units f.u).foldl (fun t u => prefOne e (f.t == 0) t (e.ea f.u f.base f.idx u)) s))

/-! Format-decoded accesses (R142, R283). -/

/-- The block format of a format code 1 to 5. -/
def Frd.blk (d : Frd) : Option BlkFmt :=
  match d.format with
  | 1 => some .e4m3
  | 2 => some .e5m2
  | 3 => some .mxfp4
  | 4 => some .e2m1x
  | 5 => some .mxint8
  | _ => none
/-- FMT_RESERVED (R283). -/
def Frd.reserved (d : Frd) : Bool := d.rsv || decide (d.block ≠ 32) || (d.blk.isSome && d.sbase.getLsbD 0)
/-- The format of an address (R142 step 3): its descriptor and offset, or the cause. -/
def State.formatAt (s : State) (site ctx : Nat) (va : DWord) (x : Xl) : Except Cause (Frd × Nat) × State :=
  if !leafFMTEN x.leaf then (.error cXLATE_FORMAT, s)
  else
    match s.frdOf site ctx (leafFMT x.leaf) with
    | (none, s1) => (.error cECC_UNCORRECTABLE, s1)
    | (some d, s1) =>
      if d.format ≥ 8 then (.error cXLATE_FORMAT, s1)
      else
        match d.offset va with
        | none => (.error cXLATE_FORMAT, s1)
        | some o => if d.reserved then (.error cFMT_RESERVED, s1) else (.ok (d, o), s1)

/-- A format-decoded access of a unit: its descriptor, offset and, for a block format, its side record. -/
structure QTarget where
  g : Target
  d : Frd
  off : Nat
  side : Option Target
  deriving DecidableEq, Repr

/-- Step 3 of R142 for every unit. -/
def formatEach (e : Env) (l : List Target) (s : State) : List QTarget × List Miss × State :=
  match l with
  | [] => ([], [], s)
  | g :: r =>
    match s.formatAt e.site e.ctx g.va g.x with
    | (.ok (d, o), s1) => let q := formatEach e r s1; ({ g := g, d := d, off := o, side := none } :: q.1, q.2)
    | (.error c, s1) => let q := formatEach e r s1; (q.1, { t := g.t, cause := c, va := g.va } :: q.2.1, q.2.2)
/-- Step 4 of R142 for every unit. -/
def sideEach (e : Env) (l : List QTarget) (s : State) : List QTarget × List Miss × State :=
  match l with
  | [] => ([], [], s)
  | g :: r =>
    if g.d.blk.isNone then let q := sideEach e r s; (g :: q.1, q.2)
    else
      let va := g.d.sideVa g.off
      match s.translate (some e.core) e.site e.ctx va .read with
      | (.ok x, s1) =>
        let q := sideEach e r s1
        ({ g with side := some { t := g.g.t, va := va, x := x } } :: q.1, q.2)
      | (.error c, s1) => let q := sideEach e r s1; (q.1, { t := g.g.t, cause := c, va := va } :: q.2.1, q.2.2)

/-- Steps 2 to 6 of R142 for LDQ and STQ; then go on. -/
def formatAll (e : Env) (i : Instr) (f : FM) (need : Need) (s : State) (k : List QTarget → State → State) : State :=
  let q := translateEach e need ((e.units f.u).map (fun t => (t, e.ea f.u f.base f.idx t))) s
  match lowestMiss q.2.1 with
  | some (c, va, ts) => raiseUnits e i f.u c va ts q.2.2
  | none =>
    let p := formatEach e q.1 q.2.2
    let first := match lowestMiss (p.2.1.filter (fun m => m.cause == cXLATE_FORMAT)) with | some m => some m | none => lowestMiss p.2.1
    match first with
    | some (c, va, ts) => raiseUnits e i f.u c va ts p.2.2
    | none =>
      let r := sideEach e p.1 p.2.2
      match lowestMiss r.2.1 with
      | some (c, va, ts) => raiseUnits e i f.u c va ts r.2.2
      | none =>
        let s1 := r.2.2
        let four := (r.1.filter (fun g => g.d.half)).map (fun g => g.g.t)
        let limit := if f.u then e.wg.sregs else e.wg.vregs
        if !four.isEmpty && f.t.getLsbD 0 then trapUnits e i f.u cILLEGAL_FIELD 0 four s1
        else if !four.isEmpty && decide (f.t.toNat + 1 ≥ limit) then trapUnits e i f.u cREG_RANGE 0 four s1
        else
          match r.1.filter (fun g => decide (g.g.va.toNat % g.d.size ≠ 0) || badWindow g.d.size g.g.x ||
              (match g.side with | some d => badWindow 2 d.x | none => false)) with
          | g :: l => trapUnits e i f.u cUNALIGNED g.g.va ((g :: l).map (fun g => g.g.t)) s1
          | [] => if r.1.any (fun g => s1.tested g.g.x.pa g.d.size) then stall s1 else k r.1 s1

/-- The cause of order 7 of R135 of a unit's accesses that reach their homes: the element's, then the side record's. -/
def faultQ (e : Env) (nt wr : Bool) (q : QTarget) (s : State) : Option (Cause × DWord) :=
  let own := if (if wr then storeAway nt q.g else loadAway e q.d.size q.g s) then s.homeFault q.g.x q.d.size else none
  match own, q.side with
  | some c, _ => some (c, q.g.va)
  | none, some g => if loadAway e 2 g s then (s.homeFault g.x 2).map (fun c => (c, g.va)) else none
  | none, none => none
/-- Perform the accesses of LDQ and STQ in rising thread index: the checks of order 7, then the race checks, the element's
before the side record's. -/
def performQ (e : Env) (nt wr : Bool) (act : QTarget → Nat → Nat → State → (List RegWrite × Word) × State) (l : List QTarget)
    (d : Done) (s : State) : Done × State :=
  match l with
  | [] => (d, s)
  | q :: r =>
    let el := match faultQ e nt wr q s with
      | some c => (some c, s)
      | none => if wr then checkStore e q.d.size nt q.g s else checkLoad e q.d.size q.g s
    let sd := match el.1, q.side with
      | none, some g => checkLoad e 2 g el.2
      | _, _ => el
    match sd.1 with
    | some (c, va) => performQ e nt wr act r { d with misses := d.misses ++ [{ t := q.g.t, cause := c, va := va }] } sd.2
    | none =>
      let rec_ := match q.side with
        | none => ([], sd.2)
        | some g => sd.2.loadBytes e.acc g.x 2 nt
      let a := act q (fieldLE rec_.1 0 1) (fieldLE rec_.1 1 1) rec_.2
      performQ e nt wr act r { d with ws := d.ws ++ a.1.1, fl := d.fl ||| a.1.2 } a.2

/-- The registers LDQ writes from the bytes of an access (R142). -/
def ldqWords (d : Frd) (x z : Nat) (bs : List Byte) : List Word × Word :=
  let v := ofBytesLE bs
  let out (r : Nat × Word) : Word × Word := (BitVec.ofNat 32 r.1, r.2)
  match d.blk with
  | some k =>
    let one (c : Nat) : Word × Word := let r := out (fp32.roundF .rne false (decodeElem k x z c)); (r.1, r.2 ||| flagIf (illFormed k x z) flFMT)
    if d.half then
      let a := one (v % 16)
      let b := one (v / 16)
      ([a.1, b.1], a.2 ||| b.2)
    else let a := one v; ([a.1], a.2)
  | none =>
    match d.format with
    | 0 => ([BitVec.ofNat 32 v], flNone)
    | 6 => let a := out (fp32.roundF .rne false (Fv.ofBits bf16 v)); ([a.1], a.2)
    | _ => let a := out (fp32.roundF .rne false (Fv.ofBits fp16 v)); ([a.1], a.2)
def execLdq (f : FM) (s : State) : Host.Outcome State Fault Refusal :=
  issue (.ldq f) s (fun e s => formatAll e (.ldq f) f .read s (fun qs s =>
    let r := performQ e f.nt false (fun q x z s =>
      let b := s.loadBytes e.acc q.g.x q.d.size f.nt
      let w := ldqWords q.d x z b.1
      ((putWords f.u f.t q.g.t w.1, w.2), b.2)) qs .none s
    settleMem e (.ldq f) f.u r.1 r.2))

/-- The dither threshold of an element of STQ.sr (R57, R58). -/
def stqThreshold (f : FM) (d : Frd) (phase off j : Nat) : Option Nat :=
  if f.scope = 0 then none
  else if d.half then some (dither ((2 * (off % 16) + j) % 32) phase)
  else if d.blk.isSome then some (dither (off % 32) phase)
  else some (dither (off / d.size % 32) phase)
/-- The bytes STQ stores for a unit, and the flags (R142). -/
def stqBytes (e : Env) (f : FM) (d : Frd) (off x z t : Nat) : List Byte × Word :=
  let phase := e.phase.toNat
  let val (j : Nat) : Fv := Fv.ofBits fp32 (e.data f.u f.t j t).toNat
  match d.blk with
  | some k =>
    let one (j : Nat) : Nat × Word := encodeElem k x z (stqThreshold f d phase off j) (val j)
    if d.half then
      let a := one 0
      let b := one 1
      ([BitVec.ofNat 8 (a.1 % 16 + 16 * b.1)], a.2 ||| b.2)
    else let a := one 0; ([BitVec.ofNat 8 a.1], a.2)
  | none =>
    if d.format = 0 then (bytesLE 4 (e.data f.u f.t 0 t).toNat, flNone)
    else
      let fm := if d.format = 6 then bf16 else fp16
      let a := match stqThreshold f d phase off 0 with
        | none => fm.roundF .rne false (val 0)
        | some th => fm.ditherF th false (val 0)
      (bytesLE 2 a.1, a.2)
def execStq (f : FM) (s : State) : Host.Outcome State Fault Refusal :=
  issue (.stq f) s (fun e s => formatAll e (.stq f) f .write s (fun qs s =>
    let r := performQ e f.nt true (fun q x z s =>
      let b := stqBytes e f q.d q.off x z q.g.t
      (([], b.2), s.storeBytes e.acc q.g.x b.1 f.nt)) qs .none s
    settleMem e (.stq f) f.u r.1 r.2))

end Sys2Proof.Machine
end

