-- ==== Sys2Proof/Machine/Buffers.lean ====
section
/-! DEFINITION. Row 0x8: loads and stores of the SBUF and the typed buffers with their windows and the matrix engine's
claims on them (R144, R145, R272, R294), and the atomics (R146-R148, R86). -/

namespace Sys2Proof.Machine

/-! Bytes of a buffer. -/

/-- Bytes [lo, lo + n) of a buffer; what is not listed reads 0 (R273, R294). -/
def bufRead (t : Table Byte) (lo n : Nat) : List Byte :=
  let part := t.filter (fun e => decide (lo ≤ e.1 ∧ e.1 < lo + n))
  (upFrom lo n).map (fun a => Table.getD part a 0)
/-- Put bytes at an offset, listing only those that are not 0. -/
def bufWrite (t : Table Byte) (lo : Nat) (bs : List Byte) : Table Byte :=
  t.filter (fun e => decide (e.1 < lo)) ++ (List.zip (upFrom lo bs.length) bs).filter (fun e => !decide (e.2 = 0)) ++
    t.filter (fun e => decide (lo + bs.length ≤ e.1))

/-- The buffers of a core (R187's kinds). -/
inductive Buf where
  | sbuf
  | xbuf
  | wbuf
  | abuf
  deriving DecidableEq, Repr
def Buf.ofKind (n : Nat) : Option Buf :=
  match n with
  | 1 => some .sbuf
  | 2 => some .xbuf
  | 3 => some .wbuf
  | 4 => some .abuf
  | _ => none
def Core.buf (c : Core) (b : Buf) : Table Byte :=
  match b with
  | .sbuf => c.sbuf
  | .xbuf => c.xbuf
  | .wbuf => c.wbuf
  | .abuf => c.abuf
def Core.setBuf (c : Core) (b : Buf) (t : Table Byte) : Core :=
  match b with
  | .sbuf => { c with sbuf := t }
  | .xbuf => { c with xbuf := t }
  | .wbuf => { c with wbuf := t }
  | .abuf => { c with abuf := t }

/-- The kind of a buffer (R187). -/
def Buf.kind (b : Buf) : Nat :=
  match b with
  | .sbuf => 1
  | .xbuf => 2
  | .wbuf => 3
  | .abuf => 4
/-- The blocks of 16 bytes of a buffer that an access of [off, off + n) reads, a write only those that it covers in part. -/
def blocksRead (off n : Nat) (write : Bool) : List Nat :=
  (upFrom (off / 16) ((off + n + 15) / 16 - off / 16)).filter (fun b => !write || decide (16 * b < off ∨ off + n < 16 * b + 16))
/-- An access of a buffer meets an uncorrectable error (R270). -/
def Core.bufBad (c : Core) (b : Buf) (off n : Nat) (write : Bool) : Bool :=
  !c.bad.isEmpty && (blocksRead off n write).any (fun k => c.bad.contains (b.kind, k))
/-- Write bytes of a buffer; a block that is written whole has new check bits. -/
def Core.putBytes (c : Core) (b : Buf) (off : Nat) (bs : List Byte) : Core :=
  { (c.setBuf b (bufWrite (c.buf b) off bs)) with
    bad := c.bad.filter (fun x => !(x.1 == b.kind && decide (off ≤ 16 * x.2 ∧ 16 * x.2 + 16 ≤ off + bs.length))) }

/-- The reservation of a grid on a core; empty when it has none. -/
def Core.resvOf (c : Core) (gid : Nat) : Resv :=
  match c.resv.find? (fun r => r.gid == gid) with
  | some r => r
  | none => { gid := gid, xbase := 0, xsize := 0, wbase := 0, wsize := 0, abase := 0, asize := 0 }
/-- A workgroup's window in a buffer: its first byte in the core's buffer and its size (R144). -/
def Core.window (c : Core) (w : Workgroup) (b : Buf) : Nat × Nat :=
  let r := c.resvOf w.gid
  match b with
  | .sbuf => (w.sbufBase, w.sbufSize)
  | .xbuf => (r.xbase, r.xsize)
  | .wbuf => (r.wbase, r.wsize)
  | .abuf => (r.abase, r.asize)

/-! The matrix engine's claims (R145, R178). -/

def tileBytes : Nat := 16384
/-- The tiles that bytes [off, off + n) of a grid's ABUF window touch. -/
def tilesAt (off n : Nat) : List Nat := if n = 0 then [] else upFrom (off / tileBytes) ((off + n - 1) / tileBytes - off / tileBytes + 1)
def Core.invalidTile (c : Core) (gid tile : Nat) : Bool := c.inval.contains (gid, tile)
/-- A batch that has not completed targets a tile of a grid. -/
def Core.targets (c : Core) (gid tile : Nat) (p : Batch → Bool) : Bool :=
  c.batches.any (fun b => b.gid == gid && (Table.find b.tiles tile).isSome && p b)
/-- The open batch of a coach. -/
def isOpen (slot k : Nat) (b : Batch) : Bool := b.slot == slot && b.k == k && !b.closed

/-- Bytes of an operand row, and of its side area: R172, R173. `op` is the MMA's opcode less 0xA0. -/
def mmaK (op : Nat) : Nat := [64, 64, 128, 128, 256, 256, 128, 32, 16].getD op 0
/-- Bits of an element. -/
def mmaBits (op : Nat) : Nat := [16, 16, 8, 8, 4, 4, 8, 32, 64].getD op 0
def rowBytes (op : Nat) (trans : Bool) : Nat := if trans then 8 * mmaBits op else 128
def rowCount (op : Nat) (trans : Bool) : Nat := if trans then mmaK op else 64
/-- The types whose buffer operands are scaled, with the bytes of their side area. -/
def sideBytes (op : Nat) : Nat := match op with | 2 | 3 => 512 | 4 | 5 => 1024 | _ => 0
/-- The ranges of its buffer's window that a buffer operand occupies: its rows, and its side area. -/
def MOperand.extents (m : MOperand) (op : Nat) : List (Nat × Nat) :=
  let rows := (m.addr.toNat, (rowCount op m.trans - 1) * m.stride + rowBytes op m.trans)
  if sideBytes op = 0 then [rows] else [rows, (m.addr.toNat + 64 * m.stride, sideBytes op)]
/-- A buffer operand holds pins, from acceptance until it is consumed (R178). They do not hold back what is delivered to
the tin that it waits for (R174). -/
def MOperand.pinsFor (m : MOperand) (tin : Option Nat) : Bool := !m.global && !(m.rows.isNone && tin.isSome && m.gate == tin)
/-- The pins of an entry that an access delivering to a tin, or to none, meets. -/
def MEntry.pins (m : MEntry) (tin : Option Nat) : List (Buf × Nat × Nat) :=
  match m.op with
  | .mma op _ _ _ a b =>
    if m.consumed then []
    else
      (if a.pinsFor tin then (a.extents op).map (fun x => (Buf.xbuf, x.1, x.2)) else []) ++
        (if b.pinsFor tin then (b.extents op).map (fun x => (Buf.wbuf, x.1, x.2)) else [])
  | _ => []
/-- Bytes [off, off + n) of a grid's window are pinned against such an access. -/
def Core.pinned (c : Core) (gid : Nat) (b : Buf) (off n : Nat) (tin : Option Nat) : Bool :=
  c.mq.any (fun m => m.gid == gid && (m.pins tin).any (fun p => p.1 == b && decide (p.2.1 < off + n ∧ off < p.2.1 + p.2.2)))

/-! Buffer loads and stores. -/

/-- The cause of order 4 that an access of a buffer meets (R135, R144, R145). -/
def bufCause (c : Core) (e : Env) (b : Buf) (size : Nat) (va : DWord) : Option Cause :=
  if va.toNat + size > (c.window e.wg b).2 then some cBUF_RANGE
  else if b ≠ .abuf then none
  else
    let t := va.toNat / tileBytes
    if c.targets e.wg.gid t (isOpen e.ref.slot e.ref.k) then some cMTX_DESC
    else if c.invalidTile e.wg.gid t then some cMTX_INVALID_ACC
    else none
/-- The number of a core's buffer in the self-test's class 2 (R380; the spec numbers the units of no class: DESIGN CHOICE, log 115). -/
def bufUnit (core : Nat) (b : Buf) : Nat := 4 * (core % 32) + (b.kind - 1)
/-- A self-test holds a core's buffer (R380). -/
def State.bufTested (s : State) (core : Nat) (b : Buf) : Bool := (s.site (siteOfCore core)).testing.contains (2, bufUnit core b)
/-- An access that waits: a store to pinned bytes, or the ABUF tile of a batch that has not completed (R145). -/
def bufStalls (c : Core) (e : Env) (b : Buf) (size : Nat) (store : Bool) (va : DWord) : Bool :=
  if b = .abuf then c.targets e.wg.gid (va.toNat / tileBytes) (fun _ => true)
  else store && c.pinned e.wg.gid b va.toNat size none

/-- Perform a buffer access of each unit in turn; one that meets an uncorrectable error is not performed (R135, R270). -/
def bufEach (core : Nat) (b : Buf) (size : Nat) (store : Bool) (base : Nat) (ea : Nat → DWord)
    (act : Nat → Nat → State → (List RegWrite × Word) × State) (us : List Nat) (d : Done) (s : State) : Done × State :=
  match us with
  | [] => (d, s)
  | t :: r =>
    let off := base + (ea t).toNat
    if (s.core core).bufBad b off size store then
      bufEach core b size store base ea act r { d with misses := d.misses ++ [{ t := t, cause := cECC_UNCORRECTABLE, va := ea t }] } s
    else
      let a := act t off s
      bufEach core b size store base ea act r { d with ws := d.ws ++ a.1.1, fl := d.fl ||| a.1.2 } a.2
/-- Orders 1 and 4 of R135 for a buffer access of every unit; then perform them. -/
def bufAll (e : Env) (i : Instr) (u : Bool) (b : Buf) (size : Nat) (store : Bool) (ea : Nat → DWord) (s : State)
    (act : Nat → Nat → State → (List RegWrite × Word) × State) : State :=
  let us := e.units u
  let c := s.core e.core
  match us.filter (fun t => decide ((ea t).toNat % size ≠ 0)) with
  | t :: r => trapUnits e i u cUNALIGNED (ea t) (t :: r) s
  | [] =>
    match lowestMiss (us.filterMap (fun t => (bufCause c e b size (ea t)).map (fun k => { t := t, cause := k, va := ea t : Miss }))) with
    | some (k, va, ts) => trapUnits e i u k va ts s
    | none =>
      if s.bufTested e.core b || us.any (fun t => bufStalls c e b size store (ea t)) then stall s
      else
        let r := bufEach e.core b size store (c.window e.wg b).1 ea act us .none s
        settleMem e i u r.1 r.2
def loadB (i : Instr) (f : FM) (b : Buf) (size : Nat) (e : Env) (s : State) : State :=
  bufAll e i f.u b size false (e.ea f.u f.base f.idx) s (fun t off s =>
    ((putWords f.u f.t t (loadWords size false (bufRead ((s.core e.core).buf b) off size)), 0), s))
def storeB (i : Instr) (f : FM) (b : Buf) (size : Nat) (e : Env) (s : State) : State :=
  bufAll e i f.u b size true (e.ea f.u f.base f.idx) s (fun t off s =>
    (([], 0), s.setCore e.core ((s.core e.core).putBytes b off (e.storeData f size t))))

def execLds (f : FM) (s : State) : Host.Outcome State Fault Refusal := issue (.lds f) s (loadB (.lds f) f .sbuf 4)
def execSts (f : FM) (s : State) : Host.Outcome State Fault Refusal := issue (.sts f) s (storeB (.sts f) f .sbuf 4)
def execLds128 (f : FM) (s : State) : Host.Outcome State Fault Refusal := issue (.lds128 f) s (loadB (.lds128 f) f .sbuf 16)
def execSts128 (f : FM) (s : State) : Host.Outcome State Fault Refusal := issue (.sts128 f) s (storeB (.sts128 f) f .sbuf 16)
def execLdx (f : FM) (s : State) : Host.Outcome State Fault Refusal := issue (.ldx f) s (loadB (.ldx f) f .xbuf 16)
def execStx (f : FM) (s : State) : Host.Outcome State Fault Refusal := issue (.stx f) s (storeB (.stx f) f .xbuf 16)
def execLdw (f : FM) (s : State) : Host.Outcome State Fault Refusal := issue (.ldw f) s (loadB (.ldw f) f .wbuf 16)
def execStw (f : FM) (s : State) : Host.Outcome State Fault Refusal := issue (.stw f) s (storeB (.stw f) f .wbuf 16)
def execLdac (f : FM) (s : State) : Host.Outcome State Fault Refusal := issue (.ldac f) s (loadB (.ldac f) f .abuf 16)
def execStac (f : FM) (s : State) : Host.Outcome State Fault Refusal := issue (.stac f) s (storeB (.stac f) f .abuf 16)

/-! Atomics (R86, R146-R148). -/

/-- The combining operation of AOP on an old word and an operand (R86), with its flags. -/
def combine (aop : Nat) (old x : Word) : Word × Word :=
  let flt (r : Nat × Word) : Word × Word := (BitVec.ofNat 32 r.1, r.2)
  let fo := Fv.ofBits fp32 old.toNat
  let fx := Fv.ofBits fp32 x.toNat
  match aop with
  | 0 => (old + x, 0)
  | 1 => (old - x, 0)
  | 2 => (if old.slt x then old else x, 0)
  | 3 => (if x.slt old then old else x, 0)
  | 4 => (if old.ult x then old else x, 0)
  | 5 => (if x.ult old then old else x, 0)
  | 6 => (old &&& x, 0)
  | 7 => (old ||| x, 0)
  | 8 => (x, 0)
  | 9 => (if x.ult old || x == old then 0 else old + 1, 0)
  | 10 => (if old == 0 || x.ult old then x else old - 1, 0)
  | 11 => flt (fp32.deliver .rne false (addF .rne fo fx))
  | 12 => ((flt (fp32.roundF .rne false (minF fo fx))).1, 0)
  | 13 => ((flt (fp32.roundF .rne false (maxF fo fx))).1, 0)
  | 14 =>
    let half (lo : Nat) : Nat × Word :=
      bf16.deliver .rne false (addF .rne (Fv.ofBits bf16 (bits old.toNat lo 16)) (Fv.ofBits bf16 (bits x.toNat lo 16)))
    (BitVec.ofNat 32 ((half 0).1 + (half 16).1 * 65536), (half 0).2 ||| (half 16).2)
  | _ => (old ^^^ x, 0)

/-- A step of an atomic on the bytes at its home: what it returns, what it stores, its flags. -/
abbrev AtomStep := Nat → List Byte → List Word × Option (List Byte) × Word

/-- The global atomics: every step at its home, in rising thread index, with the column cache's copy dropped (R146,
R148); `order` is the acquire-release at WAFER scope of ATOMAR and ACASAR. -/
def atomM (i : Instr) (f : FA) (size : Nat) (order ret : Bool) (step : Env → AtomStep) (e : Env) (s : State) : State :=
  accessAll e i f.u size .both (e.ea f.u f.base f.idx) s (fun gs s =>
    if order && s.engineBusy e.ref scWAFER then stall s
    else
      let k := if order then s.release e.ref.slot scWAFER else (0, s)
      let r := performEach (checkHome e size (.sync true true)) (fun g s =>
        let s1 := (s.ccDrop e.core (g.x.pa / 128)).homeTouch g.x.pa
        let a := step e g.t (s1.homeLoad g.x size)
        let s2 := match a.2.1 with | some bs => s1.homeStore g.x bs | none => s1
        let clk := s2.lineClock g.x.pa
        let s3 := if order then s2.raiseLine g.x.pa k.1 else s2
        ((if ret then putWords f.u f.t g.t a.1 else [], if order then some clk else none, a.2.2), s3)) gs .none k.2
      settleMem e i f.u r.1 (r.2.acquireOpt e.ref.slot scWAFER r.1.clk))
/-- The step of ATOM, ATOMAR, ATOMS and AREDG. -/
def atomStep (f : FA) (e : Env) : AtomStep := fun t bs =>
  let old := BitVec.ofNat 32 (ofBytesLE bs)
  let r := combine f.aop.toNat old (e.data f.u f.t 0 t)
  ([old], some (bytesLE 4 r.1.toNat), r.2)
/-- Compare and swap of `n` words (R147). -/
def casStep (f : FA) (n : Nat) (e : Env) : AtomStep := fun t bs =>
  let run (i : Nat) : Nat := wordsToNat ((List.range n).map (fun j => e.data f.u f.t (i + j) t))
  let old := ofBytesLE bs
  (natToWords n old, if old = run 0 then some (bytesLE (4 * n) (run n)) else none, 0)

def execAtom (f : FA) (s : State) : Host.Outcome State Fault Refusal :=
  issue (.atom f) s (atomM (.atom f) f 4 false true (atomStep f))
def execAtomar (f : FA) (s : State) : Host.Outcome State Fault Refusal :=
  issue (.atomar f) s (atomM (.atomar f) f 4 true true (atomStep f))
def execAredg (f : FA) (s : State) : Host.Outcome State Fault Refusal :=
  issue (.aredg f) s (atomM (.aredg f) f 4 false false (atomStep f))
/-- The words of a compare and swap: 1, or 2 with AOP 1. -/
def casWords (f : FA) : Nat := if f.aop = 1 then 2 else 1
def execAcas (f : FA) (s : State) : Host.Outcome State Fault Refusal :=
  issue (.acas f) s (atomM (.acas f) f (4 * casWords f) false true (casStep f (casWords f)))
def execAcasar (f : FA) (s : State) : Host.Outcome State Fault Refusal :=
  issue (.acasar f) s (atomM (.acasar f) f (4 * casWords f) true true (casStep f (casWords f)))
/-- ATOMS: the same steps on the workgroup's SBUF. -/
def execAtoms (f : FA) (s : State) : Host.Outcome State Fault Refusal :=
  issue (.atoms f) s (fun e s => bufAll e (.atoms f) f.u .sbuf 4 true (e.ea f.u f.base f.idx) s (fun t off s =>
    let c := s.core e.core
    let a := atomStep f e t (bufRead c.sbuf off 4)
    let new := match a.2.1 with | some bs => bufWrite c.sbuf off bs | none => c.sbuf
    ((putWords f.u f.t t a.1, a.2.2), s.setCore e.core { c with sbuf := new })))

end Sys2Proof.Machine
end

