-- ==== Sys2Proof/Machine/Crypto.lean ====
section
/-! DEFINITION. The cryptography that R347, R378 and R379 name: SHA-384, HMAC-SHA-384 and the check of an ECDSA P-384 signature. The
spec names the algorithms; their published definitions are taken from outside it (PRESUMED, log 124). -/

namespace Sys2Proof.Machine

/-- The bytes of a number from the most significant on, and the number of bytes so ordered. -/
def bytesBE (n x : Nat) : List Byte := (bytesLE n x).reverse
def ofBytesBE (bs : List Byte) : Nat := ofBytesLE bs.reverse

/-! SHA-384. -/

/-- The round constants: the first 64 bits of the fractions of the cube roots of the first 80 primes. -/
def shaK1 : List DWord :=
  [0x428a2f98d728ae22, 0x7137449123ef65cd, 0xb5c0fbcfec4d3b2f, 0xe9b5dba58189dbbc,
   0x3956c25bf348b538, 0x59f111f1b605d019, 0x923f82a4af194f9b, 0xab1c5ed5da6d8118,
   0xd807aa98a3030242, 0x12835b0145706fbe, 0x243185be4ee4b28c, 0x550c7dc3d5ffb4e2,
   0x72be5d74f27b896f, 0x80deb1fe3b1696b1, 0x9bdc06a725c71235, 0xc19bf174cf692694,
   0xe49b69c19ef14ad2, 0xefbe4786384f25e3, 0x0fc19dc68b8cd5b5, 0x240ca1cc77ac9c65,
   0x2de92c6f592b0275, 0x4a7484aa6ea6e483, 0x5cb0a9dcbd41fbd4, 0x76f988da831153b5,
   0x983e5152ee66dfab, 0xa831c66d2db43210, 0xb00327c898fb213f, 0xbf597fc7beef0ee4,
   0xc6e00bf33da88fc2, 0xd5a79147930aa725, 0x06ca6351e003826f, 0x142929670a0e6e70,
   0x27b70a8546d22ffc, 0x2e1b21385c26c926, 0x4d2c6dfc5ac42aed, 0x53380d139d95b3df,
   0x650a73548baf63de, 0x766a0abb3c77b2a8, 0x81c2c92e47edaee6, 0x92722c851482353b]
def shaK2 : List DWord :=
  [0xa2bfe8a14cf10364, 0xa81a664bbc423001, 0xc24b8b70d0f89791, 0xc76c51a30654be30,
   0xd192e819d6ef5218, 0xd69906245565a910, 0xf40e35855771202a, 0x106aa07032bbd1b8,
   0x19a4c116b8d2d0c8, 0x1e376c085141ab53, 0x2748774cdf8eeb99, 0x34b0bcb5e19b48a8,
   0x391c0cb3c5c95a63, 0x4ed8aa4ae3418acb, 0x5b9cca4f7763e373, 0x682e6ff3d6b2b8a3,
   0x748f82ee5defb2fc, 0x78a5636f43172f60, 0x84c87814a1f0ab72, 0x8cc702081a6439ec,
   0x90befffa23631e28, 0xa4506cebde82bde9, 0xbef9a3f7b2c67915, 0xc67178f2e372532b,
   0xca273eceea26619c, 0xd186b8c721c0c207, 0xeada7dd6cde0eb1e, 0xf57d4f7fee6ed178,
   0x06f067aa72176fba, 0x0a637dc5a2c898a6, 0x113f9804bef90dae, 0x1b710b35131c471b,
   0x28db77f523047d84, 0x32caab7b40c72493, 0x3c9ebe0a15c9bebc, 0x431d67c49c100d4c,
   0x4cc5d4becb3e42b6, 0x597f299cfc657e2a, 0x5fcb6fab3ad6faec, 0x6c44198c4a475817]
/-- The eight words of the hash in progress. -/
structure ShaState where
  a : DWord
  b : DWord
  c : DWord
  d : DWord
  e : DWord
  f : DWord
  g : DWord
  h : DWord
  deriving DecidableEq, Repr
/-- Its start: the first 64 bits of the fractions of the square roots of the ninth to the sixteenth prime. -/
def ShaState.start : ShaState :=
  { a := 0xcbbb9d5dc1059ed8, b := 0x629a292a367cd507, c := 0x9159015a3070dd17, d := 0x152fecd8f70e5939,
    e := 0x67332667ffc00b31, f := 0x8eb44a8768581511, g := 0xdb0c2e0d64f98fa7, h := 0x47b5481dbefa4fa4 }
/-- n more words of a block's schedule, the latest first. -/
def shaExpand (n : Nat) (l : List DWord) : List DWord :=
  match n with
  | 0 => l
  | n + 1 =>
    let x := l.getD 1 0
    let y := l.getD 14 0
    let s1 := x.rotateRight 19 ^^^ x.rotateRight 61 ^^^ (x >>> 6)
    let s0 := y.rotateRight 1 ^^^ y.rotateRight 8 ^^^ (y >>> 7)
    shaExpand n ((l.getD 15 0 + s0 + l.getD 6 0 + s1) :: l)
/-- One round, with its constant and its word of the schedule. -/
def ShaState.round (x : ShaState) (k w : DWord) : ShaState :=
  let s1 := x.e.rotateRight 14 ^^^ x.e.rotateRight 18 ^^^ x.e.rotateRight 41
  let t1 := x.h + s1 + ((x.e &&& x.f) ^^^ (~~~x.e &&& x.g)) + k + w
  let s0 := x.a.rotateRight 28 ^^^ x.a.rotateRight 34 ^^^ x.a.rotateRight 39
  let t2 := s0 + ((x.a &&& x.b) ^^^ (x.a &&& x.c) ^^^ (x.b &&& x.c))
  { a := t1 + t2, b := x.a, c := x.b, d := x.c, e := x.d + t1, f := x.e, g := x.f, h := x.g }
/-- A block of 128 bytes. -/
def ShaState.block (x : ShaState) (bs : List Byte) : ShaState :=
  let w := (shaExpand 64 ((List.range 16).map (fun i => BitVec.ofNat 64 (ofBytesBE ((bs.drop (8 * i)).take 8)))).reverse).reverse
  let y := (List.zip (shaK1 ++ shaK2) w).foldl (fun y p => y.round p.1 p.2) x
  { a := x.a + y.a, b := x.b + y.b, c := x.c + y.c, d := x.d + y.d, e := x.e + y.e, f := x.f + y.f, g := x.g + y.g, h := x.h + y.h }
/-- n blocks. -/
def shaBlocks (n : Nat) (x : ShaState) (bs : List Byte) : ShaState :=
  match n with
  | 0 => x
  | n + 1 => shaBlocks n (x.block (bs.take 128)) (bs.drop 128)
/-- SHA-384 of some bytes: 48 bytes. -/
def sha384 (m : List Byte) : List Byte :=
  let p := m ++ [0x80] ++ List.replicate ((240 - (m.length + 1) % 128) % 128) 0 ++ bytesBE 16 (8 * m.length)
  let x := shaBlocks (p.length / 128) .start p
  [x.a, x.b, x.c, x.d, x.e, x.f].flatMap (fun w => bytesBE 8 w.toNat)
/-- HMAC-SHA-384 under a key of at most 128 bytes. -/
def hmac384 (key m : List Byte) : List Byte :=
  let pad (b : Byte) : List Byte := (key ++ List.replicate (128 - key.length) 0).map (fun k => k ^^^ b)
  sha384 (pad 0x5C ++ sha384 (pad 0x36 ++ m))

/-! ECDSA over P-384. -/

/-- The field, the order of the group, the curve y^2 = x^3 - 3 x + b, and the base point. -/
def p384 : Nat := 2 ^ 384 - 2 ^ 128 - 2 ^ 96 + 2 ^ 32 - 1
def p384Order : Nat :=
  0xFFFFFFFFFFFFFFFFFFFFFFFFFFFFFFFFFFFFFFFFFFFFFFFFC7634D81F4372DDF581A0DB248B0A77AECEC196ACCC52973
def p384B : Nat :=
  0xB3312FA7E23EE7E4988E056BE3F82D19181D9C6EFE8141120314088F5013875AC656398D8A2ED19D2A85C8EDD3EC2AEF
def p384X : Nat :=
  0xAA87CA22BE8B05378EB1C71EF320AD746E1D3B628BA79B9859F741E082542A385502F25DBF55296C3A545E3872760AB7
def p384Y : Nat :=
  0x3617DE4A96262C6F5D9E98BF9292DC29F8F41DBD289A147CE9DA3113B5F0B8C00A60B1CE1D7E819D7A431D7C90EA0E5F
/-- b^e modulo m, for an e of at most `fuel` bits. -/
def powMod (fuel b e m : Nat) : Nat :=
  match fuel with
  | 0 => 1 % m
  | f + 1 =>
    let h := powMod f (b * b % m) (e / 2) m
    if e % 2 = 1 then h * b % m else h
/-- The difference in the field. -/
def fsub (a b : Nat) : Nat := (a + (p384 - b % p384)) % p384
/-- A point in Jacobian coordinates; z = 0 is the point at infinity. -/
structure JPoint where
  x : Nat
  y : Nat
  z : Nat
  deriving DecidableEq, Repr
def JPoint.double (q : JPoint) : JPoint :=
  let d := q.z * q.z % p384
  let g := q.y * q.y % p384
  let b := q.x * g % p384
  let a := 3 * (fsub q.x d * (q.x + d)) % p384
  let x := fsub (a * a) (8 * b)
  { x := x, y := fsub (a * fsub (4 * b) x) (8 * (g * g)), z := fsub (fsub ((q.y + q.z) * (q.y + q.z)) g) d }
def JPoint.add (q r : JPoint) : JPoint :=
  if q.z = 0 then r
  else if r.z = 0 then q
  else
    let zq := q.z * q.z % p384
    let zr := r.z * r.z % p384
    let u := q.x * zr % p384
    let h := fsub (r.x * zq) u
    let s := q.y * (r.z * zr) % p384
    let t := fsub (r.y * (q.z * zq)) s
    if h = 0 then (if t = 0 then q.double else { x := 1, y := 1, z := 0 })
    else
      let h2 := h * h % p384
      let h3 := h * h2 % p384
      let v := u * h2 % p384
      let x := fsub (fsub (t * t) h3) (2 * v)
      { x := x, y := fsub (t * fsub v x) (s * h3), z := h * (q.z * r.z) % p384 }
/-- k times a point. -/
def JPoint.times (k : Nat) (q : JPoint) : JPoint :=
  (List.range 384).reverse.foldl (fun a i => if k.testBit i then a.double.add q else a.double) { x := 1, y := 1, z := 0 }
/-- The check of a signature, r then s, over a digest, by a public key, x then y; each number has 48 bytes, most significant first. -/
def ecdsaOk (key digest sig : List Byte) : Bool :=
  let x := ofBytesBE (key.take 48)
  let y := ofBytesBE ((key.drop 48).take 48)
  let r := ofBytesBE (sig.take 48)
  let s := ofBytesBE ((sig.drop 48).take 48)
  let w := powMod 384 s (p384Order - 2) p384Order
  let q := (JPoint.times (ofBytesBE digest * w % p384Order) { x := p384X, y := p384Y, z := 1 }).add (JPoint.times (r * w % p384Order) { x := x, y := y, z := 1 })
  decide (x < p384 ∧ y < p384 ∧ y * y % p384 = fsub (x * x * x + p384B) (3 * x)) && decide (0 < r ∧ r < p384Order ∧ 0 < s ∧ s < p384Order) &&
    decide (q.z ≠ 0 ∧ q.x * powMod 384 (q.z * q.z % p384) (p384 - 2) p384 % p384 % p384Order = r)

end Sys2Proof.Machine
end

