-- ==== Sys2Proof/Machine/Monitors.lean ====
section
/-! DEFINITION. Monitor waits, the monitor tables and their spill lists (R154-R156, R262, R318), and OCRD, YIELD and
SLEEP (R166). -/

namespace Sys2Proof.Machine

/-! The monitor table of a slice. -/

/-- The VA of entry n of a context's monitor spill list (R258), and the most it holds. -/
def spillVa (base : DWord) (n : Nat) : DWord := base + BitVec.ofNat 64 (0x20000 + 32 * n)
def spillMax : Nat := 2048
/-- Move an absent monitor entry to its context's spill list (R318); false when the list is full or cannot be written. -/
def State.spillEntry (s : State) (site : Nat) (m : MonEntry) : Bool × State :=
  match s.saveHeader site m.ctx with
  | (none, s1) => (false, s1)
  | (some h, s1) =>
    if h.nspill ≥ spillMax then (false, s1)
    else
      match State.devWrite 2 s1 site m.ctx (spillVa (s1.context m.ctx).ctxsave h.nspill) m.bytes with
      | (some _, s2) => (false, s2)
      | (none, s2) =>
        match s2.saveField site m.ctx 0x28 8 (h.nspill + 1) with
        | (some _, s3) => (false, s3)
        | (none, s3) =>
          let s4 := s3.addWin site offMONSPILL 1
          (true, s4.setSite site { s4.site site with mon := (s4.site site).mon.erase m })
/-- Register an entry in its slice's table of 128 (R318): false when there is no room, so that the coach polls. -/
def State.register (s : State) (m : MonEntry) : Bool × State :=
  let n := homeSite m.pa
  let mine := (s.site n).mon.filter (fun x => x.slice == m.slice)
  let add (t : State) : State := t.setSite n { t.site n with mon := (t.site n).mon ++ [m] }
  if mine.length < 128 then (true, add s)
  else
    match mine.find? (fun x => x.absent && (match x.kind with | .cmp _ _ _ => true | .queue _ => false)) with
    | none => (false, s)
    | some old => let r := s.spillEntry n old; if r.1 then (true, add r.2) else r
/-- Park a coach with an entry, or to poll; the site of the table counts the polls. -/
def parkWith (e : Env) (i : Instr) (st : CoachState) (m : MonEntry) (w : Wait) (s : State) : State :=
  let r := s.register m
  waitIn e i st { w with poll := if r.1 then none else some (homeSite m.pa), entry := r.1 } r.2

/-! WAITC and WAITCT (R155). -/

/-- The leaf without RDC: a read that is not the final one is no access under the race check (R137, R155). -/
def Xl.unchecked (x : Xl) : Xl := { x with leaf := x.leaf &&& ~~~0x20 }

/-- The deadline of a WAITCT, from its first issue (R155). -/
def Env.deadline (e : Env) (f : FW) (s : State) : Nat :=
  match e.kept.deadline with
  | some d => d
  | none => (s.waferTime e.site).toNat + (e.data true f.t 1 0).toNat
/-- The wait of WAITC and WAITCT (R155): `timed` gives a deadline, which an entry that a trap leaves keeps too. -/
def monitorWait (i : Instr) (f : FW) (timed : Bool) (e0 : Env) (s0 : State) : State :=
  let s := s0.dropWaiter e0.ref
  let deadline := e0.deadline f s
  let e := if timed then { e0 with c := { e0.c with wait := { e0.c.wait with deadline := some deadline } } } else e0
  let va := e.sop64 0 f.base
  if va.toNat % 4 ≠ 0 then trapAll e i cUNALIGNED va s
  else
    match s.translate (some e.core) e.site e.ctx va .read with
    | (.error c, s1) => trapAll e i c va s1
    | (.ok x, s1) =>
      if paSpace x.pa = 2 then trapAll e i cXLATE_PERM va s1
      else if badWindow 4 x then trapAll e i cUNALIGNED va s1
      else if s1.tested x.pa 4 then stall s1
      else
        let home := homeSite x.pa
        let val := e.data true f.t 0 0
        let s2 := (s1.ccDrop e.core (x.pa / 128)).homeTouch x.pa
        let w := BitVec.ofNat 32 (ofBytesLE (s2.homeLoad x 4))
        let met := waitCompare f.cond.toNat w val
        let late := timed && decide (deadline ≤ (s2.waferTime home).toNat)
        let final := met || late
        match s2.homeCheck e.acc (if final then x else x.unchecked) 4 (.sync true false) with
        | (some c, s3) => trapAll e i c va s3
        | (none, s3) =>
          if final then
            let out := if timed then [w, if met then 0 else 1] else [w]
            let ws := (List.zip (List.range out.length) out).map (fun p =>
              { scalar := true, reg := f.t.toNat + (if timed then 2 else 1) + p.1, thread := 0, val := p.2 : RegWrite })
            finishW e ws (s3.acquire e.ref.slot scWAFER (s3.lineClock x.pa))
          else
            parkWith e i .parkedMon
              { slice := homeSlice x.pa, pa := x.pa, va := va, ctx := e.ctx, slot := e.ref.slot, k := e.ref.k,
                kind := .cmp f.cond.toNat val timed, deadline := if timed then deadline else 0, absent := false, fired := false,
                gid := e.wg.gid, index := e.wg.index }
              { Wait.none with deadline := if timed then some deadline else none } s3
def execWaitc (f : FW) (s : State) : Host.Outcome State Fault Refusal := issue (.waitc f) s (monitorWait (.waitc f) f false)
def execWaitct (f : FW) (s : State) : Host.Outcome State Fault Refusal := issue (.waitct f) s (monitorWait (.waitct f) f true)

/-- A coach parked at a monitor repeats its loop. -/
def State.wakeFrom (s : State) (r : CoachRef) (st : CoachState) : State :=
  match s.coach r with
  | some c => if c.state = st then s.setCoach r c.wake else s
  | none => s
def argCoach (s : State) : CoachRef := { slot := s.arg.slot, k := s.arg.k }
/-- MONITOR_WAKE (R155): a write has satisfied the compare of a parked coach. -/
def execMonitorWake (s : State) : Host.Outcome State Fault Refusal :=
  let r := argCoach s
  .next (if s.sites.any (fun x => x.2.mon.any (fun m => m.slot == r.slot && m.k == r.k && !m.absent && m.fired)) then s.wakeFrom r .parkedMon else s)
/-- MONITOR_POLL (R155): a coach that found no room in the table reads the word again. -/
def execMonitorPoll (s : State) : Host.Outcome State Fault Refusal :=
  .next (match s.coach (argCoach s) with
    | some c =>
      match c.state == .parkedMon, c.wait.poll with
      | true, some n => (s.addWin n offMONPOLL 1).wakeFrom (argCoach s) .parkedMon
      | _, _ => s
    | none => s)
/-- WAITCT_DEADLINE (R155): the deadline of a parked WAITCT has passed, by the counter of the home site of its word; a
coach that is not registered finds the deadline at its next poll. -/
def execWaitctDeadline (s : State) : Host.Outcome State Fault Refusal :=
  let r := argCoach s
  .next (match s.sites.findSome? (fun x => (x.2.mon.find? (fun m => m.slot == r.slot && m.k == r.k && !m.absent)).map (fun m => (x.1, m))) with
    | some (n, m) =>
      match m.kind with
      | .cmp _ _ true => if m.deadline ≤ (s.waferTime n).toNat then s.wakeFrom r .parkedMon else s
      | _ => s
    | none => s)

/-! OCRD, YIELD, SLEEP (R166). -/

/-- A synchronising operation of rows 0x7 to 0xB, by opcode. -/
def isSyncOp (op : Nat) : Bool :=
  op == 0x7A || op == 0x7B || decide (0x8A ≤ op ∧ op ≤ 0x8D) || op == 0x8F || op == 0x90 || op == 0x93 || decide (0x98 ≤ op ∧ op ≤ 0x9C) ||
    op == 0xB1 || op == 0xBE
/-- OCRD waits, RUNNABLE, for the coach's earlier synchronising operations. -/
def execOcrd (f : RRR) (s : State) : Host.Outcome State Fault Refusal :=
  issue (.ocrd f) s (fun e s =>
    if e.c.flights.any (fun x => isSyncOp (opcodeOf x.word).toNat) then stall s
    else finishW e (putRun true f.d.toNat 2 0 (e.wg.oclk.toNat + 2 ^ 32 * e.ref.slot)) s)
/-- YIELD: the coach issues nothing in the next slice cycle, which becomes its ready stamp (R166, R300). -/
def yield (e : Env) (s : State) : State := (finish e s).modCoach e.ref (fun c => { c with stamp := e.clk + 1, yieldAt := e.clk + 1 })
def execYield (f : RRR) (s : State) : Host.Outcome State Fault Refusal := issue (.yield f) s yield
/-- SLEEP: PARKED_MON with no table entry, until its end in the site's time; a cancelled sleep waits for the remainder
of its first interval. -/
def execSleep (f : RRR) (s : State) : Host.Outcome State Fault Refusal :=
  issue (.sleep f) s (fun e s =>
    match e.kept.deadline with
    | some d => if d ≤ (s.time e.site).toNat then finish e s else waitIn e (.sleep f) .parkedMon { Wait.none with deadline := some d } s
    | none =>
      let n := (e.sop 0 f.a).toNat
      if n = 0 then yield e s else waitIn e (.sleep f) .parkedMon { Wait.none with deadline := some ((s.time e.site).toNat + n) } s)
/-- SLEEP_EXPIRY (R166): the end of a sleep has come. -/
def execSleepExpiry (s : State) : Host.Outcome State Fault Refusal :=
  let r := argCoach s
  .next (match s.coach r with
    | some c =>
      match c.wait.deadline with
      | some d =>
        let entry := s.sites.any (fun x => x.2.mon.any (fun m => m.slot == r.slot && m.k == r.k && !m.absent))
        if d ≤ (s.time (siteOfSlot r.slot)).toNat ∧ entry = false ∧ c.wait.poll = none then s.wakeFrom r .parkedMon else s
      | none => s
    | none => s)

end Sys2Proof.Machine
end

