-- ==== Sys2Proof/Machine/Queues.lean ====
section
/-! DEFINITION. The queue instructions (R160-R165) and the wake-ups of queue waiters (R317, R318). -/

namespace Sys2Proof.Machine

/-- A queue operation's cause, of every active thread; QCB_CORRUPT names the QCB. A waiter that has been woken is one no longer. -/
def trapOwn (e : Env) (i : Instr) (c : Cause) (a : DWord) (s : State) : State :=
  raiseCause e i c a e.active e.active (s.dropWaiter e.ref)
def trapQ (e : Env) (i : Instr) (va : DWord) (q : QStop) (s : State) : State :=
  match q with
  | .trap c a => trapOwn e i c a s
  | .corrupt => trapOwn e i cQCB_CORRUPT va s
  | .held => stall s
def statWrite (f : FQ) (x : Word) : RegWrite := { scalar := true, reg := f.stat.toNat, thread := 0, val := x }
def Env.qcbVa (e : Env) (f : FQ) : DWord := e.sop64 0 f.qcb
def nregOf (f : FQ) : Nat := f.nregM1.toNat + 1

/-- End a queue operation: a blocking one finishes, the others are tracked (R76, R161). -/
def endQ (e : Env) (i : Instr) (blocking : Bool) (ws : List RegWrite) (s : State) : State :=
  if blocking then finishW e ws s else tracked e i ws s

/-- Is the coach registered as a waiter? One that has been woken keeps its place until its operation ends (R161). -/
def State.registered (s : State) (r : CoachRef) : Bool :=
  s.sites.any (fun x => x.2.mon.any (fun m => m.slot == r.slot && m.k == r.k && !m.absent))
/-- The coach's own registration is dropped when its operation ends; the next waiter of its side is woken while more can be
served (R161, R317). -/
def settleQ (e : Env) (waiter : Bool) (pa : Nat) (producer : Bool) (s : State) : State :=
  if !waiter then s
  else
    let s1 := s.dropWaiter e.ref
    let q := Qcb.ofBytes (s1.homeRead pa 64)
    let more := if producer then decide (q.free ≠ 0) else decide (q.head ≠ q.tail) || q.state == 1
    if more then s1.queueWakeEv pa producer else s1

/-- Park a producer or a consumer (R161, R317): it keeps its place when it is registered already. -/
def parkQ (e : Env) (i : Instr) (va : DWord) (pa : Nat) (q : Qcb) (producer : Bool) (s : State) : State :=
  let s1 := s.writeQcb pa (q.count producer true)
  let w : Wait := { Wait.none with queue := some (pa, producer) }
  if s1.registered e.ref then waitIn e i .parkedQueue w s1
  else
    parkWith e i .parkedQueue
      { slice := homeSlice pa, pa := pa, va := va, ctx := e.ctx, slot := e.ref.slot, k := e.ref.k, kind := .queue producer, deadline := 0,
        absent := false, fired := false, gid := e.wg.gid, index := e.wg.index } w s1

/-- ENQ and ENQNB (R161). -/
def enqueue (i : Instr) (f : FQ) (blocking : Bool) (e : Env) (s : State) : State :=
  let va := e.qcbVa f
  let us := e.units f.u
  let n := us.length
  match s.openQcb (some e.core) e.site e.ctx va .both with
  | (.error z, s1) => trapQ e i va z s1
  | (.ok (x, q), s1) =>
    if q.esize ≠ 4 * nregOf f ∨ n > 2 ^ q.logn then trapOwn e i cQCB_CORRUPT va s1
    else if q.state = 1 then trapOwn e i cQUEUE_CLOSED va s1
    else if q.free.toNat < n then
      match s1.useQcb (some e.core) e.acc va x true [] with
      | (some (c, v), s2) => trapOwn e i c v s2
      | (none, s2) => if blocking then parkQ e i va x.pa q true s2 else tracked e i [statWrite f (qStat qFULL 0)] s2
    else
      match s1.enqAddrs (some e.core) e.site e.acc va x q n with
      | (.error z, s2) => trapQ e i va z s2
      | (.ok addrs, s2) =>
        if s2.engineBusy e.ref q.scope then stall s
        else
          let k := s2.release e.ref.slot q.scope
          let elems := us.map (fun t => bytesLE q.esize (wordsToNat ((List.range (nregOf f)).map (fun j => e.data f.u f.t j t))))
          endQ e i blocking [statWrite f (qStat qOK n)]
            (settleQ e (s.registered e.ref) x.pa true (k.2.enqCommit x.pa q k.1 addrs elems))
def execEnq (f : FQ) (s : State) : Host.Outcome State Fault Refusal := issue (.enq f) s (enqueue (.enq f) f true)
def execEnqnb (f : FQ) (s : State) : Host.Outcome State Fault Refusal := issue (.enqnb f) s (enqueue (.enqnb f) f false)

/-- DEQ and DEQNB (R161). -/
def dequeue (i : Instr) (f : FQ) (blocking : Bool) (e : Env) (s : State) : State :=
  let va := e.qcbVa f
  let us := e.units f.u
  let n := us.length
  match s.openQcb (some e.core) e.site e.ctx va .both with
  | (.error z, s1) => trapQ e i va z s1
  | (.ok (x, q), s1) =>
    if q.esize ≠ 4 * nregOf f ∨ n > 2 ^ q.logn then trapOwn e i cQCB_CORRUPT va s1
    else
      match s1.readySlots (some e.core) e.site e.ctx x.pa q n with
      | (.error z, s2) => trapQ e i va z s2
      | (.ok took, s2) =>
        let m := took.length
        let waits := blocking && decide (m < n) && (q.state == 0 || decide (m < min n (q.tail - q.head).toNat))
        match s2.useQcb (some e.core) e.acc va x true (if waits then [] else deqParts q took) with
        | (some (c, v), s3) => trapOwn e i c v s3
        | (none, s3) =>
          if waits then parkQ e i va x.pa q false s3
          else
            let ended := q.state == 1 && decide (q.head + BitVec.ofNat 32 m = q.tail)
            let waiter := s.registered e.ref
            if m = 0 then
              let s4 := if ended then s3.acquire e.ref.slot q.scope q.pclk else s3
              endQ e i blocking [statWrite f (qStat (if ended then qEND else qEMPTY) 0)] (settleQ e waiter x.pa false s4)
            else
              let k := s3.slotClocks took (if ended then q.pclk else match took with | l :: _ => s3.slotClock l | [] => 0)
              let s4 := s3.acquire e.ref.slot q.scope k
              let ws := (List.zip us took).flatMap (fun p =>
                putWords f.u f.t p.1 (natToWords (nregOf f) (ofBytesLE (s4.slotElem p.2 q.esize))))
              endQ e i blocking (ws ++ [statWrite f (qStat (if m < n ∧ ended then qEND else qOK) m)])
                (settleQ e waiter x.pa false (s4.deqCommit x.pa q (s4.oclk e.ref.slot) took))
def execDeq (f : FQ) (s : State) : Host.Outcome State Fault Refusal := issue (.deq f) s (dequeue (.deq f) f true)
def execDeqnb (f : FQ) (s : State) : Host.Outcome State Fault Refusal := issue (.deqnb f) s (dequeue (.deqnb f) f false)

/-- The values QINIT refuses, and the block it writes (R157, R162). -/
def qinitBad (d : Nat → Word) : Bool :=
  let dbase : DWord := d 3 ++ d 2
  decide (d 0 &&& 0xFFF8E000 ≠ 0) || !qShapeOk (bits (d 0).toNat 0 8) (bits (d 0).toNat 8 5) || !qScopeOk (bits (d 0).toNat 16 3) ||
    decide (d 1 ≠ 0 ∨ dbase.toNat % 64 ≠ 0)
def qinitBlock (d : Nat → Word) (k : Word) : Qcb :=
  { magic := qcbMagic, ctl := BitVec.ofNat 32 (bits (d 0).toNat 0 8 * 65536 + bits (d 0).toNat 8 5 * 256 + bits (d 0).toNat 16 3 * 16),
    head := 0, tail := 0, free := BitVec.ofNat 32 (2 ^ bits (d 0).toNat 8 5), dbase := d 3 ++ d 2, pclk := k, cclk := k, cwait := 0,
    pwait := 0, check := 0, crc := 0 }
/-- QINIT (R162): of the slots it reaches the headers alone. -/
def execQinit (f : FQ) (s : State) : Host.Outcome State Fault Refusal :=
  issue (.qinit f) s (fun e s =>
    let va := e.qcbVa f
    let d (j : Nat) : Word := e.data true f.t j 0
    let reply (code : Nat) (x : Xl) (s : State) : State :=
      match s.useQcb (some e.core) e.acc va x true [] with
      | (some (c, v), s1) => trapOwn e (.qinit f) c v s1
      | (none, s1) => tracked e (.qinit f) [statWrite f (qStat code 0)] s1
    match s.reachQcb (some e.core) e.site e.ctx va .both with
    | (.error z, s1) => trapQ e (.qinit f) va z s1
    | (.ok x, s1) =>
      let old := Qcb.ofBytes (s1.homeRead x.pa 64)
      if qinitBad d then reply qBADPARAM x s1
      else if old.magic = qcbMagic ∧ old.check = old.crc ∧ old.pwait + old.cwait ≠ 0 then reply qBUSY x s1
      else
        let q := qinitBlock d e.wg.oclk
        match s1.findSlots (some e.core) e.site e.ctx q .write 8 0 (2 ^ q.logn) with
        | (.error z, s2) => trapQ e (.qinit f) va z s2
        | (.ok addrs, s2) =>
          match s2.useQcb (some e.core) e.acc va x true (addrs.flatMap (fun l => l.part (.sync false true) 0 4)) with
          | (some (c, v), s3) => trapOwn e (.qinit f) c v s3
          | (none, s3) =>
            tracked e (.qinit f) [statWrite f (qStat qOK 0)]
              (((addrs.foldl State.slotEmpty s3).writeQcb x.pa q).queueWakeEv x.pa true))
/-- QCLOSE (R163). -/
def execQclose (f : FQ) (s : State) : Host.Outcome State Fault Refusal :=
  issue (.qclose f) s (fun e s =>
    let va := e.qcbVa f
    match s.openQcb (some e.core) e.site e.ctx va .both with
    | (.error z, s1) => trapQ e (.qclose f) va z s1
    | (.ok (x, q), s1) =>
      match s1.useQcb (some e.core) e.acc va x true [] with
      | (some (c, v), s2) => trapOwn e (.qclose f) c v s2
      | (none, s2) =>
        if s2.engineBusy e.ref q.scope then stall s
        else
          let k := s2.release e.ref.slot q.scope
          tracked e (.qclose f) [statWrite f (qStat qOK 0)]
            (if q.state = 1 then k.2
             else (k.2.writeQcb x.pa ({ q with pclk := clkMax q.pclk k.1 }.setState 1)).queueWakeAll x.pa))
/-- QSTAT (R164). -/
def execQstat (f : FQ) (s : State) : Host.Outcome State Fault Refusal :=
  issue (.qstat f) s (fun e s =>
    let va := e.qcbVa f
    match s.openQcb (some e.core) e.site e.ctx va .read with
    | (.error z, s1) => trapQ e (.qstat f) va z s1
    | (.ok (x, _), s1) =>
      match s1.useQcb (some e.core) e.acc va x false [] with
      | (some (c, v), s2) => trapOwn e (.qstat f) c v s2
      | (none, s2) =>
        tracked e (.qstat f) (putWords true f.t 0 (natToWords (nregOf f) (ofBytesLE (s2.homeRead x.pa 64))) ++ [statWrite f (qStat qOK 0)]) s2)

/-! Wake-ups. -/

/-- What a parked coach waits for may hold (R161): FREE ≥ n, or n elements, or the queue is open no longer. -/
def State.queueDue (s : State) (m : MonEntry) (producer : Bool) : Bool :=
  let q := Qcb.ofBytes (s.homeRead m.pa 64)
  let n := match s.env { slot := m.slot, k := m.k } with
    | some e => (e.units (match e.c.wait.word with | some w => bit w 23 | none => true)).length
    | none => 1
  !q.valid || q.state != 0 || (if producer then decide (n ≤ q.free.toNat) else decide (n ≤ (q.tail - q.head).toNat))
/-- A coach parked on a queue leaves the waiter count and repeats its checks (R161). -/
def State.wakeQueue (s : State) (r : CoachRef) : State :=
  match s.coach r with
  | some c =>
    if c.state = .parkedQueue then (s.uncount c.wait).modCoach r (fun d => { d.wake with wait := { d.wait with queue := none } }) else s
  | none => s
/-- Wake the earliest waiter of a side: an absent one is marked FIRED and the wake goes on to the next (R317, R318). -/
def wakeEarliest (n : Nat) (producer : Bool) (ms : List MonEntry) (s : State) : State :=
  match ms with
  | [] => s
  | m :: r =>
    if m.absent then
      wakeEarliest n producer r (s.setSite n { s.site n with mon := (s.site n).mon.map (fun x => if x = m then { x with fired := true } else x) })
    else if s.queueDue m producer then s.wakeQueue { slot := m.slot, k := m.k } else s
/-- QUEUE_WAKE (R317): arg: the QCB's address, the side. Where room may have come, notices that wait are posted (R376). -/
def execQueueWake (s : State) : Host.Outcome State Fault Refusal :=
  let n := homeSite s.arg.pa
  let s1 := wakeEarliest n s.arg.ok ((s.site n).mon.filter (fun m => m.pa == s.arg.pa && m.kind == .queue s.arg.ok)) s
  .next (if s.arg.ok then s1.flushAll else s1)
/-- QUEUE_POLL (R317): a parked coach that is not registered repeats its checks, and QPOLL counts it; a registered one
does so when its queue is closed or poisoned. -/
def execQueuePoll (s : State) : Host.Outcome State Fault Refusal :=
  let r := argCoach s
  .next (match s.coach r with
    | some c =>
      if c.state ≠ .parkedQueue then s
      else
        match c.wait.poll with
        | some n => (s.addWin n offQPOLL 1).wakeQueue r
        | none =>
          if s.sites.any (fun x => x.2.mon.any (fun m => m.slot == r.slot && m.k == r.k && m.fired)) then s.wakeQueue r else s
    | none => s)

end Sys2Proof.Machine
end

