-- ==== Sys2Proof/Machine/Matrix.lean ====
section
/-! DEFINITION. The matrix instructions at issue (R167-R176, R180-R186, R213): descriptors, the probe and the capture of
operands, acceptance into the core's matrix queue, batches, fences, waits and queries. What the queue then does is in
MatrixRun.lean. -/

namespace Sys2Proof.Machine

/-! The copy block's ABUF extent, which the matrix queue must wait for (R191). -/

/-- The fields of a copy's parameter block (R187). -/
structure CopyParams where
  saddr : DWord
  daddr : DWord
  rows : Nat
  rowBytes : Nat
  sstride : Nat
  dstride : Nat
  ctl : Nat
  cmask : Word
  tail : Nat
  deriving DecidableEq, Repr
def CopyParams.ofBytes (b : List Byte) : CopyParams :=
  { saddr := dword64 b 0, daddr := dword64 b 8, rows := fieldLE b 0x10 4, rowBytes := fieldLE b 0x14 4, sstride := fieldLE b 0x18 4,
    dstride := fieldLE b 0x1C 4, ctl := fieldLE b 0x20 4, cmask := word32 b 0x24, tail := fieldLE b 0x28 24 }
def CopyParams.skind (p : CopyParams) : Nat := bits p.ctl 0 4
def CopyParams.dkind (p : CopyParams) : Nat := bits p.ctl 4 4
def CopyParams.dsite (p : CopyParams) : Nat := bits p.ctl 8 6
def CopyParams.dir (p : CopyParams) : Bool := bitN p.ctl 21
/-- The bytes from the first row's start to the last row's end. -/
def spanOf (rows stride rowBytes : Nat) : Nat := (rows - 1) * stride + rowBytes
/-- The ABUF bytes of a copy: its destination's or its source's extent. -/
def CopyParams.abufExtents (p : CopyParams) : List (Nat × Nat) :=
  (if p.dkind = 4 then [(p.daddr.toNat, spanOf p.rows p.dstride p.rowBytes)] else []) ++
    (if p.skind = 4 then [(p.saddr.toNat, spanOf p.rows p.sstride p.rowBytes)] else [])
/-- The tiles of its grid that a copy-queue entry touches. -/
def CopyEntry.tiles (c : CopyEntry) : List Nat :=
  match c.kind with
  | .join _ _ => []
  | _ => (CopyParams.ofBytes c.params).abufExtents.flatMap (fun x => tilesAt x.1 x.2)

/-! Tins as their unit holds them (R194, R315). -/

def Core.tin (c : Core) (t : Nat) : Tin := Table.getD c.tins t Tin.free
def Core.setTin (c : Core) (t : Nat) (x : Tin) : Core := { c with tins := Table.insert c.tins t x }

/-! Operand descriptors. -/

/-- The limits of a descriptor (R171, R172, R174) that need no translation: MTX_DESC when it breaks one. -/
def descOk (c : Core) (w : Workgroup) (op : Nat) (d0 d1 d2 d3 : Word) : Bool :=
  let src := bits d3.toNat 30 2
  let trans := bitN d3.toNat 29
  let tin := bits d3.toNat 22 6
  decide (src ≤ 1) && decide (bits d3.toNat 0 22 = 0) && decide (d0.toNat % 16 = 0) && (src == 1 || d1 == 0) &&
    decide (d2.toNat % 16 = 0 ∧ d2.toNat < 2 ^ 24 ∧ rowBytes op trans ≤ d2.toNat) &&
    !(trans && (op == 4 || op == 5)) && !(trans && src == 0 && sideBytes op != 0) &&
    (!bitN d3.toNat 28 || (decide (tin < w.tins) && (c.tin (w.tinBase + tin)).state != 0))
/-- The operand of a descriptor, with nothing read. -/
def operandOf (w : Workgroup) (d0 d1 d2 d3 : Word) : MOperand :=
  { addr := d1 ++ d0, stride := d2.toNat, global := bitN d3.toNat 30, trans := bitN d3.toNat 29,
    gate := if bitN d3.toNat 28 then some (w.tinBase + bits d3.toNat 22 6) else none, rows := none, side := [], lines := 0, pages := [],
    coded := false }
/-- Four s registers of a descriptor. -/
def Env.quad (e : Env) (pos : Nat) (r : RegNo) (i : Nat) : Word := e.sopAt pos r i

/-- The block format in which a type's elements are decoded (R173). -/
def mmaBlk (op : Nat) : Option BlkFmt :=
  match op with
  | 2 => some .e4m3
  | 3 => some .e5m2
  | 4 => some .mxfp4
  | 5 => some .e2m1x
  | _ => none
/-- The FRD format that a type accepts on a GLOBAL operand's page (R173). -/
def mmaFrd (op : Nat) : Option Nat :=
  match op with
  | 0 => some 6
  | 1 => some 7
  | 2 => some 1
  | 3 => some 2
  | 4 => some 3
  | 5 => some 4
  | _ => none

/-- Why a GLOBAL operand is refused. -/
inductive GStop where
  | xlate (c : Cause) (va : DWord)
  | desc
  deriving DecidableEq, Repr

/-- The parts of [va, va + n) that lie in one 64 KiB page each. -/
def pageParts (fuel : Nat) (va : DWord) (n : Nat) : List (DWord × Nat) :=
  match fuel with
  | 0 => []
  | f + 1 => if n = 0 then [] else
    let k := min n (65536 - va.toNat % 65536)
    (va, k) :: pageParts f (va + BitVec.ofNat 64 k) (n - k)

/-- Translate every part of a range for one access. -/
def xlateParts (core : Option Nat) (site ctx : Nat) (need : Need) (l : List (DWord × Nat)) (s : State) :
    Except (Cause × DWord) (List (Target × Nat)) × State :=
  match l with
  | [] => (.ok [], s)
  | (va, n) :: r =>
    match s.translate core site ctx va need with
    | (.error c, s1) => (.error (c, va), s1)
    | (.ok x, s1) =>
      match xlateParts core site ctx need r s1 with
      | (.error e, s2) => (.error e, s2)
      | (.ok q, s2) => (.ok (({ t := 0, va := va, x := x }, n) :: q), s2)

/-- One row of a GLOBAL operand (R173): the parts of the row; and the side records of its blocks in order, in segments of so
many records, none where the blocks are raw. -/
structure GRow where
  parts : List (Target × Nat)
  side : List (Nat × Option (List (Target × Nat)))
  deriving DecidableEq, Repr
/-- The numbers of a row's blocks of `bb` bytes that begin in bytes [lo, lo + n) of it. -/
def blocksFrom (bb lo n : Nat) : Nat × Nat := ((lo + bb - 1) / bb, (lo + n + bb - 1) / bb - (lo + bb - 1) / bb)

/-- The format of a row's part, which lies in one page at byte `lo` of the row (R173): its side records, if the operand is
scaled there. -/
def partForm (core : Option Nat) (site ctx op : Nat) (m : MOperand) (va : DWord) (lo : Nat) (p : Target × Nat) (s : State) :
    Except GStop (Nat × Option (List (Target × Nat))) × State :=
  let bad (c : Cause) (t : State) : Except GStop (Nat × Option (List (Target × Nat))) × State := (.error (.xlate c p.1.va), t)
  let bb := if mmaBits op = 4 then 16 else 32
  let run := blocksFrom bb lo p.2
  let raw (t : State) : Except GStop (Nat × Option (List (Target × Nat))) × State :=
    if op = 5 then bad cXLATE_FORMAT t else (.ok (run.2, none), t)
  if !leafFMTEN p.1.x.leaf then raw s
  else
    match s.frdOf site ctx (leafFMT p.1.x.leaf) with
    | (none, s1) => bad cECC_UNCORRECTABLE s1
    | (some d, s1) =>
      if d.format = 0 ∧ d.reserved = false then raw s1
      else if d.format ≠ 0 ∧ mmaFrd op ≠ some d.format then bad cXLATE_FORMAT s1
      else if d.reserved then bad cFMT_RESERVED s1
      else
        match d.offset p.1.va, d.offset (p.1.va + BitVec.ofNat 64 (p.2 - 1)) with
        | some _, some _ =>
          if d.blk.isNone then (.ok (run.2, none), s1)
          else if m.trans ∨ (va - d.dbase).toNat % d.blockBytes ≠ 0 ∨ m.stride % d.blockBytes ≠ 0 then (.error .desc, s1)
          else
            let first := va + BitVec.ofNat 64 (run.1 * bb)
            match xlateParts core site ctx .read (pageParts 2 (d.sideVa (first - d.dbase).toNat) (2 * run.2)) s1 with
            | (.error e, s2) => (.error (.xlate e.1 e.2), s2)
            | (.ok sd, s2) => (.ok (run.2, some sd), s2)
        | _, _ => bad cXLATE_FORMAT s1
/-- The formats of the parts of a row. -/
def partForms (core : Option Nat) (site ctx op : Nat) (m : MOperand) (va : DWord) (lo : Nat) (ps : List (Target × Nat)) (s : State) :
    Except GStop (List (Nat × Option (List (Target × Nat)))) × State :=
  match ps with
  | [] => (.ok [], s)
  | p :: r =>
    match partForm core site ctx op m va lo p s with
    | (.error x, s1) => (.error x, s1)
    | (.ok f, s1) =>
      match partForms core site ctx op m va (lo + p.2) r s1 with
      | (.error x, s2) => (.error x, s2)
      | (.ok fs, s2) => (.ok (f :: fs), s2)

/-- Translate one row and find its format, page by page. -/
def globalRow (core : Option Nat) (site ctx op : Nat) (m : MOperand) (r : Nat) (s : State) : Except GStop GRow × State :=
  let va := m.addr + BitVec.ofNat 64 (r * m.stride)
  let n := rowBytes op m.trans
  match xlateParts core site ctx .read (pageParts 2 va n) s with
  | (.error e, s1) => (.error (.xlate e.1 e.2), s1)
  | (.ok ps, s1) =>
    match partForms core site ctx op m va 0 ps s1 with
    | (.error x, s2) => (.error x, s2)
    | (.ok fs, s2) => (.ok { parts := ps, side := fs }, s2)

/-- Probe every row of a GLOBAL operand; MTX_DESC of any row comes before a translation cause (R176). -/
def globalRows (core : Option Nat) (site ctx op : Nat) (m : MOperand) (rs : List Nat) (s : State) : Except GStop (List GRow) × State :=
  match rs with
  | [] => (.ok [], s)
  | r :: rest =>
    let a := globalRow core site ctx op m r s
    let b := globalRows core site ctx op m rest a.2
    match a.1, b.1 with
    | .error .desc, _ | _, .error .desc => (.error .desc, b.2)
    | .error x, _ => (.error x, b.2)
    | _, .error x => (.error x, b.2)
    | .ok g, .ok l => (.ok (g :: l), b.2)

/-- The KIND of an error record for a cause (R309). -/
def errKind (c : Cause) : Nat :=
  if c == cECC_UNCORRECTABLE then 2
  else if c == cRETENTION_EXPIRED then 3
  else if c == cRACE_RAW || c == cRACE_WAR || c == cRACE_WAW then 4
  else if c == cTIN_FAULT then 6
  else if c == cDECK_UNAVAILABLE then 7
  else if c == cRMT_NAK then 8
  else if c == cMTX_INVALID_ACC then 9
  else 5

/-- The cause that an error record names (R309): a translation that fails at run time for another reason than a page that is
not present gives XLATE_PERM (DESIGN CHOICE, log 81). -/
def errCause (c : Cause) : Cause := if errKind c = 5 && c != cXLATE_NOTPRESENT then cXLATE_PERM else c
/-- The parts of a range by granule of 16 bytes: offsets and sizes. -/
def granulesOf (fuel pa n off : Nat) : List (Nat × Nat) :=
  match fuel with
  | 0 => []
  | f + 1 => if n = 0 then [] else
    let k := min n (16 - pa % 16)
    (off, k) :: granulesOf f (pa + k) (n - k) (off + k)
/-- The offset of the first granule of a failing access whose own check fails (R309). -/
def State.failOffset (s : State) (a : Acc) (x : Xl) (n : Nat) (kind : AccKind) : Nat :=
  match (granulesOf (n / 16 + 2) x.pa n 0).find? (fun g => (s.homeCheck a { x with pa := x.pa + g.1 } g.2 kind).1.isSome) with
  | some g => g.1
  | none => 0
/-- Parts by line. -/
def partLines (l : List (Target × Nat)) : List (Target × Nat) :=
  l.flatMap (fun p => (lineParts (p.2 / 128 + 2) p.1.x.pa p.2).map (fun q =>
    ({ p.1 with va := p.1.va + BitVec.ofNat 64 (q.1 - p.1.x.pa), x := { p.1.x with pa := q.1 } }, q.2)))
/-- The race check of one line at its pinning (R308): once, of all the granules that the operand's parts of it cover. -/
def State.pinRace (s : State) (a : Acc) (l : List (Target × Nat)) : Option Cause × State :=
  match l.filter (fun p => decide (paSpace p.1.x.pa ≤ 1) && leafRDC p.1.x.leaf) with
  | [] => (none, s)
  | p :: r =>
    if a.agent.getLsbD 15 then (none, s)
    else s.raceLines [(p.1.x.pa, (p :: r).foldl (fun g q => g ||| partGranules q.1.x.pa q.2) 0)] .read a.agent a.clk
/-- Pin one line, of which the operand has these parts: its error, with the address of the granule that fails. -/
def State.pinLine (s : State) (a : Acc) (l : List (Target × Nat)) : Option (Nat × Nat × DWord) × State :=
  let s0 := l.foldl (fun t p => t.homeTouch p.1.x.pa) s
  let failing (p : Target × Nat) : DWord := p.1.va + BitVec.ofNat 64 (s0.failOffset a p.1.x p.2 .read)
  match l.findSome? (fun p => (s0.homeFault p.1.x p.2).map (fun c => (c, p))) with
  | some (c, p) => (some (errKind c, c.toNat, failing p), s0)
  | none =>
    match s0.pinRace a l with
    | (none, s1) => (none, s1)
    | (some c, s1) =>
      (some (errKind c, c.toNat, match l.find? (fun p => (s0.homeCheck a p.1.x p.2 .read).1.isSome) with | some p => failing p | none => 0), s1)
/-- Pin the lines of an operand, each once and in ascending address (R240, R308): the first error. -/
def pinCheck (a : Acc) (l : List (Target × Nat)) (s : State) : Option (Nat × Nat × DWord) × State :=
  let parts := sortBy (fun p => p.1.x.pa) (partLines l)
  (parts.map (fun p => p.1.x.pa / 128)).eraseDups.foldl (fun r n =>
    match r.1 with
    | some e => (some e, r.2)
    | none => r.2.pinLine a (parts.filter (fun p => decide (p.1.x.pa / 128 = n)))) (none, s)
def readParts (s : State) (l : List (Target × Nat)) : List Byte := l.flatMap (fun p => s.homeRead p.1.x.pa p.2)
/-- Write back the issuing core's dirty lines of parts (R168). -/
def cleanParts (core : Nat) (l : List (Target × Nat)) (s : State) : State :=
  l.foldl (fun t p => (lineParts (p.2 / 128 + 2) p.1.x.pa p.2).foldl (fun u q => u.ccClean core (q.1 / 128)) t) s
/-- Write back and drop the issuing core's lines of a destination (R220). -/
def dropParts (core : Nat) (l : List (Target × Nat)) (s : State) : State :=
  l.foldl (fun t p => t.ccPurge core p.1.x.pa p.2) s
/-- The side records of n raw blocks: scale 1 (R173). -/
def rawSide (n : Nat) : List Byte := (List.replicate n [(127 : Byte), 0]).flatten
/-- All the parts of rows, side records included. -/
def rowParts (rows : List GRow) : List (Target × Nat) := rows.flatMap (fun r => r.parts ++ r.side.flatMap (fun d => d.2.getD []))
/-- What a GLOBAL operand pins (R287, R308): its L2 lines, the pages they were translated through, and whether one of its pages has a
format. -/
def MOperand.pin (m : MOperand) (rows : List GRow) : MOperand :=
  let ps := rowParts rows
  { m with
    lines := (partLines ps).map (fun p => p.1.x.pa / 128) |>.eraseDups.length
    pages := (ps.map (fun p => (p.1.x.level, p.1.va.toNat / 2 ^ pageShift p.1.x.level))).eraseDups
    coded := rows.any (fun r => r.parts.any (fun p => leafFMTEN p.1.x.leaf)) }

/-- Read a GLOBAL operand whose rows have been translated: its values, and the run-time error that its lines meet. -/
def readGlobal (core : Nat) (a : Acc) (op : Nat) (m : MOperand) (rows : List GRow) (s : State) :
    MOperand × Option (Nat × Nat × DWord) × State :=
  let parts := rowParts rows
  let s1 := cleanParts core parts s
  let k := pinCheck a parts s1
  let side := if (mmaBlk op).isNone then [] else rows.flatMap (fun r => r.side.flatMap (fun d =>
    match d.2 with | some l => readParts k.2 l | none => rawSide d.1))
  ({ m.pin rows with rows := some (rows.flatMap (fun r => readParts k.2 r.parts)), side := side }, k.1, k.2)
/-- Read a buffer operand: its rows and its side area. -/
def readBuffer (t : Table Byte) (base op : Nat) (m : MOperand) : MOperand :=
  let part := t.filter (fun e => (m.extents op).any (fun x => decide (base + x.1 ≤ e.1 ∧ e.1 < base + x.1 + x.2)))
  { m with
    rows := some ((List.range (rowCount op m.trans)).flatMap (fun r => bufRead part (base + m.addr.toNat + r * m.stride) (rowBytes op m.trans))),
    side := bufRead part (base + m.addr.toNat + 64 * m.stride) (sideBytes op) }

/-- The error that a buffer operand's bytes meet (R179, R270): at the first block of its rows and side area that is bad. -/
def bufferFault (c : Core) (b : Buf) (base op : Nat) (m : MOperand) : Option (Nat × Nat × DWord) :=
  if c.bad.isEmpty then none
  else
    let rows := (List.range (rowCount op m.trans)).map (fun r => (m.addr.toNat + r * m.stride, rowBytes op m.trans))
    let side := if sideBytes op = 0 then [] else [(m.addr.toNat + 64 * m.stride, sideBytes op)]
    ((rows ++ side).findSome? (fun x => ((upFrom (x.1 / 16) ((x.1 + x.2 + 15) / 16 - x.1 / 16)).find? (fun k =>
      c.bufBad b (base + 16 * k) 16 false)).map (fun k => (2, cECC_UNCORRECTABLE.toNat, BitVec.ofNat 64 (16 * k)))))
/-- Does the operand wait for its tin (R174)? -/
def MOperand.waits (c : Core) (m : MOperand) : Bool := match m.gate with | some t => (c.tin t).state != 2 | none => false
/-- The first offset of a buffer operand outside its window. -/
def MOperand.outside (op size : Nat) (m : MOperand) : Option Nat :=
  if m.global then none
  else ((m.extents op).find? (fun x => decide (x.1 + x.2 > size))).map (fun x => max x.1 size)

/-! Batches and the queue. -/

def mqMax : Nat := 32
def bufPinMax : Nat := 16
def linePinMax : Nat := 1024
/-- The L2 lines an entry pins: a line that both operands of the MMA pin counts once for each of them, as the rule says of two
MMAs (DESIGN CHOICE, log 112). -/
def MEntry.lines (m : MEntry) : Nat := match m.op with | .mma _ _ _ _ a b => if m.consumed then 0 else a.lines + b.lines | _ => 0
/-- The buffer extents an entry pins, counted by operand. -/
def MEntry.bufPins (m : MEntry) : Nat :=
  match m.op with
  | .mma _ _ _ _ a b => if m.consumed then 0 else (if a.global then 0 else 1) + (if b.global then 0 else 1)
  | _ => 0
def sumOf (l : List Nat) : Nat := l.foldl (· + ·) 0

/-- The tiles of an opcode's accumulator (R170). -/
def tilesOf (op tile : Nat) : List Nat := if op = 8 then [tile, tile + 1] else [tile]
def MOp.tiles (o : MOp) : List Nat :=
  match o with
  | .mma op tile _ _ _ _ => tilesOf op tile
  | .aczero mask => (List.range 32).filter (fun n => mask.getLsbD n)
  | .acscl kind tile _ => tilesOf (if kind = 1 then 8 else 0) tile
  | .close => []
/-- A tile lies in the grid's reservation (R170). -/
def tileIn (size n : Nat) : Bool := decide (tileBytes * (n + 1) ≤ size)

/-- The open batch of a coach, begun when there is none. -/
def openBatchOf (e : Env) (c : Core) : Batch :=
  match c.batches.find? (isOpen e.ref.slot e.ref.k) with
  | some b => b
  | none =>
    { slot := e.ref.slot, k := e.ref.k, ctx := e.ctx, gid := e.wg.gid, num := e.c.openBatch, tiles := [], decks := 0, fixed := false,
      passes := 0, promos := 0, ballastHalves := 0, err := false, clock := 0, closed := false, run := none }
def Batch.same (b : Batch) (slot k num : Nat) : Bool := b.slot == slot && b.k == k && b.num == num
/-- Replace a batch, or append it. -/
def Core.putBatch (c : Core) (b : Batch) : Core :=
  if c.batches.any (fun x => x.same b.slot b.k b.num) then
    { c with batches := c.batches.map (fun x => if x.same b.slot b.k b.num then b else x) }
  else { c with batches := c.batches ++ [b] }
/-- A batch that has completed leaves the core. -/
def Core.dropBatch (c : Core) (b : Batch) : Core := { c with batches := c.batches.filter (fun x => !x.same b.slot b.k b.num) }
/-- The deck report of a batch that has completed (R182). -/
def Batch.report (b : Batch) : DeckReport :=
  { batch := b.num, err := b.err, decks := b.decks, passes := b.passes, promos := b.promos, ballast := b.ballastHalves / 2, clock := b.clock,
    complete := true }
def Core.batchOf (c : Core) (slot k num : Nat) : Option Batch := c.batches.find? (fun b => b.same slot k num)

/-- Halt a context behind an entry; an earlier one's halt stays the first (R179). -/
def Core.haltAt (c : Core) (ctx id : Nat) : Core :=
  { c with halted := Table.insert c.halted ctx (match Table.find c.halted ctx with | some k => min k id | none => id) }
/-- An entry held behind its context's halt (R179). -/
def Core.held (c : Core) (m : MEntry) : Bool := match Table.find c.halted m.ctx with | some id => decide (m.id > id) | none => false
/-- The copies accepted earlier whose ABUF extent overlaps tiles of this grid on this core (R191). -/
def State.copiesOn (s : State) (core gid : Nat) (tiles : List Nat) : List Nat :=
  (s.site (siteOfCore core)).copyq.flatMap (fun q => (q.2.filter (fun x => coreOfSlot x.slot == core && x.gid == gid &&
    x.tiles.any (fun t => tiles.contains t))).map CopyEntry.id)

/-- Accept an entry into the matrix queue, as part of the coach's open batch. -/
def acceptM (e : Env) (op : MOp) (flight : Nat) (err : Option (Nat × Nat × DWord)) (b : Batch) (s : State) : State :=
  let c := s.core e.core
  let m : MEntry :=
    { id := c.nextId, slot := e.ref.slot, k := e.ref.k, ctx := e.ctx, gid := e.wg.gid, batch := b.num, flight := flight, clock := e.wg.oclk,
      pc := (match e.replay with | some en => en.pc | none => e.c.pc), op := op, err := err, after := s.copiesOn e.core e.wg.gid op.tiles,
      blocks := 0, consumed := false }
  let b1 := { b with tiles := op.tiles.foldl (fun (l : Table Nat) t => if (Table.find l t).isSome then l else Table.insert l t m.id) b.tiles }
  s.setCore e.core ({ c with mq := c.mq ++ [m], nextId := c.nextId + 1 }.putBatch b1)

/-- Capture an operand at acceptance: a gated one whose tin is not FULL is read later (R174, R178); its lines are written
back and its pins counted already (R168, R308). -/
def captureOp (e : Env) (op : Nat) (buf : Buf) (m : MOperand) (rows : List GRow) (s : State) : MOperand × Option (Nat × Nat × DWord) × State :=
  let c := s.core e.core
  if m.waits c then (if m.global then (m.pin rows, none, cleanParts e.core (rowParts rows) s) else (m, none, s))
  else if m.global then readGlobal e.core e.acc op m rows s
  else (readBuffer (c.buf buf) (c.window e.wg buf).1 op m, bufferFault c buf (c.window e.wg buf).1 op m, s)

/-- Translate an operand for its probe; a buffer operand needs none. -/
def probeOp (e : Env) (op : Nat) (m : MOperand) (s : State) : Except GStop (List GRow) × State :=
  if m.global then globalRows (some e.core) e.site e.ctx op m (List.range (rowCount op m.trans)) s else (.ok [], s)

/-- An MMA at issue (R167-R176): the causes in the order of R176, the stalls of R305 and R308, then acceptance. -/
def mmaIssue (i : Instr) (op : Nat) (f : FX) (e : Env) (s : State) : State :=
  let c := s.core e.core
  let acc := (e.sop 0 f.acc).toNat
  let tile := bits acc 0 5
  let a := operandOf e.wg (e.quad 1 f.adesc 0) (e.quad 1 f.adesc 1) (e.quad 1 f.adesc 2) (e.quad 1 f.adesc 3)
  let b := operandOf e.wg (e.quad 5 f.bdesc 0) (e.quad 5 f.bdesc 1) (e.quad 5 f.bdesc 2) (e.quad 5 f.bdesc 3)
  let regNo (r : RegNo) : DWord := r.zeroExtend 64
  if e.active ≠ maskAll e.wg.threads then trapAll e i cILLEGAL_CONVERGENCE 0 s
  else if (Table.find c.halted e.ctx).isSome then trapAll e i cENGINE_HALT 0 s
  else if bits acc 9 23 ≠ 0 ∨ bits acc 5 3 ≠ 0 ∨ (op = 8 ∧ tile % 2 ≠ 0) then trapAll e i cMTX_DESC (regNo f.acc) s
  else if !descOk c e.wg op (e.quad 1 f.adesc 0) (e.quad 1 f.adesc 1) (e.quad 1 f.adesc 2) (e.quad 1 f.adesc 3) then trapAll e i cMTX_DESC (regNo f.adesc) s
  else if !descOk c e.wg op (e.quad 5 f.bdesc 0) (e.quad 5 f.bdesc 1) (e.quad 5 f.bdesc 2) (e.quad 5 f.bdesc 3) then trapAll e i cMTX_DESC (regNo f.bdesc) s
  else
    let pa := probeOp e op a s
    let pb := probeOp e op b pa.2
    let s1 := pb.2
    let r := c.resvOf e.wg.gid
    match pa.1, pb.1 with
    | .error .desc, _ => trapAll e i cMTX_DESC (regNo f.adesc) s1
    | _, .error .desc => trapAll e i cMTX_DESC (regNo f.bdesc) s1
    | ra, rb =>
      match a.outside op r.xsize, b.outside op r.wsize, (tilesOf op tile).find? (fun t => !tileIn r.asize t) with
      | some o, _, _ | none, some o, _ => trapAll e i cBUF_RANGE (BitVec.ofNat 64 o) s1
      | none, none, some t => trapAll e i cBUF_RANGE (BitVec.ofNat 64 (tileBytes * t)) s1
      | none, none, none =>
        match ra, rb with
        | .error (.xlate k va), _ | .ok _, .error (.xlate k va) => trapAll e i k va s1
        | .error .desc, _ | _, .error .desc => s1
        | .ok ga, .ok gb =>
          let bt := openBatchOf e c
          let decks := if bt.fixed then bt.decks else s1.decksAvail e.core
          let all4 := f.dpol == 1 || (f.dpol == 0 && !s1.epol.getLsbD 2)
          if (tilesOf op tile).any (c.invalidTile e.wg.gid) then trapAll e i cMTX_INVALID_ACC 0 s1
          else if decks = 0 ∨ (all4 ∧ decks ≠ 15) then trapAll e i cDECK_UNAVAILABLE 0 s1
          else
            let ca := captureOp e op .xbuf a ga s1
            let cb := captureOp e op .wbuf b gb ca.2.2
            let opn : MOp := .mma op tile (bitN acc 8) f.p.toNat ca.1 cb.1
            let err := match ca.2.1 with | some x => some x | none => cb.2.1
            let mine : MEntry :=
              { id := 0, slot := 0, k := 0, ctx := 0, gid := 0, batch := 0, flight := 0, clock := 0, pc := 0, op := opn, err := none, after := [],
                blocks := 0, consumed := false }
            if c.mq.length ≥ mqMax ∨ sumOf (c.mq.map MEntry.bufPins) + mine.bufPins > bufPinMax ∨
                sumOf (c.mq.map MEntry.lines) + mine.lines > linePinMax then stall s
            else accepted e i .engine (acceptM e opn (s.nextFlight e.ref) err { bt with decks := decks, fixed := true } cb.2.2)

def execMmaBf16 (f : FX) (s : State) : Host.Outcome State Fault Refusal := issue (.mmaBf16 f) s (mmaIssue (.mmaBf16 f) 0 f)
def execMmaF16 (f : FX) (s : State) : Host.Outcome State Fault Refusal := issue (.mmaF16 f) s (mmaIssue (.mmaF16 f) 1 f)
def execMmaE4m3 (f : FX) (s : State) : Host.Outcome State Fault Refusal := issue (.mmaE4m3 f) s (mmaIssue (.mmaE4m3 f) 2 f)
def execMmaE5m2 (f : FX) (s : State) : Host.Outcome State Fault Refusal := issue (.mmaE5m2 f) s (mmaIssue (.mmaE5m2 f) 3 f)
def execMmaE2m1 (f : FX) (s : State) : Host.Outcome State Fault Refusal := issue (.mmaE2m1 f) s (mmaIssue (.mmaE2m1 f) 4 f)
def execMmaE2m1x (f : FX) (s : State) : Host.Outcome State Fault Refusal := issue (.mmaE2m1x f) s (mmaIssue (.mmaE2m1x f) 5 f)
def execMmaI8 (f : FX) (s : State) : Host.Outcome State Fault Refusal := issue (.mmaI8 f) s (mmaIssue (.mmaI8 f) 6 f)
def execMmaF32 (f : FX) (s : State) : Host.Outcome State Fault Refusal := issue (.mmaF32 f) s (mmaIssue (.mmaF32 f) 7 f)
def execMmaF64 (f : FX) (s : State) : Host.Outcome State Fault Refusal := issue (.mmaF64 f) s (mmaIssue (.mmaF64 f) 8 f)

/-! Batches (R181-R184). -/

/-- The batch number after one (R181). -/
def nextBatch (n : Nat) : Nat := if n ≥ 0xFFFF then 1 else n + 1
/-- Write a deck's state; the last AVAILABLE deck of a core is never throttled, and that is reported instead (R365). -/
def State.putDeck (s : State) (core d v : Nat) : State :=
  let site := siteOfCore core
  if v = 1 ∧ s.deck core d = 0 ∧ (List.range 4).all (fun x => x == d || s.deck core x != 0) then s.logEvent site evThermal 4 (deckUnit core d) 0 0
  else if s.deck core d = v then s
  else (s.setDeck core d v).logEvent site evDeck 4 (deckUnit core d) 0 0
/-- Some open batch of the core uses a deck. -/
def Core.deckOpen (c : Core) (d : Nat) : Bool := c.batches.any (fun b => !b.closed && b.fixed && b.decks.getLsbD d)
/-- Some batch of the core is open, with its decks fixed. -/
def Core.batchOpen (c : Core) : Bool := c.batches.any (fun b => !b.closed && b.fixed)
/-- Apply the deck states that waited for a batch's close (R175, R306, R365): one that a deck's heat asks for when no batch is open, one that
firmware wrote when no open batch uses the deck. What firmware wrote is applied as it stands. -/
def State.applyDecks (s : State) (core : Nat) : State :=
  ((s.core core).pendDecks.filter (fun p => if p.2.2 then !(s.core core).deckOpen p.1 else !(s.core core).batchOpen)).foldl (fun t p =>
    let u := if p.2.2 then (t.setDeck core p.1 p.2.1.toNat).logEvent (siteOfCore core) evDeck 4 (deckUnit core p.1) 0 0
      else t.putDeck core p.1 p.2.1.toNat
    u.setCore core { u.core core with pendDecks := Table.erase (u.core core).pendDecks p.1 }) s
/-- BFENCE (R181): the close mark takes an entry of the queue. A batch that has ended in a run-time error is complete as
it is closed, though its close mark is held (R179, R181). -/
def execBfence (f : RRR) (s : State) : Host.Outcome State Fault Refusal :=
  issue (.bfence f) s (fun e s =>
    let c := s.core e.core
    if c.mq.length ≥ mqMax then stall s
    else
      let b := { openBatchOf e c with closed := true, clock := e.wg.oclk }
      let rep : DeckReport :=
        if b.err then b.report
        else { batch := b.num, err := false, decks := b.decks, passes := 0, promos := 0, ballast := 0, clock := e.wg.oclk, complete := false }
      let s0 := (acceptM e .close 0 none b s).applyDecks e.core
      let s1 := if b.err then s0.setCore e.core ((s0.core e.core).dropBatch b) else s0
      finishC e (fun d => { d with
        lastBatch := if b.err then b.num else d.lastBatch, openBatch := nextBatch b.num, batchWrap := d.batchWrap || decide (b.num ≥ 0xFFFF),
        reports := (d.reports ++ [rep]).drop (d.reports.length + 1 - 8) }.writeRegs e.tick
          [{ scalar := true, reg := f.d.toNat, thread := 0, val := BitVec.ofNat 32 b.num }]) s1)

/-- A batch number that the coach has closed (R181). -/
def Coach.hasClosed (c : Coach) (n : Nat) : Bool := decide (n ≠ 0 ∧ n ≠ c.openBatch) && (decide (n < c.openBatch) || c.batchWrap)
/-- The closed batches of a coach that have not completed and lie among the 2^15 numbers that end at n in closing order. -/
def Core.awaited (c : Core) (slot k n : Nat) : List Batch :=
  c.batches.filter (fun b => b.slot == slot && b.k == k && b.closed && decide ((n + 0xFFFF - b.num) % 0xFFFF < 2 ^ 15))
/-- The queue holds the batch behind a halt. -/
def Core.heldBatch (c : Core) (b : Batch) : Bool := c.mq.any (fun m => m.slot == b.slot && m.k == b.k && m.batch == b.num && c.held m)
/-- BWAIT (R181): the acquire is of the batch clocks, of which the last closed batch's is the largest. -/
def execBwait (f : RRR) (s : State) : Host.Outcome State Fault Refusal :=
  issue (.bwait f) s (fun e s =>
    let v := e.sop 0 f.a
    let n := v.toNat
    let c := s.core e.core
    if n ≥ 2 ^ 16 ∨ e.c.hasClosed n = false then trapAll e (.bwait f) cMTX_DESC (v.zeroExtend 64) s
    else
      let l := c.awaited e.ref.slot e.ref.k n
      if l.any c.heldBatch then trapAll e (.bwait f) cENGINE_HALT 0 s
      else if !l.isEmpty then waitIn e (.bwait f) .waitBatch { Wait.none with batch := some n } s
      else
        let k := (e.c.reports.find? (fun r => r.batch == n)).map DeckReport.clock
        finish e (s.acquireOpt e.ref.slot scWG k))

/-- The writes of MREP: a quad. -/
def mrepWrites (d : Nat) (r : Option DeckReport) : List RegWrite :=
  let ws := match r with | some r => r.wordsOf | none => [0, 0, 0, 0]
  (List.zip (List.range 4) ws).map (fun w => { scalar := true, reg := d + w.1, thread := 0, val := w.2 })
def execMrep (f : RRR) (s : State) : Host.Outcome State Fault Refusal :=
  issue (.mrep f) s (fun e s =>
    let v := e.sop 0 f.a
    let n := v.toNat % 2 ^ 16
    if n = e.c.openBatch then trapAll e (.mrep f) cMTX_DESC (v.zeroExtend 64) s
    else
      match e.c.reports.find? (fun r => r.batch == n) with
      | some r =>
        if r.complete then track e (.mrep f) .performed false none (mrepWrites f.d.toNat (some r)) s
        else track e (.mrep f) (.mrep n f.d.toNat) false none (e.c.pendingRun f.d.toNat 4) s
      | none => track e (.mrep f) .performed false none (mrepWrites f.d.toNat none) s)
/-- MXVER and the size of the matrix save image (R184, R214). -/
def mxver : Nat := 1
def imageBytes : Nat := 1048576
def execMqry (f : RRR) (s : State) : Host.Outcome State Fault Refusal :=
  issue (.mqry f) s (fun e s =>
    let v := e.sop 0 f.a
    let c := s.core e.core
    let out (x y : Nat) : State := track e (.mqry f) .performed false none (putRun true f.d.toNat 2 0 (x + 2 ^ 32 * y)) s
    match v.toNat with
    | 0 => out ((s.decksAvail e.core).toNat + (if s.epol.getLsbD 2 then 16 else 0) + (if (Table.find c.halted e.ctx).isSome then 32 else 0)) c.mq.length
    | 1 => out ((List.range 32).foldl (fun a n => if c.invalidTile e.wg.gid n then a + 2 ^ n else a) 0) 0
    | 2 => out e.c.openBatch e.c.lastBatch
    | 3 => out mxver imageBytes
    | _ => trapAll e (.mqry f) cMTX_DESC (v.zeroExtend 64) s)

/-! ACZERO and ACSCL (R185, R186). -/

def execAczero (f : RRR) (s : State) : Host.Outcome State Fault Refusal :=
  issue (.aczero f) s (fun e s =>
    let mask := e.sop 0 f.a
    let c := s.core e.core
    let tiles := (MOp.aczero mask).tiles
    match tiles.find? (fun t => !tileIn (c.resvOf e.wg.gid).asize t) with
    | some t => trapAll e (.aczero f) cBUF_RANGE (BitVec.ofNat 64 (tileBytes * t)) s
    | none =>
      if mask = 0 then accepted e (.aczero f) .performed s
      else if c.mq.length ≥ mqMax then stall s
      else
        let s1 := s.setCore e.core { c with inval := c.inval.filter (fun x => !(x.1 == e.wg.gid && tiles.contains x.2)) }
        accepted e (.aczero f) .engine (acceptM e (.aczero mask) (s.nextFlight e.ref) none (openBatchOf e c) s1))
def execAcscl (f : RRR) (s : State) : Host.Outcome State Fault Refusal :=
  issue (.acscl f) s (fun e s =>
    let v := e.sop 0 f.a
    let kind := bits v.toNat 8 2
    let tile := bits v.toNat 0 5
    let c := s.core e.core
    let op : MOp := .acscl kind tile (e.sop 1 f.b)
    if bits v.toNat 10 22 ≠ 0 ∨ bits v.toNat 5 3 ≠ 0 ∨ kind = 3 ∨ (kind = 1 ∧ tile % 2 ≠ 0) then trapAll e (.acscl f) cMTX_DESC (v.zeroExtend 64) s
    else
      match op.tiles.find? (fun t => !tileIn (c.resvOf e.wg.gid).asize t) with
      | some t => trapAll e (.acscl f) cBUF_RANGE (BitVec.ofNat 64 (tileBytes * t)) s
      | none =>
        if op.tiles.any (c.invalidTile e.wg.gid) then trapAll e (.acscl f) cMTX_INVALID_ACC 0 s
        else if c.mq.length ≥ mqMax then stall s
        else accepted e (.acscl f) .engine (acceptM e op (s.nextFlight e.ref) none (openBatchOf e c) s))

end Sys2Proof.Machine
end

