-- ==== Sys2Proof/Machine/MatrixRun.lean ====
section
/-! DEFINITION. What the matrix queue does (R61-R65, R177-R179, R305-R310): which entry is next, passes, runs and their
sums, completion, run-time errors, and MSAVE and MREST (R214). -/

namespace Sys2Proof.Machine

/-! Which entry is next (R177, R305). -/

def MEntry.sameBatch (m n : MEntry) : Bool := m.slot == n.slot && m.k == n.k && m.batch == n.batch
/-- An operand of the entry waits for its tin (R174). -/
def MEntry.gated (m : MEntry) : Bool := match m.op with | .mma _ _ _ _ a b => a.rows.isNone || b.rows.isNone | _ => false
/-- The tiles that the entry's batch targets. -/
def Core.batchTiles (c : Core) (m : MEntry) : List Nat := match c.batchOf m.slot m.k m.batch with | some b => Table.keys b.tiles | none => m.op.tiles
/-- A batch of another coach that has not completed targeted one of the entry's tiles before the entry's own batch did (R177,
R185). -/
def Core.tileTaken (c : Core) (m : MEntry) : Bool :=
  let own (t : Nat) : Nat := match c.batchOf m.slot m.k m.batch with | some b => Table.getD b.tiles t m.id | none => m.id
  c.batches.any (fun b => b.gid == m.gid && !b.err && !(b.slot == m.slot && b.k == m.k) &&
    m.op.tiles.any (fun t => match Table.find b.tiles t with | some id => decide (id < own t) | none => false))
/-- The first entry of the queue that can be performed: entries behind a halt, a gate, a tile or a copy are passed, with
the later entries of their batches and those of their coaches on the tiles that these batches target; a gated one keeps back
every later entry on them (R177). -/
def State.nextEntry (s : State) (core : Nat) (ms blocked : List MEntry) : Option MEntry :=
  match ms with
  | [] => none
  | m :: r =>
    let c := s.core core
    if m.consumed then State.nextEntry s core r blocked
    else
      let waits := c.held m || m.gated || c.tileTaken m ||
        m.after.any (fun id => (s.site (siteOfCore core)).copyq.any (fun q => q.2.any (fun x => x.id == id))) ||
        blocked.any (fun b => b.sameBatch m || (b.gid == m.gid && (b.gated || (b.slot == m.slot && b.k == m.k)) &&
          (c.batchTiles b).any (fun t => m.op.tiles.contains t)))
      if waits then State.nextEntry s core r (blocked ++ [m]) else some m

/-! Replacing entries and batches. -/

def State.putEntry (s : State) (core : Nat) (m : MEntry) : State :=
  let c := s.core core
  s.setCore core { c with mq := c.mq.map (fun x => if x.id = m.id then m else x) }
def State.dropEntry (s : State) (core id : Nat) : State :=
  let c := s.core core
  s.setCore core { c with mq := c.mq.filter (fun x => !decide (x.id = id)) }
def State.setBatch (s : State) (core : Nat) (b : Batch) : State := s.setCore core ((s.core core).putBatch b)
def MEntry.ref (m : MEntry) : CoachRef := { slot := m.slot, k := m.k }
/-- Mark tiles INVALID. -/
def State.markInvalid (s : State) (core gid : Nat) (tiles : List Nat) : State :=
  let c := s.core core
  s.setCore core { c with inval := c.inval ++ (tiles.filter (fun t => !c.invalidTile gid t)).map (fun t => (gid, t)) }

/-- Tiles are valid again (R179, R185). -/
def State.validate (s : State) (core gid : Nat) (tiles : List Nat) : State :=
  let c := s.core core
  s.setCore core { c with inval := c.inval.filter (fun x => !(x.1 == gid && tiles.contains x.2)) }

/-! Element values. -/

/-- Cut a list into pieces of n. -/
def chunks {α : Type} (fuel n : Nat) (l : List α) : List (List α) :=
  match fuel with
  | 0 => []
  | f + 1 => if l.isEmpty then [] else l.take n :: chunks f n (l.drop n)
/-- The codes of a row's elements. -/
def codesOf (bitw : Nat) (row : List Byte) : List Nat :=
  if bitw = 4 then row.flatMap (fun b => [b.toNat % 16, b.toNat / 16]) else (chunks row.length (bitw / 8) row).map ofBytesLE
/-- Rows and columns exchanged. -/
def transposed {α : Type} (d : α) (rows : List (List α)) (n : Nat) : List (List α) :=
  (List.range n).map (fun j => rows.map (fun r => r.getD j d))
/-- The 64 vectors of an operand, each of its K element codes in ascending k (R172). -/
def MOperand.codes (m : MOperand) (op : Nat) : List (List Nat) :=
  let bs := match m.rows with | some b => b | none => []
  let rows := (chunks (rowCount op m.trans) (rowBytes op m.trans) bs).map (codesOf (mmaBits op))
  if m.trans then transposed 0 rows 64 else rows
/-- X and Z of block b of row r. -/
def MOperand.scale (m : MOperand) (op r b : Nat) : Nat × Nat :=
  let o := 2 * (r * (mmaK op / 32) + b)
  (fieldLE m.side o 1, fieldLE m.side (o + 1) 1)
/-- The value of element k of vector r. -/
def elemValue (m : MOperand) (op r k code : Nat) : Fv :=
  match mmaBlk op with
  | some f => let sc := m.scale op r (k / 32); decodeElem f sc.1 sc.2 code
  | none =>
    match op with
    | 0 => Fv.ofBits bf16 code
    | 1 => Fv.ofBits fp16 code
    | 6 => Fv.ofInt (BitVec.ofNat 8 code).toInt
    | 8 => Fv.ofBits fp64 code
    | _ => Fv.ofBits fp32 code
/-- k-steps of a k-block (R61, R64). -/
def blockK (op : Nat) : Nat := match op with | 7 => 8 | 8 => 4 | _ => 16
def blocksOf (op : Nat) : Nat := mmaK op / blockK op
/-- The values of k-block q of every vector. -/
def MOperand.block (m : MOperand) (op q : Nat) : List (List Fv) :=
  let n := blockK op
  (List.zip (List.range 64) (m.codes op)).map (fun v =>
    (List.zip (upFrom (n * q) n) ((v.2.drop (n * q)).take n)).map (fun e => elemValue m op v.1 e.1 e.2))
/-- The first ill-formed block of an operand in ascending row, then block (R309): its row and number. -/
def MOperand.illBlock (m : MOperand) (op : Nat) : Option (Nat × Nat) :=
  match mmaBlk op with
  | none => none
  | some f =>
    ((List.range 64).flatMap (fun r => (List.range (mmaK op / 32)).map (fun b => (r, b)))).find? (fun p =>
      let sc := m.scale op p.1 p.2; illFormed f sc.1 sc.2)
/-- The address an error record gives for a block (R309). -/
def MOperand.blockAddr (m : MOperand) (op r b : Nat) : DWord :=
  m.addr + BitVec.ofNat 64 (r * m.stride + b * (if mmaBits op = 4 then 16 else 32))

/-! Sums. -/

/-- The formats of a deck's partial and of the accumulator (R61, R64). -/
def partFmt (op : Nat) : FloatFmt := match op with | 7 => fp32 | 8 => fp64 | _ => fp24
def accFmt (op : Nat) : FloatFmt := if op = 8 then fp64 else fp32
/-- A deck's partial of one block of one element: the exact sum of its products, rounded once. -/
def partialOf (op : Nat) (a b : List Fv) : DWord × Word :=
  if op = 6 then
    let v (x : Fv) : Int := match x with | .num n m _ => if n then -(m : Int) else m | _ => 0
    (BitVec.ofInt 64 ((List.zip a b).foldl (fun t p => t + v p.1 * v p.2) 0), 0)
  else
    let r := (partFmt op).deliver .rne false (dotF .rne (List.zip a b) [])
    (BitVec.ofNat 64 r.1, r.2)
/-- One step of the chain. -/
def chainAdd (op : Nat) (x y : DWord) : DWord × Word :=
  if op = 6 then (x + y, 0)
  else
    let f := partFmt op
    let r := f.deliver .rne false (addF .rne (Fv.ofBits f x.toNat) (Fv.ofBits f y.toNat))
    (BitVec.ofNat 64 r.1, r.2)
/-- A promotion: the chain added into the accumulator. -/
def promote (op : Nat) (acc ch : DWord) : DWord × Word :=
  if op = 6 then (((acc + ch).truncate 32).zeroExtend 64, 0)
  else
    let f := accFmt op
    let r := f.deliver .rne false (addF .rne (Fv.ofBits f acc.toNat) (Fv.ofBits (partFmt op) ch.toNat))
    (BitVec.ofNat 64 r.1, r.2)
/-- Apply an operation pointwise, collecting flags. -/
def pointwise (g : DWord → DWord → DWord × Word) (x y : List DWord) : List DWord × Word :=
  let r := (List.zip x y).map (fun p => g p.1 p.2)
  (r.map Prod.fst, flagsAll (r.map Prod.snd))

/-- Bytes of an accumulator element, and the tile's elements in the ABUF (R145, R170). -/
def accBytes (op : Nat) : Nat := if op = 8 then 8 else 4
def State.readTile (s : State) (core gid n tile : Nat) : List DWord :=
  let c := s.core core
  (chunks 4096 n (bufRead c.abuf ((c.resvOf gid).abase + tileBytes * tile) (4096 * n))).map (fun b => BitVec.ofNat 64 (ofBytesLE b))
def State.writeTile (s : State) (core gid n tile : Nat) (l : List DWord) : State :=
  let c := s.core core
  s.setCore core (c.putBytes .abuf ((c.resvOf gid).abase + tileBytes * tile) (l.flatMap (fun x => bytesLE n x.toNat)))
/-- The uncorrectable error that reading an accumulator meets (R179, R270): at its first bad block. -/
def Core.tileFault (c : Core) (gid n tile : Nat) : Option (Nat × Nat × DWord) :=
  if c.bad.isEmpty then none
  else ((upFrom (tileBytes * tile / 16) (256 * n)).find? (fun k => c.bufBad .abuf ((c.resvOf gid).abase + 16 * k) 16 false)).map
    (fun k => (2, cECC_UNCORRECTABLE.toNat, BitVec.ofNat 64 (16 * k)))

/-- Does the chain group of a run end with its block s, when n decks are active (R62)? -/
def groupEnds (op p n s : Nat) : Bool :=
  let pos := s % n
  let last := decide (pos + 1 = n)
  if op ≥ 6 then last
  else
    match p with
    | 0 => true
    | 1 => last || decide (pos % 2 = 1)
    | 2 => last
    | _ => last && decide (s / n % 2 = 1)
/-- Promote the chain of a run's group. -/
def Run.promoteGroup (r : Run) : Run × Word :=
  let q := pointwise (promote r.op) r.acc r.group
  ({ r with acc := q.1, group := [], groupFill := 0 }, q.2)
/-- Put one k-block through its deck (R61). -/
def Run.step (r : Run) (n : Nat) (a b : List (List Fv)) : Run × Word × Bool :=
  let ps := a.flatMap (fun x => b.map (fun y => partialOf r.op x y))
  let fl := flagsAll (ps.map Prod.snd)
  let ch := if r.groupFill = 0 then (ps.map Prod.fst, 0) else pointwise (chainAdd r.op) r.group (ps.map Prod.fst)
  let ends := groupEnds r.op r.p n r.blocksDone
  let r1 : Run := { r with group := ch.1, groupFill := r.groupFill + 1, blocksDone := r.blocksDone + 1 }
  if ends then let q := r1.promoteGroup; (q.1, fl ||| ch.2 ||| q.2, true) else (r1, fl ||| ch.2, false)

/-- End a batch's run: the last group is promoted and the sums are written to the tile (R61, R62). -/
def State.endRun (s : State) (core : Nat) (b : Batch) : State :=
  match b.run with
  | none => s
  | some r =>
    let q := if r.groupFill = 0 then (r, 0) else r.promoteGroup
    let s1 := s.writeTile core b.gid (accBytes r.op) r.tile q.1.acc
    (s1.setBatch core { b with run := none, promos := b.promos + (if r.groupFill = 0 then 0 else 1) }).orStatus (siteOfCore core) b.ctx q.2

/-- Blocks of an MMA up to the end of the pass in progress (R61): the batch, the blocks taken, the flags. -/
def passBlocks (fuel n : Nat) (op : Nat) (a b : MOperand) (bt : Batch) (r : Run) (q : Nat) (fl : Word) : Batch × Run × Nat × Word :=
  match fuel with
  | 0 => (bt, r, q, fl)
  | f + 1 =>
    if q ≥ blocksOf op then (bt, r, q, fl)
    else
      let x := r.step n (a.block op q) (b.block op q)
      let bt1 := { bt with passes := bt.passes + (if r.blocksDone % n = 0 then 1 else 0), promos := bt.promos + (if x.2.2 then 1 else 0) }
      if x.1.blocksDone % n = 0 then (bt1, x.1, q + 1, fl ||| x.2.1) else passBlocks f n op a b bt1 x.1 (q + 1) (fl ||| x.2.1)

/-! Completion and errors. -/

/-- A coach in BWAIT n goes on when every batch up to n has completed (R21, R181). -/
def State.endBwait (s : State) (core : Nat) (r : CoachRef) : State :=
  match (s.coach r).bind (fun d => d.wait.batch) with
  | some n => if ((s.core core).awaited r.slot r.k n).isEmpty then s.wakeFrom r .waitBatch else s
  | none => s

/-- A closed batch completes (R181, R182): its report, its waiting coach and its MREPs. -/
def State.finishBatch (s : State) (core : Nat) (b : Batch) : State :=
  let r : CoachRef := { slot := b.slot, k := b.k }
  let rep := b.report
  let s1 := s.setCore core ((s.core core).dropBatch b)
  let s2 := s1.modCoach r (fun d => { d with
    lastBatch := b.num, reports := d.reports.map (fun r => if r.batch = b.num ∧ r.complete = false then { rep with clock := r.clock } else r) })
  let mreps := match s2.coach r with
    | some d => d.flights.filterMap (fun (f : Flight) => match f.kind with
      | .mrep n reg => if n = b.num then some (f.id, reg) else (none : Option (Nat × Nat))
      | _ => none)
    | none => []
  let s3 := mreps.foldl (fun (t : State) p => t.completeWith r p.1 (mrepWrites p.2 (some rep))) s2
  s3.endBwait core r
/-- A batch ends in an error (R179): its run is ended, and a closed one completes with ERR at once, an open one when it
is closed. -/
def State.breakBatch (s : State) (core : Nat) (m : MEntry) : State :=
  let s1 := match (s.core core).batchOf m.slot m.k m.batch with | some b => s.endRun core b | none => s
  match (s1.core core).batchOf m.slot m.k m.batch with
  | some b => if b.closed then s1.finishBatch core { b with err := true } else s1.setBatch core { b with err := true }
  | none => s1
/-- An entry that does not compute: it is lowered on its flag, and its batch ends with ERR (R179). -/
def State.skipEntry (s : State) (core : Nat) (m : MEntry) : State :=
  ((s.dropEntry core m.id).completeFlight m.ref m.flight).breakBatch core m

/-- A matrix run-time error (R179, R309, R310): the record first, then INVALID, ERR and the halt; a coach in BWAIT
whose batch is now held wakes to trap. -/
def State.matrixError (s : State) (core : Nat) (m : MEntry) (kind cause : Nat) (addr : DWord) : State :=
  let site := siteOfCore core
  let tile := m.op.tiles.headD 0
  let s1 := s.errorRecord site m.ctx (errorBytes s site 0 kind (if kind = 1 then none else some (BitVec.ofNat 7 cause)) m.slot m.ctx m.k addr
    m.batch 0 tile 0 m.pc 0)
  let s2 := s1.orStatus site m.ctx (flagIf (kind == 1) flFMT)
  let s3 := s2.markInvalid core m.gid m.op.tiles
  let c := s3.core core
  let s4 := s3.setCore core (c.haltAt m.ctx m.id)
  let s6 := ((s4.dropEntry core m.id).completeFlight m.ref m.flight).breakBatch core m
  let held := ((s6.core core).batches.filter (fun b => b.closed && (s6.core core).heldBatch b)).map (fun b => ({ slot := b.slot, k := b.k } : CoachRef))
  held.foldl (fun t r => t.wakeFrom r .waitBatch) s6

/-- The close mark of a batch has reached its turn (R181). -/
def State.completeBatch (s : State) (core : Nat) (m : MEntry) : State :=
  match (s.core core).batchOf m.slot m.k m.batch with
  | none => s.dropEntry core m.id
  | some b => (s.dropEntry core m.id).finishBatch core b

/-- Scale one element (R186). -/
def scaleElem (kind : Nat) (x : DWord) (k : Word) : DWord × Word :=
  let out (r : Nat × Word) : DWord × Word := (BitVec.ofNat 64 r.1, r.2)
  match kind with
  | 0 => out (fp32.deliver .rne false (mulF (Fv.ofBits fp32 x.toNat) (Fv.ofBits fp32 k.toNat)))
  | 1 => out (fp64.deliver .rne false (mulF (Fv.ofBits fp64 x.toNat) (Fv.ofBits fp32 k.toNat)))
  | _ => ((((x.truncate 32 : Word) * k)).zeroExtend 64, 0)

/-- End the batch's run when it is on one of these tiles. -/
def State.endRunOn (s : State) (core : Nat) (m : MEntry) (tiles : List Nat) : State :=
  match (s.core core).batchOf m.slot m.k m.batch with
  | some b =>
    match b.run with
    | some r => if (tilesOf r.op r.tile).any (fun t => tiles.contains t) then s.endRun core b else s
    | none => s
  | none => s

/-- The cycles of a pass (R169). -/
def passCycles (op : Nat) : Nat := [128, 128, 64, 64, 32, 32, 64, 256, 512].getD op 128
/-- The work in eighths of a cycle that a ramp has delivered so far: that of its whole steps, and of the cycles of the step in progress
(R358). -/
def State.rampWork (s : State) (core : Nat) : Int :=
  let c := s.core core
  c.work + (c.level * min 4 (s.clk (siteOfCore core) + 4 - c.slewAt) : Nat)
/-- A core ramps. -/
def Core.ramping (c : Core) : Bool := match c.slew with | .ramp _ => true | _ => false
/-- A pass of a type can leave the decks (R358): they run in full, or the ramp has delivered its work. -/
def State.passLeaves (s : State) (core op : Nat) : Bool :=
  (s.core core).level == 8 || ((s.core core).ramping && decide ((8 * passCycles op : Nat) ≤ s.rampWork core))

/-- The error of the first ill-formed block of an MMA's operands (R309). -/
def illFault (op : Nat) (a b : MOperand) : Option (Nat × Nat × DWord) :=
  match a.illBlock op, b.illBlock op with
  | some q, _ => some (1, 0, a.blockAddr op q.1 q.2)
  | none, some q => some (1, 0, b.blockAddr op q.1 q.2)
  | none, none => none
/-- The tin of a gated operand will never be FULL: it has ERR or was killed (R174). -/
def MOperand.gateFault (c : Core) (x : MOperand) : Option (Nat × Nat × DWord) :=
  match x.rows, x.gate with
  | none, some t => if (c.tin t).err || (c.tin t).killed then some (6, cTIN_FAULT.toNat, x.addr) else none
  | _, _ => none
/-- The error that an MMA meets at its turn: an ill-formed block (R309), or an accumulator that it reads and that is bad. -/
def State.turnFault (s : State) (core : Nat) (m : MEntry) : Option (Nat × Nat × DWord) :=
  let c := s.core core
  match m.op with
  | .mma op tile zero p a b =>
    let goesOn := match (c.batchOf m.slot m.k m.batch).bind Batch.run with
      | some r => !zero && r.tile == tile && r.op == op && r.p == p
      | none => false
    (illFault op a b).or (if zero || goesOn || m.blocks != 0 then none else c.tileFault m.gid (accBytes op) tile)
  | .acscl kind tile _ => c.tileFault m.gid (if kind = 1 then 8 else 4) tile
  | _ => none
/-- The run-time error that an entry has met (R179): what its operands met, what its tins came to, or at its turn what its
blocks or its accumulator hold. -/
def State.entryFault (s : State) (core : Nat) (m : MEntry) : Option (Nat × Nat × DWord) :=
  let c := s.core core
  let atTurn := if (s.nextEntry core c.mq []).map MEntry.id = some m.id then s.turnFault core m else none
  if m.consumed || c.held m then none
  else
    match m.op with
    | .mma _ _ _ _ a b => (m.err.or ((a.gateFault c).or (b.gateFault c))).or atTurn
    | .acscl _ _ _ => atTurn
    | _ => none

/-- An MMA's turn (R61, R177, R179): a new run or the next pass of the run; when its last block has entered its deck its
operands are consumed. -/
def State.mmaTurn (s : State) (core : Nat) (m : MEntry) (op tile : Nat) (zero : Bool) (p : Nat) (a b : MOperand) : State :=
  match (s.core core).batchOf m.slot m.k m.batch with
  | none => s.skipEntry core m
  | some bt =>
    let goesOn := match bt.run with | some r => !zero && r.tile == tile && r.op == op && r.p == p | none => false
    let s1 := if m.blocks = 0 ∧ goesOn = false then s.endRun core bt else s
    let bad := m.err.or (s.turnFault core m)
    if bt.err || m.op.tiles.any ((s1.core core).invalidTile m.gid) then s1.skipEntry core m
    else
      match bad with
      | some _ => s1.later [⟨.matrixRuntimeError, { EvArgs.zero with core := core, id := m.id }⟩]
      | none =>
        match (s1.core core).batchOf m.slot m.k m.batch with
        | none => s1
        | some b1 =>
          let run := match b1.run with
            | some r => r
            | none =>
              { tile := tile, op := op, p := p, blocksDone := 0, group := [], groupFill := 0,
                acc := if zero then List.replicate 4096 0 else s1.readTile core m.gid (accBytes op) tile }
          let n := max 1 (deckChain b1.decks).length
          let r := passBlocks (blocksOf op) n op a b b1 run m.blocks 0
          let done := decide (r.2.2.1 ≥ blocksOf op)
          let s2 := (s1.setBatch core { r.1 with run := some r.2.1 }).putEntry core { m with blocks := r.2.2.1, consumed := done }
          let c2 := s2.core core
          let s3 := (s2.setCore core { c2 with
            lastPass := some { slot := m.slot, k := m.k, batch := m.batch, ctx := m.ctx }, work := c2.work - (8 * passCycles op : Nat) }).orStatus
            (siteOfCore core) m.ctx r.2.2.2
          let s3 := s3.addWin (siteOfCore core) (offMXENERGY m.ctx) (Config.energy s.tick (192 + core)).toNat
          if done then s3.later [⟨.mmaComplete, { EvArgs.zero with core := core, id := m.id }⟩] else s3

/-- The turn of the queue's next entry. -/
def State.entryTurn (s : State) (core : Nat) (m : MEntry) : State :=
  match m.op with
  | .mma op tile zero p a b =>
    if s.passLeaves core op then s.mmaTurn core m op tile zero p a b
    else if (s.core core).ramping then s
    else s.setCore core { s.core core with rampWait := true }
  | .aczero mask =>
    let s0 := s.endRunOn core m (MOp.aczero mask).tiles
    let s1 := s0.validate core m.gid (MOp.aczero mask).tiles
    let s2 := (MOp.aczero mask).tiles.foldl (fun t n => t.writeTile core m.gid 4 n (List.replicate 4096 0)) s1
    (s2.dropEntry core m.id).completeFlight m.ref m.flight
  | .acscl kind tile k =>
    let tiles := (MOp.acscl kind tile k).tiles
    let bErr := match (s.core core).batchOf m.slot m.k m.batch with | some b => b.err | none => true
    if bErr || tiles.any ((s.core core).invalidTile m.gid) then s.skipEntry core m
    else if (s.turnFault core m).isSome then s.later [⟨.matrixRuntimeError, { EvArgs.zero with core := core, id := m.id }⟩]
    else
      let s1 := s.endRunOn core m tiles
      let n := if kind = 1 then 8 else 4
      let r := (s1.readTile core m.gid n tile).map (fun x => scaleElem kind x k)
      let s2 := (s1.writeTile core m.gid n tile (r.map Prod.fst)).orStatus (siteOfCore core) m.ctx (flagsAll (r.map Prod.snd))
      (s2.dropEntry core m.id).completeFlight m.ref m.flight
  | .close =>
    let s1 := match (s.core core).batchOf m.slot m.k m.batch with | some b => s.endRun core b | none => s
    (s1.putEntry core { m with consumed := true }).later [⟨.batchComplete, { EvArgs.zero with core := core, id := m.id }⟩]

/-- MATRIX_PASS (R61-R65, R177): the array takes the next entry of a core's queue, or one pass of it. A frozen array
takes none. -/
def execMatrixPass (s : State) : Host.Outcome State Fault Refusal :=
  let core := s.arg.core
  .next (if (s.core core).frozen then s
    else match s.nextEntry core (s.core core).mq [] with
      | some m => s.entryTurn core m
      | none => s)
def State.entryById (s : State) (core id : Nat) : Option MEntry := (s.core core).mq.find? (fun m => m.id == id)
/-- MMA_COMPLETE (R178): the operands are consumed, the pins released, the flag lowered. -/
def execMmaComplete (s : State) : Host.Outcome State Fault Refusal :=
  .next (match s.entryById s.arg.core s.arg.id with
    | some m =>
      match m.op, m.consumed with
      | .mma _ _ _ _ _ _, true => (s.dropEntry s.arg.core m.id).completeFlight m.ref m.flight
      | _, _ => s
    | none => s)
/-- BATCH_COMPLETE (R181): a close mark has reached its turn. -/
def execBatchComplete (s : State) : Host.Outcome State Fault Refusal :=
  .next (match s.entryById s.arg.core s.arg.id with
    | some m =>
      match m.op, m.consumed with
      | .close, true => s.completeBatch s.arg.core m
      | _, _ => s
    | none => s)
/-- MATRIX_RUNTIME_ERROR (R179): an MMA has met an error. -/
def execMatrixRuntimeError (s : State) : Host.Outcome State Fault Refusal :=
  .next (match s.entryById s.arg.core s.arg.id with
    | some m => match s.entryFault s.arg.core m with
      | some (kind, cause, addr) => s.matrixError s.arg.core m kind cause addr
      | none => s
    | none => s)

/-- Read an operand whose tin has become FULL, or find its tin killed or in error (R174). -/
def gateOperand (s : State) (core : Nat) (m : MEntry) (op : Nat) (buf : Buf) (x : MOperand) : MOperand × Option (Nat × Nat × DWord) × State :=
  match x.rows, x.gate with
  | none, some t =>
    let c := s.core core
    let tin := c.tin t
    if (x.gateFault c).isSome then (x, x.gateFault c, s)
    else if tin.state ≠ 2 then (x, none, s)
    else if x.global then
      match globalRows none (siteOfCore core) m.ctx op x (List.range (rowCount op x.trans)) s with
      | (.ok rows, s1) =>
        readGlobal core { core := core, ctx := m.ctx, agent := BitVec.ofNat 16 m.slot, clk := m.clock } op x rows s1
      | (.error (.xlate k va), s1) => (x, some (errKind k, (errCause k).toNat, va), s1)
      | (.error .desc, s1) => (x, some (5, cXLATE_PERM.toNat, x.addr), s1)
    else
      let r := c.resvOf m.gid
      let base := match buf with | .xbuf => r.xbase | _ => r.wbase
      (readBuffer (c.buf buf) base op x, bufferFault c buf base op x, s)
  | _, _ => (x, none, s)
/-- MMA_GATE_START (R174): the tin of a gated operand is FULL, or will never be. -/
def execMmaGateStart (s : State) : Host.Outcome State Fault Refusal :=
  let core := s.arg.core
  .next (match s.entryById core s.arg.id with
    | some m =>
      match m.op with
      | .mma op tile zero p a b =>
        let ra := gateOperand s core m op .xbuf a
        let rb := gateOperand ra.2.2 core m op .wbuf b
        let err := match m.err with | some x => some x | none => match ra.2.1 with | some x => some x | none => rb.2.1
        let m1 := { m with op := .mma op tile zero p ra.1 rb.1, err := err }
        let s1 := rb.2.2.putEntry core m1
        match err, (ra.2.1, rb.2.1) with
        | some _, (some _, _) | some _, (none, some _) =>
          if m1.gated then s1.later [⟨.matrixRuntimeError, { EvArgs.zero with core := core, id := m.id }⟩] else s1
        | _, _ => s1
      | _ => s
    | none => s)
/-- The entries of a core's queue that wait for a tin, to be started as its state changes. -/
def State.gateEvents (s : State) (core tin : Nat) : List Event :=
  ((s.core core).mq.filter (fun m => match m.op with
    | .mma _ _ _ _ a b => (a.rows.isNone && a.gate == some tin) || (b.rows.isNone && b.gate == some tin)
    | _ => false)).map (fun m => ⟨.mmaGateStart, { EvArgs.zero with core := core, id := m.id }⟩)

/-! MSAVE and MREST (R214). -/

/-- Translate the pages of an image, of one MiB, for one access; the 8-byte registers of space 3 hold none. -/
def probeImage (e : Env) (va : DWord) (need : Need) (s : State) : Except (Cause × DWord) (List (Target × Nat)) × State :=
  if va.toNat % 4096 ≠ 0 then (.error (cUNALIGNED, va), s)
  else
    match xlateParts (some e.core) e.site e.ctx need (pageParts 17 va imageBytes) s with
    | (.error x, s1) => (.error x, s1)
    | (.ok l, s1) =>
      match l.find? (fun p => decide (paSpace p.1.x.pa = 3)) with
      | some p => (.error (cUNALIGNED, p.1.va), s1)
      | none => (.ok l, s1)
/-- The home checks of parts in ascending address. -/
def checkParts (a : Acc) (kind : AccKind) (l : List (Target × Nat)) (s : State) : Option (Cause × DWord) × State :=
  l.foldl (fun r p =>
    match r.1 with
    | some x => (some x, r.2)
    | none =>
      match r.2.homeCheck a p.1.x p.2 kind with
      | (some c, s1) => (some (c, p.1.va), s1)
      | (none, s1) => (none, s1.homeTouch p.1.x.pa p.2)) (none, s)
/-- Write bytes over parts. -/
def writeParts (l : List (Target × Nat)) (bs : List Byte) (s : State) : State :=
  match l with
  | [] => s
  | p :: r => writeParts r (bs.drop p.2) (s.homeWrite p.1.x.pa (bs.take p.2))
/-- The bytes of a save image: MXVER, then opaque bytes. -/
def imageOf (tick : Nat) : List Byte := bytesLE 4 mxver ++ (upFrom 4 (imageBytes - 4)).map (Config.imageByte tick)
/-- MSAVE (R214): the array freezes; what the image holds of it goes with the image's bytes. -/
def execMsave (f : FS) (s : State) : Host.Outcome State Fault Refusal :=
  issue (.msave f) s (fun e s =>
    let va := e.sop64 0 f.d
    match probeImage e va .write s with
    | (.error x, s1) => trapAll e (.msave f) x.1 x.2 s1
    | (.ok l, s1) =>
      match checkParts e.acc .write l s1 with
      | (some x, s2) => trapAll e (.msave f) x.1 x.2 s2
      | (none, s2) =>
        let c := s2.core e.core
        let s3 := dropParts e.core l (s2.setCore e.core { c with frozen := true })
        let s4 := writeParts l (imageOf s.tick) s3
        tracked e (.msave f) [] { s4 with images := (imageOf s.tick, c.mq, c.batches, c.halted) :: s4.images })
/-- An image's batch with what the core has accepted of it since the image was written: its close, its decks, its tiles (R214). -/
def Batch.joinedBy (o p : Batch) : Batch :=
  { o with
    closed := o.closed || p.closed, clock := if p.closed then p.clock else o.clock,
    decks := if o.fixed then o.decks else p.decks, fixed := o.fixed || p.fixed,
    tiles := p.tiles.foldl (fun t e => if (Table.find t e.1).isSome then t else Table.insert t e.1 e.2) o.tiles }
/-- Load an image's matrix array into a core (R214): what the core has accepted since stays behind it. -/
def Core.loadImage (c : Core) (x : List MEntry × List Batch × Table Nat) : Core :=
  { c with
    mq := x.1 ++ c.mq.filter (fun m => !x.1.any (fun o => o.id == m.id && o.slot == m.slot && o.k == m.k && o.flight == m.flight)),
    batches := x.2.1.map (fun o => match c.batchOf o.slot o.k o.num with | some p => o.joinedBy p | none => o) ++ c.batches.filter (fun b => !x.2.1.any (fun o => o.slot == b.slot && o.k == b.k && o.num == b.num)),
    halted := x.2.2.foldl (fun t h => Table.insert t h.1 h.2) c.halted,
    nextId := x.1.foldl (fun n m => max n (m.id + 1)) c.nextId, frozen := false }
/-- MREST (R214): the array continues where the MSAVE that wrote these bytes froze it. -/
def execMrest (f : FS) (s : State) : Host.Outcome State Fault Refusal :=
  issue (.mrest f) s (fun e s =>
    let va := e.sop64 0 f.d
    match probeImage e va .read s with
    | (.error x, s1) => trapAll e (.mrest f) x.1 x.2 s1
    | (.ok l, s1) =>
      match checkParts e.acc .read l s1 with
      | (some x, s2) => trapAll e (.mrest f) x.1 x.2 s2
      | (none, s2) =>
        let s3 := cleanParts e.core l s2
        let bs := readParts s3 l
        if ofBytesLE (bs.take 4) ≠ mxver then trapAll e (.mrest f) cMXVER_MISMATCH 0 s3
        else
          let c := s3.core e.core
          tracked e (.mrest f) [] (s3.setCore e.core (match s3.images.find? (fun x => x.1 == bs) with
            | some x => c.loadImage x.2
            | none => { c with frozen := false })))

/-! ERES (R213). The copy queues of the site are resumed by what Copy.lean gives. -/

/-- The entries held behind a context's halt, in order. -/
def Core.heldBy (c : Core) (ctx : Nat) : List MEntry := c.mq.filter (fun m => m.ctx == ctx && c.held m)
/-- Lift the halt of a context. -/
def State.liftHalt (s : State) (core ctx : Nat) : State :=
  s.setCore core { s.core core with halted := Table.erase (s.core core).halted ctx }
/-- Perform close marks, and the ACZEROs before them, whose turn has come, from a list of entries that were held. -/
def State.performHeld (fuel : Nat) (s : State) (core : Nat) (ids : List Nat) : State :=
  match fuel with
  | 0 => s
  | n + 1 =>
    match s.nextEntry core ((s.core core).mq.filter (fun m => ids.contains m.id)) [] with
    | none => s
    | some m => State.performHeld n (s.entryTurn core m) core ids
/-- Resume a matrix queue: the count of entries dropped. -/
def State.eresMatrix (s : State) (core ctx : Nat) (discard : Bool) : Nat × State :=
  if (Table.find (s.core core).halted ctx).isNone then (0, s)
  else
    let held := (s.core core).heldBy ctx
    let s1 := s.liftHalt core ctx
    if !discard then (0, s1)
    else
      let drop := held.filter (fun (m : MEntry) => match m.op with | .mma _ _ _ _ _ _ | .acscl _ _ _ => true | _ => false)
      let keep := held.filter (fun (m : MEntry) => match m.op with | .mma _ _ _ _ _ _ | .acscl _ _ _ => false | _ => true)
      let s2 := drop.foldl (fun t m => t.skipEntry core m) s1
      (drop.length, s2.performHeld keep.length core (keep.map MEntry.id))

end Sys2Proof.Machine
end

