-- ==== Sys2Proof/Machine/Tin.lean ====
section
/-! DEFINITION. The tin unit (R194-R197, R315): arrivals, what waits on a tin, and TININIT, TINWAIT, TINREL, TINKILL and
TINQ. -/

namespace Sys2Proof.Machine

/-! A trap at the completion of an operation in flight (R167, R246). -/

/-- The operation in flight traps: it is the FAULTED entry, a wait that the coach has entered since is cancelled, and
its flag stays counted. Younger operations that have not performed become PENDING, and so does a younger entry that had
raised a cause, which is discarded. -/
def State.flightTrap (s : State) (r : CoachRef) (id : Nat) (cause : Cause) (addr : DWord) : State :=
  let s1 := s.cancelWait r
  match s1.coach r with
  | none => s1
  | some c =>
    match c.flights.find? (fun f => f.id == id) with
    | none => s1
    | some f =>
      let en := match f.rep with
        | some en => { en with status := 1, faddr := addr, cause := cause }
        | none => { ReplayEntry.empty with word := f.word, pc := f.pc, flag := f.flag, status := 1, faddr := addr, cause := cause }
      let younger (g : Flight) : Bool := decide (id < g.id) && g.entry && g.rep.isSome
      let c1 := { c with flights := c.flights.filter (fun g => g.id != id && !younger g) }
      let tm := match f.kind with | .raised _ _ m => m | _ => en.mask
      let rest := flightEntries (c.flights.filter younger)
      match c.pendTrap with
      | some pt =>
        (s1.setCoach r { c1 with pendTrap := none }).takeTrap r cause addr tm
          (en :: inOrder rest [] ++ pt.entries.map (fun x => if x.status = 1 then { x with status := 0 } else x)) pt.tpc pt.clause
      | none =>
        let rp := c1.resumePoint
        (s1.setCoach r c1).takeTrap r cause addr tm (en :: inOrder rest (numbered c1.rq)) rp.1 rp.2

/-! What waits on a tin. -/

/-- The coaches of the workgroups on a core. -/
def State.coachesOn (s : State) (core : Nat) : List CoachRef :=
  (s.wgs.filter (fun w => coreOfSlot w.1 == core)).flatMap (fun w => w.2.coaches.map (fun c => { slot := w.1, k := c.1 }))
/-- The scope of the acquire that a TINWAIT performs (R196). -/
def Tin.scope (t : Tin) : Nat := if t.wide then scWAFER else scCORE
/-- An older operation of the coach has not passed its last fault point (R246). -/
def Coach.unsettled (c : Coach) : Bool := c.flights.any (fun f => f.rep.isSome)
/-- The tin has become FULL: an untracked TINWAIT of the coach completes, and its tracked ones (R196). Behind operations that have
not passed their last fault points its acquire waits: it is executed again (R246). -/
def tinDone (t : Nat) (x : Tin) (s : State) (r : CoachRef) : State :=
  match s.env r with
  | none => s
  | some e =>
    let s1 :=
      if e.c.state = .waitTin ∧ e.c.wait.tin = some t then
        if e.c.unsettled then s.modCoach r Coach.wake else finish e (s.acquire r.slot x.scope x.clock)
      else s
    (e.c.flights.filter (fun (f : Flight) => f.kind == .tinWait t)).foldl (fun u f => (u.acquire r.slot x.scope x.clock).completeFlight r f.id) s1
/-- The tin will not become FULL for its waiters: a coach's oldest TINWAIT on it traps with TIN_FAULT, and its younger ones are
executed again behind the trap, where they meet the tin as it is then (R196, R246). -/
def tinFails (t : Nat) (s : State) (r : CoachRef) : State :=
  match s.env r with
  | none => s
  | some e =>
    let ix : DWord := BitVec.ofNat 64 (t - e.wg.tinBase)
    match e.c.flights.find? (fun (f : Flight) => f.kind == .tinWait t) with
    | some f => s.flightTrap r f.id cTIN_FAULT ix
    | none =>
      if e.c.state = .waitTin ∧ e.c.wait.tin = some t then
        match e.c.wait.word.bind parse with
        | some i => if e.c.shadowed then s.modCoach r Coach.wake else trapAll e i cTIN_FAULT ix s
        | none => s.modCoach r Coach.wake
      else s
/-- Replace a tin's record. When it has become FULL, or can no longer become so for those that wait, they are told. -/
def State.putTin (s : State) (core t : Nat) (x : Tin) : State :=
  let old := (s.core core).tin t
  let s1 := s.setCore core ((s.core core).setTin t x)
  let s2 :=
    if x.state = 2 ∧ old.state ≠ 2 ∧ x.err = false then (s1.coachesOn core).foldl (tinDone t x) s1
    else if (x.err ∧ old.err = false) ∨ (old.state = 1 ∧ x.state = 0) then (s1.coachesOn core).foldl (tinFails t) s1
    else s1
  if x = old then s2 else s2.later (s2.gateEvents core t)

/-! Arrivals and ends of copies (R190, R197, R315). -/

/-- Bytes arrive at a tin that is not FREE. -/
def State.tinArrive (s : State) (core t n : Nat) (k : Word) (wide : Bool) : State :=
  let x := (s.core core).tin t
  let got := x.arrived + BitVec.ofNat 32 n
  let full := decide (x.arrived.toNat + n ≥ x.total.toNat)
  s.putTin core t { x with
    arrived := got, clock := clkMax x.clock k, wide := x.wide || wide,
    state := if x.state = 1 ∧ full then 2 else x.state }
/-- A dropped arrival is counted (R315). -/
def State.tinDrop (s : State) (core : Nat) : State := s.addWin (siteOfCore core) (offTINDROP (core % 32)) 1
/-- ERR of a delivering copy (R190). -/
def State.tinError (s : State) (core t : Nat) : State :=
  let x := (s.core core).tin t
  if x.state = 0 then s else s.putTin core t { x with err := true }
/-- A source tin when its copy starts, and when the copy ends in any way. One that was killed or released since the copy was
accepted becomes DRAINING as well, and FREE at the copy's end (DESIGN CHOICE, log 91: R190 does not say). -/
def State.tinDrain (s : State) (core t : Nat) : State := s.putTin core t { (s.core core).tin t with state := 3 }
def State.tinRelease (s : State) (core t : Nat) : State := s.putTin core t { (s.core core).tin t with state := 0, killed := false }
/-- The workgroup that owns a physical tin of a core (R194). -/
def State.tinOwner (s : State) (core t : Nat) : Option Workgroup :=
  (s.wgs.find? (fun w => coreOfSlot w.1 == core && decide (w.2.tinBase ≤ t ∧ t < w.2.tinBase + w.2.tins))).map Prod.snd

/-! The instructions. -/

/-- A tin index: bits [31:6] zero and below the declared count (R194). -/
def tinIndex (e : Env) (v : Word) : Option Nat := if v.toNat < 64 ∧ v.toNat < e.wg.tins then some (e.wg.tinBase + v.toNat) else none
/-- The shape of the tin instructions: their index, then their effect on the tin. -/
def tinOp (i : Instr) (f : FC) (act : Nat → Tin → Env → State → State) (e : Env) (s : State) : State :=
  let v := e.sop 2 f.tin
  match tinIndex e v with
  | none => trapAll e i cBUF_RANGE (v.zeroExtend 64) s
  | some t => act t ((s.core e.core).tin t) e s

def execTininit (f : FC) (s : State) : Host.Outcome State Fault Refusal :=
  issue (.tininit f) s (tinOp (.tininit f) f (fun t x e s =>
    let off := e.sopAt 0 f.pb 0
    let len := e.sopAt 0 f.pb 1
    let total := e.sop 3 f.aux
    let size := match Buf.ofKind f.qsel.toNat with | some b => ((s.core e.core).window e.wg b).2 | none => 0
    if x.state ≠ 0 then trapAll e (.tininit f) cTIN_BUSY 0 s
    else if len = 0 ∨ off.toNat + len.toNat > size then trapAll e (.tininit f) cBUF_RANGE (off.zeroExtend 64) s
    else
      accepted e (.tininit f) .performed (s.putTin e.core t
        { Tin.free with state := if total = 0 then 2 else 1, kind := f.qsel.toNat, total := total, off := off, len := len })))
def execTinwait (f : FC) (s : State) : Host.Outcome State Fault Refusal :=
  issue (.tinwait f) s (tinOp (.tinwait f) f (fun t x e s =>
    if x.state = 0 ∨ x.err then trapAll e (.tinwait f) cTIN_FAULT ((e.sop 2 f.tin).zeroExtend 64) s
    else if x.state ≠ 1 then
      if blockingTinwait e (.tinwait f) && e.c.unsettled then stall s else tracked e (.tinwait f) [] (s.acquire e.ref.slot x.scope x.clock)
    else if (e.flagOf (.tinwait f)).isNone then waitIn e (.tinwait f) .waitTin { Wait.none with tin := some t } s
    else
      track e (.tinwait f) (.tinWait t) true (some (capture e (.tinwait f) (e.flagOf (.tinwait f)) 0 e.active 0 0 Wait.none)) [] s))
def execTinrel (f : FC) (s : State) : Host.Outcome State Fault Refusal :=
  issue (.tinrel f) s (tinOp (.tinrel f) f (fun t x e s =>
    if x.state ≠ 2 then trapAll e (.tinrel f) cTIN_BUSY 0 s
    else accepted e (.tinrel f) .performed (s.putTin e.core t { x with state := 0 })))
def execTinkill (f : FC) (s : State) : Host.Outcome State Fault Refusal :=
  issue (.tinkill f) s (tinOp (.tinkill f) f (fun t x e s =>
    accepted e (.tinkill f) .performed (
      match x.state with
      | 0 => s
      | 3 => s.putTin e.core t { x with killed := true }
      | _ => s.putTin e.core t { x with state := 0, killed := true })))
/-- The status that TINQ writes (R194). -/
def tinStatus (base t : Nat) (x : Tin) : Nat := x.state.toNat + (if x.err then 4 else 0) + t * 256 + base * 65536
def execTinq (f : FC) (s : State) : Host.Outcome State Fault Refusal :=
  issue (.tinq f) s (tinOp (.tinq f) f (fun t x e s =>
    track e (.tinq f) .performed false none (putRun true f.pb.toNat 2 0 (tinStatus e.wg.tinBase t x + 2 ^ 32 * x.arrived.toNat)) s))

end Sys2Proof.Machine
end

