-- ==== Sys2Proof/Machine/Links.lean ====
section
/-! DEFINITION. The optical links (R339-R347): lanes and their health, narrowing, one-way light, laser power states, and
switch slots with their identity check. -/

namespace Sys2Proof.Machine

/-! Reports. -/

/-- A report about a link (R342, R343): its lanes are numbered 8 f + k. -/
def State.logLink (s : State) (n f : Nat) : State := s.logEvent n evLink 5 (8 * f) 0 0
/-- A site whose port is lost, with REROUTE clear (R333): its remote operations fail with RMT_TIMEOUT and its collectives end
with STATUS ERR. -/
def State.losePort (s : State) (n : Nat) : State :=
  if epREROUTE s || !s.portLost n then s
  else
    let x := s.site n
    s.later (x.remotes.map (fun o => ⟨.rmtTimeout, { EvArgs.zero with site := n, id := o.id }⟩) ++
      x.colls.map (fun c => ⟨.collComplete, { EvArgs.zero with site := n, value := BitVec.ofNat 64 (fieldLE c.block 0x28 4) }⟩))
/-- A direction goes DOWN and is reported. -/
def State.linkDown (s : State) (n f d : Nat) : State :=
  (((s.setLstat n f d (setFld (s.lstat n f d) 0 3 stDOWN)).setLink n f
    { s.link n f with onewayEnd := if d = 1 then none else (s.link n f).onewayEnd,
                      newLanes := Table.erase (s.link n f).newLanes d }).logLink n f).losePort n
/-- LOCK of a receive lane (R340). -/
def State.lockOf (s : State) (n f k : Nat) : Nat := fld (s.win n (offOHEALTH f k)) 0 2
/-- The lanes of a direction's active set are all locked. -/
def State.lanesLocked (s : State) (n f : Nat) : Bool :=
  (List.range 8).all (fun j => !bitN (lsLANES (s.lstat n f 1)) j || decide (s.lockOf n f j ≥ 2))

/-! Health and narrowing (R340-R342). -/

/-- The lanes of the largest aligned group of 4, 2 or 1 that is wholly healthy, the lowest-numbered first (R342). -/
def healthyGroup (unhealthy : Nat) : Option Nat :=
  ((List.range 2).map (fun j => 15 * 16 ^ j) ++ (List.range 4).map (fun j => 3 * 4 ^ j) ++ (List.range 8).map (fun j => 2 ^ j)).find?
    (fun g => g &&& unhealthy == 0)
/-- NARROW of EPOL (R369). -/
def epNARROW (s : State) : Bool := s.epol.getLsbD 1
/-- What a health update makes of what was measured (R340): a locked lane of the active set has LOCK 3, another one 2; TXON
follows the laser, which emits in LP0 alone (DEDUCED, log 84); BERLOG saturates at -1800. -/
def State.healthWord (s : State) (n f k : Nat) (v : DWord) : DWord :=
  let lock := if fld v 0 2 < 2 then fld v 0 2 else if bitN (lsLANES (s.lstat n f 1)) k then 3 else 2
  let tx := match s.lpCur n f with | 0 => 1 | 3 => fld v 2 1 | _ => 0
  let ber := max (-1800) (BitVec.ofNat 16 (fld v 16 16)).toInt
  setFld (setFld (setFld (setFld v 3 5 0) 0 2 lock) 2 1 tx) 16 16 (BitVec.ofInt 16 ber).toNat
/-- OHEALTH_UPDATE (R340): the register, and the lane's health. A lane of the active set that turns unhealthy narrows its
direction, or, when its light or lock is lost, puts it in ONEWAY (R343). A DARK direction, or one in ONEWAY, whose lanes have
locked is UP. -/
def execOhealthUpdate (s : State) : Host.Outcome State Fault Refusal :=
  let n := s.arg.site
  let f := s.arg.n
  let k := s.arg.m
  .next (if !linkOk n f || k ≥ 8 then s
    else
      let v := s.healthWord n f k s.arg.value
      let s1 := s.setWin n (offOHEALTH f k) v
      let l := s1.link n f
      let ber := (BitVec.ofNat 16 (fld v 16 16)).toInt
      let above := decide (ber ≠ 0) && decide (ber > (BitVec.ofNat 16 (fld (s1.win n (offLINKCFG f)) 0 16)).toInt)
      let lost := decide (fld v 0 2 < 2) && l.peerLp == 0
      let bad := lost || (above && l.berBad.getLsbD k && l.peerLp == 0)
      let one : BitVec 8 := BitVec.ofNat 8 (2 ^ k)
      let s2 := s1.setLink n f { l with
        unhealthy := if bad then l.unhealthy ||| one else l.unhealthy &&& ~~~one,
        berBad := if above then l.berBad ||| one else l.berBad &&& ~~~one }
      let rx := s2.lstat n f 1
      if bad && bitN (lsLANES rx) k && lsSTATE rx == stUP then
        s2.later [if lost then ⟨.onewayEnter, { EvArgs.zero with site := n, n := f }⟩
          else ⟨.linkNarrow, { EvArgs.zero with site := n, n := f, m := 1 }⟩]
      else if lsSTATE rx = stDARK ∧ l.relightEnd.isSome ∧ s2.lanesLocked n f = true then
        (s2.setLstat n f 1 (setFld rx 0 3 stUP)).setLink n f { s2.link n f with relightEnd := none, peerLp := 0 }
      else if lsSTATE rx = stONEWAY ∧ s2.lanesLocked n f = true then
        (s2.setLstat n f 1 (setFld rx 0 3 stUP)).setLink n f { s2.link n f with onewayEnd := none }
      else s2)
/-- A direction has moved to a new set of lanes (R342 steps 3 and 4): what is unacknowledged is sent again at the new width,
the direction is UP, and the change is reported. -/
def State.lanesMoved (s : State) (n f d g : Nat) (narrowing : Bool) : State :=
  let v := s.lstat n f d
  let l := s.link n f
  let v1 := setFld (setFld (if narrowing then setFld v 16 8 (min 255 (fld v 16 8 + 1)) else v) 24 8 g) 0 3 stUP
  let s1 := (s.setLstat n f d v1).setLink n f { l with newLanes := Table.erase l.newLanes d }
  (if d = 1 then s1.setLink n f { s1.link n f with onewayEnd := none, relightEnd := none, peerLp := if l.relightEnd.isSome then 0 else l.peerLp }
   else ((if l.seq = l.acked then s1 else s1.sendFlits n f (l.seq - l.acked).toNat false).pumpAll n)).logLink n f
/-- LINK_NARROW (R342): a direction begins to move to the healthy group of lanes, injecting nothing, or goes DOWN when there is
none or NARROW of EPOL is clear; the same event, once the peer has answered, ends the move. The peer names the unhealthy
lanes of the transmit direction (`p`). -/
def execLinkNarrow (s : State) : Host.Outcome State Fault Refusal :=
  let n := s.arg.site
  let f := s.arg.n
  let d := s.arg.m
  .next (if !linkOk n f || d ≥ 2 then s
    else
      let v := s.lstat n f d
      let l := s.link n f
      let bad := if d = 0 then s.arg.p % 256 else l.unhealthy.toNat
      let st := lsSTATE v
      let may := st == stUP || (d == 1 && (st == stONEWAY || (st == stDARK && l.relightEnd.isSome)))
      match Table.find l.newLanes d with
      | some (g, true) => if st = stNARROWING then s.lanesMoved n f d g true else s
      | some (_, false) => s
      | none =>
        if !may || lsLANES v &&& bad == 0 then s
        else if !epNARROW s then s.linkDown n f d
        else
          match healthyGroup bad with
          | none => s.linkDown n f d
          | some g => (s.setLstat n f d (setFld v 0 3 stNARROWING)).setLink n f { l with newLanes := Table.insert l.newLanes d (g, true) })
/-- LINK_WIDEN (R342): firmware widens a direction to an aligned set of healthy lanes that holds its present ones, through the
same steps. -/
def execLinkWiden (s : State) : Host.Outcome State Fault Refusal :=
  let n := s.arg.site
  let f := s.arg.n
  let d := s.arg.m
  let g := s.arg.p
  .next (if !linkOk n f || d ≥ 2 then s
    else
      let v := s.lstat n f d
      let l := s.link n f
      let sets := 255 :: ((List.range 2).map (fun j => 15 * 16 ^ j) ++ (List.range 4).map (fun j => 3 * 4 ^ j))
      match Table.find l.newLanes d with
      | some (g, false) => if lsSTATE v = stNARROWING then s.lanesMoved n f d g false else s
      | some (_, true) => s
      | none =>
        if lsSTATE v = stUP ∧ sets.contains g = true ∧ lsLANES v &&& g = lsLANES v ∧ (d = 0 ∨ g &&& l.unhealthy.toNat = 0) then
          (s.setLstat n f d (setFld v 0 3 stNARROWING)).setLink n f { l with newLanes := Table.insert l.newLanes d (g, false) }
        else s)
/-- The device at the far end of a link (R343): fixed for one that is not switched, else the one whose identity has matched in
the slot in progress. -/
def State.linkPeer (s : State) (n f : Nat) : Option (Bool × Nat) :=
  if !Config.linkSwitched n f then some (false, Config.linkPeer n f)
  else
    match (s.link n f).slotNo with
    | some k => if (s.link n f).unlocked then some (true, (s.win n (offEXPECT (k % 16))).toNat) else none
    | none => none
/-- A link can carry control flits from its peer: its receive direction is UP, or narrows. -/
def State.linkHears (s : State) (n f : Nat) : Bool := lsSTATE (s.lstat n f 1) == stUP || lsSTATE (s.lstat n f 1) == stNARROWING
/-- The acknowledgements of a link reach this side: on it, or on another link of the same two devices that is UP (R343). -/
def State.acksHeard (s : State) (n f : Nat) : Bool :=
  s.linkHears n f || ((s.linkPeer n f).isSome &&
    (List.range 64).any (fun m => (List.range 4).any (fun g => !(m == n && g == f) && s.linkHears m g && s.linkPeer m g == s.linkPeer n f)))
/-- LINK_ACKNOWLEDGEMENT (R342, R343): the replay buffer is freed up to a sequence number, and injection goes on. -/
def execLinkAcknowledgement (s : State) : Host.Outcome State Fault Refusal :=
  let n := s.arg.site
  let f := s.arg.n
  .next (if !linkOk n f then s
    else
      let l := s.link n f
      let q : BitVec 16 := BitVec.ofNat 16 s.arg.m
      if s.acksHeard n f && (!Config.linkSwitched n f || l.unlocked) && decide ((q - l.acked).toNat ≤ (l.seq - l.acked).toNat) then
        (s.setLink n f { l with acked := q }).pumpAll n
      else s)

/-! Loss of light on one side (R343). -/

/-- ONEWAY_ENTER: the one-way hold runs from now, with the present HOLD. -/
def execOnewayEnter (s : State) : Host.Outcome State Fault Refusal :=
  let n := s.arg.site
  let f := s.arg.n
  .next (if !linkOk n f then s
    else
      let v := s.lstat n f 1
      let l := s.link n f
      if lsSTATE v = stUP ∧ l.peerLp = 0 ∧ (List.range 8).any (fun k => bitN (lsLANES v) k && decide (s.lockOf n f k < 2)) = true then
        (s.setLstat n f 1 (setFld v 0 3 stONEWAY)).setLink n f
          { l with onewayEnd := some (s.now + 1000 * max 1 (fld (s.win n (offLINKCFG f)) 16 16)) }
      else s)
/-- ONEWAY_HOLD_EXPIRY: the peer has not restored the direction. -/
def execOnewayHoldExpiry (s : State) : Host.Outcome State Fault Refusal :=
  let n := s.arg.site
  let f := s.arg.n
  .next (if !linkOk n f then s
    else
      match (s.link n f).onewayEnd with
      | some t => if lsSTATE (s.lstat n f 1) = stONEWAY ∧ t ≤ s.now then s.linkDown n f 1 else s
      | none => s)

/-! Laser power states (R344). -/

/-- POWER_STATE_ANNOUNCE: the link's own laser starts to move to TARGET; or (`ok`) the peer announces its state m. -/
def execPowerStateAnnounce (s : State) : Host.Outcome State Fault Refusal :=
  let n := s.arg.site
  let f := s.arg.n
  .next (if !linkOk n f then s
    else
      let l := s.link n f
      if s.arg.ok then
        let v := s.lstat n f 1
        if 1 ≤ s.arg.m ∧ s.arg.m ≤ 2 then
          (s.setLstat n f 1 (setFld v 0 3 stDARK)).setLink n f { l with peerLp := s.arg.m, relightEnd := none, onewayEnd := none }
        else if s.arg.m = 0 ∧ l.peerLp ≠ 0 then s.setLink n f { l with relightEnd := some (s.now + relightNs l.peerLp + 10000) }
        else s
      else
        let v := s.win n (offLPCTL f)
        let t := if fld v 0 2 = 3 then 0 else fld v 0 2
        if s.lpCur n f = 3 ∨ s.lpCur n f = t then s
        else (s.setWin n (offLPCTL f) (setFld v 4 4 3)).setLink n f { l with moveTo := t, moveEnd := s.now + (if t = 0 then relightNs (s.lpCur n f) else 0) })
/-- LINK_WAKE: queued traffic returns a link with WAKE set to LP0. -/
def execLinkWake (s : State) : Host.Outcome State Fault Refusal :=
  let n := s.arg.site
  let f := s.arg.n
  .next (if !linkOk n f then s
    else
      let v := s.win n (offLPCTL f)
      if (s.lpCur n f = 1 ∨ s.lpCur n f = 2) ∧ v.getLsbD 8 = true ∧ (s.site n).conns.any (fun c => decide (c.2.waiting ≠ 0 ∨ c.2.unsent ≠ [])) = true then
        (s.setWin n (offLPCTL f) (setFld v 4 4 3)).setLink n f { s.link n f with moveTo := 0, moveEnd := s.now + relightNs (s.lpCur n f) }
      else s)
/-- LASER_STATE_REACHED: CUR leaves "moving", after the time that a return to LP0 takes; both directions' LSTAT show the state of
the transmit direction (R341), and packets that waited for a relight flow. -/
def execLaserStateReached (s : State) : Host.Outcome State Fault Refusal :=
  let n := s.arg.site
  let f := s.arg.n
  .next (if !linkOk n f || s.lpCur n f ≠ 3 || decide (s.now < (s.link n f).moveEnd) then s
    else
      let t := (s.link n f).moveTo
      (((s.setWin n (offLPCTL f) (setFld (s.win n (offLPCTL f)) 4 4 t)).setLstat n f 0 (setFld (s.lstat n f 0) 4 4 t)).setLstat n f 1 (setFld (s.lstat n f 1) 4 4 t)).pumpAll n)
/-- RELIGHT_LOCK_TIMEOUT: a lane that has not locked in time is unhealthy. -/
def execRelightLockTimeout (s : State) : Host.Outcome State Fault Refusal :=
  let n := s.arg.site
  let f := s.arg.n
  let k := s.arg.m
  .next (if !linkOk n f || k ≥ 8 then s
    else
      let l := s.link n f
      match l.relightEnd with
      | some t =>
        if t ≤ s.now ∧ s.lockOf n f k < 2 then
          (s.setLink n f { l with unhealthy := l.unhealthy ||| BitVec.ofNat 8 (2 ^ k) }).later
            [⟨.linkNarrow, { EvArgs.zero with site := n, n := f, m := 1 }⟩]
        else s
      | none => s)

/-! The pod switch (R345-R347). -/

/-- ARBITER_ROUND: the requests go out, and a grant names a slot and the peer port; the slot begins a round later at the
earliest. -/
def execArbiterRound (s : State) : Host.Outcome State Fault Refusal :=
  let n := s.arg.site
  let f := s.arg.n
  .next (if linkOk n f && Config.linkSwitched n f && s.arg.ok then
      let g := (s.arg.m, s.arg.p, max s.arg.value.toNat (s.now + 1000))
      s.setLink n f { s.link n f with granted := (s.link n f).granted.filter (fun h => !(h.1 == s.arg.m)) ++ [g] }
    else s)
/-- The pod's link key. -/
def State.linkKey (s : State) (n : Nat) : BitVec 384 :=
  BitVec.ofNat 384 (ofBytesLE ((List.range 6).flatMap (fun i => bytesLE 8 (s.win n (offLINKKEY + 8 * i)).toNat)))
/-- The bytes that an identity's tag covers, and the tag (R347). -/
def identityBytes (serial : DWord) (site link slot : Nat) : List Byte := bytesLE 8 serial.toNat ++ bytesLE 1 site ++ bytesLE 1 link ++ bytesLE 8 slot
def State.identityTag (s : State) (n : Nat) (serial : DWord) (site link slot : Nat) : List Byte :=
  (hmac384 (bytesLE 48 (s.linkKey n).toNat) (identityBytes serial site link slot)).take 8
/-- The identity matches the expected-peer entry of the slot. An entry holds the serial, then the site in [5:0], the link in
[9:8] and VALID in [63]. -/
def State.identityOk (s : State) (n slot : Nat) (serial : DWord) (site link : Nat) (tag : List Byte) : Bool :=
  let e := s.win n (offEXPECT (slot % 16))
  let x := s.win n (offEXPECT (slot % 16) + 8)
  x.getLsbD 63 && e == serial && fld x 0 6 == site && fld x 8 2 == link && tag == s.identityTag n serial site link slot
/-- The lowest lane of a set. -/
def lowestLane (lanes : Nat) : Nat := match (List.range 8).find? (fun k => bitN lanes k) with | some k => k | none => 0
/-- SLOT_START (R347): the identity check, of which DETAIL names the lowest lane of the receive direction's active set, on which the
identity arrived (DEDUCED, log 120), which unlocks the port or posts PEER_IDENT. -/
def execSlotStart (s : State) : Host.Outcome State Fault Refusal :=
  let n := s.arg.site
  let f := s.arg.n
  let slot := s.arg.m
  .next (if !linkOk n f then s
    else
      let l := s.link n f
      if l.slotNo.isSome || !l.granted.any (fun g => g.1 == slot && decide (g.2.2 ≤ s.now)) then s
      else
        let ok := s.identityOk n slot s.arg.value s.arg.p s.arg.id s.arg.data
        let s1 := s.setLink n f { l with slotNo := some slot, unlocked := ok }
        if ok then s1.pumpAll n
        else
          let lane := lowestLane (lsLANES (s1.lstat n f 1))
          (s1.report n 0xFFFF cPEER_IDENT 0 (BitVec.ofNat 64 (n + 256 * f + 65536 * lane + 2 ^ 32 * (slot % 2 ^ 32)))).logEvent n evPeerIdent 5 (8 * f + lane) 0 0)
/-- SLOT_END (R346): the port locks; flits still unacknowledged are not replayed by the link layer. -/
def execSlotEnd (s : State) : Host.Outcome State Fault Refusal :=
  let n := s.arg.site
  let f := s.arg.n
  .next (if !linkOk n f then s
    else
      let l := s.link n f
      match l.slotNo with
      | none => s
      | some slot => s.setLink n f { l with
          slotNo := none, unlocked := false, granted := l.granted.filter (fun g => !(g.1 == slot)), acked := l.seq })

end Sys2Proof.Machine
end

