-- ==== Sys2Proof/Machine/Copy.lean ====
section
/-! DEFINITION. Copies (R187-R193, R311-R313): CPY, CPYM and CPYT at issue, what the copy engines do with their queues,
QFENCE (R198) and ERES (R213). -/

namespace Sys2Proof.Machine

/-! Queues. -/

def cqMax : Nat := 32
def Site.queue (x : Site) (q : Nat) : List CopyEntry := Table.getD x.copyq q []
def State.setQueue (s : State) (site q : Nat) (l : List CopyEntry) : State :=
  s.setSite site { s.site site with copyq := Table.put [] (s.site site).copyq q l }
def Site.copyHalted (x : Site) (q ctx : Nat) : Bool := x.copyHalt.contains (q, ctx)
/-- The entry a queue's engine serves: the first that is not held (R311). -/
def Site.headOf (x : Site) (q : Nat) : Option CopyEntry := (x.queue q).find? (fun c => !x.copyHalted q c.ctx)
def State.putCopy (s : State) (site q : Nat) (c : CopyEntry) : State :=
  s.setQueue site q (((s.site site).queue q).map (fun x => if x.id = c.id then c else x))
def State.dropCopy (s : State) (site q id : Nat) : State := s.setQueue site q (((s.site site).queue q).filter (fun x => !decide (x.id = id)))
def CopyEntry.par (c : CopyEntry) : CopyParams := CopyParams.ofBytes c.params
def CopyEntry.core (c : CopyEntry) : Nat := coreOfSlot c.slot
def CopyEntry.acc (c : CopyEntry) : Acc := { core := c.core, ctx := c.ctx, agent := BitVec.ofNat 16 c.slot, clk := c.clock }

/-! Shapes. -/

/-- Bits of an element of an FRD format (R283). -/
def fmtBits (fmt : Nat) : Nat :=
  match fmt with
  | 0 => 32
  | 3 | 4 => 4
  | 6 | 7 => 16
  | _ => 8
/-- Bytes per row of the encoded side. -/
def encRow (rb fmt : Nat) : Nat := rb * fmtBits fmt / 32
/-- Bytes per row of the source and of the destination (R193: ROWBYTES counts the FP32 side). -/
def CopyEntry.srcRow (c : CopyEntry) : Nat :=
  let p := c.par
  match c.kind, c.fmt with
  | .cpyt, some f => if p.dir then encRow p.rowBytes f else p.rowBytes
  | _, _ => p.rowBytes
def CopyEntry.dstRow (c : CopyEntry) : Nat :=
  let p := c.par
  match c.kind, c.fmt with
  | .cpyt, some f => if p.dir then p.rowBytes else encRow p.rowBytes f
  | _, _ => p.rowBytes
def CopyEntry.total (c : CopyEntry) : Nat := c.par.rows * c.dstRow
/-- Where byte `off` of row r lies, on the source and the destination side. -/
def CopyParams.srcAt (p : CopyParams) (r off : Nat) : DWord := p.saddr + BitVec.ofNat 64 (r * p.sstride + off)
def CopyParams.dstAt (p : CopyParams) (r off : Nat) : DWord := p.daddr + BitVec.ofNat 64 (r * p.dstride + off)
/-- The rows of coach i of c (R188). -/
def rowsOf (n c i : Nat) : List Nat := upFrom (i * n / c) ((i + 1) * n / c - i * n / c)
/-- The coach that supplies a row. -/
def coachOfRow (n c r : Nat) : Nat := match (List.range c).find? (fun i => (rowsOf n c i).contains r) with | some i => i | none => 0

/-- The limits of R187 that every copy obeys. -/
def CopyParams.ok (p : CopyParams) : Bool :=
  decide (1 ≤ p.rows ∧ p.rows ≤ 65536) && decide (p.rowBytes % 16 = 0 ∧ 16 ≤ p.rowBytes ∧ p.rowBytes ≤ 1048576) &&
    decide (p.sstride % 16 = 0 ∧ p.dstride % 16 = 0) && (p.rows == 1 || decide (p.rowBytes ≤ p.sstride ∧ p.rowBytes ≤ p.dstride)) &&
    decide (bits p.ctl 22 10 = 0 ∧ bits p.ctl 14 7 = 0 ∧ p.tail = 0) && decide (p.saddr.toNat % 16 = 0 ∧ p.daddr.toNat % 16 = 0) &&
    decide (p.skind ≤ 4 ∧ p.dkind ≤ 4)
/-- The limits of one kind of copy (R187, R192). -/
def CopyParams.okFor (p : CopyParams) (k : CopyKind) : Bool :=
  match k with
  | .cpym => !p.dir && decide (p.dkind = 1 ∧ p.cmask ≠ 0 ∧ p.rows * p.rowBytes ≤ 1048576)
  | .cpyt => decide (p.dsite = 0 ∧ p.cmask = 0)
  | _ => !p.dir && decide (p.dsite = 0 ∧ p.cmask = 0)

/-- A tin register: reserved bits are zero; NONE is bit 31. -/
def tinRegOk (v : Word) : Bool := decide (bits v.toNat 6 25 = 0)
def tinNamed (v : Word) : Option Nat := if v.getLsbD 31 then none else some (bits v.toNat 0 6)
/-- A named tin that is declared is in a state, and its range covers an extent of a buffer. -/
def tinFits (c : Core) (w : Workgroup) (n : Option Nat) (state : BitVec 2) (kind : Nat) (addr : DWord) (span : Nat) : Bool :=
  match n with
  | none => true
  | some n =>
    if n ≥ w.tins then true
    else
      let x := c.tin (w.tinBase + n)
      x.state == state && decide (x.kind = kind ∧ x.off.toNat ≤ addr.toNat ∧ addr.toNat + span ≤ x.off.toNat + x.len.toNat)

/-! Issue. -/

/-- A cause of a copy at issue, with TADDR. -/
abbrev Stop := Cause × DWord

/-- Read a parameter block at issue (R189 order 1): what an ordinary load by the coach would read, with the causes of order 7
that the home gives a block that the column cache does not hold whole (R135). The registers of space 3 hold no block: they are
read by 8 bytes (R374). -/
def readBlock (e : Env) (va : DWord) (n align : Nat) (s : State) : Except Stop (List Byte) × State :=
  if va.toNat % align ≠ 0 then (.error (cUNALIGNED, va), s)
  else
    match s.translate (some e.core) e.site e.ctx va .read with
    | (.error c, s1) => (.error (c, va), s1)
    | (.ok x, s1) =>
      if badWindow n x then (.error (cUNALIGNED, va), s1)
      else if s1.ccHit e.core x.pa n && !leafREX x.leaf then (.ok ((upFrom x.pa n).map (s1.ccByte e.core)), s1)
      else
        match s1.homeFault x n with
        | some c => (.error (c, va), s1)
        | none => (.ok ((upFrom x.pa n).map (s1.ccOwn e.core)), s1.homeTouch x.pa n)
/-- The first extent, source then destination, that leaves its buffer's window (R189 order 4). -/
def windowStop (e : Env) (k : CopyKind) (p : CopyParams) (s : State) : Option Stop :=
  let outOf (kind : Nat) (addr : DWord) (span : Nat) : Bool :=
    match Buf.ofKind kind with
    | some b => decide (addr.toNat + span > ((s.core e.core).window e.wg b).2)
    | none => false
  if outOf p.skind p.saddr (spanOf p.rows p.sstride p.rowBytes) then some (cBUF_RANGE, p.saddr)
  else if k ≠ .cpym ∧ outOf p.dkind p.daddr (spanOf p.rows p.dstride p.rowBytes) then some (cBUF_RANGE, p.daddr)
  else none
/-- A tin index at or above the declared count (R189 order 4). -/
def tinStop (e : Env) (n : Option Nat) : Option Stop :=
  match n with
  | some n => if n ≥ e.wg.tins then some (cBUF_RANGE, BitVec.ofNat 64 n) else none
  | none => none
/-- An ABUF extent over an INVALID tile or a tile of the coach's open batch (R189 order 5, R191). -/
def abufStop (e : Env) (k : CopyKind) (p : CopyParams) (s : State) : Option Stop :=
  let c := s.core e.core
  let ex := (if p.skind = 4 then [(p.saddr.toNat, spanOf p.rows p.sstride p.rowBytes)] else []) ++
    (if p.dkind = 4 ∧ k ≠ .cpym then [(p.daddr.toNat, spanOf p.rows p.dstride p.rowBytes)] else [])
  let touch := ex.flatMap (fun x => (tilesAt x.1 x.2).map (fun t => (t, max x.1 (t * tileBytes))))
  match touch.find? (fun t => c.invalidTile e.wg.gid t.1) with
  | some t => some (cMTX_INVALID_ACC, BitVec.ofNat 64 t.2)
  | none =>
    match touch.find? (fun t => c.targets e.wg.gid t.1 (isOpen e.ref.slot e.ref.k)) with
    | some t => some (cMTX_DESC, BitVec.ofNat 64 t.2)
    | none => none

/-- Probe a range for an access (R189 order 6): its pages, and a retention deadline that has passed. -/
def probeRange (e : Env) (need : Need) (va : DWord) (n : Nat) (s : State) : Option Stop × List (Target × Nat) × State :=
  match xlateParts (some e.core) e.site e.ctx need (pageParts (n / 65536 + 2) va n) s with
  | (.error x, s1) => (some x, [], s1)
  | (.ok l, s1) =>
    match l.find? (fun p => leafREX p.1.x.leaf && s1.expiredIn p.1.x.pa p.2) with
    | some p => (some (cRETENTION_EXPIRED, p.1.va), [], s1)
    | none => (none, l, s1)
/-- The fault of order 7 of R135 that reading translated parts at once meets at their homes; their lines come into the slices (R269). -/
def xferCheck (l : List (Target × Nat)) (s : State) : Option Stop × State :=
  match l.findSome? (fun p => (s.homeFault p.1.x p.2).map (fun c => (c, p.1.va))) with
  | some z => (some z, s)
  | none => (none, l.foldl (fun t p => t.homeTouch p.1.x.pa p.2) s)
/-- Probe ranges one after the other; the first cause, and the parts of all of them. -/
def probeRanges (e : Env) (need : Need) (l : List (DWord × Nat)) (s : State) : Option Stop × List (Target × Nat) × State :=
  match l with
  | [] => (none, [], s)
  | (va, n) :: r =>
    match probeRange e need va n s with
    | (some x, _, s1) => (some x, [], s1)
    | (none, a, s1) =>
      match probeRanges e need r s1 with
      | (some x, _, s2) => (some x, [], s2)
      | (none, b, s2) => (none, a ++ b, s2)
/-- A run of an encoded row (R193): where it begins in the row, its bytes, the descriptor they have and their offset in its
region. -/
structure EncRun where
  lo : Nat
  n : Nat
  frd : Frd
  off : Nat
  deriving DecidableEq, Repr
/-- Join a run to the one that follows it in the same region. -/
def EncRun.join (a : EncRun) (l : List EncRun) : List EncRun :=
  match l with
  | b :: r => if a.frd = b.frd ∧ a.off + a.n = b.off then { a with n := a.n + b.n } :: r else a :: l
  | [] => [a]
/-- The format of an address's page: its descriptor, and the address's offset in the region (R283). -/
def State.pageFormat (s : State) (core : Option Nat) (site ctx : Nat) (need : Need) (va : DWord) : Except Stop (Frd × Nat) × State :=
  match s.translate core site ctx va need with
  | (.error c, s1) => (.error (c, va), s1)
  | (.ok x, s1) =>
    match s1.formatAt site ctx va x with
    | (.error c, s2) => (.error (c, va), s2)
    | (.ok z, s2) => (.ok z, s2)
/-- The run of a part of a row, which lies in one page: none when the page's region does not hold it whole or has another format. -/
def runOf (fmt lo : Nat) (p : DWord × Nat) (d : Frd) (o : Nat) : Option EncRun :=
  if d.format = fmt ∧ (d.offset (p.1 + BitVec.ofNat 64 (p.2 - 1))).isSome then some { lo := lo, n := p.2, frd := d, off := o } else none
/-- The runs of parts that lie in one page each, by the pages' descriptors, which give one format (R193). -/
def encRuns (core : Option Nat) (site ctx : Nat) (need : Need) (fmt : Nat) (l : List (DWord × Nat)) (lo : Nat) (s : State) :
    Except Stop (List EncRun) × State :=
  match l with
  | [] => (.ok [], s)
  | p :: r =>
    match s.pageFormat core site ctx need p.1 with
    | (.error z, s1) => (.error z, s1)
    | (.ok (d, o), s1) =>
      match runOf fmt lo p d o, encRuns core site ctx need fmt r (lo + p.2) s1 with
      | none, _ => (.error (cXLATE_FORMAT, p.1), s1)
      | some _, (.error z, s2) => (.error z, s2)
      | some a, (.ok m, s2) => (.ok (a.join m), s2)
/-- The encoded row of a CPYT (R193): its format and its runs, or the cause. Each run of a block format is whole blocks of its
region (DESIGN CHOICE for a run that the row comes to in another page, log 113). -/
def State.rowRuns (s : State) (core : Option Nat) (site ctx : Nat) (need : Need) (va : DWord) (rb : Nat) : Except Stop (Nat × List EncRun) × State :=
  match s.pageFormat core site ctx need va with
  | (.error z, s1) => (.error z, s1)
  | (.ok (d, o), s1) =>
    let n := encRow rb d.format
    let first := min n (65536 - va.toNat % 65536)
    let rest := encRuns core site ctx need d.format (pageParts (n / 65536 + 1) (va + BitVec.ofNat 64 first) (n - first)) first s1
    match runOf d.format 0 (va, first) d o, rest with
    | none, _ => (.error (cXLATE_FORMAT, va), s1)
    | some _, (.error z, s2) => (.error z, s2)
    | some a, (.ok m, s2) =>
      let l := a.join m
      if d.blk.isSome && (decide (rb % 128 ≠ 0) || l.any (fun r => decide (r.off % r.frd.blockBytes ≠ 0 ∨ r.n % r.frd.blockBytes ≠ 0))) then
        (.error (cCPY_PARAM, 0), s2)
      else (.ok (d.format, l), s2)
/-- The side records of a run: their address and bytes (R283). -/
def EncRun.side (r : EncRun) : DWord × Nat := (r.frd.sideVa r.off, if r.frd.blk.isSome then 2 * (r.n / r.frd.blockBytes) else 0)
/-- The runs of bytes [lo, lo + n) of a row. -/
def clipRuns (lo n : Nat) (l : List EncRun) : List EncRun :=
  l.filterMap (fun r =>
    let a := max lo r.lo
    let b := min (lo + n) (r.lo + r.n)
    if a < b then some { r with lo := a, n := b - a, off := r.off + (a - r.lo) } else none)
/-- Probe the encoded rows of a CPYT and their side records; the format they have. -/
def probeRows (e : Env) (need : Need) (p : CopyParams) (at_ : Nat → Nat → DWord) (rs : List Nat) (fmt : Option Nat) (s : State) :
    Except Stop (Option Nat × List (Target × Nat)) × State :=
  match rs with
  | [] => (.ok (fmt, []), s)
  | r :: rest =>
    let va := at_ r 0
    match s.rowRuns (some e.core) e.site e.ctx need va p.rowBytes with
    | (.error x, s1) => (.error x, s1)
    | (.ok (f, runs), s1) =>
      if fmt.isSome ∧ fmt ≠ some f then (.error (cXLATE_FORMAT, va), s1)
      else
        match probeRanges e need ((va, encRow p.rowBytes f) :: runs.map EncRun.side) s1 with
        | (some x, _, s2) => (.error x, s2)
        | (none, l, s2) =>
          match probeRows e need p at_ rest (some f) s2 with
          | (.error x, s3) => (.error x, s3)
          | (.ok (f, m), s3) => (.ok (f, l ++ m), s3)

/-- What a probe found: the source parts, the destination parts and the encoded side's format. -/
structure Probe where
  src : List (Target × Nat)
  dst : List (Target × Nat)
  fmt : Option Nat
  deriving DecidableEq, Repr

/-- The probe of a coach's rows (R188, R189 order 6, R193): the source for read, the destination for write. -/
def probeCopy (e : Env) (k : CopyKind) (p : CopyParams) (rs : List Nat) (fmt : Option Nat) (s : State) : Except Stop Probe × State :=
  let encS := k == .cpyt && p.dir
  let encD := k == .cpyt && !p.dir
  let a : Except Stop (Option Nat × List (Target × Nat)) × State :=
    if encS then (if p.skind = 0 then probeRows e .read p p.srcAt rs fmt s else (.error (cXLATE_FORMAT, p.saddr), s))
    else if p.skind = 0 then
      match probeRanges e .read (rs.map (fun r => (p.srcAt r 0, p.rowBytes))) s with
      | (some x, _, s1) => (.error x, s1)
      | (none, l, s1) => (.ok (fmt, l), s1)
    else (.ok (fmt, []), s)
  match a with
  | (.error x, s1) => (.error x, s1)
  | (.ok (f, src), s1) =>
    let b : Except Stop (Option Nat × List (Target × Nat)) × State :=
      if encD then (if p.dkind = 0 then probeRows e .write p p.dstAt rs f s1 else (.error (cXLATE_FORMAT, p.daddr), s1))
      else if p.dkind = 0 then
        match probeRanges e .write (rs.map (fun r => (p.dstAt r 0, p.rowBytes))) s1 with
        | (some x, _, s2) => (.error x, s2)
        | (none, l, s2) => (.ok (f, l), s2)
      else (.ok (f, []), s1)
    match b with
    | (.error x, s2) => (.error x, s2)
    | (.ok (g, dst), s2) => (.ok { src := src, dst := dst, fmt := g }, s2)

/-- The batches that have not completed and target a tile of the copy's ABUF extents (R191). -/
def CopyEntry.earlier (c : CopyEntry) (x : Core) : List (Nat × Nat × Nat) :=
  (x.batches.filter (fun b => b.gid == c.gid && c.tiles.any (fun t => (Table.find b.tiles t).isSome))).map (fun b => (b.slot, b.k, b.num))

/-- The entry of the workgroup's copy that a coach arrives at with its next CPY or CPYT (R188). -/
def Site.copyOf (x : Site) (e : Env) : Option CopyEntry :=
  (x.copyq.flatMap Prod.snd).find? (fun c => c.slot == e.ref.slot && c.seq == e.c.copies && (c.kind == .cpy || c.kind == .cpyt))
/-- The parameters of a copy: the snapshot of the first arrival, else the block as it is read now (R188). A later coach's PB is
only held to its alignment. -/
def copyParams (e : Env) (mine : Option CopyEntry) (va : DWord) (s : State) : Except Stop (List Byte) × State :=
  match mine with
  | some c => (if va.toNat % 64 ≠ 0 then .error (cUNALIGNED, va) else .ok c.params, s)
  | none => readBlock e va 64 64 s
/-- A copy at issue (R188, R189, R192, R311). A coach that meets the workgroup's copy with the other of CPY and CPYT traps as
one whose QSEL differs (DESIGN CHOICE, log 85). -/
def copyIssue (i : Instr) (f : FC) (k : CopyKind) (e : Env) (s : State) : State :=
  let va := e.sop64 0 f.pb
  let treg := e.sop 2 f.tin
  let areg := e.sop 3 f.aux
  let q := f.qsel.toNat
  let x := s.site e.site
  let mine : Option CopyEntry := if k = .cpym then none else x.copyOf e
  match copyParams e mine va s with
  | (.error st, s1) => trapAll e i st.1 st.2 s1
  | (.ok params, s1) =>
    let p := CopyParams.ofBytes params
    let c := s1.core e.core
    let dt := if k = .cpym then none else tinNamed treg
    let st := tinNamed areg
    let same := match mine with
      | none => true
      | some m => m.pb == va && m.kind == k && (x.queue q).any (fun y => y.id == m.id) && m.treg == treg && m.areg == areg
    let okv := p.ok && p.okFor k && tinRegOk treg && tinRegOk areg && (k != .cpym || (tinNamed treg).isSome) && same &&
      (dt.all (fun n => decide (n ≥ e.wg.tins)) || p.dkind != 0) &&
      tinFits c e.wg dt 1 p.dkind p.daddr (spanOf p.rows p.dstride p.rowBytes) &&
      tinFits c e.wg st 2 p.skind p.saddr (spanOf p.rows p.sstride p.rowBytes)
    let order34 : Option Stop :=
      if !okv then some (cCPY_PARAM, 0)
      else if p.skind = 2 then some (cBUF_ENGINE, 0)
      else
        match windowStop e k p s1, tinStop e dt, tinStop e st, abufStop e k p s1 with
        | some z, _, _, _ | none, some z, _, _ | none, none, some z, _ | none, none, none, some z => some z
        | none, none, none, none => none
    match order34 with
    | some z => trapAll e i z.1 z.2 s1
    | none =>
      let rs := if k = .cpym then List.range p.rows else rowsOf p.rows e.wg.ncoach e.ref.k
      let fmt := match mine with | some m => m.fmt | none => none
      -- CPYM's destination lies in the receiving cores' SBUF
      match probeCopy e k p rs fmt s1 with
      | (.error z, s2) => trapAll e i z.1 z.2 s2
      | (.ok pr, s2) =>
        if x.copyHalted q e.ctx then trapAll e i cENGINE_HALT 0 s2
        else if mine.isNone ∧ (x.queue q).length ≥ cqMax then stall s
        else if k = .cpym ∧ s2.engineBusy e.ref scWAFER then stall s
        else
          let rel := if k = .cpym then s2.release e.ref.slot scWAFER else (e.wg.oclk, s2)
          let s3 := dropParts e.core pr.dst (cleanParts e.core pr.src rel.2)
          let arr : CopyArr := { k := e.ref.k, flight := s3.nextFlight e.ref }
          let s4 := match mine with
            | some m => s3.putCopy e.site q { m with arrivals := m.arrivals ++ [arr], fmt := pr.fmt, clock := rel.1 }
            | none =>
              let y := s3.site e.site
              let n0 : CopyEntry :=
                { id := y.nextId, kind := k, slot := e.ref.slot, k := e.ref.k, ctx := e.ctx, gid := e.wg.gid, seq := e.c.copies, pb := va,
                  params := params, treg := treg, areg := areg, dtin := if k = .cpym then tinNamed treg else dt.map (fun n => e.wg.tinBase + n),
                  stin := st.map (fun n => e.wg.tinBase + n), clock := rel.1, arrivals := [arr], fmt := pr.fmt, started := false, done := 0,
                  away := [], flying := [], after := [], paused := false, err := none }
              (s3.setSite e.site { y with nextId := y.nextId + 1 }).setQueue e.site q (y.queue q ++ [{ n0 with after := n0.earlier c }])
          let s5 := if k = .cpym then s4 else s4.modCoach e.ref (fun d => { d with copies := d.copies + 1 })
          accepted e i .engine s5

def execCpy (f : FC) (s : State) : Host.Outcome State Fault Refusal := issue (.cpy f) s (copyIssue (.cpy f) f .cpy)
def execCpym (f : FC) (s : State) : Host.Outcome State Fault Refusal := issue (.cpym f) s (copyIssue (.cpym f) f .cpym)
def execCpyt (f : FC) (s : State) : Host.Outcome State Fault Refusal := issue (.cpyt f) s (copyIssue (.cpyt f) f .cpyt)

/-- QFENCE (R198, R311). -/
def execQfence (f : FC) (s : State) : Host.Outcome State Fault Refusal :=
  issue (.qfence f) s (fun e s =>
    let v := e.sop 3 f.aux
    let x := s.site e.site
    let qs := (List.range 16).filter (fun q => v.getLsbD q)
    if v.toNat ≥ 2 ^ 16 then trapAll e (.qfence f) cCPY_PARAM 0 s
    else if v = 0 then accepted e (.qfence f) .performed s
    else if qs.any (fun q => decide ((x.queue q).length ≥ cqMax)) then stall s
    else
      let id := x.nextId
      let join (n : Nat) : CopyEntry :=
        { id := n, kind := .join id (v.truncate 16), slot := e.ref.slot, k := e.ref.k, ctx := e.ctx, gid := e.wg.gid, seq := 0, pb := 0, params := [], treg := 0, areg := 0,
          dtin := none, stin := none, clock := 0, arrivals := [{ k := e.ref.k, flight := s.nextFlight e.ref }], fmt := none, started := false,
          done := 0, away := [], flying := [], after := [], paused := false, err := none }
      let s1 := s.setSite e.site { x with nextId := id + 1 }
      accepted e (.qfence f) (.qfence id) (qs.foldl (fun t q => t.setQueue e.site q ((t.site e.site).queue q ++ [join id])) s1))

/-! The engines. -/

/-- Lower the flags of a copy's coaches. -/
def State.endFlights (s : State) (c : CopyEntry) : State :=
  c.arrivals.foldl (fun t a => t.completeFlight { slot := c.slot, k := a.k } a.flight) s
/-- The end of a copy (R190): its source tin is FREE, its entry goes, its flags fall. -/
def State.endCopy (s : State) (site q : Nat) (c : CopyEntry) : State :=
  let s1 := c.away.foldl (fun t o => (List.range 64).foldl (fun u e => u.unqueue e (.chunk site c.id o)) t) (s.dropCopy site q c.id)
  let s2 := match c.stin with | some t => s1.tinRelease c.core t | none => s1
  s2.endFlights c
/-- A join is passed when no entry precedes it in any queue that it names (R198). -/
def joinReady (x : Site) (id : Nat) (qs : BitVec 16) : Bool :=
  (List.range 16).all (fun q => !qs.getLsbD q || (match x.queue q with | c :: _ => (match c.kind with | .join j _ => j == id | _ => false) | [] => false))
/-- COPY_START (R188, R190, R198): the entry a queue has come to starts: a copy whose coaches have all arrived, or a
join whose earlier entries have all completed. -/
def execCopyStart (s : State) : Host.Outcome State Fault Refusal :=
  let site := s.arg.site
  let q := s.arg.n
  let x := s.site site
  .next (match x.headOf q with
    | none => s
    | some c =>
      match c.kind with
      | .join id qs =>
        if joinReady x id qs then
          ((List.range 16).foldl (fun t n => if qs.getLsbD n then t.dropCopy site n c.id else t) s).endFlights c
        else s
      | k =>
        let all := match s.wg c.slot with | some w => k == .cpym || decide (c.arrivals.length = w.ncoach) | none => false
        if c.started || c.paused || !all then s
        else
          let s1 := s.putCopy site q { c with started := true }
          match c.stin with | some t => s1.tinDrain c.core t | none => s1)

/-- Pieces of the destination byte stream [pos, pos + n) by row: (row, offset, bytes). -/
def piecesOf (fuel row pos n : Nat) : List (Nat × Nat × Nat) :=
  match fuel with
  | 0 => []
  | f + 1 => if n = 0 then [] else
    let k := min n (row - pos % row)
    (pos / row, pos % row, k) :: piecesOf f row (pos + k) (n - k)
/-- [va, va + n) cut at 16-byte boundaries (R312). -/
def granuleParts (fuel : Nat) (va : DWord) (n : Nat) : List (DWord × Nat) :=
  match fuel with
  | 0 => []
  | f + 1 => if n = 0 then [] else
    let k := min n (16 - va.toNat % 16)
    (va, k) :: granuleParts f (va + BitVec.ofNat 64 k) (n - k)

/-- A run-time error of a copy: KIND, cause and address (R309). -/
abbrev CopyErr := Nat × Nat × DWord
/-- Read global memory for a copy, granule by granule. -/
def readGlob (site : Nat) (a : Acc) (l : List (DWord × Nat)) (s : State) : Except CopyErr (List Byte) × State :=
  match l with
  | [] => (.ok [], s)
  | (va, n) :: r =>
    match s.translate none site a.ctx va .read with
    | (.error k, s1) => (.error (errKind k, (errCause k).toNat, va), s1)
    | (.ok x, s1) =>
      match s1.homeCheck a x n .read with
      | (some k, s2) => (.error (errKind k, (errCause k).toNat, va), s2)
      | (none, s2) =>
        match readGlob site a r (s2.homeTouch x.pa) with
        | (.error z, s3) => (.error z, s3)
        | (.ok bs, s3) => (.ok (s2.homeLoad x n ++ bs), s3)
/-- Write global memory for a copy. The issuing core's clean copies of what is written go (R220). -/
def writeGlob (site : Nat) (a : Acc) (l : List (DWord × Nat)) (bs : List Byte) (s : State) : Option CopyErr × State :=
  match l with
  | [] => (none, s)
  | (va, n) :: r =>
    match s.translate none site a.ctx va .write with
    | (.error k, s1) => (some (errKind k, (errCause k).toNat, va), s1)
    | (.ok x, s1) =>
      match s1.homeCheck a x n .write with
      | (some k, s2) => (some (errKind k, (errCause k).toNat, va), s2)
      | (none, s2) => writeGlob site a r (bs.drop n) (((s2.homeTouch x.pa).homeStore x (bs.take n)).ccForget a.core x.pa n)
/-- Read and write one side of a copy: global memory, or the workgroup's window of a buffer. -/
def CopyEntry.readAt (c : CopyEntry) (site kind : Nat) (va : DWord) (n : Nat) (s : State) : Except CopyErr (List Byte) × State :=
  match Buf.ofKind kind, s.wg c.slot with
  | some b, some w =>
    let x := s.core c.core
    let lo := (x.window w b).1 + va.toNat
    match (blocksRead lo n false).find? (fun k => x.bad.contains (b.kind, k)) with
    | some k => (.error (2, cECC_UNCORRECTABLE.toNat, BitVec.ofNat 64 (16 * k - (x.window w b).1)), s)
    | none => (.ok (bufRead (x.buf b) lo n), s)
  | _, _ => readGlob site c.acc (granuleParts (n + 1) va n) s
def CopyEntry.writeAt (c : CopyEntry) (site kind : Nat) (va : DWord) (bs : List Byte) (s : State) : Option CopyErr × State :=
  match Buf.ofKind kind, s.wg c.slot with
  | some b, some w =>
    let x := s.core c.core
    (none, s.setCore c.core (x.putBytes b ((x.window w b).1 + va.toNat) bs))
  | _, _ => writeGlob site c.acc (granuleParts (bs.length + 1) va bs.length) bs s

/-- Encode FP32 values in a format: the bytes, the side records of their blocks, the flags (R193). A NaN source of a 4-bit element
raises NV in BENC and STQ alone, not in CPYT (R56). -/
def encodeRun (d : Frd) (vals : List Nat) : List Byte × List Byte × Word :=
  match d.blk with
  | some k =>
    let bl := (chunks vals.length 32 vals).map (fun b =>
      let fs := b.map (Fv.ofBits fp32)
      let sc := bscale k fs
      let cs := fs.map (fun a => let r := encodeElem k sc.1 sc.2 none a; (r.1, if d.half then r.2 &&& ~~~flNV else r.2))
      let codes := cs.map Prod.fst
      let bytes := if d.half then (chunks 32 2 codes).map (fun c => BitVec.ofNat 8 (c.headD 0 % 16 + 16 * (c.getD 1 0 % 16)))
        else codes.map (BitVec.ofNat 8)
      (bytes, [BitVec.ofNat 8 sc.1, BitVec.ofNat 8 sc.2], flagsAll (cs.map Prod.snd)))
    (bl.flatMap (fun b => b.1), bl.flatMap (fun b => b.2.1), flagsAll (bl.map (fun b => b.2.2)))
  | none =>
    if d.format = 0 then (vals.flatMap (bytesLE 4), [], 0)
    else
      let fm := if d.format = 6 then bf16 else fp16
      let rs := vals.map (fun v => fm.roundF .rne false (Fv.ofBits fp32 v))
      (rs.flatMap (fun r => bytesLE 2 r.1), [], flagsAll (rs.map Prod.snd))
/-- Decode stored bytes with their side records: FP32 bytes and flags, as LDQ decodes (R142, R193). -/
def decodeRun (d : Frd) (bs side : List Byte) : List Byte × Word :=
  let elems := chunks bs.length d.size bs
  let rs := (List.zip (List.range elems.length) elems).map (fun e =>
    let b := e.1 * d.size / d.blockBytes
    ldqWords d (fieldLE side (2 * b) 1) (fieldLE side (2 * b + 1) 1) e.2)
  (rs.flatMap (fun r => r.1.flatMap (fun w => bytesLE 4 w.toNat)), flagsAll (rs.map Prod.snd))

/-- FP32 bytes to which so many encoded bytes decode. -/
def EncRun.wide (r : EncRun) (n : Nat) : Nat := n * 32 / fmtBits r.frd.format
/-- Encode FP32 bytes over the runs of a row and write them with their side records: the flags (R193). -/
def CopyEntry.encodeRuns (c : CopyEntry) (site row : Nat) (l : List EncRun) (bs : List Byte) (s : State) : Except CopyErr Word × State :=
  match l with
  | [] => (.ok 0, s)
  | u :: r =>
    let p := c.par
    let k := u.wide u.n
    let en := encodeRun u.frd ((chunks k 4 (bs.take k)).map ofBytesLE)
    match c.writeAt site p.dkind (p.dstAt row u.lo) en.1 s with
    | (some z, s1) => (.error z, s1)
    | (none, s1) =>
      match writeGlob site c.acc (granuleParts (en.2.1.length + 1) u.side.1 en.2.1.length) en.2.1 s1 with
      | (some z, s2) => (.error z, s2)
      | (none, s2) =>
        match c.encodeRuns site row r (bs.drop k) s2 with
        | (.error z, s3) => (.error z, s3)
        | (.ok fl, s3) => (.ok (en.2.2 ||| fl), s3)
/-- Decode the bytes of the runs of a row with their side records and write the FP32 values: the flags (R193). -/
def CopyEntry.decodeRuns (c : CopyEntry) (site row : Nat) (l : List EncRun) (bs : List Byte) (s : State) : Except CopyErr Word × State :=
  match l with
  | [] => (.ok 0, s)
  | u :: r =>
    let p := c.par
    match readGlob site c.acc (granuleParts (u.side.2 + 1) u.side.1 u.side.2) s with
    | (.error z, s1) => (.error z, s1)
    | (.ok side, s1) =>
      let de := decodeRun u.frd (bs.take u.n) side
      match c.writeAt site p.dkind (p.dstAt row (u.wide u.lo)) de.1 s1 with
      | (some z, s2) => (.error z, s2)
      | (none, s2) =>
        match c.decodeRuns site row r (bs.drop u.n) s2 with
        | (.error z, s3) => (.error z, s3)
        | (.ok fl, s3) => (.ok (de.2 ||| fl), s3)

/-- The runs of bytes [lo, lo + n) of a row of the encoded side as the copy moves them: of another format than the probe found
they are a run-time error (DESIGN CHOICE, log 113). -/
def CopyEntry.runsAt (c : CopyEntry) (site : Nat) (need : Need) (va : DWord) (lo n : Nat) (s : State) : Except CopyErr (List EncRun) × State :=
  match s.rowRuns none site c.ctx need va c.par.rowBytes with
  | (.error z, s1) => (.error (errKind z.1, (errCause z.1).toNat, z.2), s1)
  | (.ok (f, l), s1) => (if c.fmt = some f then .ok (clipRuns lo n l) else .error (5, cXLATE_PERM.toNat, va), s1)
/-- Move one piece of a copy (R190, R193): the flags, or the error it meets. -/
def CopyEntry.movePiece (c : CopyEntry) (site : Nat) (pc : Nat × Nat × Nat) (s : State) : Except CopyErr Word × State :=
  let p := c.par
  let r := pc.1
  let so := pc.2.1 * c.srcRow / c.dstRow
  let sn := pc.2.2 * c.srcRow / c.dstRow
  match c.readAt site p.skind (p.srcAt r so) sn s with
  | (.error z, s1) => (.error z, s1)
  | (.ok bs, s1) =>
    match c.kind, p.dir with
    | .cpyt, false =>
      match c.runsAt site .write (p.dstAt r 0) pc.2.1 pc.2.2 s1 with
      | (.error z, s2) => (.error z, s2)
      | (.ok l, s2) => c.encodeRuns site r l bs s2
    | .cpyt, true =>
      match c.runsAt site .read (p.srcAt r 0) so sn s1 with
      | (.error z, s2) => (.error z, s2)
      | (.ok l, s2) => c.decodeRuns site r l bs s2
    | _, _ =>
      match c.writeAt site p.dkind (p.dstAt r pc.2.1) bs s1 with
      | (some z, s2) => (.error z, s2)
      | (none, s2) => (.ok 0, s2)
/-- Move the pieces of a chunk in row order, up to the first error, with its row. -/
def CopyEntry.movePieces (c : CopyEntry) (site : Nat) (l : List (Nat × Nat × Nat)) (s : State) : Except (Nat × CopyErr) Word × State :=
  match l with
  | [] => (.ok 0, s)
  | pc :: r =>
    match c.movePiece site pc s with
    | (.error z, s1) => (.error (pc.1, z), s1)
    | (.ok fl, s1) =>
      match c.movePieces site r s1 with
      | (.error z, s2) => (.error z, s2)
      | (.ok g, s2) => (.ok (fl ||| g), s2)
/-- Read the pieces of a chunk of a CPYM: the destination offsets with their bytes. -/
def CopyEntry.readPieces (c : CopyEntry) (site : Nat) (l : List (Nat × Nat × Nat)) (s : State) : Except CopyErr (List (Nat × List Byte)) × State :=
  match l with
  | [] => (.ok [], s)
  | pc :: r =>
    let p := c.par
    match c.readAt site p.skind (p.srcAt pc.1 pc.2.1) pc.2.2 s with
    | (.error z, s1) => (.error z, s1)
    | (.ok bs, s1) =>
      match c.readPieces site r s1 with
      | (.error z, s2) => (.error z, s2)
      | (.ok m, s2) => (.ok (((p.dstAt pc.1 pc.2.1).toNat, bs) :: m), s2)

/-- The ABUF bytes, as (offset, bytes), that pieces of a copy touch. -/
def CopyEntry.abufPieces (c : CopyEntry) (l : List (Nat × Nat × Nat)) : List (Nat × Nat) :=
  let p := c.par
  (if p.skind = 4 then l.map (fun x => ((p.srcAt x.1 (x.2.1 * c.srcRow / c.dstRow)).toNat, x.2.2 * c.srcRow / c.dstRow)) else []) ++
    (if p.dkind = 4 then l.map (fun x => ((p.dstAt x.1 x.2.1).toNat, x.2.2)) else [])
/-- A chunk that must wait: ABUF tiles of batches accepted earlier (R191), or a pinned destination (R178). -/
def CopyEntry.mustWait (c : CopyEntry) (x : Core) (l : List (Nat × Nat × Nat)) : Bool :=
  let p := c.par
  (c.abufPieces l).any (fun a => (tilesAt a.1 a.2).any (fun t =>
    x.batches.any (fun b => b.gid == c.gid && (Table.find b.tiles t).isSome && c.after.contains (b.slot, b.k, b.num)))) ||
  (match Buf.ofKind p.dkind with
   | some b => c.kind != .cpym && l.any (fun y => x.pinned c.gid b (p.dstAt y.1 y.2.1).toNat y.2.2 c.dtin)
   | none => false)

/-- Bytes of a chunk (R190) and of a packet of a CPYM (R329). -/
def chunkBytes : Nat := 4096
def packetBytes : Nat := 256
/-- Cut pieces of (offset, bytes) into packets. -/
def packets (fuel : Nat) (l : List (Nat × List Byte)) (cur : List (Nat × List Byte)) (room : Nat) : List (List (Nat × List Byte)) :=
  match fuel with
  | 0 => [cur]
  | f + 1 =>
    match l with
    | [] => if cur.isEmpty then [] else [cur]
    | (o, bs) :: r =>
      if bs.isEmpty then packets f r cur room
      else
        let n := min room bs.length
        let cur1 := cur ++ [(o, bs.take n)]
        if n = room then cur1 :: packets f ((o + n, bs.drop n) :: r) [] packetBytes else packets f r cur1 (room - n)

/-- The pieces of the chunk that begins at a byte of the destination stream. -/
def CopyEntry.chunkAt (c : CopyEntry) (pos : Nat) : List (Nat × Nat × Nat) :=
  let n := min chunkBytes (c.total - pos)
  piecesOf (n + 1) c.dstRow pos n
/-- A copy whose next chunk can move. -/
def CopyEntry.ready (c : CopyEntry) (x : Core) : Bool :=
  c.started && !c.paused && decide (c.done < c.total) && c.err.isNone && !c.mustWait x (c.chunkAt c.done)
/-- The internal queue of engine 3, on which an evacuation's chunks move (R367). -/
def evacQueue : Nat := 16
/-- The engine of a queue, and how many queues an engine serves. -/
def engineOf (q : Nat) : Nat := min 3 (q / 4)
def engineQueues (engine : Nat) : Nat := if engine = 3 then 5 else 4
/-- A queue's next chunk can move. -/
def State.queueReady (s : State) (site q : Nat) : Bool :=
  if q = evacQueue then (s.site site).evac.isSome
  else match (s.site site).headOf q with | some c => c.ready (s.core c.core) | none => false
/-- The queue that an engine serves next: round-robin from the one it served last, among those whose head can proceed (R311). -/
def State.engineTurn (s : State) (site engine : Nat) : Option Nat :=
  let k := engineQueues engine
  let last := Table.getD (s.site site).turn engine (k - 1)
  ((List.range k).map (fun i => 4 * engine + (last + 1 + i) % k)).find? (s.queueReady site)
/-- An engine has served a queue. -/
def State.served (s : State) (site q : Nat) : State :=
  s.setSite site { s.site site with turn := Table.insert (s.site site).turn (engineOf q) (q - 4 * engineOf q) }
/-- A copy meets a run-time error in the row at a byte of its stream. -/
def State.copyFails (s : State) (site q : Nat) (c : CopyEntry) (pos : Nat) (z : CopyErr) : State :=
  (s.putCopy site q { c with err := some (pos, z) }).later [⟨.copyRuntimeError, { EvArgs.zero with site := site, n := q, id := c.id }⟩]
/-- The site of this wafer to which a chunk is written (R330): the home of its first byte, by which the whole chunk goes (DESIGN
CHOICE, log 119: the rows of a chunk may have several homes); none for a core's buffer or memory that has no one site. -/
def State.chunkSite (s : State) (site : Nat) (c : CopyEntry) (pos : Nat) : Option Nat :=
  if c.par.dkind ≠ 0 then none
  else
    match (s.translate none site c.ctx (c.par.dstAt (pos / c.dstRow) (pos % c.dstRow)) .write).1 with
    | .ok x => if paSpace x.pa = 0 then some (homeSite x.pa) else none
    | .error _ => none
/-! CPYM's packets (R192, R257, R315, R329). -/

/-- An arrival for a tin whose workgroup is saved sets LOST in the tin's record (R257, R262). -/
def State.markLost (s : State) (core t : Nat) : State :=
  match s.saved.find? (fun w => w.oldCore == core && decide (w.tinBase ≤ t ∧ t < w.tinBase + w.tins)) with
  | none => s
  | some w =>
    let va := w.tinVa + BitVec.ofNat 64 (128 * (t - w.tinBase))
    let ctx := match s.grid w.gid with | some g => g.ctx | none => 0
    match s.devAddr (siteOfCore core) ctx va 4 .both with
    | (.error _, s1) => s1
    | (.ok x, s1) =>
      let v := ofBytesLE (s1.homeRead x.pa 4)
      if v % 4 = 0 then s1 else s1.homeWrite x.pa (bytesLE 4 (v ||| 8))
/-- A packet reaches a core: it is written and counted when the tin is not FREE and its range covers it, else dropped. -/
def State.deliverPacket (s : State) (c : CopyEntry) (p : CopyPacket) : State :=
  match c.dtin with
  | none => s
  | some t =>
    let x := (s.core p.core).tin t
    let n := p.parts.foldl (fun a d => a + d.2.length) 0
    match s.tinOwner p.core t with
    | some w =>
      if x.state ≠ 0 ∧ x.kind = 1 ∧ p.parts.all (fun d => decide (d.1 + d.2.length ≤ x.len.toNat)) then
        let k := s.core p.core
        let b := p.parts.foldl (fun (b : Core) d => b.putBytes .sbuf (w.sbufBase + x.off.toNat + d.1) d.2) k
        (s.setCore p.core b).tinArrive p.core t n c.clock true
      else s.tinDrop p.core
    | none => (s.tinDrop p.core).markLost p.core t
/-- The packets of a copy engine that have not landed, in the order of their injection, with their queues and copies. -/
def State.inFlight (s : State) (site engine : Nat) (p : CopyPacket → Bool) : List (Nat × CopyEntry × CopyPacket) :=
  sortBy (fun x => x.2.2.seq) ((List.range 4).flatMap (fun i => ((s.site site).queue (4 * engine + i)).flatMap (fun c =>
    (c.flying.filter p).map (fun f => (4 * engine + i, c, f)))))
/-- A packet lands at its core. -/
def State.landPacket (s : State) (site q : Nat) (c : CopyEntry) (p : CopyPacket) : State :=
  let s1 := s.setQueue site q (((s.site site).queue q).map (fun x => if x.id = c.id then { x with flying := x.flying.erase p } else x))
  s1.deliverPacket c p
/-- Land packets, and before each those of its engine for the same core that were injected before it (R323, R327). -/
def State.landAll (s : State) (site engine : Nat) (l : List CopyPacket) : State :=
  (s.inFlight site engine (fun p => l.any (fun o => o.core == p.core && decide (p.seq ≤ o.seq)))).foldl
    (fun t x => t.landPacket site x.1 x.2.1 x.2.2) s
/-- The packets that an engine has injected for a core land. -/
def State.landFor (s : State) (site engine core : Nat) : State :=
  (s.inFlight site engine (fun p => p.core == core)).foldl (fun t x => t.landPacket site x.1 x.2.1 x.2.2) s

/-! Chunks (R190, R330). -/

/-- A chunk of n bytes has been moved, its flags kept: it counts at the tin, and the last one completes the copy (R190, R312). -/
def State.chunkDone (s : State) (site q : Nat) (c : CopyEntry) (n : Nat) : State :=
  let s1 := s.putCopy site q c
  let s2 := match c.dtin with | some t => s1.tinArrive c.core t n c.clock false | none => s1
  if c.done ≥ c.total ∧ c.away = [] then s2.endCopy site q c else s2
/-- Move the chunk at a byte of the stream; `c` is the entry when it has been moved. An arrival at a tin that is FREE is
dropped: nothing is written (R315). The flags of a chunk are ORed when it is moved (DEDUCED, log 86). Packets that the engine has
injected before for the core whose SBUF it writes land first (R323). -/
def State.moveChunk (s0 : State) (site q : Nat) (c : CopyEntry) (pos : Nat) : State :=
  let s := if c.par.dkind = 1 then s0.landFor site (q / 4) c.core else s0
  let n := min chunkBytes (c.total - pos)
  let dropped := match c.dtin with | some t => ((s.core c.core).tin t).state == 0 | none => false
  if dropped then
    let s1 := (s.putCopy site q c).tinDrop c.core
    if c.done ≥ c.total ∧ c.away = [] then s1.endCopy site q c else s1
  else
    match c.movePieces site (c.chunkAt pos) s with
    | (.error (row, z), s1) => s1.copyFails site q { c with away := c.away ++ [pos] } (row * c.dstRow) z
    | (.ok fl, s1) => (s1.orStatus site c.ctx fl).chunkDone site q c n
/-- Packets of a CPYM's chunk leave for every core that CMASK names. -/
def State.sendChunk (s : State) (site q : Nat) (c : CopyEntry) (n : Nat) (m : List (Nat × List Byte)) : State :=
  let x := s.site site
  let ps := packets (2 * n + 2) m [] packetBytes
  let cores := ((List.range 32).filter (fun i => c.par.cmask.getLsbD i)).map (fun i => 32 * c.par.dsite + i)
  let fl := (List.zip (upFrom x.pktNo ps.length) ps).flatMap (fun p => cores.map (fun k => { seq := p.1, core := k, parts := p.2 : CopyPacket }))
  (s.setSite site { x with pktNo := x.pktNo + ps.length }).putCopy site q { c with done := c.done + n, flying := c.flying ++ fl }
/-- The next chunk of the copy at the head of a queue whose turn it is. -/
def State.nextChunk (s0 : State) (site q : Nat) (c : CopyEntry) : State :=
  let s := s0.served site q
  let n := min chunkBytes (c.total - c.done)
  let l := c.chunkAt c.done
  let x := s.core c.core
  let p := c.par
  match (c.abufPieces l).flatMap (fun a => (tilesAt a.1 a.2).filterMap (fun t =>
      if x.invalidTile c.gid t then some (max a.1 (t * tileBytes)) else none)) with
  | o :: _ =>
    let row := match l.find? (fun y => (c.abufPieces [y]).any (fun a => (tilesAt a.1 a.2).any (x.invalidTile c.gid))) with | some y => y.1 | none => 0
    s.copyFails site q c (row * c.dstRow) (9, cMTX_INVALID_ACC.toNat, BitVec.ofNat 64 o)
  | [] =>
    if c.kind = .cpym then
      match c.readPieces site l s with
      | (.error z, s1) => s1.copyFails site q c c.done z
      | (.ok m, s1) => s1.sendChunk site q c n m
    else
      let c1 := { c with done := c.done + n }
      let e := s.rerouted site
      match s.chunkSite site c c.done with
      | some t =>
        let key := connKey s.waferId.toNat t false
        if s.byOptics site t && (s.transport e s.waferId.toNat t).isNone then s.copyFails site q c c.done (8, cRMT_NAK.toNat, p.dstAt (c.done / c.dstRow) (c.done % c.dstRow))
        else if s.byOptics site t && s.connRoom e key then
          (s.putCopy site q { c1 with away := c.away ++ [c.done] }).queuePackets e key (.chunk site c.id c.done) n
        else s.moveChunk site q c1 c.done
      | none => s.moveChunk site q c1 c.done
/-- Chunks of a DRAM bank. -/
def bankChunks : Nat := bankBytes / chunkBytes
/-- The next chunk of the evacuation that runs moves under its addresses; after the last the rows are the spare's, and DONE reads 1 (R367). -/
def State.evacChunk (s0 : State) (site : Nat) : State :=
  let s := s0.served site evacQueue
  let x := s.site site
  match x.evac with
  | none => s
  | some e =>
    if e.chunk + 1 < bankChunks then s.setSite site { x with evac := some { e with chunk := e.chunk + 1 } }
    else (s.setSite site { x with evac := none, spare := Table.insert x.spare e.layer e.bank }).setWin site offEVACCTL (setFld (s.win site offEVACCTL) 1 1 1)
/-- A chunk under way by optics lands before a save (R190). -/
def State.landChunk (s : State) (site q id at_ : Nat) : State :=
  match ((s.site site).queue q).find? (fun c => c.id == id && c.away.contains at_) with
  | some c => ((List.range 64).foldl (fun t e => t.unqueue e (.chunk site id at_)) s).moveChunk site q { c with away := c.away.erase at_ } at_
  | none => s
/-- COPY_CHUNK (R190-R193, R311, R312, R330-R332, R367): the next chunk of the copy at the head of queue `n`, or of an evacuation, when it
is the queue's turn; or (`ok`) the chunk at byte `m` arrives that travelled by optics, all its packets acknowledged. -/
def execCopyChunk (s : State) : Host.Outcome State Fault Refusal :=
  let site := s.arg.site
  let q := s.arg.n
  .next (if s.arg.ok then
      match ((s.site site).queue q).find? (fun c => c.away.contains s.arg.m && c.err.isNone && !c.paused) with
      | some c =>
        if (List.range 64).any (fun e => s.carries e (.chunk site c.id s.arg.m)) then s
        else s.moveChunk site q { c with away := c.away.erase s.arg.m } s.arg.m
      | none => s
    else if s.engineTurn site (engineOf q) ≠ some q then s
    else if q = evacQueue then s.evacChunk site
    else
      match (s.site site).headOf q with
      | some c => s.nextChunk site q c
      | none => s)

/-! What ends a CPYM. -/

/-- CPYM_DELIVER (R192, R323): the engine's next packet for a core lands. -/
def execCpymDeliver (s : State) : Host.Outcome State Fault Refusal :=
  let site := s.arg.site
  .next (match s.inFlight site (s.arg.n / 4) (fun p => p.core == s.arg.core) with
    | [] => s
    | (q, c, p) :: _ => s.landPacket site q c p)
/-- CPYM_ACK (R192, R329): every receiving core has acknowledged. -/
def execCpymAck (s : State) : Host.Outcome State Fault Refusal :=
  let site := s.arg.site
  let q := s.arg.n
  .next (match (s.site site).headOf q with
    | none => s
    | some c => if c.kind = .cpym ∧ c.started ∧ c.err.isNone ∧ c.done ≥ c.total ∧ c.flying.isEmpty then s.endCopy site q c else s)

/-! Run-time errors (R190) and ERES (R213). -/

/-- The destination tins of a copy take ERR. -/
def State.tinErrors (s : State) (c : CopyEntry) : State :=
  match c.dtin with
  | none => s
  | some t =>
    if c.kind = .cpym then
      ((List.range 32).filter (fun i => c.par.cmask.getLsbD i)).foldl (fun u i => u.tinError (32 * c.par.dsite + i) t) s
    else s.tinError c.core t
/-- Bytes of the chunks that have arrived. -/
def CopyEntry.landed (c : CopyEntry) : Nat := c.away.foldl (fun n o => n - min chunkBytes (c.total - o)) c.done
/-- COPY_RUNTIME_ERROR (R190): the error that a copy has met: the record, then ERR, the flags, the halt. Packets already sent
still land. -/
def execCopyRuntimeError (s : State) : Host.Outcome State Fault Refusal :=
  let site := s.arg.site
  let q := s.arg.n
  .next (match ((s.site site).queue q).find? (fun c => c.id == s.arg.id) with
    | none => s
    | some c =>
      match c.err with
      | none => s
      | some (pos, z) =>
        let p := c.par
        let n := match s.wg c.slot with | some w => w.ncoach | none => 1
        let k := if c.kind = .cpym then c.k else coachOfRow p.rows n (pos / c.dstRow)
        let tin := match c.dtin with | some t => t | none => 0
        let s1 := s.errorRecord site c.ctx (errorBytes s site 1 z.1 (some (BitVec.ofNat 7 z.2.1)) c.slot c.ctx k z.2.2 0 tin 0 (q + 1) c.pb c.landed)
        let s2 := s1.landAll site (q / 4) c.flying
        let s3 := (s2.tinErrors c).endCopy site q c
        let x := s3.site site
        if x.copyHalted q c.ctx then s3 else s3.setSite site { x with copyHalt := x.copyHalt ++ [(q, c.ctx)] })

/-- Resume a copy queue for a context (R213): the count of copies dropped. -/
def State.eresCopy (s : State) (site q ctx : Nat) (discard : Bool) : Nat × State :=
  let x := s.site site
  if !x.copyHalted q ctx then (0, s)
  else
    let s1 := s.setSite site { x with copyHalt := x.copyHalt.filter (fun h => h != (q, ctx)) }
    if !discard then (0, s1)
    else
      let held := (x.queue q).filter (fun (c : CopyEntry) => c.ctx == ctx && (match c.kind with | .join _ _ => false | _ => true))
      (held.length, held.foldl (fun t c => (t.tinErrors c).endCopy site q c) s1)
/-- ERES (R213): the queue of engine 0 is this core's matrix queue, 1 to 16 the site's copy queues. -/
def execEres (f : FS) (s : State) : Host.Outcome State Fault Refusal :=
  issue (.eres f) s (fun e s =>
    let v := (e.sop 0 f.a).toNat
    let eng := bits v 0 5
    let ctx := if bits v 16 16 = 0xFFFF then e.ctx else bits v 16 16
    let discard := bitN v 8
    if bits v 9 7 ≠ 0 ∨ bits v 5 3 ≠ 0 ∨ ctx ≥ 256 then trapAll e (.eres f) cILLEGAL_FIELD 0 s
    else
      let r : Nat × State :=
        if eng = 0 then s.eresMatrix e.core ctx discard
        else if eng ≤ 16 then s.eresCopy e.site (eng - 1) ctx discard
        else (0xFFFFFFFF, s)
      finishW e (putRun true f.d.toNat 1 0 r.1) r.2)

end Sys2Proof.Machine
end

