-- ==== Sys2Proof/Machine/Coll.lean ====
section
/-! DEFINITION. Collectives (R199, R200, R314): COLL at issue, the exchange of headers, the arrival of chunks and the
completion with its record. -/

namespace Sys2Proof.Machine

/-! The block (R199). -/

/-- The fields of a collective's block. -/
structure CollBlock where
  saddr : DWord
  daddr : DWord
  count : Nat
  op : Nat
  ty : Nat
  rop : Nat
  root : Nat
  n : Nat
  group : DWord
  record : DWord
  tag : Word
  ok : Bool
  deriving DecidableEq, Repr
def CollBlock.ofBytes (b : List Byte) : CollBlock :=
  let w := fieldLE b 0x14 4
  let op := bits w 0 3
  let n := bits w 16 8 + 1
  let count := fieldLE b 0x10 4
  let root := bits w 8 8
  { saddr := dword64 b 0, daddr := dword64 b 8, count := count, op := op, ty := bits w 4 2, rop := bits w 6 2, root := root, n := n,
    group := dword64 b 0x18, record := dword64 b 0x20, tag := word32 b 0x28,
    ok := decide (op ≤ 4 ∧ bits w 6 2 ≠ 3 ∧ bits w 3 1 = 0 ∧ bits w 24 8 = 0 ∧ fieldLE b 0x2C 20 = 0 ∧ 2 ≤ n) &&
      (op == 3 || decide (count % n = 0)) && decide (if op = 3 then root < n else root = 0) && decide (fieldLE b 0x20 8 % 8 = 0) }
def Coll.blk (c : Coll) : CollBlock := CollBlock.ofBytes c.block
def Coll.acc (c : Coll) : Acc := { core := coreOfSlot c.slot, ctx := c.ctx, agent := BitVec.ofNat 16 c.slot, clk := c.clock }
/-- Bytes of an element. -/
def CollBlock.es (b : CollBlock) : Nat := if b.ty = 1 ∨ b.ty = 2 then 2 else 4
/-- The first byte and the bytes of share i (R200). -/
def CollBlock.shareAt (b : CollBlock) (i : Nat) : Nat := i * b.count / b.n * b.es
def CollBlock.shareLen (b : CollBlock) (i : Nat) : Nat := ((i + 1) * b.count / b.n - i * b.count / b.n) * b.es
/-- Bytes that SADDR holds and that DADDR receives, for participant i. -/
def CollBlock.srcLen (b : CollBlock) (i : Nat) : Nat :=
  match b.op with
  | 2 => b.shareLen i
  | 3 => if i = b.root then b.count * b.es else 0
  | _ => b.count * b.es
def CollBlock.dstLen (b : CollBlock) (i : Nat) : Nat := if b.op = 1 then b.shareLen i else b.count * b.es
/-- What participant j contributes to participant i: offset in j's SADDR, and bytes. -/
def CollBlock.pieceOf (b : CollBlock) (j i : Nat) : Nat × Nat :=
  match b.op with
  | 2 => (0, b.shareLen j)
  | 3 => if j = b.root then (0, b.count * b.es) else (0, 0)
  | 4 => (i * (b.count / b.n) * b.es, b.count / b.n * b.es)
  | _ => (b.shareAt i, b.shareLen i)
/-- The header a participant exchanges: OP, TYPE, ROP, COUNT, N and GROUP (R200). -/
def Coll.header (c : Coll) : List Word :=
  let b := c.blk
  [BitVec.ofNat 32 (b.op + b.ty * 16 + b.rop * 64), BitVec.ofNat 32 b.count, BitVec.ofNat 32 b.n] ++ c.group

/-! Issue. -/

/-- The words of a group and whether this site is named exactly once (R199). -/
def groupWords (bs : List Byte) (n : Nat) : List Word := (List.range n).map (fun i => word32 bs (4 * i))
def memberWord (s : State) (site : Nat) : Word := BitVec.ofNat 32 (site * 65536 + s.waferId.toNat)

/-- COLL (R199, R314). The order of its causes after the block's is the model's (DESIGN CHOICE, log 88): CPY_PARAM of the block,
then GROUP's translation, CPY_PARAM of GROUP and TAG, then SADDR, DADDR with CPY_PARAM of its home, and RECORD. -/
def execColl (f : FC) (s : State) : Host.Outcome State Fault Refusal :=
  issue (.coll f) s (fun e s =>
    let va := e.sop64 0 f.pb
    let me := memberWord s e.site
    let trap (z : Stop) (t : State) : State := trapAll e (.coll f) z.1 z.2 t
    match readBlock e va 64 64 s with
    | (.error z, s1) => trap z s1
    | (.ok bs, s1) =>
      let b := CollBlock.ofBytes bs
      if !b.ok then trap (cCPY_PARAM, 0) s1
      else
        match probeRange e .read b.group (4 * b.n) s1 with
        | (some z, _, s2) => trap z s2
        | (none, gp, s2) =>
          match xferCheck gp (cleanParts e.core gp s2) with
          | (some z, s3) => trap z s3
          | (none, s3) =>
          let g := groupWords (readParts s3 gp) b.n
          let others := (s3.site e.site).colls
          if g.any (fun w => decide (w.toNat ≥ 2 ^ 22)) ∨ (g.filter (fun w => w == me)).length ≠ 1 ∨ others.any (fun c => c.blk.tag == b.tag) then
            trap (cCPY_PARAM, 0) s3
          else
            let i := g.idxOf me
            match probeRange e .read b.saddr (b.srcLen i) s3 with
            | (some z, _, s4) => trap z s4
            | (none, sp, s4) =>
              match probeRange e .write b.daddr (b.dstLen i) s4 with
              | (some z, _, s5) => trap z s5
              | (none, dp, s5) =>
                if dp.any (fun p => decide (paSpace p.1.x.pa ≠ 0 ∨ homeSite p.1.x.pa ≠ e.site)) then trap (cCPY_PARAM, 0) s5
                else
                  match probeRange e .write b.record (8 + b.n) s5 with
                  | (some z, _, s6) => trap z s6
                  | (none, rp, s6) =>
                    if others.length ≥ 16 then stall s
                    else
                      let s7 := dropParts e.core (dp ++ rp) (cleanParts e.core sp s6)
                      let c : Coll :=
                        { slot := e.ref.slot, k := e.ref.k, ctx := e.ctx, gid := e.wg.gid, flight := s.nextFlight e.ref, clock := e.wg.oclk, pb := va,
                          block := bs, group := g, index := i, headers := [i], mismatch := false, order := [i], shares := [], sent := [], failed := none }
                      let x := s7.site e.site
                      accepted e (.coll f) .engine (s7.setSite e.site { x with colls := x.colls ++ [c] }))

/-! The engine. -/

/-- The collective of a site under a tag, and its replacement. -/
def State.collAt (s : State) (site : Nat) (tag : Word) : Option Coll := (s.site site).colls.find? (fun c => c.blk.tag == tag)
def State.putColl (s : State) (site : Nat) (c : Coll) : State :=
  let x := s.site site
  s.setSite site { x with colls := x.colls.map (fun d => if d.blk.tag = c.blk.tag then c else d) }
/-- An error stops a collective (R314): its record, with the bytes that have arrived. -/
def State.failColl (s : State) (site : Nat) (c : Coll) (z : CopyErr) : State :=
  (s.errorRecord site c.ctx (errorBytes s site 2 z.1 (some (BitVec.ofNat 7 z.2.1)) c.slot c.ctx c.k z.2.2 0 0 0 31 c.pb
    (c.shares.foldl (fun a x => a + x.2.length) 0))).putColl site { c with failed := some z }
/-- What stops a collective whose peer or port cannot be reached: KIND 8 (DESIGN CHOICE, log 83: R309 has no KIND for it). -/
def Coll.lost (c : Coll) : CopyErr := (8, cRMT_NAK.toNat, c.pb)
/-- The site of a participant, as GROUP names it, when it is one of this device. -/
def State.localOf (s : State) (w : Word) : Option Nat := if bits w.toNat 0 16 = s.waferId.toNat then some (bits w.toNat 16 6) else none
def Coll.localSite (s : State) (c : Coll) (j : Nat) : Option Nat := (c.group[j]?).bind s.localOf
/-- The place of a site in a collective's group. -/
def Coll.placeOf (c : Coll) (w : Word) : Nat := (c.group.findIdx? (fun x => x == w)).getD c.index
/-- Compare a header with a participant's own (R200). -/
def Coll.compare (c : Coll) (j : Nat) (h : List Word) : Coll :=
  { c with headers := if c.headers.contains j then c.headers else c.headers ++ [j], mismatch := c.mismatch || h != c.header }
/-- A participant meets the header of another, or hears that it has stopped (an empty one: DESIGN CHOICE, log 87). -/
def State.meet (s : State) (site : Nat) (c : Coll) (j : Nat) (h : List Word) : State :=
  if h.isEmpty then s.failColl site c c.lost else s.putColl site (c.compare j h)
/-- What a participant says to the others: its header, or that it has stopped. -/
def Coll.voice (c : Coll) : List Word := if c.failed.isSome then [] else c.header
/-- Exchange headers between two sites of this device: a difference is seen at both ends. -/
def State.exchange (s : State) (site : Nat) (c : Coll) (j peer : Nat) (d : Coll) : State :=
  (s.meet site c j d.voice).meet peer d (d.placeOf (memberWord s site)) c.voice
/-- A header that a participant left at a site which had not met it. -/
def State.headAt (s : State) (site : Nat) (tag : Word) (w : Option Word) : Option (List Word) :=
  ((s.site site).heads.find? (fun h => h.1 == tag && some h.2.1 == w)).map (fun h => h.2.2)
/-- COLL_HEADER_EXCHANGE (R200): with a participant of this device, active or gone, or, with the header that it sent, of another. -/
def execCollHeaderExchange (s : State) : Host.Outcome State Fault Refusal :=
  let site := s.arg.site
  let tag : Word := s.arg.value.truncate 32
  let j := s.arg.n
  .next (match s.collAt site tag with
    | none => s
    | some c =>
      if decide (j ≥ c.group.length) || c.failed.isSome then s
      else
        match s.headAt site tag c.group[j]?, c.headers.contains j, c.localSite s j with
        | some h, _, _ =>
          let x := s.site site
          (s.setSite site { x with heads := x.heads.filter (fun y => !(y.1 == tag && some y.2.1 == c.group[j]?)) }).meet site c j h
        | none, true, _ => s
        | none, false, some peer => (match s.collAt peer tag with | some d => s.exchange site c j peer d | none => s)
        | none, false, none => s.meet site c j s.arg.words)

/-- Every header has been compared and all agree: data may move. -/
def Coll.ready (c : Coll) : Bool := !c.mismatch && decide (c.headers.length = c.group.length)
/-- What has arrived from a participant, and its order of arrival. -/
def Coll.got (c : Coll) (j : Nat) : List Byte := Table.getD c.shares j []
def Coll.take (c : Coll) (j : Nat) (bs : List Byte) : Coll :=
  { c with shares := Table.put [] c.shares j (c.got j ++ bs), order := if j < 256 ∧ !c.order.contains j then c.order ++ [j] else c.order }
/-- Bytes of a chunk of a collective (R314). -/
def collChunkBytes : Nat := 65536
/-- The bytes that participant j's contribution to this participant has. -/
def Coll.due (c : Coll) (j : Nat) : Nat := (c.blk.pieceOf j c.index).2
/-- The contributions to this participant's share have all arrived. -/
def Coll.full (c : Coll) : Bool := (List.range c.group.length).all (fun j => decide ((c.got j).length ≥ c.due j))

/-! Reduction (R200). -/

/-- One step: two elements in the form in which they are combined (FP32 values, or INT32), with the flags it raises. -/
def collCombine (b : CollBlock) (x y : Nat) : Nat × Word :=
  if b.ty = 3 then
    let p : Word := BitVec.ofNat 32 x
    let q : Word := BitVec.ofNat 32 y
    ((match b.rop with | 0 => p + q | 1 => if q.slt p then q else p | _ => if p.slt q then q else p).toNat, 0)
  else
    let p := Fv.ofBits fp32 x
    let q := Fv.ofBits fp32 y
    match b.rop with
    | 0 => fp32.deliver .rne false (addF .rne p q)
    | 1 => fp32.roundF .rne false (minF p q)
    | _ => fp32.roundF .rne false (maxF p q)
/-- An element as it is combined, and the result in its type. -/
def collWiden (b : CollBlock) (x : Nat) : Nat :=
  match b.ty with
  | 1 => (fp32.roundF .rne false (Fv.ofBits bf16 x)).1
  | 2 => (fp32.roundF .rne false (Fv.ofBits fp16 x)).1
  | _ => x
def collNarrow (b : CollBlock) (x : Nat) : Nat × Word :=
  match b.ty with
  | 1 => bf16.roundF .rne false (Fv.ofBits fp32 x)
  | 2 => fp16.roundF .rne false (Fv.ofBits fp32 x)
  | _ => (x, 0)
/-- The elements of bytes. -/
def CollBlock.elems (b : CollBlock) (bs : List Byte) : List Nat := (chunks bs.length b.es bs).map ofBytesLE
/-- The reduced share, with the flags of its arithmetic (R55): the contributions combined in the order their first chunks
arrived, this participant's first. -/
def Coll.reduce (c : Coll) : List Byte × Word :=
  let b := c.blk
  let w (j : Nat) : List Nat := (b.elems (c.got j)).map (collWiden b)
  let sum : List Nat × Word := match c.order with
    | [] => ([], 0)
    | j :: r => r.foldl (fun (a : List Nat × Word) k =>
        let q := (List.zip a.1 (w k)).map (fun (p : Nat × Nat) => collCombine b p.1 p.2)
        (q.map Prod.fst, a.2 ||| flagsAll (q.map Prod.snd))) (w j, 0)
  let out := sum.1.map (collNarrow b)
  (out.flatMap (fun x => bytesLE b.es x.1), sum.2 ||| flagsAll (out.map Prod.snd))
def Coll.reduced (c : Coll) : List Byte := c.reduce.1
/-- The flags that this participant's part of a reduction raises. -/
def Coll.flags (c : Coll) : Word := if c.blk.op ≤ 1 then c.reduce.2 else 0

/-! Pieces (R200, R314, R330). -/

/-- The number under which a participant's contribution, or its reduced share, is counted. -/
def shareKey (j : Nat) (red : Bool) : Nat := if red then 256 + j else j
/-- The bytes that are due from participant j: its contribution, or its reduced share in an all-reduce. -/
def Coll.dueOf (c : Coll) (j : Nat) (red : Bool) : Nat := if red then (if c.blk.op = 0 then c.blk.shareLen j else 0) else c.due j
/-- What this participant owes participant j: the offset of the next byte in what it sends, and the bytes left. -/
def Coll.owed (c : Coll) (j : Nat) (red : Bool) : Nat × Nat :=
  let o := Table.getD c.sent (shareKey j red) 0
  let n := if red then (if c.blk.op = 0 ∧ j ≠ c.index then c.blk.shareLen c.index else 0) else (c.blk.pieceOf c.index j).2
  (o, n - o)
/-- Nothing is left to send. -/
def Coll.spent (c : Coll) : Bool := (List.range c.group.length).all (fun j => decide ((c.owed j false).2 = 0 ∧ (c.owed j true).2 = 0))
/-- Every participant of this device has compared every header: data may move (R200). -/
def State.allReady (s : State) (c : Coll) : Bool :=
  c.ready && (List.range c.group.length).all (fun j =>
    match (c.localSite s j).bind (fun p => s.collAt p c.blk.tag) with | some d => d.ready | none => true)
/-- A piece leaves as packets from the site's endpoint, or the one in whose place it is lost, for the receiver's (R314, R330, R333);
the peer table must name the receiver (R377). -/
def State.sendPiece (s : State) (site : Nat) (c : Coll) (j : Nat) (red : Bool) (bs : List Byte) : State :=
  let w := (c.group[j]?).getD 0
  let e := s.rerouted site
  let key := connKey (bits w.toNat 0 16) (bits w.toNat 16 6) false
  if !s.connRoom e key || (s.transport e (bits w.toNat 0 16) (bits w.toNat 16 6)).isNone then s.failColl site c c.lost
  else
    let x := s.site site
    let p : Piece :=
      { no := x.nextId, tag := c.blk.tag, dest := w, src := memberWord s site, red := red, data := bs, ep := e, since := s.now, heard := false }
    (s.setSite site { x with nextId := x.nextId + 1, pieces := x.pieces ++ [p] }).queuePackets e key (.piece site p.no) bs.length
/-- The next chunk that this participant owes participant j: of its contribution, read from its memory as an engine access, or of
its reduced share, when all contributions to it have arrived. What it contributes to its own share goes nowhere. -/
def State.sendShare (s : State) (site : Nat) (c : Coll) (j : Nat) (red : Bool) : State :=
  let o := c.owed j red
  let k := min collChunkBytes o.2
  let bs : Except CopyErr (List Byte) × State :=
    if red then (.ok ((c.reduced.drop o.1).take k), s)
    else readGlob site c.acc (granuleParts (k + 1) (c.blk.saddr + BitVec.ofNat 64 ((c.blk.pieceOf c.index j).1 + o.1)) k) s
  if k = 0 || (red && !c.full) then s
  else
    match bs with
    | (.error z, s1) => s1.failColl site c z
    | (.ok b, s1) =>
      let c1 := { c with sent := Table.insert c.sent (shareKey j red) (o.1 + k) }
      if j = c.index then s1.putColl site (c1.take j b) else (s1.putColl site c1).sendPiece site c1 j red b
/-- A participant takes bytes of another, as far as they are due and nothing has stopped it. -/
def Coll.receive (c : Coll) (src : Word) (red : Bool) (bs : List Byte) : Coll :=
  match c.group.findIdx? (fun w => w == src) with
  | some j => if c.mismatch || c.failed.isSome then c else c.take (shareKey j red) (bs.take (c.dueOf j red - (c.got (shareKey j red)).length))
  | none => c
/-- Bytes reach a site's collective: the active one, or one of a saved workgroup, whose progress they join (R257). -/
def State.collTakes (s : State) (site : Nat) (tag src : Word) (red : Bool) (bs : List Byte) : State :=
  match s.collAt site tag with
  | some c => s.putColl site (c.receive src red bs)
  | none =>
    { s with saved := s.saved.map (fun v => if siteOfCore v.oldCore = site then
        { v with colls := v.colls.map (fun c => if c.blk.tag = tag then c.receive src red bs else c) } else v) }
/-- The offset of the next byte that a site's collective expects of a participant. -/
def State.collNext (s : State) (site : Nat) (tag src : Word) (red : Bool) : Option Nat :=
  let c := (s.collAt site tag).or ((s.saved.filter (fun v => decide (siteOfCore v.oldCore = site))).findSome? (fun v => v.colls.find? (fun c => c.blk.tag == tag)))
  c.bind (fun c => (c.group.findIdx? (fun w => w == src)).map (fun j => (c.got (shareKey j red)).length))
/-- The participant, as GROUP names it, at the far end of a connection. -/
def collPeer (key : Nat) : Word := BitVec.ofNat 32 (connSite key * 65536 + connDev key)
/-- The first piece under way from a site to a participant. -/
def State.pieceTo (s : State) (site : Nat) (tag w : Word) (red : Bool) : Option Piece :=
  (s.site site).pieces.find? (fun p => p.tag == tag && p.dest == w && p.red == red)
/-- A piece has arrived, all its packets acknowledged (R335): its bytes are the receiver's, when it is a site of this device. -/
def State.landPiece (s : State) (site : Nat) (p : Piece) : State :=
  let x := s.site site
  let s1 := s.setSite site { x with pieces := x.pieces.filter (fun q => q.no != p.no) }
  match s1.localOf p.dest with
  | some peer => s1.collTakes peer p.tag p.src p.red p.data
  | none => s1
/-- COLL_CHUNK (R200, R314): the participant at a site sends the next chunk that it owes participant n, of its reduced share with
`ok`; or (`p` = 1) the first such piece under way to the participant that GROUP names n arrives, all its packets acknowledged. What participants of other devices send
arrives with their packets (PACKET_RECEIVE). -/
def execCollChunk (s : State) : Host.Outcome State Fault Refusal :=
  let site := s.arg.site
  let tag : Word := s.arg.value.truncate 32
  let j := s.arg.n
  .next (if s.arg.p = 1 then
      match s.pieceTo site tag (BitVec.ofNat 32 j) s.arg.ok with
      | some p => if s.carries p.ep (.piece site p.no) then s else s.landPiece site p
      | none => s
    else
      match s.collAt site tag with
      | some c => if !s.allReady c || c.failed.isSome || decide (j ≥ c.group.length) then s else s.sendShare site c j s.arg.ok
      | none => s)

/-- What DADDR receives. -/
def Coll.result (c : Coll) : List Byte :=
  let b := c.blk
  let all := List.range c.group.length
  match b.op with
  | 0 => all.flatMap (fun j => if j = c.index then c.reduced else c.got (256 + j))
  | 1 => c.reduced
  | 3 => c.got b.root
  | _ => all.flatMap (fun j => c.got j)
/-- Everything that the result needs has arrived. -/
def Coll.whole (c : Coll) : Bool :=
  c.full && (c.blk.op != 0 || (List.range c.group.length).all (fun j => j == c.index || decide ((c.got (256 + j)).length ≥ c.blk.shareLen j)))
/-- The order bytes of the completion record. -/
def Coll.orderBytes (c : Coll) : List Byte :=
  let b := c.blk
  let l := if b.op = 3 then b.root :: (List.range b.n).filter (fun j => decide (j ≠ b.root))
    else c.order ++ (List.range b.n).filter (fun j => !c.order.contains j)
  l.map (BitVec.ofNat 8)
/-- A participant leaves before its collective is complete: those of this device that have not met it will, and those to which it
owes data hear that it has stopped (R200, R314; DESIGN CHOICE, log 87). Its pieces under way, those for it and the headers left for
it are of no more use. -/
def State.leaveColl (s : State) (site : Nat) (c : Coll) : State :=
  let me := memberWord s site
  let told := (List.range c.group.length).foldl (fun t j =>
    match c.localSite t j with
    | none => t
    | some peer =>
      if peer = site ∨ (c.headers.contains j ∧ (c.failed.isNone ∨ ((c.owed j false).2 = 0 ∧ (c.owed j true).2 = 0))) then t
      else
        match t.collAt peer c.blk.tag with
        | some d => if d.failed.isSome then t else t.meet peer d (d.placeOf me) c.voice
        | none => t.setSite peer { t.site peer with heads := (t.site peer).heads ++ [(c.blk.tag, me, c.voice)] }) s
  let x := told.site site
  let mine := x.pieces.filter (fun p => p.tag == c.blk.tag)
  let quiet := mine.foldl (fun t p => t.unqueue p.ep (.piece site p.no)) told
  let y := quiet.site site
  let cut := quiet.setSite site { y with pieces := y.pieces.filter (fun p => p.tag != c.blk.tag), heads := y.heads.filter (fun h => h.1 != c.blk.tag) }
  { cut with sites := Table.mapVal (fun _ z => { z with pieces := z.pieces.filter (fun p => !(p.tag == c.blk.tag && p.dest == me)) }) cut.sites }
/-- The completion record (R200). -/
def Coll.record (c : Coll) (status : Nat) : List Byte := bytesLE 4 (status + c.index * 256) ++ bytesLE 4 0 ++ c.orderBytes
def State.writeRecord (s : State) (site : Nat) (c : Coll) (bs : List Byte) : Option CopyErr × State :=
  writeGlob site c.acc (granuleParts (bs.length + 1) c.blk.record bs.length) bs s
/-- End a collective with a status: the record is written, the flag lowered (R200). An error in writing the record is an error of
the collective, with its own error record, and STATUS says so where it can be written (R240, R314). -/
def State.endColl (s : State) (site : Nat) (c : Coll) (status : Nat) : State :=
  let s0 := if status = 0 then s else s.leaveColl site c
  let s1 := match s0.writeRecord site c (c.record status) with
    | (some z, u) => ((u.failColl site c z).writeRecord site c ((c.record 1).take 8)).2
    | (none, u) => u
  let x := s1.site site
  (s1.setSite site { x with colls := x.colls.filter (fun d => decide (d.blk.tag ≠ c.blk.tag)) }).completeFlight { slot := c.slot, k := c.k } c.flight
/-- A collective cannot go on (R333, R335, R392): a piece none of whose packets has been acknowledged within the timeout of its
endpoint, or something left for the site's own port when it is lost and REROUTE is clear. -/
def State.collLost (s : State) (site : Nat) (c : Coll) : Bool :=
  let mine := (s.site site).pieces.filter (fun p => p.tag == c.blk.tag)
  mine.any (fun p => !p.heard && decide (s.now ≥ p.since + s.endpointTimeout p.ep)) ||
    (!epREROUTE s && s.portLost site && (!c.spent || mine.any (fun p => p.ep == site)))
/-- COLL_COMPLETE (R200): everything has been sent and has arrived, and the result and the record are written; a mismatch or an
error writes no result. -/
def execCollComplete (s : State) : Host.Outcome State Fault Refusal :=
  let site := s.arg.site
  let tag : Word := s.arg.value.truncate 32
  .next (match s.collAt site tag with
    | none => s
    | some c =>
      if c.mismatch then s.endColl site c 2
      else if c.failed.isSome then s.endColl site c 1
      else if s.collLost site c then (s.failColl site c c.lost).endColl site { c with failed := some c.lost } 1
      else if !c.ready || !c.whole || !c.spent then s
      else
        let bs := c.result
        match writeGlob site c.acc (granuleParts (bs.length + 1) c.blk.daddr bs.length) bs (s.orStatus site c.ctx c.flags) with
        | (some z, s1) => (s1.failColl site c z).endColl site { c with failed := some z } 1
        | (none, s1) => s1.endColl site c 0)

end Sys2Proof.Machine
end

