-- ==== Sys2Proof/Machine/Governor.lean ====
section
/-! DEFINITION. Open steps and the governor (R210, R211, R353-R356): opening, closing, the sample and what it writes. -/

namespace Sys2Proof.Machine

/-- The open step of a coach: the site that owns it and the step. -/
def State.findStep (s : State) (r : CoachRef) : Option (Nat × OpenStep) :=
  s.sites.findSome? (fun x => (x.2.steps.find? (fun st => st.slot == r.slot && st.k == r.k)).map (fun st => (x.1, st)))
/-- Replace the open step of a coach at its owner; `none` ends it. -/
def State.putStep (s : State) (owner : Nat) (r : CoachRef) (st : Option OpenStep) : State :=
  let x := s.site owner
  s.setSite owner { x with steps := x.steps.filterMap (fun o => if o.slot == r.slot && o.k == r.k then st else some o) }
/-- The sites whose islands serve a step (R353). -/
def OpenStep.siteList (st : OpenStep) (owner : Nat) : List Nat :=
  if st.sites = 0 then [owner] else (List.range 64).filter (fun n => st.sites.getLsbD n)
/-- The energy meters of a step's islands, in µJ (R353); the meters are free values. -/
def State.meters (s : State) (sites : List Nat) : DWord :=
  sites.foldl (fun a n => (List.range 3).foldl (fun b i => b + Config.energy s.tick (3 * n + i)) a) 0

/-- Writes of the governor into a step record (R404): all of them, or none and one report. Reads of the record return what was
written (R211): the coach's core drops its own copy. -/
def State.stepWrites (s : State) (owner : Nat) (st : OpenStep) (ws : List (Nat × List Byte)) : State :=
  match s.devAddr owner st.ctx st.va 64 Need.write with
  | (.error _, s1) => s1.report owner st.ctx cDEVWRITE_FAULT 0 st.va
  | (.ok x, s1) => ws.foldl (fun t w => t.homeWrite (x.pa + w.1) w.2) (s1.ccPurge (coreOfSlot st.slot) x.pa 64)
/-- The word at 0x20: POST, RISK and STATE (R210). -/
def OpenStep.word (st : OpenStep) (state : Nat) : Nat := (if st.post then 8 else 0) + (if st.risk then 4 else 0) + state

/-- How a step closes (R211): by STEPC or the next STEPO, as its coach retires, or at a kill. -/
inductive StepEnd where
  | closed
  | retired
  | killed
  deriving DecidableEq, Repr
/-- Close a step (R211): STATE is MET or MISSED by ENDED, or MISSED at a kill; STEPREC := 0. Its islands take their targets (R355), from
the next sample when it closes with its coach. -/
def State.stepClose (s : State) (r : CoachRef) (how : StepEnd) : State :=
  match s.findStep r with
  | none => s
  | some (owner, st) =>
    let ended := s.time owner
    let state := if how ≠ .killed ∧ ended.toNat ≤ st.deadline.toNat then 2 else 3
    let en := s.meters (st.siteList owner) - st.energy0
    let s1 := s.stepWrites owner st
      [(0x10, bytesLE 8 st.progress.toNat), (0x20, bytesLE 4 (st.word state)), (0x24, bytesLE 4 st.riskCnt.toNat),
       (0x30, bytesLE 8 ended.toNat), (0x38, bytesLE 8 en.toNat)]
    let s2 := (s1.putStep owner r none).modCoach r (fun c => { c with stepRec := 0 })
    if how = .closed then s2.sendTargets (st.siteList owner) else s2.setSite owner { s2.site owner with stale := true }

/-- The energy weight of a point (R348), in thousandths. -/
def pointE (p : Nat) : Nat := [750, 742, 739, 748, 760, 784, 811, 849, 890, 944, 1000, 1059, 1132, 1220, 1326].getD p 0
/-- The point of least E of a list. -/
def leastE (ps : List Nat) : Nat :=
  match ps with
  | [] => 0
  | p :: r => r.foldl (fun b q => if pointE q < pointE b then q else b) p
/-- The highest point a step's islands allow (R354). -/
def State.stepHi (s : State) (owner : Nat) (st : OpenStep) : Nat :=
  (st.siteList owner).foldl (fun h n => min h (min (islMAXPT (s.win n offISLPT)) (islCAP (s.win n offISLPT)))) 14
/-- Sample(s, T) (R354): the point chosen, and whether slack is exhausted. -/
def State.sampleStep (s : State) (owner : Nat) (st : OpenStep) : Nat × Bool :=
  let t : Int := (s.time owner).toNat
  let d : Int := (st.deadline.toNat : Int) - 2000
  let rem := st.work.toNat - st.progress.toNat
  let hi := s.stepHi owner st
  let pts := List.range (hi + 1)
  if rem = 0 then (leastE pts, false)
  else if st.progress = 0 then (hi, decide (t ≥ d))
  else
    let cyc := s.clk owner - st.openClk
    let p := st.progress.toNat
    -- fin(p) = T + rem * cyc / (PROGRESS * f(p)), with f(p) = (10 + p) / 10 cycles per ns
    let ok := pts.filter (fun q => decide (t * (p * (10 + q) : Nat) + (rem * cyc * 10 : Nat) ≤ d * (p * (10 + q) : Nat)))
    if ok.isEmpty then (hi, true) else (leastE ok, false)

/-- The number under which the open steps of a saved workgroup are kept while it has no slot. -/
def awaySlot (gid index : Nat) : Nat := 65536 + gid * 2 ^ 32 + index
/-- Hold DEADLINE_RISK in the record of a saved coach (R251, R261): ASYNC[8]. -/
def State.riskAway (s : State) (v : SavedWg) (k : Nat) : State :=
  let ctx := match s.grid v.gid with | some g => g.ctx | none => 0
  match s.devAddr (siteOfCore v.oldCore) ctx (v.va + BitVec.ofNat 64 (v.recs.getD k 0 + 1)) 1 .both with
  | (.error _, s1) => s1
  | (.ok x, s1) => s1.homeWrite x.pa [BitVec.ofNat 8 (ofBytesLE (s1.homeRead x.pa 1)) ||| 1]
/-- Raise DEADLINE_RISK on a coach (R211, R251): held at most once, discarded for a retired coach, kept in the record of a
saved one. -/
def State.raiseRisk (s : State) (r : CoachRef) : State :=
  match s.saved.find? (fun v => awaySlot v.gid v.index == r.slot) with
  | some v => s.riskAway v r.k
  | none => s.modCoach r (fun c => if c.state = .retired then c else { c with deadlineRisk := true })

/-- One sample of an open step (R354-R356). At an opening past its deadline (`late`) slack is exhausted, whatever is left. -/
def State.governorSample (s : State) (r : CoachRef) (late : Bool) : State :=
  match s.findStep r with
  | none => s
  | some (owner, st) =>
    let p := s.sampleStep owner st
    let x := (p.1, late || p.2)
    let st1 := { st with choose := some x.1, sampled := some (s.time owner), risk := st.risk || x.2, riskCnt := if x.2 then st.riskCnt + 1 else st.riskCnt }
    let s1 := s.putStep owner r (some st1)
    let s2 :=
      if x.2 && !st.risk then
        let en := s1.meters (st.siteList owner) - st.energy0
        let w := s1.stepWrites owner st
          [(0x10, bytesLE 8 st1.progress.toNat), (0x20, bytesLE 4 (st1.word 1)), (0x24, bytesLE 4 st1.riskCnt.toNat),
           (0x38, bytesLE 8 en.toNat)]
        if st.post then w else w.raiseRisk r
      else s1
    s2.sendTargets (st.siteList owner)

/-- Open a step on a record that has been translated (R211). -/
def State.stepOpen (s : State) (r : CoachRef) (ctx : Nat) (va : DWord) (pa : Nat) : State :=
  let owner := siteOfSlot r.slot
  let s0 := (s.stepClose r .closed).ccPurge (coreOfSlot r.slot) pa 64
  let b := s0.homeRead pa 64
  let now := s0.time owner
  let st : OpenStep :=
    { slot := r.slot, k := r.k, ctx := ctx, va := va, deadline := dword64 b 0, work := dword64 b 8, sites := dword64 b 0x18,
      post := bitN (fieldLE b 0x20 4) 3, progress := 0, risk := false, riskCnt := 0, opened := now, openClk := s0.clk owner,
      energy0 := 0, choose := none, sampled := none }
  let st1 := { st with energy0 := s0.meters (st.siteList owner) }
  let s1 := [(0x10, bytesLE 8 0), (0x20, bytesLE 4 (fieldLE b 0x20 4 / 8 * 8 + 1)), (0x24, bytesLE 4 0), (0x28, bytesLE 8 now.toNat),
    (0x38, bytesLE 8 0)].foldl (fun t w => t.homeWrite (pa + w.1) w.2) s0
  let s2 := (s1.setSite owner { s1.site owner with steps := (s1.site owner).steps ++ [st1] }).modCoach r (fun c => { c with stepRec := va })
  if st1.deadline.toNat ≤ now.toNat then s2.governorSample r true else s2

end Sys2Proof.Machine
end

