-- ==== Sys2Proof/Machine/Reconv.lean ====
section
/-! DEFINITION. Fetching instruction words (R90 group 1) and reconvergence (R132): the stack actions of ELSE, ENDIF and
ENDLOOP (R129, R130) on the divergence stack, whose top is the head of the list. -/

namespace Sys2Proof.Machine

/-- Fetch an instruction word (R90 group 1) through the L2 (R269): execute permission, and no uncorrectable error where it lies. -/
def State.fetchWord (s : State) (r : CoachRef) (ctx : Nat) (va : DWord) : Except Cause Word × State :=
  match s.translate (some (coreOfSlot r.slot)) (siteOfSlot r.slot) ctx va Need.exec with
  | (.error c, s1) => (.error c, s1)
  | (.ok x, s1) =>
    let s2 := s1.homeTouch x.pa 4
    if s1.poison.contains (x.pa / 16) then (.error cECC_UNCORRECTABLE, s2) else (.ok (wordOfBytes (s1.homeRead x.pa 4)), s2)

/-- A fault at the fetch of a word (R90 group 1): TPC is the word, TMASK 0 (DEDUCED, log 21: R247 names TMASK for groups 3 to 8
alone), and no entry is made of it. -/
def State.fetchTrap (s : State) (r : CoachRef) (cause : Cause) (va : DWord) (clause : Option Clause) : State :=
  s.takeTrap r cause va 0 [] va clause
/-- The clause of which a word could not be fetched before any word of it issued: it starts anew from its header at `hdr` (R78). -/
def Clause.anew (cl : Clause) (hdr : DWord) : Clause := { cl with fresh := if cl.next = 0 then some hdr else none }

/-- A target that may be jumped to (R70): word-aligned and canonical. -/
def targetOk (a : DWord) : Bool := decide (a.toNat % 4 = 0) && canonical a

/-- ELSE (R129), with the header that follows its clause and its target. Threads that have exited stay inactive (R28). -/
def Coach.actElse (c : Coach) (next target : DWord) : Except Cause Coach :=
  match c.div with
  | { mask := m, kind := .ifK, resume := _ } :: r =>
    if targetOk target then
      .ok { c with exec := m &&& ~~~c.exited, div := { mask := c.exec, kind := .elseK, resume := target } :: r, pc := next, clause := none }
    else .error cBAD_TARGET
  | _ => .error cILLEGAL_CONVERGENCE
/-- ENDIF (R129). -/
def Coach.actEndif (c : Coach) (next : DWord) : Except Cause Coach :=
  match c.div with
  | e :: r =>
    match e.kind with
    | .ifK | .elseK => .ok { c with exec := (c.exec ||| e.mask) &&& ~~~c.exited, div := r, pc := next, clause := none }
    | _ => .error cILLEGAL_CONVERGENCE
  | [] => .error cILLEGAL_CONVERGENCE
/-- ENDLOOP (R130). -/
def Coach.actEndloop (c : Coach) (next start : DWord) : Except Cause Coach :=
  match c.div with
  | lc :: lx :: r =>
    if lc.kind == .loopK && lx.kind == .loopK then
      if !targetOk start then .error cBAD_TARGET
      else
        let ex := (c.exec ||| lc.mask) &&& ~~~c.exited
        if ex ≠ 0 then .ok { c with exec := ex, div := { lc with mask := 0 } :: lx :: r, pc := start, clause := none }
        else .ok { c with exec := lx.mask &&& ~~~c.exited, div := r, pc := next, clause := none }
    else .error cILLEGAL_CONVERGENCE
  | _ => .error cILLEGAL_CONVERGENCE

/-- The stack action that the last word of the clause at an entry's resume address may have (R132). -/
def Coach.actWord (c : Coach) (kind : DivKind) (w : Word) (next : DWord) : Except Cause Coach :=
  let target (off : BitVec 22) : DWord := next + off.signExtend 64 * 4
  match parse w, kind with
  | some (.elseI f), .ifK => c.actElse next (target f.off)
  | some (.endifI _), .ifK => c.actEndif next
  | some (.endifI _), .elseK => c.actEndif next
  | some (.endloopI f), .loopK => c.actEndloop next (target f.off)
  | _, _ => .error cILLEGAL_CONVERGENCE

/-- What reconvergence comes to. -/
inductive Reconv where
  /-- Threads run again, or the coach has retired. -/
  | done
  /-- No entry can bring back threads: ILLEGAL_CONVERGENCE of the instruction that emptied EXEC. -/
  | stuck
  /-- A cause at the clause of a resume address, with its TADDR: the word whose fetch has faulted, else 0 (R30, R247). -/
  | trap (cause : Cause) (pc addr : DWord)
  deriving DecidableEq, Repr

/-- Mark a coach as reconverging at an address; a handler's own reconvergence leaves the interrupted coach's mark. -/
def Coach.setReconv (c : Coach) (b : Bool) : Coach := if c.inHandler then c else { c with reconv := b }

/-- Reconverge (R132): entries are taken until some thread runs. -/
def State.reconverge (fuel : Nat) (s : State) (r : CoachRef) : Reconv × State :=
  match fuel with
  | 0 => (.done, s)
  | n + 1 =>
    match s.env r with
    | none => (.done, s)
    | some e =>
      if e.c.exec ≠ 0 ∨ e.c.state = .retired then (.done, s.modCoach r (fun c => c.setReconv false))
      else if e.c.div.all (fun d => d.kind == .callK) then (.stuck, s.modCoach r (fun c => c.setReconv false))
      else
        match e.c.div with
        | [] => (.stuck, s)
        | d :: rest =>
          if d.kind == .callK then State.reconverge n (s.setCoach r { e.c with div := rest }) r
          else
            let s0 := s.setCoach r ({ e.c with pc := d.resume, clause := none }.setReconv true)
            match s0.fetchWord r e.ctx d.resume with
            | (.error c, s1) => (.trap c d.resume d.resume, s1)
            | (.ok h, s1) =>
              if hdrCNT h = 0 then (.trap cILLEGAL_CONVERGENCE d.resume 0, s1)
              else
                let last := d.resume + BitVec.ofNat 64 (4 * hdrCNT h)
                match s1.fetchWord r e.ctx last with
                | (.error c, s2) => (.trap c d.resume last, s2)
                | (.ok w, s2) =>
                  match s2.coach r with
                  | none => (.done, s2)
                  | some c =>
                    match c.actWord d.kind w (d.resume + BitVec.ofNat 64 (4 * (hdrCNT h + 1))) with
                    | .error cause => (.trap cause d.resume 0, s2)
                    | .ok c' => State.reconverge n (s2.setCoach r c') r

/-- Enough entries for the deepest stack. -/
def reconvFuel : Nat := 100

/-- A coach that reconverges in its turn (R132: TRET with TPC unchanged repeats the reconvergence). -/
def State.reconvergeOf (s : State) (r : CoachRef) : State :=
  match s.reconverge reconvFuel r with
  | (.done, t) => t
  | (.stuck, t) => (match t.coach r with | some c => t.takeTrap r cILLEGAL_CONVERGENCE 0 0 [] c.pc none | none => t)
  | (.trap c pc addr, t) => t.takeTrap r c addr 0 [] pc none

end Sys2Proof.Machine
end

