-- ==== Sys2Proof/Machine/Control.lean ====
section
/-! DEFINITION. Row 0xC: branches, calls, structured control and EXIT (R125-R132). -/

namespace Sys2Proof.Machine

/-- The header that follows the clause of a control instruction, which is its last word (R70, R71). -/
def Env.nextHdr (e : Env) : DWord := (match e.replay with | some en => en.pc | none => e.c.pc) + 4
/-- The target of a word offset (R70). -/
def Env.target {n : Nat} (e : Env) (off : BitVec n) : DWord := e.nextHdr + off.signExtend 64 * 4

/-- Issue the instruction and continue at a clause header. The clause state, whose words have all issued, stays with the coach at
the header that follows the clause (R244). -/
def jumpTo (e : Env) (f : Coach → Coach) (pc : DWord) (s : State) : State :=
  s.modCoach e.ref (fun c => let d := (f c).advance e; { d with pc := pc, clause := if pc = e.nextHdr then d.clause else none })
/-- A jump whose target is checked (R70): BAD_TARGET has no effect. -/
def branchTo (e : Env) (i : Instr) (f : Coach → Coach) (target pc : DWord) (s : State) : State :=
  if targetOk target then jumpTo e f pc s else trapAll e i cBAD_TARGET 0 s

/-- A control instruction that has emptied EXEC reconverges (R132). A trap for want of an entry is the instruction's
own, its effect done, at its own resume point; one at the clause of a resume address is taken there. -/
def settle (e : Env) (i : Instr) (s : State) : State :=
  match s.coach e.ref with
  | none => s
  | some c =>
    if c.exec ≠ 0 then s
    else
      match s.reconverge reconvFuel e.ref with
      | (.done, t) => t
      | (.stuck, t) =>
        match t.coach e.ref with
        | none => t
        | some d =>
          t.takeTrap e.ref cILLEGAL_CONVERGENCE 0 0 (capture e i none 1 0 0 cILLEGAL_CONVERGENCE Wait.none :: d.rq) e.nextHdr (e.c.advance e).clause
      | (.trap cause pc addr, t) => t.takeTrap e.ref cause addr 0 [] pc none

/-- A stack action: its cause, or the coach it leaves. -/
def stackAction (e : Env) (i : Instr) (act : Coach → Except Cause Coach) (s : State) : State :=
  match act e.c with
  | .error c => trapAll e i c 0 s
  | .ok c' => settle e i (jumpTo e (fun c => { c with exec := c'.exec, div := c'.div }) c'.pc s)

def execBra (f : FJ) (s : State) : Host.Outcome State Fault Refusal :=
  issue (.bra f) s (fun e s => branchTo e (.bra f) id (e.target f.off) (e.target f.off) s)

/-- The conditions of BRS (R85). -/
def brsHolds (cond : Nat) (x : Word) : Bool :=
  match cond with
  | 0 => x == 0
  | 1 => x != 0
  | 2 => x.slt 0
  | 3 => !x.slt 0
  | 4 => (0 : Word).slt x
  | _ => !(0 : Word).slt x
def execBrs (f : FJC) (s : State) : Host.Outcome State Fault Refusal :=
  issue (.brs f) s (fun e s =>
    if brsHolds f.cond.toNat (e.c.readS e.tick f.reg.toNat) then branchTo e (.brs f) id (e.target f.off) (e.target f.off) s
    else finish e s)

/-- The uniform tests of BRP over Active(c) (R85). -/
def brpHolds (cond : Nat) (ps : List Bool) : Bool :=
  match cond with
  | 0 => ps.any id
  | 1 => ps.all id
  | 2 => !ps.any id
  | _ => !ps.all id
def execBrp (f : FJC) (s : State) : Host.Outcome State Fault Refusal :=
  issue (.brp f) s (fun e s =>
    if brpHolds f.cond.toNat (e.threads.map (fun t => e.c.readP f.reg.toNat t)) then
      branchTo e (.brp f) id (e.target f.off) (e.target f.off) s
    else finish e s)
def execJmpr (f : FJC) (s : State) : Host.Outcome State Fault Refusal :=
  issue (.jmpr f) s (fun e s =>
    let t : DWord := e.c.readS e.tick (f.reg.toNat + 1) ++ e.c.readS e.tick f.reg.toNat
    branchTo e (.jmpr f) id t t s)

/-- The capacity of the divergence stack (R28, R125). -/
def divMax : Nat := 32
def execCallI (f : FJ) (s : State) : Host.Outcome State Fault Refusal :=
  issue (.callI f) s (fun e s =>
    if !targetOk (e.target f.off) then trapAll e (.callI f) cBAD_TARGET 0 s
    else if e.c.div.length + 1 > divMax then trapAll e (.callI f) cDIV_OVERFLOW 0 s
    else jumpTo e (fun c => { c with div := { mask := 0, kind := .callK, resume := e.nextHdr } :: c.div }) (e.target f.off) s)
def execRetI (f : FJ) (s : State) : Host.Outcome State Fault Refusal :=
  issue (.retI f) s (fun e s =>
    match e.c.div with
    | d :: r =>
      if d.kind == .callK then branchTo e (.retI f) (fun c => { c with div := r }) d.resume d.resume s
      else trapAll e (.retI f) cILLEGAL_CONVERGENCE 0 s
    | [] => trapAll e (.retI f) cILLEGAL_CONVERGENCE 0 s)

/-- The threads of EXEC whose predicate is as COND asks: 0 set, 1 clear (R85). -/
def wantMask (e : Env) (f : FJC) : Mask :=
  e.c.exec &&& maskOf e.wg.threads (fun t => e.c.readP f.reg.toNat t == (f.cond == 0))
def execIfI (f : FJC) (s : State) : Host.Outcome State Fault Refusal :=
  issue (.ifI f) s (fun e s =>
    if !targetOk (e.target f.off) then trapAll e (.ifI f) cBAD_TARGET 0 s
    else if e.c.div.length + 1 > divMax then trapAll e (.ifI f) cDIV_OVERFLOW 0 s
    else
      let t := wantMask e f
      settle e (.ifI f) (jumpTo e (fun c => { c with
        exec := t, div := { mask := c.exec &&& ~~~t, kind := .ifK, resume := e.target f.off } :: c.div }) e.nextHdr s))
def execElseI (f : FJ) (s : State) : Host.Outcome State Fault Refusal :=
  issue (.elseI f) s (fun e s => stackAction e (.elseI f) (fun c => c.actElse e.nextHdr (e.target f.off)) s)
def execEndifI (f : FJ) (s : State) : Host.Outcome State Fault Refusal :=
  issue (.endifI f) s (fun e s => stackAction e (.endifI f) (fun c => c.actEndif e.nextHdr) s)
def execLoopI (f : FJ) (s : State) : Host.Outcome State Fault Refusal :=
  issue (.loopI f) s (fun e s =>
    if !targetOk (e.target f.off) then trapAll e (.loopI f) cBAD_TARGET 0 s
    else if e.c.div.length + 2 > divMax then trapAll e (.loopI f) cDIV_OVERFLOW 0 s
    else
      let d : DivEntry := { mask := 0, kind := .loopK, resume := e.target f.off }
      jumpTo e (fun c => { c with div := d :: d :: c.div }) e.nextHdr s)
def execEndloopI (f : FJ) (s : State) : Host.Outcome State Fault Refusal :=
  issue (.endloopI f) s (fun e s => stackAction e (.endloopI f) (fun c => c.actEndloop e.nextHdr (e.target f.off)) s)

/-- Add threads to the exit entry (`exit`) or the continue entry of the innermost loop (R130). -/
def addToLoop (leaves : Bool) (b : Mask) (d : List DivEntry) : Option (List DivEntry) :=
  match d with
  | [] => none
  | e :: r =>
    match e.kind with
    | .ifK | .elseK => (addToLoop leaves b r).map (fun r' => e :: r')
    | .callK => none
    | .loopK =>
      match r with
      | x :: r' =>
        if x.kind == .loopK then
          some (if leaves then e :: { x with mask := x.mask ||| b } :: r' else { e with mask := e.mask ||| b } :: x :: r')
        else none
      | [] => none
/-- BREAK and CONT (R130). -/
def leaveLoop (leaves : Bool) (i : Instr) (f : FJC) (e : Env) (s : State) : State :=
  let b := wantMask e f
  match addToLoop leaves b e.c.div with
  | none => trapAll e i cILLEGAL_CONVERGENCE 0 s
  | some d => settle e i (jumpTo e (fun c => { c with exec := c.exec &&& ~~~b, div := d }) e.nextHdr s)
def execBreakI (f : FJC) (s : State) : Host.Outcome State Fault Refusal :=
  issue (.breakI f) s (leaveLoop true (.breakI f) f)
def execContI (f : FJC) (s : State) : Host.Outcome State Fault Refusal :=
  issue (.contI f) s (leaveLoop false (.contI f) f)

/-- A coach retires (R131): its stack and what it still had to execute are discarded, and so is every held cause (R251). -/
def Coach.retire (c : Coach) : Coach :=
  let c1 := c.rq.foldl (fun d en => d.lowerFlag en.flag) c
  { c1 with
    state := .retired, div := [], exec := 0, frame := none, rq := [], clause := none, deadlineRisk := false, preemptNotice := false,
    rfails := [], heldCauses := [] }

/-- EXIT (R131): the threads of Active(c) leave for good; a coach all of whose threads have exited retires, closing its
open step (R211). -/
def execExitI (f : FJ) (s : State) : Host.Outcome State Fault Refusal :=
  issue (.exitI f) s (fun e s =>
    let gone := e.c.exited ||| e.active
    let s1 := jumpTo e (fun c => { c with exec := c.exec &&& ~~~e.active, exited := gone }) e.nextHdr s
    if gone = maskAll e.wg.threads then
      (s1.stepClose e.ref .retired).modCoach e.ref Coach.retire
    else settle e (.exitI f) s1)

end Sys2Proof.Machine
end

