-- ==== Sys2Proof/Machine/Integer.lean ====
section
/-! DEFINITION. Rows 0x0 and 0x1: integer arithmetic (R101), logic, shifts, fields, compare, select and permute
(R102-R105). -/

namespace Sys2Proof

/-- SAT and UNS of an integer instruction (R83). -/
def RRR.sat (f : RRR) : Bool := f.m.getLsbD 0
def RRR.uns (f : RRR) : Bool := f.m.getLsbD 2
/-- n (R101, R102). -/
def RRR.nbits (f : RRR) : Nat := 32 * f.width

end Sys2Proof

namespace Sys2Proof.Machine

/-- An n-bit operand as an integer: unsigned with UNS, else signed (R101). -/
def intOf (uns : Bool) (n x : Nat) : Int := if uns then (x : Int) else if x < 2 ^ (n - 1) then (x : Int) else (x : Int) - 2 ^ n
/-- IntOut (R101): clamped with SAT, else modulo 2^n. -/
def intOut (sat uns : Bool) (n : Nat) (x : Int) : Nat :=
  let y := if sat then (if uns then min (max x 0) (2 ^ n - 1) else min (max x (-(2 ^ (n - 1)))) (2 ^ (n - 1) - 1)) else x
  (y % 2 ^ n).toNat

/-- D := IntOut(g(A, B)) (R101). -/
def intDAB (f : RRR) (g : Int → Int → Int) : Env → State → State :=
  opDAB f f.width (fun a b => clean (intOut f.sat f.uns f.nbits (g (intOf f.uns f.nbits a) (intOf f.uns f.nbits b))))
/-- D := IntOut(g(A)). -/
def intDA (f : RRR) (g : Int → Int) : Env → State → State :=
  opDA f f.width (fun a => clean (intOut f.sat f.uns f.nbits (g (intOf f.uns f.nbits a))))

def execNop (f : RRR) (s : State) : Host.Outcome State Fault Refusal := issue (.nop f) s finish
def execIadd (f : RRR) (s : State) : Host.Outcome State Fault Refusal := issue (.iadd f) s (intDAB f (fun a b => a + b))
def execIsub (f : RRR) (s : State) : Host.Outcome State Fault Refusal := issue (.isub f) s (intDAB f (fun a b => a - b))
def execImul (f : RRR) (s : State) : Host.Outcome State Fault Refusal := issue (.imul f) s (intDAB f (fun a b => a * b))
/-- The high half of the product; M[0] is 0, so IntOut wraps. -/
def execImulh (f : RRR) (s : State) : Host.Outcome State Fault Refusal :=
  issue (.imulh f) s (intDAB f (fun a b => a * b / 2 ^ f.nbits))
def execImad (f : RRR) (s : State) : Host.Outcome State Fault Refusal :=
  issue (.imad f) s (opDABD f f.width (fun a b d =>
    clean (intOut f.sat f.uns f.nbits (intOf f.uns f.nbits a * intOf f.uns f.nbits b + intOf f.uns f.nbits d))))
def execImin (f : RRR) (s : State) : Host.Outcome State Fault Refusal := issue (.imin f) s (intDAB f (fun a b => min a b))
def execImax (f : RRR) (s : State) : Host.Outcome State Fault Refusal := issue (.imax f) s (intDAB f (fun a b => max a b))
def execIabs (f : RRR) (s : State) : Host.Outcome State Fault Refusal := issue (.iabs f) s (intDA f (fun a => if a < 0 then -a else a))
def execIneg (f : RRR) (s : State) : Host.Outcome State Fault Refusal := issue (.ineg f) s (intDA f (fun a => -a))

/-- The number of 1 bits among the low n bits. -/
def popCount (n x : Nat) : Nat := (List.range n).foldl (fun a i => if bitN x i then a + 1 else a) 0
/-- Leading 0 bits of an n-bit value (R101). -/
def leadZeros (n x : Nat) : Nat := if x = 0 then n else n - 1 - Nat.log2 x
/-- Bit i moved to bit n - 1 - i. -/
def reverseBits (n x : Nat) : Nat := (List.range n).foldl (fun a i => if bitN x i then a + 2 ^ (n - 1 - i) else a) 0

def execPopc (f : RRR) (s : State) : Host.Outcome State Fault Refusal :=
  issue (.popc f) s (opDA f f.width (fun a => clean (popCount f.nbits a)))
def execClz (f : RRR) (s : State) : Host.Outcome State Fault Refusal :=
  issue (.clz f) s (opDA f f.width (fun a => clean (leadZeros f.nbits a)))
def execBrev (f : RRR) (s : State) : Host.Outcome State Fault Refusal :=
  issue (.brev f) s (opDA f f.width (fun a => clean (reverseBits f.nbits a)))

/-- The sum of the byte products of IDOT4 (R101). -/
def dot4 (uns : Bool) (a b : Nat) : Int :=
  (List.range 4).foldl (fun x k => x + intOf uns 8 (bits a (8 * k) 8) * intOf uns 8 (bits b (8 * k) 8)) 0
def execIdot4 (f : RRR) (s : State) : Host.Outcome State Fault Refusal :=
  issue (.idot4 f) s (opDABD f 1 (fun a b d => clean (intOut f.sat f.uns 32 (intOf f.uns 32 d + dot4 f.uns a b))))

def execAndI (f : RRR) (s : State) : Host.Outcome State Fault Refusal :=
  issue (.andI f) s (opDAB f f.width (fun a b => clean (a &&& b)))
def execOrI (f : RRR) (s : State) : Host.Outcome State Fault Refusal :=
  issue (.orI f) s (opDAB f f.width (fun a b => clean (a ||| b)))
def execXorI (f : RRR) (s : State) : Host.Outcome State Fault Refusal :=
  issue (.xorI f) s (opDAB f f.width (fun a b => clean (a ^^^ b)))
def execNotI (f : RRR) (s : State) : Host.Outcome State Fault Refusal :=
  issue (.notI f) s (opDA f f.width (fun a => clean (2 ^ f.nbits - 1 - a)))

/-- Shifts of an n-bit value by a count (R102). -/
def shlN (n a c : Nat) : Nat := if c ≥ n then 0 else a * 2 ^ c % 2 ^ n
def shrN (n a c : Nat) : Nat := if c ≥ n then 0 else a / 2 ^ c
def sarN (n a c : Nat) : Nat := ((intOf false n a / 2 ^ min c n) % 2 ^ n).toNat
def rotlN (n a c : Nat) : Nat := let k := c % n; (a * 2 ^ k + a / 2 ^ (n - k)) % 2 ^ n

def execShl (f : RRR) (s : State) : Host.Outcome State Fault Refusal :=
  issue (.shl f) s (opDAB f f.width (fun a b => clean (shlN f.nbits a (b % 256))))
def execShr (f : RRR) (s : State) : Host.Outcome State Fault Refusal :=
  issue (.shr f) s (opDAB f f.width (fun a b => clean (shrN f.nbits a (b % 256))))
def execSar (f : RRR) (s : State) : Host.Outcome State Fault Refusal :=
  issue (.sar f) s (opDAB f f.width (fun a b => clean (sarN f.nbits a (b % 256))))
def execRotl (f : RRR) (s : State) : Host.Outcome State Fault Refusal :=
  issue (.rotl f) s (opDAB f f.width (fun a b => clean (rotlN f.nbits a (b % 256))))

/-- Position and length of BFX and BFI (R103). -/
def bfPos (b : Nat) : Nat := min (b % 256) 32
def bfLen (b : Nat) : Nat := min (bits b 8 8) (32 - bfPos b)
def bfxN (uns : Bool) (a b : Nat) : Nat :=
  let len := bfLen b
  if len = 0 then 0 else (intOf uns len (bits a (bfPos b) len) % 2 ^ 32).toNat
def bfiN (a b d : Nat) : Nat :=
  let pos := bfPos b
  let len := bfLen b
  d - bits d pos len * 2 ^ pos + a % 2 ^ len * 2 ^ pos
def execBfx (f : RRR) (s : State) : Host.Outcome State Fault Refusal :=
  issue (.bfx f) s (opDAB f 1 (fun a b => clean (bfxN f.uns a b)))
def execBfi (f : RRR) (s : State) : Host.Outcome State Fault Refusal :=
  issue (.bfi f) s (opDABD f 1 (fun a b d => clean (bfiN a b d)))

/-- The predicate number and the condition in the D field of ICMP and FCMP (R104). -/
def cmpPred (f : RRR) : Nat := bits f.d.toNat 0 3
def cmpCond (f : RRR) : Nat := bits f.d.toNat 3 3
/-- The conditions of R104 on an order of two operands. -/
def icmpHolds (cond : Nat) (a b : Int) : Bool :=
  match cond with
  | 0 => decide (a = b)
  | 1 => decide (a ≠ b)
  | 2 => decide (a < b)
  | 3 => decide (a ≤ b)
  | 4 => decide (b < a)
  | _ => decide (b ≤ a)
def fcmpHolds (cond : Nat) (a b : Fv) : Bool :=
  let un := a.isNan || b.isNan
  match cond with
  | 0 => !un && eqF a b
  | 1 => un || !eqF a b
  | 2 => !un && ltE a b
  | 3 => !un && (ltE a b || eqF a b)
  | 4 => !un && ltE b a
  | 5 => !un && (ltE b a || eqF a b)
  | 6 => un
  | _ => !un

def execIcmp (f : RRR) (s : State) : Host.Outcome State Fault Refusal :=
  issue (.icmp f) s (fun e s => setPreds (cmpPred f) (fun t =>
    icmpHolds (cmpCond f) (intOf f.uns f.nbits (e.opA f f.width t)) (intOf f.uns f.nbits (e.opB f f.width f.width t))) e s)
def execFcmp (f : RRR) (s : State) : Host.Outcome State Fault Refusal :=
  issue (.fcmp f) s (fun e s =>
    let n := if f.m.getLsbD 0 then 2 else 1
    let fmt := if f.m.getLsbD 0 then fp64 else fp32
    let rd := Fv.ofBitsFtz fmt (f.m.getLsbD 2)
    setPreds (cmpPred f) (fun t => fcmpHolds (cmpCond f) (rd (e.opA f n t)) (rd (e.opB f n n t))) e s)
def execSel (f : RRR) (s : State) : Host.Outcome State Fault Refusal :=
  issue (.sel f) s (lanewise f.u f.d.toNat 1 (fun e t => clean (if e.c.readP f.m.toNat t then e.opA f 1 t else e.opB f 1 1 t)))
def execMovI (f : RRR) (s : State) : Host.Outcome State Fault Refusal :=
  issue (.movI f) s (opDB f f.width clean)

/-- PRMT (R105). -/
def prmtN (a b d : Nat) : Nat :=
  (List.range 4).foldl (fun x k =>
    let nib := bits d (4 * k) 4
    let y := bits (a + b * 2 ^ 32) (8 * (nib % 8)) 8
    x + (if bitN nib 3 then (if bitN y 7 then 0xFF else 0) else y) * 2 ^ (8 * k)) 0
def execPrmt (f : RRR) (s : State) : Host.Outcome State Fault Refusal :=
  issue (.prmt f) s (opDABD f 1 (fun a b d => clean (prmtN a b d)))

end Sys2Proof.Machine
end

