-- ==== Sys2Proof/Machine/FloatOps.lean ====
section
/-! DEFINITION. Rows 0x2 and 0x3: FP32 arithmetic (R106, R107), packed 16-bit and FP64 arithmetic (R108, R109), but
for FRCP and FRSQ (Transcend.lean). -/

namespace Sys2Proof

/-- The rounding mode of M[1:0] and FTZ of M[2] (R83). -/
def RRR.mode (f : RRR) : Machine.RMode := Machine.RMode.of (f.m.extractLsb' 0 2)
def RRR.ftz (f : RRR) : Bool := f.m.getLsbD 2
/-- FP16 with M[0] = 0, BF16 with M[0] = 1; the mode in M[2:1]. -/
def RRR.half (f : RRR) : Machine.FloatFmt := if f.m.getLsbD 0 then Machine.bf16 else Machine.fp16
def RRR.hmode (f : RRR) : Machine.RMode := Machine.RMode.of (f.m.extractLsb' 1 2)
/-- IMM sign-extended to 32 bits; D is a 32-bit number. -/
def RI.simm (f : RI) : Nat := (f.imm.signExtend 32).toNat

end Sys2Proof

namespace Sys2Proof.Machine

/-- FP32 in, FP32 out (R106). -/
def f32In (f : RRR) (x : Nat) : Fv := Fv.ofBitsFtz fp32 f.ftz x
def f32Out (f : RRR) (r : FRes) : Nat × Word := fp32.deliver f.mode f.ftz r
def f32DAB (f : RRR) (g : Fv → Fv → FRes) : Env → State → State := opDAB f 1 (fun a b => f32Out f (g (f32In f a) (f32In f b)))

def execFadd (f : RRR) (s : State) : Host.Outcome State Fault Refusal := issue (.fadd f) s (f32DAB f (addF f.mode))
def execFsub (f : RRR) (s : State) : Host.Outcome State Fault Refusal := issue (.fsub f) s (f32DAB f (subF f.mode))
def execFmul (f : RRR) (s : State) : Host.Outcome State Fault Refusal := issue (.fmul f) s (f32DAB f mulF)
def execFfma (f : RRR) (s : State) : Host.Outcome State Fault Refusal :=
  issue (.ffma f) s (opDABD f 1 (fun a b d => f32Out f (fmaF f.mode (f32In f a) (f32In f b) (f32In f d))))
/-- A minimum or maximum is one of its operands and raises no flag (R107). -/
def execFmin (f : RRR) (s : State) : Host.Outcome State Fault Refusal :=
  issue (.fmin f) s (opDAB f 1 (fun a b => clean (fp32.roundF .rne false (minF (f32In f a) (f32In f b))).1))
def execFmax (f : RRR) (s : State) : Host.Outcome State Fault Refusal :=
  issue (.fmax f) s (opDAB f 1 (fun a b => clean (fp32.roundF .rne false (maxF (f32In f a) (f32In f b))).1))
def execFabs (f : RRR) (s : State) : Host.Outcome State Fault Refusal :=
  issue (.fabs f) s (opDA f 1 (fun a => clean (if (Fv.ofBits fp32 a).isNan then fp32.nan else a % 2 ^ 31)))
def execFneg (f : RRR) (s : State) : Host.Outcome State Fault Refusal :=
  issue (.fneg f) s (opDA f 1 (fun a => clean (if (Fv.ofBits fp32 a).isNan then fp32.nan else (a + 2 ^ 31) % 2 ^ 32)))
def execFdiv (f : RRR) (s : State) : Host.Outcome State Fault Refusal := issue (.fdiv f) s (f32DAB f (divF fp32))
def execFsqrt (f : RRR) (s : State) : Host.Outcome State Fault Refusal :=
  issue (.fsqrt f) s (opDA f 1 (fun a => f32Out f (sqrtF fp32 (f32In f a))))
/-- The scale is clamped to ±4096, beyond which the rounded result does not change (R107). -/
def execFscl (f : RRR) (s : State) : Host.Outcome State Fault Refusal :=
  issue (.fscl f) s (opDAB f 1 (fun a b => f32Out f (.ok ((f32In f a).scale (max (-4096) (min 4096 (intOf false 32 b)))))))
def execFrnd (f : RRR) (s : State) : Host.Outcome State Fault Refusal :=
  issue (.frnd f) s (opDA f 1 (fun a => f32Out f (.ok (integralF f.mode (f32In f a)))))

/-! Packed 16-bit (R108). -/

/-- Two halves computed independently from the same halves of the operands. -/
def halves (g : Nat → Nat × Word) : Nat × Word :=
  let l := g 0
  let h := g 16
  (l.1 + h.1 * 2 ^ 16, l.2 ||| h.2)
def halfIn (f : RRR) (x pos : Nat) : Fv := Fv.ofBits f.half (bits x pos 16)
def h2DAB (f : RRR) (g : Fv → Fv → FRes) : Env → State → State :=
  opDAB f 1 (fun a b => halves (fun p => f.half.deliver f.hmode false (g (halfIn f a p) (halfIn f b p))))

def execHadd2 (f : RRR) (s : State) : Host.Outcome State Fault Refusal := issue (.hadd2 f) s (h2DAB f (addF f.hmode))
def execHsub2 (f : RRR) (s : State) : Host.Outcome State Fault Refusal := issue (.hsub2 f) s (h2DAB f (subF f.hmode))
def execHmul2 (f : RRR) (s : State) : Host.Outcome State Fault Refusal := issue (.hmul2 f) s (h2DAB f mulF)
def execHfma2 (f : RRR) (s : State) : Host.Outcome State Fault Refusal :=
  issue (.hfma2 f) s (opDABD f 1 (fun a b d =>
    halves (fun p => f.half.deliver f.hmode false (fmaF f.hmode (halfIn f a p) (halfIn f b p) (halfIn f d p)))))
def execHmin2 (f : RRR) (s : State) : Host.Outcome State Fault Refusal :=
  issue (.hmin2 f) s (opDAB f 1 (fun a b => halves (fun p => clean (f.half.roundF .rne false (minF (halfIn f a p) (halfIn f b p))).1)))
def execHmax2 (f : RRR) (s : State) : Host.Outcome State Fault Refusal :=
  issue (.hmax2 f) s (opDAB f 1 (fun a b => halves (fun p => clean (f.half.roundF .rne false (maxF (halfIn f a p) (halfIn f b p))).1)))
/-- One rounding of the exact sum into FP32 (R109). -/
def execHdot2 (f : RRR) (s : State) : Host.Outcome State Fault Refusal :=
  issue (.hdot2 f) s (opDABD f 1 (fun a b d => fp32.deliver f.hmode false
    (dotF f.hmode [(halfIn f a 0, halfIn f b 0), (halfIn f a 16, halfIn f b 16)] [Fv.ofBits fp32 d])))

/-! FP64 (R108). -/

def f64Out (f : RRR) (r : FRes) : Nat × Word := fp64.deliver f.mode false r
def f64DAB (f : RRR) (g : Fv → Fv → FRes) : Env → State → State :=
  opDAB f 2 (fun a b => f64Out f (g (Fv.ofBits fp64 a) (Fv.ofBits fp64 b)))
def execDadd (f : RRR) (s : State) : Host.Outcome State Fault Refusal := issue (.dadd f) s (f64DAB f (addF f.mode))
def execDsub (f : RRR) (s : State) : Host.Outcome State Fault Refusal := issue (.dsub f) s (f64DAB f (subF f.mode))
def execDmul (f : RRR) (s : State) : Host.Outcome State Fault Refusal := issue (.dmul f) s (f64DAB f mulF)
def execDfma (f : RRR) (s : State) : Host.Outcome State Fault Refusal :=
  issue (.dfma f) s (opDABD f 2 (fun a b d => f64Out f (fmaF f.mode (Fv.ofBits fp64 a) (Fv.ofBits fp64 b) (Fv.ofBits fp64 d))))
def execDmin (f : RRR) (s : State) : Host.Outcome State Fault Refusal :=
  issue (.dmin f) s (opDAB f 2 (fun a b => clean (fp64.roundF .rne false (minF (Fv.ofBits fp64 a) (Fv.ofBits fp64 b))).1))
def execDmax (f : RRR) (s : State) : Host.Outcome State Fault Refusal :=
  issue (.dmax f) s (opDAB f 2 (fun a b => clean (fp64.roundF .rne false (maxF (Fv.ofBits fp64 a) (Fv.ofBits fp64 b))).1))
def execDdiv (f : RRR) (s : State) : Host.Outcome State Fault Refusal := issue (.ddiv f) s (f64DAB f (divF fp64))
def execDsqrt (f : RRR) (s : State) : Host.Outcome State Fault Refusal :=
  issue (.dsqrt f) s (opDA f 2 (fun a => f64Out f (sqrtF fp64 (Fv.ofBits fp64 a))))

/-! Rows 0x6 and 0xE: immediates (R84, R123, R124). -/

def execMovi (f : RI) (s : State) : Host.Outcome State Fault Refusal :=
  issue (.movi f) s (lanewise f.u f.d.toNat 1 (fun _ _ => clean f.simm))
def execMovih (f : RI) (s : State) : Host.Outcome State Fault Refusal :=
  issue (.movih f) s (opRI f (fun d => clean (f.imm.toNat * 2 ^ 16 + d % 2 ^ 16)))
def execIaddi (f : RI) (s : State) : Host.Outcome State Fault Refusal :=
  issue (.iaddi f) s (opRI f (fun d => clean ((d + f.simm) % 2 ^ 32)))
def execImuli (f : RI) (s : State) : Host.Outcome State Fault Refusal :=
  issue (.imuli f) s (opRI f (fun d => clean (d * f.simm % 2 ^ 32)))
def execAndi (f : RI) (s : State) : Host.Outcome State Fault Refusal :=
  issue (.andi f) s (opRI f (fun d => clean (d &&& f.imm.toNat)))
def execOri (f : RI) (s : State) : Host.Outcome State Fault Refusal :=
  issue (.ori f) s (opRI f (fun d => clean (d ||| f.imm.toNat)))
def execXori (f : RI) (s : State) : Host.Outcome State Fault Refusal :=
  issue (.xori f) s (opRI f (fun d => clean (d ^^^ f.imm.toNat)))
def execShli (f : RI) (s : State) : Host.Outcome State Fault Refusal :=
  issue (.shli f) s (opRI f (fun d => clean (shlN 32 d (f.imm.toNat % 32))))
def execShri (f : RI) (s : State) : Host.Outcome State Fault Refusal :=
  issue (.shri f) s (opRI f (fun d => clean (shrN 32 d (f.imm.toNat % 32))))
/-- A BF16 immediate widened exactly to FP32 (R84); a NaN widened is the default NaN (R54). -/
def execFmovi (f : RI) (s : State) : Host.Outcome State Fault Refusal :=
  issue (.fmovi f) s (lanewise f.u f.d.toNat 1 (fun _ _ => fp32.roundF .rne false (Fv.ofBits bf16 f.imm.toNat)))
def execFaddi (f : RI) (s : State) : Host.Outcome State Fault Refusal :=
  issue (.faddi f) s (opRI f (fun d => fp32.deliver .rne false (addF .rne (Fv.ofBits fp32 d) (Fv.ofBits bf16 f.imm.toNat))))
def execFmuli (f : RI) (s : State) : Host.Outcome State Fault Refusal :=
  issue (.fmuli f) s (opRI f (fun d => fp32.deliver .rne false (mulF (Fv.ofBits fp32 d) (Fv.ofBits bf16 f.imm.toNat))))
/-- Both halves with a 16-bit immediate of the same format. -/
def halvesImm (fmt : FloatFmt) (f : RI) (g : Fv → Fv → FRes) : Env → State → State :=
  opRI f (fun d => halves (fun p => fmt.deliver .rne false (g (Fv.ofBits fmt (bits d p 16)) (Fv.ofBits fmt f.imm.toNat))))
def execHaddi2h (f : RI) (s : State) : Host.Outcome State Fault Refusal := issue (.haddi2h f) s (halvesImm fp16 f (addF .rne))
def execHaddi2b (f : RI) (s : State) : Host.Outcome State Fault Refusal := issue (.haddi2b f) s (halvesImm bf16 f (addF .rne))
def execHmuli2h (f : RI) (s : State) : Host.Outcome State Fault Refusal := issue (.hmuli2h f) s (halvesImm fp16 f mulF)
def execHmuli2b (f : RI) (s : State) : Host.Outcome State Fault Refusal := issue (.hmuli2b f) s (halvesImm bf16 f mulF)
/-- Four E4M3 bytes with two immediates (R124). -/
def f8Imm (f : RI) (g : Fv → Fv → FRes) : Env → State → State :=
  opRI f (fun d => (List.range 4).foldl (fun (x : Nat × Word) k =>
    let c := Fv.ofBits e4m3 (bits f.imm.toNat (8 * (k % 2)) 8)
    let r := e4m3.deliver .rne false (g (Fv.ofBits e4m3 (bits d (8 * k) 8)) c)
    (x.1 + r.1 * 2 ^ (8 * k), x.2 ||| r.2)) (0, flNone))
def execF8muli (f : RI) (s : State) : Host.Outcome State Fault Refusal := issue (.f8muli f) s (f8Imm f mulF)
def execF8addi (f : RI) (s : State) : Host.Outcome State Fault Refusal := issue (.f8addi f) s (f8Imm f (addF .rne))

end Sys2Proof.Machine
end

