-- ==== Sys2Proof/Machine/Convert.lean ====
section
/-! DEFINITION. Conversions and block-scale instructions of row 0x4 (R56-R58, R110-R112, R114-R117). -/

namespace Sys2Proof.Machine

/-- What a conversion reads or writes (R111). -/
inductive NumKind where
  | flt (f : FloatFmt)
  | i32
  | u32
  | i8
  deriving DecidableEq, Repr

/-- One value of a conversion: where its source lies in A (bit offset, width) and its result in D (bit offset). -/
structure CvtItem where
  srcAt : Nat
  srcW : Nat
  src : NumKind
  dst : NumKind
  dstAt : Nat
  deriving DecidableEq, Repr

/-- The conversion codes of R111. -/
def cvtItems (code : Nat) : List CvtItem :=
  let one (sa sw : Nat) (s d : NumKind) : List CvtItem := [{ srcAt := sa, srcW := sw, src := s, dst := d, dstAt := 0 }]
  let many (n sw dw : Nat) (s d : NumKind) : List CvtItem :=
    (List.range n).map (fun k => { srcAt := sw * k, srcW := sw, src := s, dst := d, dstAt := dw * k })
  match code with
  | 0x00 => one 0 32 (.flt fp32) (.flt bf16)
  | 0x01 => one 0 32 (.flt fp32) (.flt fp16)
  | 0x02 => many 2 32 16 (.flt fp32) (.flt bf16)
  | 0x03 => many 2 32 16 (.flt fp32) (.flt fp16)
  | 0x04 => one 0 16 (.flt bf16) (.flt fp32)
  | 0x05 => one 0 16 (.flt fp16) (.flt fp32)
  | 0x06 => one 16 16 (.flt bf16) (.flt fp32)
  | 0x07 => one 16 16 (.flt fp16) (.flt fp32)
  | 0x08 => one 0 32 (.flt fp32) (.flt fp64)
  | 0x09 => one 0 64 (.flt fp64) (.flt fp32)
  | 0x0A => many 4 32 8 (.flt fp32) (.flt e4m3)
  | 0x0B => many 4 32 8 (.flt fp32) (.flt e5m2)
  | 0x0C | 0x0D | 0x0E | 0x0F => one (8 * (code - 0x0C)) 8 (.flt e4m3) (.flt fp32)
  | 0x10 | 0x11 | 0x12 | 0x13 => one (8 * (code - 0x10)) 8 (.flt e5m2) (.flt fp32)
  | 0x14 => one 0 32 (.flt fp32) .i32
  | 0x15 => one 0 32 (.flt fp32) .u32
  | 0x16 => one 0 32 .i32 (.flt fp32)
  | 0x17 => one 0 32 .u32 (.flt fp32)
  | 0x18 => one 0 64 (.flt fp64) .i32
  | 0x19 => one 0 32 .i32 (.flt fp64)
  | 0x1A => one 0 32 (.flt fp32) .i8
  | 0x1B => many 2 16 16 (.flt bf16) (.flt fp16)
  | 0x1C => many 2 16 16 (.flt fp16) (.flt bf16)
  | _ => []

/-- The source of an item as a value: FTZ acts on an FP32 source only (R53). -/
def CvtItem.read (i : CvtItem) (ftz : Bool) (a : Nat) : Fv :=
  let x := bits a i.srcAt i.srcW
  match i.src with
  | .flt f => Fv.ofBitsFtz f (ftz && f == fp32) x
  | .u32 => Fv.ofInt x
  | _ => Fv.ofInt (intOf false i.srcW x)
/-- The result of an item, in a mode (R56). -/
def CvtItem.write (i : CvtItem) (mode : RMode) (ftz : Bool) (x : Fv) : Nat × Word :=
  match i.dst with
  | .flt f => f.roundF mode (ftz && f == fp32) x
  | .i32 => let r := toIntF mode (-(2 ^ 31)) (2 ^ 31 - 1) x; ((r.1 % 2 ^ 32).toNat, r.2)
  | .u32 => let r := toIntF mode 0 (2 ^ 32 - 1) x; ((r.1 % 2 ^ 32).toNat, r.2)
  | .i8 => let r := toIntF mode (-128) 127 x; ((r.1 % 2 ^ 32).toNat, r.2)
/-- The result of an item, by the dither (R57, R112). -/
def CvtItem.writeSr (i : CvtItem) (thr : Nat) (ftz : Bool) (x : Fv) : Nat × Word :=
  match i.dst with
  | .flt f => f.ditherF thr (ftz && f == fp32) x
  | _ => (0, flNone)
/-- All items of a conversion. -/
def cvtAll (items : List CvtItem) (g : Nat → CvtItem → Nat × Word) : Nat × Word :=
  (List.zip (List.range items.length) items).foldl (fun (x : Nat × Word) i =>
    let r := g i.1 i.2
    (x.1 + r.1 * 2 ^ i.2.dstAt, x.2 ||| r.2)) (0, flNone)

def execCvt (f : RRR) (s : State) : Host.Outcome State Fault Refusal :=
  let code := f.b.toNat
  issue (.cvt f) s (lanewise f.u f.d.toNat (cvtDstRegs code) (fun e t =>
    let a := e.opA f (cvtSrcRegs code) t
    cvtAll (cvtItems code) (fun _ i => i.write f.mode f.ftz (i.read f.ftz a))))
/-- CVTSR (R112): the threshold of result j of thread t is that of element (t·E + j) mod 32; its tile completes at
OPERATION_COMPLETE (R33, R58). -/
def execCvtsr (f : RRR) (s : State) : Host.Outcome State Fault Refusal :=
  let code := f.b.toNat
  let items := cvtItems code
  issue (.cvtsr f) s (fun e s =>
    let rs := (e.units f.u).map (fun t =>
      let a := e.opA f (cvtSrcRegs code) t
      (t, cvtAll items (fun j i => i.writeSr (dither ((t * items.length + j) % 32) e.c.dphase.toNat) f.ftz (i.read f.ftz a))))
    let ws := rs.flatMap (fun r => putRun f.u f.d.toNat (cvtDstRegs code) r.1 r.2.1)
    track e (.cvtsr f) .performed true none []
      ((s.raise e (flagsAll (rs.map (fun r => r.2.2)))).modCoach e.ref (fun c => c.writeRegs e.tick ws)))

/-! BSCALE, BENC, BDEC (R114-R117). -/

def execBscale (f : RRR) (s : State) : Host.Outcome State Fault Refusal :=
  issue (.bscale f) s (fun e s =>
    let n := e.wg.threads
    let val (t : Nat) : Fv := if e.active.getLsbD t then Fv.ofBits fp32 (e.opA f 1 t) else Fv.zero
    let recs := (List.range (n / 32 + 1)).map (fun b => bscale (BlkFmt.of f.m.toNat) ((upFrom (32 * b) 32).map val))
    lanewise false f.d.toNat 1 (fun _ t =>
      let r := recs.getD (t / 32) (0, 0)
      clean (r.1 + r.2 * 256)) e s)
/-- A position's code, 0 for a position that is not an active thread (R114). -/
def bencCode (f : RRR) (e : Env) (t : Nat) : Nat × Word :=
  if e.active.getLsbD t then
    let b := e.opB f 1 1 t
    encodeElem (BlkFmt.of f.m.toNat) (bits b 0 8) (bits b 8 8) none (Fv.ofBits fp32 (e.opA f 1 t))
  else (0, flNone)
def execBenc (f : RRR) (s : State) : Host.Outcome State Fault Refusal :=
  issue (.benc f) s (fun e s =>
    let w := (BlkFmt.of f.m.toNat).bits
    let per := 32 / w
    let codes := (List.range e.wg.threads).map (bencCode f e)
    lanewise false f.d.toNat 1 (fun _ t =>
      let g := t / per * per
      ((List.range per).foldl (fun x k => x + (codes.getD (g + k) (0, 0)).1 * 2 ^ (w * k)) 0, (codes.getD t (0, 0)).2)) e s)
def execBdec (f : RRR) (s : State) : Host.Outcome State Fault Refusal :=
  issue (.bdec f) s (lanewise false f.d.toNat 1 (fun e t =>
    let k := BlkFmt.of f.m.toNat
    let b := e.opB f 1 1 t
    let per := 32 / k.bits
    let code := bits (e.opA f 1 t) (k.bits * (t % per)) k.bits
    let r := fp32.roundF .rne false (decodeElem k (bits b 0 8) (bits b 8 8) code)
    (r.1, r.2 ||| flagIf (illFormed k (bits b 0 8) (bits b 8 8)) flFMT)))

end Sys2Proof.Machine
end

