-- ==== Sys2Proof/Machine/Power.lean ====
section
/-! DEFINITION. Power (R348-R370): the slew limiter with its ramps and ballast, current steps and droop, the thermal
control of decks and stacks, hot marks, the governor's samples, and the moves of islands. -/

namespace Sys2Proof.Machine

/-- Bits of EPOL (R369). -/
def epDSKIP (s : State) : Bool := s.epol.getLsbD 2
def epRTHROT (s : State) : Bool := s.epol.getLsbD 4
def epSTHERM (s : State) : Bool := s.epol.getLsbD 5
/-- Cores and regions there are (R1, R6). -/
def coreCount : Nat := 2048
def regionCount : Nat := 16

/-! Current steps (R361). -/

/-- CURRENT_STEP (R361): a new step of 200 ns begins; the cores denied before ask again, ahead of newer requests. -/
def execCurrentStep (s : State) : Host.Outcome State Fault Refusal :=
  let r := s.arg.n
  .next (if r ≥ regionCount ∨ (s.region r).step = s.regionStep r then s
    else
      (s.enterStep r).later ((sortBy (fun c => c) ((s.region r).waiting.map Prod.fst)).map (fun c => ⟨.rampStart, { EvArgs.zero with core := c }⟩)))

/-! Ramps (R358, R359). -/

/-- The quad's coordinator allows a ramp start now. -/
def State.quadFree (s : State) (core : Nat) : Bool := decide (Table.getD s.quadRamp (quadOf core) 0 ≤ s.clk (siteOfCore core))
/-- A core's step of denial. -/
def Region.denied (x : Region) (core : Nat) : Option Nat := (x.waiting.find? (fun w => w.1 == core)).map Prod.snd
/-- A core asks its region now: it waits for a ramp start, its quad allows one, no lower-numbered core of its quad asks, and
it has not been denied in this step. -/
def State.asksNow (s : State) (core : Nat) : Bool :=
  let x := s.region (regionOf (siteOfCore core))
  let open_ (c : Nat) : Bool := (s.core c).rampWait && x.denied c != some x.step
  open_ core && s.quadFree core && !(List.range (core % 4)).any (fun i => open_ (4 * (core / 4) + i))
/-- A request comes before another: one denied in an earlier step first, then the lower core (R361). -/
def Region.before (x : Region) (c d : Nat) : Bool :=
  match x.denied c, x.denied d with
  | some _, none => true
  | none, some _ => false
  | _, _ => decide (c < d)
/-- Charge ballast as it ends (R360): to the batch of the last pass, when a pass of it ends the ballast and it has not
completed; else to BALCYC of the context of the last pass. -/
def State.chargeBallast (s : State) (core : Nat) (by_ : Option MEntry) : State :=
  let c := s.core core
  match c.slew, c.lastPass with
  | .ballast _ halves, some p =>
    let s := s.addWin (siteOfCore core) (offMXENERGY p.ctx) (Config.energy s.tick (192 + core)).toNat
    let same := match by_ with | some m => m.slot == p.slot && m.k == p.k && m.batch == p.batch | none => false
    (match (if same then c.batchOf p.slot p.k p.batch else none) with
     | some b => s.setBatch core { b with ballastHalves := b.ballastHalves + halves }
     | none =>
       let n := siteOfCore core
       let x := s.site n
       let h := Table.getD x.balHalf p.ctx 0 + halves
       (s.setSite n { x with balHalf := Table.put 0 x.balHalf p.ctx (h % 2) }).addWin n (offBALCYC p.ctx) (h / 2))
  | _, _ => s
/-- The cycle in which the next level of a ramp or a ballast is due: 4 cycles from now (R358). -/
def State.slewNext (s : State) (core : Nat) : Nat := s.clk (siteOfCore core) + 4
/-- A ramp start is granted: ballast ends, and the levels above the core's present one follow, then 8. -/
def State.grantRamp (s : State) (core : Nat) : State :=
  let site := siteOfCore core
  let r := regionOf site
  let s1 := s.chargeBallast core (s.nextEntry core (s.core core).mq [])
  let c := s1.core core
  let levels := (rampEntries (s.win site offRAMPTAB)).filter (fun a => decide (a > c.level)) ++ [8]
  let x := s1.region r
  let s2 := s1.setCore core { c with level := levels.headD 8, slew := if levels.tail.isEmpty then .hold else .ramp levels.tail,
                                     slewAt := s1.slewNext core, rampWait := false, work := 0 }
  let s3 := s2.setRegion r { x with granted := x.granted + (8 - c.level), waiting := x.waiting.filter (fun w => !(w.1 == core)) }
  { s3 with quadRamp := Table.insert s3.quadRamp (quadOf core) (s.clk site + 4) }
/-- A request is denied: it waits for the next step. -/
def Region.deny (x : Region) (core : Nat) : Region :=
  { x with waiting := x.waiting.filter (fun w => !(w.1 == core)) ++ [(core, x.step)] }
/-- RAMP_START (R359, R361): a core's request is granted or denied by its region. A region under droop throttle grants
nothing. -/
def execRampStart (s : State) : Host.Outcome State Fault Refusal :=
  let core := s.arg.core
  let r := regionOf (siteOfCore core)
  .next (if core ≥ coreCount then s
    else
      let s1 := s.enterStep r
      let x := s1.region r
      if !s1.asksNow core || (s1.cores.any (fun c => regionOf (siteOfCore c.1) == r && c.1 != core && s1.asksNow c.1 && x.before c.1 core)) then s1
      else
        let ask := 8 - (s1.core core).level
        let limit := x.csl.toNat % 65536
        if x.throttleEnd.isSome || !(if ask ≤ limit then decide (x.granted + ask ≤ limit) else decide (x.granted = 0)) then
          s1.setRegion r (x.deny core)
        else s1.grantRamp core)
/-- RAMP_STEP (R358): the next level of a ramp, 4 cycles after the last, whose step has delivered its work. -/
def execRampStep (s : State) : Host.Outcome State Fault Refusal :=
  let core := s.arg.core
  let c := s.core core
  .next (match c.slew with
    | .ramp (a :: r) =>
      if s.clk (siteOfCore core) < c.slewAt then s
      else s.setCore core { c with level := a, slew := if r.isEmpty then .hold else .ramp r, slewAt := s.slewNext core, work := c.work + (4 * c.level : Nat) }
    | _ => s)
/-- A pass is ready: the next entry that the array can perform is an MMA. -/
def State.passReady (s : State) (core : Nat) : Bool :=
  match s.nextEntry core (s.core core).mq [] with
  | some m => (match m.op with | .mma _ _ _ _ _ _ => true | _ => false)
  | none => false
/-- BALLAST_STEP (R360): ballast begins in a core above level 0 with no ready pass, or takes its next level; each level
counts a half cycle for each of its eighths. A level lasts 4 cycles; at level 0 it ends. -/
def execBallastStep (s : State) : Host.Outcome State Fault Refusal :=
  let core := s.arg.core
  let c := s.core core
  let go (levels : List Nat) (halves : Nat) : State :=
    match levels with
    | a :: r => s.setCore core { c with level := a, slew := .ballast r (halves + a), slewAt := s.slewNext core }
    | [] => s
  .next (match c.slew with
    | .ballast levels halves =>
      if s.clk (siteOfCore core) < c.slewAt then s
      else if levels.isEmpty then let s1 := s.chargeBallast core none; s1.setCore core { s1.core core with level := 0, slew := .hold }
      else go levels halves
    | _ =>
      if c.level = 0 ∨ s.passReady core = true then s
      else
        let down := ((rampEntries (s.win (siteOfCore core) offRAMPTAB)).filter (fun a => decide (a < c.level))).reverse
        if down.isEmpty then s.setCore core { c with level := 0, slew := .hold } else go down 0)

/-! Droop (R363, R364). -/

/-- Bring the cycle counts of a region's sites up to now, before their clocks change. -/
def State.syncRegion (s : State) (r : Nat) : State := (regionSites r).foldl (fun t n => t.syncClk n) s
/-- A ramp start of a region has been granted in this very cycle. -/
def State.granting (s : State) (r : Nat) : Bool :=
  s.quadRamp.any (fun q => regionOf (siteOfCore (4 * q.1)) == r && decide (q.2 = s.clk (siteOfCore (4 * q.1)) + 4))
/-- DROOP_ALARM: reported and counted; with RTHROT the region's clocks are halved. In a cycle an alarm comes before the grants (R370):
none comes in one whose grants have begun. -/
def execDroopAlarm (s : State) : Host.Outcome State Fault Refusal :=
  let r := s.arg.n
  let low := regionLow r
  .next (if r ≥ regionCount ∨ s.granting r = true then s
    else
      let v := s.win low offDRSTAT
      let v1 := setFld (v ||| 1) 32 32 (min (2 ^ 32 - 1) (fld v 32 32 + 1))
      let s1 := (regionSites r).foldl (fun t n => t.logEvent n evDroop 6 r 0 0) (s.setWin low offDRSTAT v1)
      let x := s1.region r
      let alarms := x.alarms.filter (fun a => decide (s.now ≤ a + 10000)) ++ [s.now]
      if epRTHROT s then
        let s2 := if x.throttleEnd.isSome then s1 else s1.syncRegion r
        (s2.setWin low offDRSTAT (v1 ||| 2)).setRegion r { x with alarms := alarms, throttleEnd := some (s.regionTime r + 2000) }
      else s1.setRegion r { x with alarms := alarms })
/-- THROTTLE_END: 2000 ns after the latest alarm. What waits is judged in the next step. -/
def execThrottleEnd (s : State) : Host.Outcome State Fault Refusal :=
  let r := s.arg.n
  .next (if r ≥ regionCount then s
    else
      match (s.region r).throttleEnd with
      | none => s
      | some t =>
        if s.regionTime r < t then s
        else
          let s1 := (s.syncRegion r).enterStep r
          let x := s1.region r
          let low := regionLow r
          (s1.setRegion r { x with throttleEnd := none, waiting := x.waiting.map (fun w => (w.1, x.step)) }).setWin low offDRSTAT
            (setFld (s1.win low offDRSTAT) 1 1 0))

/-! Decks, stacks and hot marks (R295, R306, R365, R366). -/

/-- TDECK, TSTACK, TDRAM and TTRIP of THCFG; THOT of the placement register. -/
def State.tDeck (s : State) (n : Nat) : Nat := fld (s.win n offTHCFG) 0 8
def State.tStack (s : State) (n : Nat) : Nat := fld (s.win n offTHCFG) 8 8
def State.tDram (s : State) (n : Nat) : Nat := fld (s.win n offTHCFG) 16 8
def State.tTrip (s : State) (n : Nat) : Nat := fld (s.win n offTHCFG) 24 8
def State.tHot (s : State) (n : Nat) : Nat := fld (s.win n offPLACE) 0 8
/-- HOT_MARK_CHANGE (R295): the core's sensor reads n °C. -/
def execHotMarkChange (s : State) : Host.Outcome State Fault Refusal :=
  let core := s.arg.core
  let t := s.tHot (siteOfCore core)
  .next (if core ≥ coreCount then s
    else if s.arg.n ≥ t then s.setCore core { s.core core with hot := true }
    else if s.arg.n + 6 < t then s.setCore core { s.core core with hot := false }
    else s)
/-- A deck's state changes now, or at the close of the batch that uses the deck. -/
def State.deckAtClose (s : State) (core d v : Nat) : State :=
  let c := s.core core
  if Table.find c.pendDecks d = some (BitVec.ofNat 2 v, true) then s
  else (s.setCore core { c with pendDecks := Table.insert c.pendDecks d (BitVec.ofNat 2 v, false) }).applyDecks core
/-- DECK_THERMAL (R365): the sensor of deck n reads m °C. -/
def execDeckThermal (s : State) : Host.Outcome State Fault Refusal :=
  let core := s.arg.core
  let d := s.arg.n
  let site := siteOfCore core
  let st := s.deck core d
  .next (if core ≥ coreCount ∨ d ≥ 4 then s
    else if s.arg.m ≥ s.tDeck site then
      if !epDSKIP s then s.logEvent site evThermal 4 (deckUnit core d) 0 0
      else if st = 0 then s.deckAtClose core d 1
      else s
    else if s.arg.m + 6 < s.tDeck site then
      if st = 1 ∨ (Table.find (s.core core).pendDecks d).map Prod.fst = some 1 then s.deckAtClose core d 0 else s
    else s)
/-- A deck that an open batch uses has failed (R179): the first MMA of the batch that has not been consumed meets the
run-time error; a batch with none of those is ended by the halt itself. -/
def State.deckFails (s : State) (core : Nat) (b : Batch) : State :=
  match (s.core core).mq.find? (fun m => m.slot == b.slot && m.k == b.k && m.batch == b.num && !m.consumed &&
      (match m.op with | .mma _ _ _ _ _ _ => true | _ => false)) with
  | some m => s.matrixError core m 7 cDECK_UNAVAILABLE.toNat 0
  | none =>
    let tile := match b.run with | some r => r.tile | none => (Table.keys b.tiles).headD 0
    let tiles := match b.run with | some r => tilesOf r.op r.tile | none => []
    let site := siteOfCore core
    let s1 := s.errorRecord site b.ctx (errorBytes s site 0 7 (some cDECK_UNAVAILABLE) b.slot b.ctx b.k 0 b.num 0 tile 0 0 0)
    let s2 := s1.markInvalid core b.gid tiles
    let c := s2.core core
    let s3 := s2.setCore core (c.haltAt b.ctx (c.nextId - 1))
    s3.setBatch core { b with err := true, run := none }
/-- A deck is failed or taken away: batches that are open on it meet a deck failure (R306). -/
def State.loseDeck (s : State) (core d v : Nat) : State :=
  let hit := (s.core core).batches.filter (fun b => !b.closed && b.fixed && b.decks.getLsbD d && !b.err)
  let c := s.core core
  let s1 := (s.setCore core { c with pendDecks := Table.erase c.pendDecks d }).putDeck core d v
  hit.foldl (fun t b => t.deckFails core b) s1
/-- DSTAT_WRITE (R306): firmware writes the states of a core's decks. -/
def execDstatWrite (s : State) : Host.Outcome State Fault Refusal :=
  let core := s.arg.core
  .next (if core ≥ coreCount then s
    else (List.range 4).foldl (fun (t : State) d =>
      let v := fld s.arg.value (2 * d) 2
      if v = t.deck core d then t.setCore core { t.core core with pendDecks := Table.erase (t.core core).pendDecks d }
      else if v ≥ 2 then t.loseDeck core d v
      else if v = 1 ∧ (t.core core).deckOpen d = true then t.setCore core { t.core core with pendDecks := Table.insert (t.core core).pendDecks d (1, true) }
      else
        let t1 := t.setCore core { t.core core with pendDecks := Table.erase (t.core core).pendDecks d }
        (t1.setDeck core d v).logEvent (siteOfCore core) evDeck 4 (deckUnit core d) 0 0) s)
/-- THERMAL_CONTROL (R366): every 100 µs; the hottest compute-stack sensor reads n °C. -/
def execThermalControl (s : State) : Host.Outcome State Fault Refusal :=
  let n := s.arg.site
  .next (if n ≥ 64 ∨ s.now < (s.site n).thermAt then s
    else
      let v := s.win n offISLPT
      let cap := islCAP v
      let x := s.site n
      let set (c : Nat) (since : Option Nat) : State :=
        ((s.setSite n { x with belowSince := since, thermAt := s.now + 100000 }).setWin n offISLPT (setFld v 8 4 c)).postTarget n
      if !epSTHERM s then
        let s1 := set 14 none
        if s.arg.n ≥ s.tStack n then s1.logEvent n evThermal 0 0 0 0 else s1
      else if s.arg.n ≥ s.tStack n then set (cap - 1) none
      else if s.arg.n + 6 < s.tStack n then
        match x.belowSince with
        | none => set cap (some s.now)
        | some t => if s.now ≥ t + 1000000 then set (min 14 (cap + 1)) (some s.now) else set cap (some t)
      else set cap none)

/-! The governor and the islands (R349-R356). -/

/-- GOVERNOR_SAMPLE (R353, R354): once at each TIME that is a multiple of 1000 ns on the owner's counter, at which every step of it is
sampled in any case (Time.lean). Where no step is open any more, the islands take their targets (R211). -/
def execGovernorSample (s : State) : Host.Outcome State Fault Refusal :=
  let r : CoachRef := { slot := s.arg.slot, k := s.arg.k }
  .next (match s.findStep r with
    | none => if (s.time (siteOfSlot r.slot)).toNat % 1000 = 0 then s.sendTargets (List.range 64) else s
    | some (owner, st) =>
      if (s.time owner).toNat % 1000 = 0 ∧ st.sampled ≠ some (s.time owner) then s.governorSample r false else s)
/-- The supply voltage of a point, in mV (R348). -/
def pointMV (p : Nat) : Nat := [600, 610, 620, 635, 650, 670, 690, 715, 740, 770, 800, 830, 865, 905, 950].getD p 0
/-- The ns that the voltage takes to rise from one point to another, at 25 mV per µs; 0 where it falls (R351). -/
def rampNs (i j : Nat) : Nat := 40 * (pointMV j - pointMV i)
/-- Start a move of a compute island to a point (R351): the switch comes after the lock of 5 µs, and upward after the ramp too. -/
def State.startMove (s : State) (site p : Nat) : State :=
  let v := s.win site offISLPT
  (s.setSite site { s.site site with moveAt := s.now + max 5000 (rampNs (islCUR v) p) }).setWin site offISLPT (setFld (setFld v 30 1 1) 16 4 p)
/-- The mailbox of a site's compute island receives a target (R352). -/
def State.takeTarget (s : State) (site p : Nat) : State :=
  let v := s.win site offISLPT
  if islMOVING v then s.setWin site offISLPT (setFld (setFld v 29 1 1) 20 4 p)
  else if islCUR v = p then s
  else s.startMove site p
/-- The oldest target on its way to a site's island arrives, in a later cycle than it was sent. -/
def State.deliverTarget (s : State) (site : Nat) : State :=
  let x := s.site site
  match x.mail with
  | [] => s
  | (p, k, _) :: rest => if s.clk site ≤ k then s else (s.setSite site { x with mail := rest }).takeTarget site p
/-- ISLAND_TARGET (R352, R353): a target reaches the mailbox of compute island n = 3 · site, at the latest 200 ns after it was sent
(Time.lean). -/
def execIslandTarget (s : State) : Host.Outcome State Fault Refusal :=
  .next (if s.arg.n % 3 ≠ 0 ∨ s.arg.n / 3 ≥ 64 then s else s.deliverTarget (s.arg.n / 3))
/-- A move ends (R351, R352): CUR is the target, and a target that waits and differs from it starts a move. -/
def State.endMove (s : State) (site : Nat) : State :=
  let v := s.win site offISLPT
  let p := fld v 20 4
  let v1 := setFld (setFld (setFld (setFld v 12 4 (islTARGET v)) 30 1 0) 29 1 0) 20 4 0
  let s1 := (s.setSite site { s.site site with switched := false }).setWin site offISLPT v1
  if v.getLsbD 29 && p != islCUR v1 then s1.startMove site p else s1
/-- The service-layer frequency of a compute point, in tenths of a GHz (R348). -/
def serviceFreq (p : Nat) : Nat := if p ≤ 6 then 16 else 20
/-- Latencies that a measurement finds. -/
def measured (tick : Nat) : List (Nat × Nat) :=
  (List.range 8).map (fun k => let a := Config.choose tick (100 + k) % 65536; (a, max a (Config.choose tick (200 + k) % 65536)))
/-- CLOCK_SWITCH (R351): the idle generators take over, and from the next edge the cores run at the target's frequency; upward the move
ends with that, downward the voltage then falls. A change of the service-layer frequency starts a measurement of the crossings (R348). -/
def execClockSwitch (s : State) : Host.Outcome State Fault Refusal :=
  let n := s.arg.site
  .next (if n ≥ 64 then s
    else
      let v := s.win n offISLPT
      if islMOVING v && !(s.site n).switched && decide ((s.site n).moveAt ≤ s.now) then
        let s1 := s.syncClk n
        let sw := s1.setSite n { s1.site n with switched := true, moveAt := s.now + rampNs (islTARGET v) (islCUR v) }
        let s2 := if rampNs (islTARGET v) (islCUR v) = 0 then sw.endMove n else sw
        if serviceFreq (islCUR v) = serviceFreq (islTARGET v) then s2
        else s2.later [⟨.bandedLatencyMeasure, { EvArgs.zero with site := n, bands := measured s.tick }⟩]
      else s)
/-- ISLAND_MOVE_COMPLETE (R351, R352): the voltage of a move downward has fallen. -/
def execIslandMoveComplete (s : State) : Host.Outcome State Fault Refusal :=
  let site := s.arg.n / 3
  .next (if s.arg.n % 3 ≠ 0 ∨ site ≥ 64 then s
    else
      let v := s.win site offISLPT
      if islMOVING v && (s.site site).switched && decide ((s.site site).moveAt ≤ s.now) then s.endMove site else s)
/-- A slice of a core has a RUNNABLE coach. -/
def State.sliceRuns (s : State) (core sl : Nat) : Bool :=
  s.wgs.any (fun w => coreOfSlot w.1 == core && w.2.coaches.any (fun x => x.2.slice == sl && x.2.state == .runnable))
/-- SLICE_AUTO_IDLE (R350): a slice under AUTO with no RUNNABLE coach for 1 µs runs at 4/8. -/
def execSliceAutoIdle (s : State) : Host.Outcome State Fault Refusal :=
  let core := s.arg.core
  let sl := s.arg.n
  let site := siteOfCore core
  let c := s.core core
  .next (if core ≥ coreCount ∨ sl ≥ 6 then s
    else
      if (s.win site (offSLRATIO (core % 32))).getLsbD 18 && !s.sliceRuns core sl && decide (Table.getD c.cycles (24 + sl) 0 + 1000 ≤ s.now) then
        s.setCore core { c with autoIdle := c.autoIdle ||| BitVec.ofNat 6 (2 ^ sl) }
      else s)
/-- The crossing counts of a band (R328). -/
def bandLo (k : Nat) : Nat := [1, 2, 3, 5, 7, 9, 11, 13].getD k 0
def bandHi (k : Nat) : Nat := [1, 2, 4, 6, 8, 10, 12, 14].getD k 0
def bltMagic : Nat := 0x424C5401
/-- The record of a measurement: GEN first, then the entries. -/
def State.writeBands (s : State) (n : Nat) (bands : List (Nat × Nat)) : State :=
  let pa := fld (s.win n offBLTADDR) 0 52
  if paSpace pa ≠ 0 ∨ homeSite pa ≠ n ∨ pa % 128 ≠ 0 ∨ s.paOk pa = false then s
  else
    let old := s.homeRead (pa + 0x40) 8
    let gen := if fieldLE old 0 4 = bltMagic then fieldLE old 4 4 + 1 else 0
    let s1 := s.homeWrite (pa + 0x40) (bytesLE 4 bltMagic ++ bytesLE 4 gen ++ List.replicate 56 0)
    s1.homeWrite pa ((List.range 8).flatMap (fun k =>
      let b := bands.getD k (0, 0)
      bytesLE 2 b.1 ++ bytesLE 2 b.2 ++ bytesLE 1 (bandLo k) ++ bytesLE 1 (bandHi k) ++ bytesLE 2 0))
/-- BANDED_LATENCY_MEASURE (R328): the least and largest latency of each band. -/
def execBandedLatencyMeasure (s : State) : Host.Outcome State Fault Refusal :=
  .next (if s.arg.site < 64 then s.writeBands s.arg.site s.arg.bands else s)

end Sys2Proof.Machine
end

