-- ==== Sys2Proof/Machine/Fetch.lean ====
section
/-! DEFINITION. What a chosen coach does in its turn (R21, R35, R246, R251): which instruction or event it runs, with
the fetch of its instruction word. -/

namespace Sys2Proof.Machine

/-- What a turn comes to: an instruction or event to execute, or a state reached without one. -/
inductive Turn where
  | run (i : Instr) (s : State)
  | done (s : State)
  deriving DecidableEq, Repr

/-- ILLEGAL_OPCODE at a word (R89): its entry is FAULTED, TMASK names Active(c). -/
def State.opcodeTrap (s : State) (e : Env) (w : Word) : State :=
  let en : ReplayEntry := match e.replay with
    | some en => { en with status := 1 }
    | none => { ReplayEntry.empty with word := w, pc := e.c.pc, status := 1, mask := e.active, cause := cILLEGAL_OPCODE }
  let c1 := e.c.advance e
  s.takeTrap e.ref cILLEGAL_OPCODE 0 e.active (en :: e.c.rq.tail) c1.pc c1.clause

/-- An event of the coach itself. -/
def coachEvent (s : State) (r : CoachRef) (op : Instr) : Turn :=
  .run op { s with arg := { EvArgs.zero with slot := r.slot, k := r.k } }

/-- The instruction that an issuing coach has reached. A row 0xC word before the end of its clause, which memory has come to hold
since the clause was checked, stops it at the clause's header as R73 says (DESIGN CHOICE, log 40). -/
def State.reached (s : State) (e : Env) (cl : Clause) (w : Word) : Turn :=
  if isControl (opcodeOf w).toNat && !e.last then
    .done (s.takeTrap e.ref cILLEGAL_CLAUSE 0 0 [] (e.c.pc - BitVec.ofNat 64 (4 * (cl.next + 1))) none)
  else
    match parse w with
    | some i => .run i s
    | none => .done (s.opcodeTrap e w)

/-- The turn of the coach `s.cur`. A coach that waits, retired, is escalated, belongs to a workgroup that is
being saved (unless it has injected operations to perform, or its wait has ended before the save reached it, R22, R256), is stopped by a trap whose older entries are unfinished, or
finds its octets held (R300) does not issue. -/
def turn (s : State) : Turn :=
  match s.env s.cur with
  | none => .done s
  | some e =>
    if e.c.escalated.isSome ∨ (e.wg.saving.isSome ∧ e.c.injected = false ∧ e.c.woken = false) then .done s
    else if e.c.pendTrap.isSome then
      if e.c.flights.any Flight.entry then .done s else coachEvent s s.cur .trapTake
    else if e.c.state ≠ .runnable ∧ e.c.state ≠ .trapped then .done s
    else if s.octetsFree e.ref e.wg e.c = false then .done s
    else if !e.c.inHandler && !e.c.woken && e.c.nextAsync.isSome && e.wg.saving.isNone then coachEvent s s.cur .asyncTrapTake
    else
      match e.replay with
      | some en =>
        match parse en.word with
        | some i => .run i s
        | none => .done (s.opcodeTrap e en.word)
      | none =>
        if e.c.reconv && !e.c.inHandler then .done (s.reconvergeOf s.cur)
        else
        match (if e.c.woken then e.c.wait.word.bind parse else none), e.c.openClause with
        | some i, _ => .run i s
        | none, none => coachEvent s s.cur .clauseFetch
        | none, some cl =>
          match s.fetchWord s.cur e.ctx e.c.pc with
          | (.error c, s1) => .done (s1.fetchTrap s.cur c e.c.pc (some (cl.anew (e.c.pc - 4))))
          | (.ok w, s1) => s1.reached e cl w

end Sys2Proof.Machine
end

