-- ==== Sys2Proof/Machine/Remote.lean ====
section
/-! DEFINITION. Remote operations (R201, R202, R240, R334-R338), LAUNCH (R203), and OPERATION_COMPLETE (R76), the end of
an operation whose effect has been performed. -/

namespace Sys2Proof.Machine

/-! RPUT, RGET and RATOM at issue (R201). -/

/-- Kinds of remote operation. -/
def kPUT : Nat := 0
def kGET : Nat := 1
def kATOM : Nat := 2

/-- The limits of the block. -/
def remoteOk (kind : Nat) (b : List Byte) : Bool :=
  let len := fieldLE b 0x10 4
  decide (fieldLE b 0x16 2 = 0 ∧ fieldLE b 0x1C 4 = 0) &&
    (if kind = kATOM then decide (len = 4 ∧ fieldLE b 0 8 % 4 = 0 ∧ fieldLE b 8 8 % 4 = 0) else decide (1 ≤ len ∧ len ≤ 16777216))
/-- The connection of a remote operation, at its endpoint. -/
def RemoteOp.conn (o : RemoteOp) : Nat := connKey o.peer o.psite o.ord
/-- The site of the peer device that an operation goes to: one that the site's peer table has for the device (the block of R201
names none: a free choice among them, log 89). -/
def State.peerSite (s : State) (site dev : Nat) : Nat :=
  let l := s.peerEntries site dev
  match l[Config.choose s.tick 301 % l.length]? with | some e => e.1 | none => 0
/-- The endpoint of a remote operation and the peer's site: with ORD = 1 those that an earlier operation of the coach to the peer
has, while it is not acknowledged (R330, R338: one queue pair); else as the selector scores. -/
def State.endpointFor (s : State) (site : Nat) (r : CoachRef) (peer : Nat) (ord : Bool) : Nat × Nat :=
  match (s.site site).remotes.find? (fun o => ord && o.ord && o.slot == r.slot && o.k == r.k && o.peer == peer) with
  | some o => (o.ep, o.psite)
  | none => (s.routeRemote site peer (s.peerSite site peer), s.peerSite site peer)
/-- A remote operation at issue. -/
def remoteIssue (i : Instr) (f : FC) (kind : Nat) (e : Env) (s : State) : State :=
  let va := e.sop64 0 f.pb
  match readBlock e va 32 32 s with
  | (.error z, s1) => trapAll e i z.1 z.2 s1
  | (.ok b, s1) =>
    let laddr := dword64 b 0
    let len := fieldLE b 0x10 4
    if !remoteOk kind b then trapAll e i cCPY_PARAM 0 s1
    else
      match xlateParts (some e.core) e.site e.ctx (if kind = kPUT then .read else .write) (pageParts (len / 65536 + 2) laddr len) s1 with
      | (.error z, s2) => trapAll e i z.1 z.2 s2
      | (.ok l, s2) =>
        let s3 := if kind = kPUT then cleanParts e.core l s2 else dropParts e.core l s2
        let x := s3.site e.site
        let peer := fieldLE b 0x14 2
        let ord := kind ≠ kATOM && f.qsel.getLsbD 0
        let way := s3.endpointFor e.site e.ref peer ord
        let o : RemoteOp :=
          { id := x.nextId, slot := e.ref.slot, k := e.ref.k, ctx := e.ctx, kind := kind, ord := ord, aop := f.qsel.toNat,
            flight := s3.nextFlight e.ref, clock := e.wg.oclk, pb := va, laddr := laddr, raddr := dword64 b 8, len := len,
            peer := peer, psite := way.2, ep := way.1, operand := word32 b 0x18, since := s.now, heard := false,
            rerouted := epREROUTE s3 && s3.portLost e.site }
        accepted e i .engine ((s3.setSite e.site { x with nextId := x.nextId + 1, remotes := x.remotes ++ [o] }).queuePackets o.ep o.conn
          (.remote e.site o.id) (if kind = kPUT then len else 0))
def execRput (f : FC) (s : State) : Host.Outcome State Fault Refusal := issue (.rput f) s (remoteIssue (.rput f) f kPUT)
def execRget (f : FC) (s : State) : Host.Outcome State Fault Refusal := issue (.rget f) s (remoteIssue (.rget f) f kGET)
def execRatom (f : FC) (s : State) : Host.Outcome State Fault Refusal := issue (.ratom f) s (remoteIssue (.ratom f) f kATOM)
/-- RFLUSH (R202). -/
def execRflush (f : FC) (s : State) : Host.Outcome State Fault Refusal :=
  issue (.rflush f) s (fun e s =>
    let ids := ((s.site e.site).remotes.filter (fun o => o.slot == e.ref.slot && o.k == e.ref.k)).map RemoteOp.id
    accepted e (.rflush f) (if ids.isEmpty then .performed else .rflush ids) s)

/-! The endpoint. -/

def RemoteOp.ref (o : RemoteOp) : CoachRef := { slot := o.slot, k := o.k }
def RemoteOp.acc (o : RemoteOp) : Acc := { core := coreOfSlot o.slot, ctx := o.ctx, agent := BitVec.ofNat 16 o.slot, clk := o.clock }
/-- A remote operation has been acknowledged or has failed: it goes, its flag falls, and an RFLUSH that waited for it
alone completes. -/
def State.endRemote (s : State) (site : Nat) (o : RemoteOp) : State :=
  let s0 := s.unqueue o.ep (.remote site o.id)
  let x := s0.site site
  let left := x.remotes.filter (fun p => !decide (p.id = o.id))
  let s1 := (s0.setSite site { x with remotes := left }).completeFlight o.ref o.flight
  match s1.coach o.ref with
  | none => s1
  | some c =>
    (c.flights.filter (fun (f : Flight) => match f.kind with
      | .rflush ids => !ids.any (fun id => left.any (fun p => p.id == id))
      | _ => false)).foldl (fun t f => t.completeFlight o.ref f.id) s1
/-- Raise a remote failure on its coach (R202, R251): it is taken at its next issue slot, or discarded when retired. -/
def State.raiseRemote (s : State) (o : RemoteOp) (cause : Cause) : State :=
  match s.coach o.ref with
  | none => s
  | some c =>
    if c.state = .retired then s
    else
      (s.setCoach o.ref { c with rfails := c.rfails ++ [{ cause := cause, addr := o.pb }] }).later
        [⟨.asyncTrapTake, { EvArgs.zero with slot := o.slot, k := o.k }⟩]
/-- Room for a remote failure among the eight of the coach (R251). -/
def State.failRoom (s : State) (o : RemoteOp) : Bool := match s.coach o.ref with | some c => decide (c.rfails.length < 8) | none => true
/-- The error record of a failed remote operation. -/
def State.remoteRecord (s : State) (site : Nat) (o : RemoteOp) (z : CopyErr) : State :=
  s.errorRecord site o.ctx (errorBytes s site 3 z.1 (some (BitVec.ofNat 7 z.2.1)) o.slot o.ctx o.k z.2.2 0 0 0 31 o.pb 0)
/-- A remote operation fails (R202, R240). -/
def State.failRemote (s : State) (site : Nat) (o : RemoteOp) (cause : Cause) (z : Option CopyErr) : State :=
  let s1 := match z with | some z => s.remoteRecord site o z | none => s
  (s1.raiseRemote o cause).endRemote site o

/-- RMT_TIMEOUT is due for an operation (R333, R335): no packet of it has been acknowledged within the timeout of its endpoint; or
the site's port is lost and REROUTE of EPOL is clear, unless it began past the lost port (R369). -/
def State.timedOut (s : State) (site : Nat) (o : RemoteOp) : Bool :=
  (!o.heard && decide (s.now ≥ o.since + s.endpointTimeout o.ep)) || (s.portLost site && !epREROUTE s && !o.rerouted)
/-- Every packet of an operation has been sent. -/
def State.sentWhole (s : State) (site : Nat) (o : RemoteOp) : Bool := !(s.conn o.ep o.conn).unsent.any (fun u => u.1 == .remote site o.id)
/-- REMOTE_ACK (R201, R202): the peer has performed the operation (`ok`, with the data it returns), or refuses it, once all its
packets have been sent and while no timeout is due; one without a transport or a connection is refused at once (R334, R377).
Operations of one coach to one peer with ORD = 1 are acknowledged in order. -/
def execRemoteAck (s : State) : Host.Outcome State Fault Refusal :=
  let site := s.arg.site
  .next (match (s.site site).remotes.find? (fun o => o.id == s.arg.id) with
    | none => s
    | some o =>
      let first := !o.ord || !((s.site site).remotes.takeWhile (fun p => p.id != o.id)).any (fun p =>
        p.slot == o.slot && p.k == o.k && p.peer == o.peer && p.ord)
      let nak : CopyErr := (8, cRMT_NAK.toNat, o.laddr)
      if !first || !(s.win o.ep offEPCFG).getLsbD 0 || !s.failRoom o then s
      else
        match (if s.connRoom o.ep o.conn then s.transport o.ep o.peer o.psite else none) with
        | none => s.failRemote site o cRMT_NAK (some nak)
        | some tr =>
          if !s.sentWhole site o || s.timedOut site o then s
          else if !s.arg.ok || (tr == 2 && o.kind == kATOM) then s.failRemote site o cRMT_NAK (some nak)
          else if o.kind = kPUT then
            match readGlob site o.acc (granuleParts (o.len + 1) o.laddr o.len) s with
            | (.error z, s1) => s1.failRemote site o cRMT_NAK (some z)
            | (.ok _, s1) => s1.endRemote site o
          else
            match writeGlob site o.acc (granuleParts (o.len + 1) o.laddr o.len) (padTo o.len s.arg.data) s with
            | (some z, s1) => s1.failRemote site o cRMT_NAK (some z)
            | (none, s1) => s1.endRemote site o)
/-- RMT_TIMEOUT (R202, R333, R335). -/
def execRmtTimeout (s : State) : Host.Outcome State Fault Refusal :=
  let site := s.arg.site
  .next (match (s.site site).remotes.find? (fun o => o.id == s.arg.id) with
    | none => s
    | some o =>
      if s.failRoom o && s.timedOut site o then s.failRemote site o cRMT_TIMEOUT none else s)

/-! What arrives (R201, R216, R335). -/

/-- Answer a peer on its connection (R201, R335). -/
def State.reply (s : State) (n key : Nat) (data : Option (List Byte)) : State :=
  s.queuePackets n key (.reply data) ((data.getD []).length)
/-- Perform what an arriving packet asks of memory, as agent 0x8001: unchecked, and dropped when its translation faults, with a
negative acknowledgement to the peer; what is read goes back to the peer. The context is the packet's (log 90: R201 names none). -/
def State.arrived (s : State) (n key : Nat) (a : Arrival) : State :=
  match a.kind with
  | 0 =>
    match State.devWrite 3 s n a.ctx a.va a.data with
    | (some _, s1) => s1.reply n key none
    | (none, s1) => s1
  | 1 =>
    match State.devRead 3 s n a.ctx a.va a.data.length with
    | (.error _, s1) => s1.reply n key none
    | (.ok bs, s1) => s1.reply n key (some bs)
  | 2 =>
    if a.va.toNat % 4 ≠ 0 then s.reply n key none
    else
      match s.devAddr n a.ctx a.va 4 .both with
      | (.error _, s1) => s1.reply n key none
      | (.ok x, s1) =>
        let old := s1.homeLoad x 4
        (s1.devStore x (bytesLE 4 (combine a.aop (BitVec.ofNat 32 (ofBytesLE old)) a.operand).1.toNat)).reply n key (some old)
  | _ => s
/-- The collective's packet among those that have arrived whose bytes are the next of their participant's: `va` is the offset in
what the participant sends, `operand` the TAG, `aop` 1 for a reduced share. -/
def State.nextCollPacket (s : State) (n key : Nat) : Option Arrival :=
  (s.conn n key).early.find? (fun a => a.kind == 3 && s.collNext n a.operand (collPeer key) (a.aop == 1) == some a.va.toNat)
/-- Packets of collectives land in the order of their bytes (R200, R335). -/
def State.landCollPackets (fuel : Nat) (s : State) (n key : Nat) : State :=
  match fuel with
  | 0 => s
  | f + 1 =>
    match s.nextCollPacket n key with
    | none => s
    | some a =>
      let c := s.conn n key
      State.landCollPackets f ((s.setConn n key { c with early := c.early.erase a }).collTakes n a.operand (collPeer key) (a.aop == 1) a.data) n key
/-- The cumulative sequence moves past what has arrived. -/
def advanceRx (fuel : Nat) (c : Conn) : Conn :=
  match fuel with
  | 0 => c
  | f + 1 => if c.rxMap.getLsbD 0 then advanceRx f { c with rxCum := c.rxCum + 1, rxMap := c.rxMap >>> 1 } else c
/-- PACKET_RECEIVE (R335): a sequence number within the window of 256 that has not been received is marked. In unordered delivery
what it carries is performed, a collective's bytes behind those that precede them; in ordered delivery (an odd connection) when
all before it have arrived, in sequence. -/
def execPacketReceive (s : State) : Host.Outcome State Fault Refusal :=
  let n := s.arg.site
  let key := s.arg.n
  .next (if n ≥ 64 ∨ s.hearsPeer n (connDev key) (connSite key) = false ∨ s.connRoom n key = false then s
    else
      let c := s.conn n key
      let psn : Word := s.arg.value.truncate 32
      let d := (psn - c.rxCum : Word).toNat
      if d ≥ 256 ∨ c.rxMap.getLsbD d = true then s
      else
        let a : Arrival := { psn := psn, kind := s.arg.k, ctx := s.arg.m, va := BitVec.ofNat 64 s.arg.pa, aop := s.arg.p % 16,
                             operand := s.arg.words.headD 0, data := s.arg.data.take 4096 }
        let c1 := advanceRx 256 { c with rxMap := c.rxMap ||| BitVec.ofNat 256 (2 ^ d) }
        if a.kind = 3 then State.landCollPackets (c.early.length + 1) (s.setConn n key { c1 with early := c.early ++ [a] }) n key
        else if key % 2 = 0 then (s.setConn n key c1).arrived n key a
        else
          let all := sortBy (fun x => (x.psn - c.rxCum : Word).toNat) (c.early ++ [a])
          let due (x : Arrival) : Bool := later32 c1.rxCum x.psn
          (all.filter due).foldl (fun t x => t.arrived n key x) (s.setConn n key { c1 with early := all.filter (fun x => !due x) }))

/-! LAUNCH (R203). -/

/-- What an attempt to enqueue a launch record comes to. -/
inductive LaunchTry where
  | done (stat : Word) (s : State)
  | stop (q : QStop) (s : State)
  | full (s : State)
  | busy
  deriving DecidableEq, Repr
/-- Enqueue a launch record as ENQ with U = 1 does (R161, R203). -/
def tryLaunch (core site : Nat) (a : Acc) (r : CoachRef) (record : List Byte) (s : State) : LaunchTry :=
  let va := dword64 record 0
  match s.openQcb (some core) site a.ctx va .both with
  | (.error .held, _) => .busy
  | (.error z, s1) => .stop z s1
  | (.ok (x, q), s1) =>
    if q.esize = 64 ∧ q.state = 1 then .stop (.trap cQUEUE_CLOSED va) s1
    else if q.esize ≠ 64 ∨ q.free = 0 then
      match s1.useQcb (some core) a va x true [] with
      | (some (c, v), s2) => .stop (.trap c v) s2
      | (none, s2) => if q.esize ≠ 64 then .done (qStat qBADPARAM 0) s2 else .full s2
    else
      match s1.enqAddrs (some core) site a va x q 1 with
      | (.error .held, _) => .busy
      | (.error x, s2) => .stop x s2
      | (.ok addrs, s2) =>
        if s2.engineBusy r q.scope then .busy
        else
          let k := s2.release r.slot q.scope
          .done (qStat qOK 1) (k.2.enqCommit x.pa q k.1 addrs [record])
/-- The cause and TADDR of a queue stop. -/
def QStop.cause (q : QStop) (va : DWord) : Stop := match q with | .trap c a => (c, a) | .corrupt | .held => (cQCB_CORRUPT, va)
def execLaunchI (f : FC) (s : State) : Host.Outcome State Fault Refusal :=
  issue (.launchI f) s (fun e s =>
    let va := e.sop64 0 f.pb
    match readBlock e va 64 64 s with
    | (.error z, s1) => trapAll e (.launchI f) z.1 z.2 s1
    | (.ok rec_, s1) =>
      match tryLaunch e.core e.site e.acc e.ref rec_ s1 with
      | .done x s2 => tracked e (.launchI f) (putRun true f.tin.toNat 1 0 x.toNat) s2
      | .stop q s2 => let z := q.cause (dword64 rec_ 0); trapAll e (.launchI f) z.1 z.2 s2
      | .busy => stall s
      | .full s2 =>
        if f.qsel.getLsbD 0 then tracked e (.launchI f) (putRun true f.tin.toNat 1 0 (qStat qFULL 0).toNat) s2
        else
          track e (.launchI f) (.launch rec_ f.tin.toNat e.acc.clk) true
            (some (capture e (.launchI f) (e.flagOf (.launchI f)) 0 e.active 0 0 Wait.none)) (e.c.pendingRun f.tin.toNat 1) s2)

/-! OPERATION_COMPLETE (R76). -/

/-- An operation in flight completes: one that is performed; one that has met a cause, which
traps when what is older has performed (R246); a late access, which performs next: a load at any time, since the older operations held back reach other bytes (R136),
any other when they have performed (R246); or a LAUNCH that the controller can now enqueue. The
others complete with what they wait for. -/
def execOperationComplete (s : State) : Host.Outcome State Fault Refusal :=
  let r := argCoach s
  .next (match s.coach r with
    | none => s
    | some c =>
      match c.flights.find? (fun f => f.id == s.arg.id) with
      | none => s
      | some f =>
        match f.kind with
        | .performed => s.completeFlight r f.id
        | .raised k a _ =>
          if c.rq.isEmpty && !c.olderBack f.id then s.flightTrap r f.id k a else s
        | .late =>
          if c.rq.isEmpty && !(waitsOlder (opcodeOf f.word).toNat && c.olderBack f.id) then
            s.setCoach r ({ c with flights := c.flights.filter (fun g => g.id != f.id) }.inject f.rep.toList).letGo
          else s
        | .launch rec_ stat clk =>
          match s.env r with
          | none => s
          | some e =>
            (match tryLaunch e.core e.site { e.acc with clk := clk } r rec_ s with
             | .done x s1 => s1.completeWith r f.id (putRun true stat 1 0 x.toNat)
             | .stop q s1 => let z := q.cause (dword64 rec_ 0); s1.flightTrap r f.id z.1 z.2
             | .full s1 => s1
             | .busy => s)
        | _ => s)

end Sys2Proof.Machine
end

