-- ==== Sys2Proof/Machine/System.lean ====
section
/-! DEFINITION. Row 0xD: system registers (R30-R33), TRAP and BRK (R206), TRET (R207, R250), the handler's access to
registers and replay entries (R208, R209), the step instructions (R211) and TIME (R212). ERES, MSAVE and MREST are
with the matrix engine. -/

namespace Sys2Proof.Machine

/-- The value of a system register for a thread (R30, R31, R33). -/
def sysregRead (s : State) (e : Env) (n k t : Nat) : DWord :=
  let w := e.wg
  let g := s.grid w.gid
  match n with
  | 0x000 => BitVec.ofNat 64 (e.ref.k * w.threads + t)
  | 0x001 => BitVec.ofNat 64 (t % w.w)
  | 0x002 => BitVec.ofNat 64 (t / w.w)
  | 0x003 => BitVec.ofNat 64 e.ref.k
  | 0x004 => BitVec.ofNat 64 w.x
  | 0x005 => BitVec.ofNat 64 w.y
  | 0x006 => BitVec.ofNat 64 w.z
  | 0x007 => BitVec.ofNat 64 ((w.ncoach - 1) * 65536 + w.logd * 256 + w.w)
  | 0x008 => (match g with | some g => BitVec.ofNat 64 ((g.ze - 1) * 2 ^ 24 + (g.ye - 1) * 65536 + (g.xe - 1)) | none => 0)
  | 0x009 => BitVec.ofNat 64 e.core
  | 0x00A => BitVec.ofNat 64 (quadOf e.core)
  | 0x00B => BitVec.ofNat 64 e.site
  | 0x00C => s.waferId.zeroExtend 64
  | 0x00D => s.podId.zeroExtend 64
  | 0x00E => BitVec.ofNat 64 e.ctx
  | 0x010 => BitVec.ofNat 64 (s.clk e.site)
  | 0x011 => s.time e.site
  | 0x012 => (s.toffOf e.site).zeroExtend 64
  | 0x013 => w.oclk.zeroExtend 64
  | 0x014 => e.c.dphase.zeroExtend 64
  | 0x020 => (s.context e.ctx).thbase
  | 0x021 => e.c.tcause.zeroExtend 64
  | 0x022 => e.c.tpc
  | 0x023 => e.c.taddr
  | 0x024 => BitVec.ofNat 64 e.c.trqn
  | 0x030 => ((e.c.exec >>> (32 * k)).truncate 32).zeroExtend 64
  | 0x031 => e.c.stepRec
  | 0x040 => s.epol
  | 0x041 => (s.context e.ctx).ctxsave
  | 0x042 => 1
  | _ =>
    if 0x028 ≤ n ∧ n ≤ 0x02F then ((e.c.tmask >>> (32 * (n - 0x028))).truncate 32).zeroExtend 64
    else if 0x050 ≤ n ∧ n ≤ 0x05F then (Table.getD s.csl (n - 0x050) cslReset).zeroExtend 64
    else 0
/-- SRD (R32). -/
def execSrd (f : FS) (s : State) : Host.Outcome State Fault Refusal :=
  issue (.srd f) s (fun e s =>
    lanewise f.u f.d.toNat (sysregRegs f.sysreg.toNat) (fun e t => clean (sysregRead s e f.sysreg.toNat f.a.toNat t).toNat) e s)

/-- Write a system register that can be written (R30, R205): reserved bits are discarded. CSLn applies from its
region's next current step: the limit of the step that runs stays in `Region.csl`. -/
def sysregWrite (s : State) (e : Env) (n : Nat) (v : DWord) : State :=
  match n with
  | 0x00C => { s with waferId := v.truncate 16 }
  | 0x00D => { s with podId := v.truncate 16 }
  | 0x014 => s.modCoach e.ref (fun c => { c with dphase := v.truncate 5 })
  | 0x020 => s.setContext e.ctx { s.context e.ctx with thbase := v &&& ~~~63 }
  | 0x022 => s.modCoach e.ref (fun c => { c with tpc := v })
  | 0x040 => { s with epol := v &&& 63 }
  | 0x041 => s.setContext e.ctx { s.context e.ctx with ctxsave := v &&& ~~~4095 }
  | _ => if 0x050 ≤ n ∧ n ≤ 0x05F then { s.enterStep (n - 0x050) with csl := Table.put cslReset s.csl (n - 0x050) ((v.truncate 16).zeroExtend 32) } else s
/-- SWR (R32): with U=0 the value is the lowest active thread's. -/
def execSwr (f : FS) (s : State) : Host.Outcome State Fault Refusal :=
  issue (.swr f) s (fun e s =>
    let t := e.threads.headD 0
    finish e (sysregWrite s e f.sysreg.toNat (BitVec.ofNat 64 (wordsToNat (e.opRun f.u 0 f.d.toNat (sysregRegs f.sysreg.toNat) t)))))

/-- An instruction that completes and then raises a cause (R206): it leaves no entry. -/
def completeAndTrap (e : Env) (cause : Cause) (addr : DWord) (s : State) : State :=
  let c1 := e.c.advance e
  (finish e s).takeTrap e.ref cause addr e.active c1.rq c1.pc c1.clause
def execTrapI (f : FS) (s : State) : Host.Outcome State Fault Refusal :=
  issue (.trapI f) s (fun e s => completeAndTrap e cSW_TRAP (f.sysreg.zeroExtend 64) s)
def execBrk (f : FS) (s : State) : Host.Outcome State Fault Refusal :=
  issue (.brk f) s (fun e s => completeAndTrap e cBREAKPOINT (f.sysreg.zeroExtend 64) s)

/-- A notified coach has returned from its PREEMPT_NOTICE handler (R255): the save begins when all have. -/
def State.noticeDone (s : State) (r : CoachRef) : State :=
  match s.wg r.slot with
  | none => s
  | some w =>
    if w.noticeEnd.isSome && w.noticeLeft.contains r.k then
      let left := w.noticeLeft.filter (fun k => decide (k ≠ r.k))
      let s1 := s.setWg r.slot { w with noticeLeft := left }
      if left.isEmpty then s1.later [⟨.noticeIntervalExpiry, { EvArgs.zero with slot := r.slot }⟩] else s1
    else s
/-- TRET (R207, R250): it waits for the handler's own entries, and a TPC that is no target is BAD_TARGET. -/
def execTret (f : FS) (s : State) : Host.Outcome State Fault Refusal :=
  issue (.tret f) s (fun e s =>
    if e.c.flights.any Flight.entry then stall s
    else if !targetOk e.c.tpc then trapAll e (.tret f) cBAD_TARGET 0 s
    else
      let s1 := s.modCoach e.ref Coach.returnFromTrap
      if e.c.tcause = cPREEMPT_NOTICE then s1.noticeDone e.ref else s1)

/-- The thread and the entry that SYSREG[5:0] names (R208). -/
def lrdIndex (f : FS) (e : Env) : Nat × Nat :=
  let x := (e.c.readS e.tick (f.sysreg.extractLsb' 0 6).toNat).toNat
  (x % 256 % e.wg.threads, bits x 8 4)
def lrdSpace (f : FS) : Nat := (f.sysreg.extractLsb' 6 2).toNat
/-- LRD (R208). -/
def execLrd (f : FS) (s : State) : Host.Outcome State Fault Refusal :=
  issue (.lrd f) s (fun e s =>
    let ix := lrdIndex f e
    let v : Word :=
      match lrdSpace f with
      | 0 => e.c.readV e.tick f.a.toNat ix.1
      | 1 => ((Table.getD e.c.p ix.1 0 ||| 1).zeroExtend 32)
      | _ => (match e.c.rq[ix.2]? with | some en => Table.getD en.vops (17 * ix.1 + f.a.toNat) 0 | none => 0)
    finishW e [{ scalar := true, reg := f.d.toNat, thread := 0, val := v }] s)
/-- Replace an entry of the replay queue. -/
def Coach.setEntry (c : Coach) (n : Nat) (g : ReplayEntry → ReplayEntry) : Coach :=
  match c.rq[n]? with
  | none => c
  | some en => { c with rq := listSet c.rq n (g en) }
/-- LWR (R208). -/
def execLwr (f : FS) (s : State) : Host.Outcome State Fault Refusal :=
  issue (.lwr f) s (fun e s =>
    let ix := lrdIndex f e
    let x := e.c.readS e.tick f.a.toNat
    finishC e (fun c =>
      match lrdSpace f with
      | 0 => c.writeV e.tick f.d.toNat ix.1 x
      | 1 => { c with p := Table.put 0 c.p ix.1 (x.truncate 8 &&& 0xFE) }
      | _ => c.setEntry ix.2 (fun en => { en with vops := Table.put 0 en.vops (17 * ix.1 + f.d.toNat) x })) s)

/-- A write of RQWR into an entry (R209): MASK bits can only be cleared. -/
def ReplayEntry.writeWord (en : ReplayEntry) (w : Nat) (x : Word) : ReplayEntry :=
  if 4 ≤ w ∧ w ≤ 11 then
    let keep : Mask := ~~~((0xFFFFFFFF : Mask) <<< (32 * (w - 4))) ||| ((x.zeroExtend 256) <<< (32 * (w - 4)))
    { en with mask := en.mask &&& keep }
  else if 12 ≤ w ∧ w ≤ 27 then { en with sops := listSet (en.sops ++ List.replicate (16 - en.sops.length) 0) (w - 12) x }
  else en
/-- RQRD (R209): an index at or above TRQN reads 0. -/
def execRqrd (f : FS) (s : State) : Host.Outcome State Fault Refusal :=
  issue (.rqrd f) s (fun e s =>
    let x := match e.c.rq[(e.sop 0 f.a).toNat]? with
      | some en => if e.c.inHandler then en.readWord e.wg.w e.wg.threads (f.sysreg.toNat % 32) else 0
      | none => 0
    finishW e [{ scalar := true, reg := f.d.toNat, thread := 0, val := x }] s)
/-- RQWR (R209): a STATUS of 3 removes the entry and lowers its flag. -/
def execRqwr (f : FS) (s : State) : Host.Outcome State Fault Refusal :=
  issue (.rqwr f) s (fun e s =>
    let ix := (e.c.readS e.tick f.a.toNat).toNat
    let x := e.c.readS e.tick f.d.toNat
    let w := f.sysreg.toNat % 32
    finishC e (fun c =>
      if !c.inHandler then c
      else if w = 3 then
        if x.toNat % 4 = 3 then
          match c.rq[ix]? with
          | none => c
          | some en => let d := c.lowerFlag en.flag; { d with rq := d.rq.eraseIdx ix, trqn := d.trqn - 1 }
        else c
      else c.setEntry ix (fun en => en.writeWord w x)) s)

/-! Steps and TIME (R211, R212). -/

/-- A step instruction or TIME waits, RUNNABLE, for every earlier instruction of its coach (R35, R212). -/
def afterEarlier (e : Env) (s t : State) : State := if e.c.flights.isEmpty then t else stall s
/-- STEPO (R211). -/
def execStepo (f : FS) (s : State) : Host.Outcome State Fault Refusal :=
  issue (.stepo f) s (fun e s => afterEarlier e s <|
    let va := e.sop64 0 f.d
    if va.toNat % 64 ≠ 0 then trapAll e (.stepo f) cUNALIGNED va s
    else
      match s.translate (some e.core) e.site e.ctx va Need.both with
      | (.error c, s1) => trapAll e (.stepo f) c va s1
      | (.ok x, s1) => finish e (s1.stepOpen e.ref e.ctx va x.pa))
/-- STEPM (R211). -/
def execStepm (f : FS) (s : State) : Host.Outcome State Fault Refusal :=
  issue (.stepm f) s (fun e s => afterEarlier e s <|
    finish e (match s.findStep e.ref with
      | none => s
      | some (owner, st) => s.putStep owner e.ref (some { st with progress := st.progress + (e.sop 0 f.a).zeroExtend 64 })))
/-- STEPC (R211). -/
def execStepc (f : FS) (s : State) : Host.Outcome State Fault Refusal :=
  issue (.stepc f) s (fun e s => afterEarlier e s <| finish e (s.stepClose e.ref .closed))
/-- TIME (R212). -/
def execTimeI (f : FS) (s : State) : Host.Outcome State Fault Refusal :=
  issue (.timeI f) s (fun e s => afterEarlier e s <|
    let x := (s.time e.site).toNat + (s.waferTime e.site).toNat * 2 ^ 64
    finishW e (putRun true f.d.toNat 4 0 x) s)

end Sys2Proof.Machine
end

