-- ==== Sys2Proof/Machine/Traps.lean ====
section
/-! DEFINITION. The clause fetch (R69-R73), the waits for flags (R21), the taking of traps (R244-R252), the commands of
system software on an escalated coach (R253), the choice of a slice (R300), and the end of coaches, workgroups and
killed grids (R131, R231, R253). -/

namespace Sys2Proof.Machine

/-! Clauses. -/

/-- A header that no clause may have (R73), but for the opcodes of its words. -/
def headerBad (h : Word) : Bool :=
  let setA := bits h.toNat 19 4
  let setB := bits h.toNat 24 4
  hdrCNT h == 0 || hdrCLS h == 7 || (if hdrSETAV h then decide (setA ≥ 12) else decide (setA ≠ 0)) ||
    (if hdrSETBV h then decide (setB ≥ 12) else decide (setB ≠ 0))
/-- The words of the clause at a header, fetched in order with the header (R73): the first fault with its word's address, or
whether a word other than the last is of row 0xC (R71). -/
def State.clauseWords (s : State) (r : CoachRef) (ctx : Nat) (hdr : DWord) (cnt : Nat) : Except (Cause × DWord) Bool × State :=
  (upFrom 1 cnt).foldl (fun (a : Except (Cause × DWord) Bool × State) i =>
    match a with
    | (.error x, t) => (.error x, t)
    | (.ok b, t) =>
      let va := hdr + BitVec.ofNat 64 (4 * i)
      match t.fetchWord r ctx va with
      | (.ok w, u) => (.ok (b || (decide (i < cnt) && isControl (opcodeOf w).toNat)), u)
      | (.error c, u) => (.error (c, va), u)) (.ok false, s)
/-- A coach that is to fetch a clause header. -/
def Env.atHeader (e : Env) : Bool :=
  decide (e.c.state = e.c.ready) && !e.c.woken && e.c.openClause.isNone && e.c.pendTrap.isNone && e.c.escalated.isNone && e.replay.isNone &&
    e.wg.saving.isNone && !(e.c.reconv && !e.c.inHandler)
/-- CLAUSE_FETCH (R70, R72, R73, R90): the header is fetched and the whole clause checked; the clause starts, or waits
for its flags. A fault at the fetch of one of its words comes before any word issues, with TPC at that word (DESIGN CHOICE, log 40);
TMASK of ILLEGAL_CLAUSE is 0 (log 21). -/
def execClauseFetch (s : State) : Host.Outcome State Fault Refusal :=
  let r := argCoach s
  .next (match s.env r with
    | none => s
    | some e =>
      if !e.atHeader then s
      else
        match s.fetchWord r e.ctx e.c.pc with
        | (.error c, s1) => s1.fetchTrap r c e.c.pc none
        | (.ok h, s1) =>
          let cl : Clause := { header := h, next := 0, guard := 0 }
          match s1.clauseWords r e.ctx e.c.pc (hdrCNT h) with
          | (.error x, s2) => s2.fetchTrap r x.1 x.2 (some (cl.anew e.c.pc))
          | (.ok inner, s2) =>
            if headerBad h || inner then s2.takeTrap r cILLEGAL_CLAUSE 0 0 [] e.c.pc none
            else s2.modCoach r (fun c => { c with pc := c.pc + 4, clause := some cl, state := if c.waiting h then .waitFlags else c.state }))
/-- CLAUSE_WAIT_END (R21): every flag that the clause waits for is clear. -/
def execClauseWaitEnd (s : State) : Host.Outcome State Fault Refusal :=
  let r := argCoach s
  .next (match s.coach r with
    | some c =>
      match c.state == .waitFlags, c.clause with
      | true, some cl => if c.waiting cl.header then s else s.setCoach r c.wake
      | _, _ => s
    | none => s)

/-! Traps. -/

/-- TRAP_TAKE (R246): every older entry has completed, and the frame is formed. -/
def execTrapTake (s : State) : Host.Outcome State Fault Refusal :=
  let r := argCoach s
  .next (match s.coach r with
    | some c =>
      match c.pendTrap with
      | some p => if c.flights.any Flight.entry then s else s.formFrame r p.cause p.addr p.mask p.entries p.tpc p.clause false
      | none => s
    | none => s)
/-- ASYNC_TRAP_TAKE (R251, R252): the held cause of the lowest code is taken by a coach that is in no handler. -/
def execAsyncTrapTake (s : State) : Host.Outcome State Fault Refusal :=
  let r := argCoach s
  .next (match s.env r with
    | some e =>
      if e.c.inHandler || e.c.pendTrap.isSome || e.c.escalated.isSome || e.wg.saving.isSome || e.c.woken || e.c.state == .retired then s
      else
        match e.c.nextAsync with
        | some (cause, addr, c) => (s.setCoach r c).asyncTrap r cause addr
        | none => s
    | none => s)

/-- A cause of the class "asynchronous" (R243). -/
def causeAsync (c : Cause) : Bool := c == cRMT_TIMEOUT || c == cRMT_NAK || c == cDEADLINE_RISK || c == cPREEMPT_NOTICE
/-- The bytes of a coach record in an escalation record (R253, R260); none when they cannot be read. -/
def State.escalBytes (s : State) (site ctx : Nat) (va : DWord) : Option (List Byte) × State :=
  match State.devRead 2 s site ctx va 256 with
  | (.error _, s1) => (none, s1)
  | (.ok hd, s1) =>
    match State.devRead 32 s1 site ctx (va + 256) (min (fieldLE hd 4 4 - 256) 1048576) with
    | (.error _, s2) => (none, s2)
    | (.ok bs, s2) => (some bs, s2)
/-- An escalation record is live no longer (R258). -/
def State.freeEscal (s : State) (site ctx : Nat) (va : DWord) : State :=
  if va = 0 then s
  else (s.setContext ctx { s.context ctx with live := (s.context ctx).live - 1 }).poolReset site ctx
/-- The coach with the frame and the replay queue of its escalation record, its escalation ended (R253). A coach for which the pool had no room
has no record, and keeps its frame. -/
def State.reload (s : State) (e : Env) (va : DWord) : Option Coach × State :=
  if va = 0 then (some { e.c with escalated := none }, s)
  else
    match s.escalBytes e.site e.ctx va with
    | (none, s1) => (none, s1)
    | (some bs, s1) =>
      (some { e.c.reframed e.wg bs with escalated := none }, s1.freeEscal e.site e.ctx va)
/-- RESUME (R250, R253): the frame and the replay queue are reloaded, and the coach returns from the trap. While the workgroup is
being saved, or is saved, it has no effect (DESIGN CHOICE, log 42: R253 does not say). -/
def execResume (s : State) : Host.Outcome State Fault Refusal :=
  let r := argCoach s
  .next (match s.env r with
    | none => s
    | some e =>
      match e.c.escalated with
      | none => s
      | some va =>
        if e.c.flights.any Flight.entry || e.wg.saving.isSome then s
        else
          match s.reload e va with
          | (none, s1) => s1
          | (some c, s1) =>
            if !targetOk c.tpc then (s1.setCoach r c).escalate r cBAD_TARGET 0 false true
            else
              let s2 := s1.setCoach r c.returnFromTrap
              if c.tcause = cPREEMPT_NOTICE then s2.noticeDone r else s2)

/-! The end of a workgroup (R131, R231, R294). -/

/-- The slot of a batch whose workgroup has left the core. -/
def goneSlot : Nat := 65535
/-- Give back what a workgroup holds of its core: its slot, its tins, and, with the grid's last workgroup there, the
grid's reservation with its INVALID marks. -/
def State.freeWg (s : State) (slot : Nat) : State :=
  match s.wg slot with
  | none => s
  | some w =>
    let core := coreOfSlot slot
    let s1 := { s with wgs := Table.erase s.wgs slot }
    let c := s1.core core
    let last := !s1.wgs.any (fun x => coreOfSlot x.1 == core && x.2.gid == w.gid)
    let c1 := { c with
      tins := c.tins.filter (fun t => !decide (w.tinBase ≤ t.1 ∧ t.1 < w.tinBase + w.tins)),
      -- ballast after its last pass is charged to its context, not to a batch of the slot's next workgroup (R360)
      lastPass := c.lastPass.map (fun p => if p.slot = slot then { p with slot := goneSlot } else p) }
    s1.setCore core (if last then
      { c1 with resv := c1.resv.filter (fun x => !(x.gid == w.gid)), inval := c1.inval.filter (fun x => !(x.1 == w.gid)) } else c1)
/-- The workgroups of a grid. -/
def Grid.count (g : Grid) : Nat := g.xe * g.ye * g.ze
/-- A workgroup has work in an engine (R91): its last release waits for it. -/
def State.engineWork (s : State) (slot : Nat) : Bool :=
  let x := s.site (siteOfSlot slot)
  x.copyq.any (fun q => q.2.any (fun c => c.slot == slot)) || x.colls.any (fun c => c.slot == slot) ||
    x.remotes.any (fun o => o.slot == slot) || (s.core (coreOfSlot slot)).mq.any (fun m => m.slot == slot &&
      (m.op != .close || ((s.core (coreOfSlot slot)).batchOf slot m.k m.batch).isSome))
/-- What a save waits for (R22, R252, R256): a detected trap's frame, a wait that has ended, the accesses in flight with those of a
handler, and the workgroup's remote operations. -/
def State.saveBusy (s : State) (slot : Nat) : Bool :=
  (match s.wg slot with
   | some w => w.coaches.any (fun c => c.2.pendTrap.isSome || c.2.unperformed || c.2.woken || (c.2.inHandler && c.2.flights.any (fun f => f.entry && f.rep.isSome)))
   | none => false) || (s.site (siteOfSlot slot)).remotes.any (fun o => o.slot == slot)
/-- Batches that a workgroup leaves open end with it, and the held close marks of those that ended in an error: their runs
are written to their tiles. -/
def State.dropBatches (s : State) (slot : Nat) : State :=
  let core := coreOfSlot slot
  let mine := (s.core core).batches.filter (fun b => b.slot == slot)
  let s1 := mine.foldl (fun t b => t.endRun core b) s
  let c := s1.core core
  (s1.setCore core { c with batches := c.batches.filter (fun b => !(b.slot == slot)), mq := c.mq.filter (fun m => !(m.slot == slot)) }).applyDecks core
/-- The end of a grid's last workgroup brings its completion. -/
def State.gridEnd (s : State) (gid : Nat) : State :=
  match s.grid gid with
  | some g => if g.retired ≥ g.count then s.later [⟨.gridCompletion, { EvArgs.zero with id := gid }⟩] else s
  | none => s
/-- Raise every site's horizon to a clock. -/
def State.raiseH (s : State) (k : Word) : State :=
  (List.range 64).foldl (fun t n => t.setSite n { t.site n with h := clkMax (t.site n).h k }) s
/-- The workgroup retires (R231): Release(SYS), the final order clock, which is reported to every site's H, and its resources. -/
def State.retireWg (s : State) (slot : Nat) : State :=
  let s0 := s.dropBatches slot
  let k := s0.release slot scSYS
  match k.2.wg slot with
  | none => k.2
  | some w =>
    let s1 := (k.2.freeWg slot).raiseH k.1
    match s1.grid w.gid with
    | none => s1
    | some g =>
      (s1.setGrid w.gid { g with retired := g.retired + 1, final := if g.retired = 0 then k.1 else clkMax g.final k.1 }).gridEnd w.gid

/-- COACH_SLOT_FREE (R131, R231): a retired coach whose flags are clear gives back its coach slot; with the last one, and
when no engine works for it any longer, the workgroup retires. -/
def execCoachSlotFree (s : State) : Host.Outcome State Fault Refusal :=
  let r := argCoach s
  .next (match s.wg r.slot with
    | none => s
    | some w =>
      match w.coach r.k with
      | none => s
      | some c =>
        if c.state ≠ .retired ∨ !c.flags.isEmpty ∨ w.saving.isSome then s
        else
          let w1 := w.setCoach r.k { c with slotIx := noSlot }
          let s1 := s.setWg r.slot w1
          if w1.coaches.all (fun x => x.2.state == .retired && x.2.slotIx == noSlot) && !s1.engineWork r.slot then s1.retireWg r.slot
          else s1)

/-! KILL (R253). -/

/-- Discard what a workgroup slot has in the engines of its core and site, and in the monitor tables. -/
def State.dropWork (s : State) (slot : Nat) : State :=
  let core := coreOfSlot slot
  let site := siteOfSlot slot
  let c := s.core core
  let s1 := (s.setCore core { c with mq := c.mq.filter (fun m => !(m.slot == slot)), batches := c.batches.filter (fun b => !(b.slot == slot)) }).applyDecks core
  let x := s1.site site
  let mine := x.copyq.flatMap (fun q => (q.2.filter (fun c => c.slot == slot)).map (fun c => (q.1, c)))
  let s2 := mine.foldl (fun (t : State) p => t.endCopy site p.1 p.2) s1
  let y := s2.site site
  let s3 := s2.setSite site { y with
    colls := y.colls.filter (fun c => !(c.slot == slot)), remotes := y.remotes.filter (fun o => !(o.slot == slot)) }
  s3.sites.foldl (fun t e =>
    if e.2.mon.any (fun m => m.slot == slot && !m.absent) then
      t.setSite e.1 { t.site e.1 with mon := (t.site e.1).mon.filter (fun m => !(m.slot == slot && !m.absent)) }
    else t) s3
/-- Give back the queue-waiter counts of a workgroup's coaches. -/
def State.uncountAll (s : State) (w : Workgroup) : State := w.coaches.foldl (fun t c => t.uncount c.2.wait) s

/-! The chain of saved records in a context's pool (R258, R260). -/

/-- The offset of an address in the save area of a context. -/
def State.areaOff (s : State) (ctx : Nat) (va : DWord) : Nat := (va - (s.context ctx).ctxsave).toNat
/-- Take a record out of the pool's chain behind `at_`: the NEXT of its predecessor is rewritten. Offsets are taken from `base`. -/
def State.unlink (fuel : Nat) (s : State) (site ctx : Nat) (base : DWord) (at_ rec_ next : Nat) : State :=
  match fuel with
  | 0 => s
  | f + 1 =>
    if at_ = 0 then s
    else
      let va := base + BitVec.ofNat 64 at_
      match State.devRead 2 s site ctx (va + 8) 8 with
      | (.error _, s1) => s1
      | (.ok b, s1) =>
        let n := ofBytesLE b
        if n = rec_ then (State.devWrite 2 s1 site ctx (va + 8) (bytesLE 8 next)).2 else State.unlink f s1 site ctx base n rec_ next
/-- A record of the pool is freed: it leaves the chain, NSAVED falls, and POOL returns to its start when nothing is live
(R258, R263). -/
def State.freeRecord (s : State) (site ctx : Nat) (va : DWord) : State :=
  match s.saveHeader site ctx with
  | (none, s1) => s1
  | (some h, s1) =>
    let off := s1.areaOff ctx va
    let next := match State.devRead 2 s1 site ctx (va + 8) 8 with | (.ok b, _) => ofBytesLE b | (.error _, _) => 0
    let s2 := if h.first = off then (s1.saveField site ctx 0x20 8 next).2
      else State.unlink (h.nsaved + 1) s1 site ctx (s1.context ctx).ctxsave h.first off next
    (s2.saveField site ctx 0x18 4 (h.nsaved - 1)).2.poolReset site ctx

/-- Discard a saved workgroup. -/
def State.dropSaved (s : State) (site ctx : Nat) (v : SavedWg) : State :=
  let s1 := { s with saved := s.saved.filter (fun x => !(x.gid == v.gid && x.index == v.index)) }
  let s2 := v.coaches.foldl (fun t c => match c.2.escalated with | some va => t.freeEscal site ctx va | none => t) s1
  if v.inPark then s2 else s2.freeRecord site ctx v.va

/-- Every workgroup of a grid is discarded, and the grid completes with status KILLED (R253, R211). -/
def State.killGrid (s : State) (gid : Nat) : State :=
  match s.grid gid with
  | none => s
  | some g =>
    let mine := s.wgs.filter (fun w => w.2.gid == gid)
    let s1 := mine.foldl (fun (t : State) w =>
      let t1 := w.2.coaches.foldl (fun u c =>
        let u1 := u.stepClose { slot := w.1, k := c.1 } .killed
        match c.2.escalated with
        | some va => u1.freeEscal (siteOfSlot w.1) w.2.ctx va
        | none => u1) (t.uncountAll w.2)
      (t1.dropWork w.1).freeWg w.1) s
    let away := s1.saved.filter (fun v => v.gid == gid)
    let s2 := away.foldl (fun (t : State) v =>
      (v.coaches.foldl (fun u c => u.stepClose { slot := awaySlot gid v.index, k := c.1 } .killed) t).dropSaved g.site g.ctx v) s1
    let s3 := s2.sites.foldl (fun t e =>
      if e.2.mon.any (fun m => m.gid == gid && m.absent) then
        t.setSite e.1 { t.site e.1 with mon := (t.site e.1).mon.filter (fun m => !(m.gid == gid && m.absent)) }
      else t) s2
    let s4 := s3.cores.foldl (fun t e =>
      if e.2.ranges.any (fun q => q.gid == gid) then
        t.setCore e.1 { t.core e.1 with ranges := (t.core e.1).ranges.filter (fun q => !(q.gid == gid)) }
      else t) s3
    let final := mine.foldl (fun k w => clkMax k w.2.oclk) g.final
    (s4.setGrid gid { g with
      nextIndex := g.count, held := [], retired := g.count, final := final, status := some 5, killed := true }).later
      [⟨.gridCompletion, { EvArgs.zero with id := gid }⟩]
/-- KILL (R253): a command of system software on an escalated coach. -/
def execKill (s : State) : Host.Outcome State Fault Refusal :=
  let r := argCoach s
  .next (match s.env r with
    | some e => if e.c.escalated.isSome then s.killGrid e.wg.gid else s
    | none => s)
/-- REFLECT (R248, R253): the coach enters its user handler for the record's cause; without one, its grid is killed. -/
def execReflect (s : State) : Host.Outcome State Fault Refusal :=
  let r := argCoach s
  .next (match s.env r with
    | none => s
    | some e =>
      match e.c.escalated with
      | none => s
      | some va =>
        if e.wg.saving.isSome then s
        else
          match s.reload e va with
          | (none, s1) => s1
          | (some c, s1) =>
            match (s1.setCoach r c).handler e.site e.ctx c.tcause with
            | (some h, s2) => s2.modCoach r (fun d => d.enterHandler e.wg.threads h (causeAsync c.tcause))
            | (none, s2) => s2.killGrid e.wg.gid)

/-! The choice of a slice (R300, R350). -/

/-- A coach that could issue: RUNNABLE, or TRAPPED with its handler running, or with a trap to take. -/
def mayIssue (w : Workgroup) (c : Coach) : Bool :=
  (w.saving.isNone || c.injected || c.woken) && c.escalated.isNone && (c.state == .runnable || (c.state == .trapped && c.inHandler)) &&
    (c.pendTrap.isNone || !c.flights.any Flight.entry)
/-- The count at which a coach is promoted. -/
def promoteAt : Nat := 32
/-- The order of choice: promoted coaches by falling count, then the oldest ready stamp, then the lowest coach slot. -/
def chooseOrder (l : List (CoachRef × Workgroup × Coach)) : List (CoachRef × Workgroup × Coach) :=
  sortBy (fun x => if x.2.2.starv ≥ promoteAt then 2 ^ 64 - x.2.2.starv else 2 ^ 64) (sortBy (fun x => x.2.2.stamp) (sortBy (fun x => x.2.2.slotIx) l))
/-- The slice cycles that a slice has in 8 cluster cycles (R350), by SLRATIO as it was at the last edge of the cluster clock. -/
def State.sliceRate (s : State) (core slice : Nat) : Nat :=
  let c := s.core core
  let k := s.clk (siteOfCore core)
  let now := s.win (siteOfCore core) (offSLRATIO (core % 32))
  let v := match c.ratioOld with | some (old, at_) => if at_ = k then old else now | none => now
  if v.getLsbD 18 && (c.autoIdle.getLsbD slice || decide (k < Table.getD c.cycles (32 + slice) 0)) then 4 else 8 - fld v (3 * slice) 3
/-- SLICE_ISSUE_CYCLE (R300): the next cycle of a slice, when its clock has one. Every ready coach takes its turn in the order of
choice, and issues when its octets are free then (Fetch.lean): one that cannot issue leaves them to the next choice. A RUNNABLE
coach counts one more cycle unless it issues or an instruction of its own still issues; a coach that is not ready becomes so in
a later cycle. Which accesses find a resource not yet free (R35) and whether those without ordering perform later are free:
`value` and `ok`. -/
def execSliceIssueCycle (s : State) : Host.Outcome State Fault Refusal :=
  let core := s.arg.core
  let sl := s.arg.n
  let c := s.core core
  let now := s.clk (siteOfCore core)
  let group := now / 8
  let used := if Table.getD c.cycles (8 + sl) 0 / 16 = group then Table.getD c.cycles (8 + sl) 0 % 16 else 0
  .next (if sl ≥ 6 ∨ core ≥ 2048 ∨ Table.getD c.cycles sl 0 = now + 1 ∨ used ≥ s.sliceRate core sl then s
    else
      let cyc := s.sliceCycle core sl + 1
      let all := s.onSlice core sl
      let t0 := Table.insert (Table.insert (Table.insert c.cycles sl (now + 1)) (8 + sl) (16 * group + used + 1)) (16 + sl) cyc
      let s1 := s.setCore core { c with cycles := t0 }
      let ready := all.filter (fun x => mayIssue x.2.1 x.2.2 && decide (x.2.2.stamp ≤ cyc ∧ x.2.2.yieldAt ≠ cyc))
      let s2 := all.foldl (fun (t : State) x => t.modCoach x.1 (fun d =>
        { d with
          stamp := if mayIssue x.2.1 x.2.2 then d.stamp else cyc + 1,
          starv := if d.state == .runnable && decide (d.holds ≤ cyc) then d.starv + 1 else d.starv })) s1
      { s2 with issue := s2.issue ++ (chooseOrder ready).map (fun x => x.1), late := s.arg.ok, missing := s.arg.value.truncate 8 })

end Sys2Proof.Machine
end

