-- ==== Sys2Proof/Machine/Maintain.lean ====
section
/-! DEFINITION. The device's upkeep: order-clock reports (R230, R231), the age sweep (R236), page walks (R286),
refresh-exempt regions (R284, R285, R375), invalidation of translations (R287), writes of window registers (R374),
errors and self-tests (R380), and the evacuation of DRAM banks (R271, R367). -/

namespace Sys2Proof.Machine

/-! Clocks and race metadata. -/

/-- How far an order clock may fall behind the horizon (R231). -/
def lagMax : Nat := 2 ^ 21
/-- A clock brought up to the horizon less 2^21, when it is further behind (R231). -/
def raiseLag (h k : Word) : Word := if later32 (h - BitVec.ofNat 32 lagMax) k then h - BitVec.ofNat 32 lagMax else k
/-- The largest order clock of a site's resident workgroups. -/
def State.siteClock (s : State) (n : Nat) : Option Word :=
  (s.wgs.filter (fun w => siteOfSlot w.1 == n)).foldl (fun a w => some (match a with | none => w.2.oclk | some k => clkMax k w.2.oclk)) none
/-- HORIZON_REPORT (R230, R231): a site's largest order clock reaches every site, and its workgroups that have fallen far
behind are raised. -/
def execHorizonReport (s : State) : Host.Outcome State Fault Refusal :=
  let n := s.arg.site
  .next (match s.siteClock n with
    | none => s
    | some k =>
      let s1 := (List.range 64).foldl (fun (t : State) m => t.setSite m { t.site m with h := clkMax (t.site m).h k }) s
      let h := (s1.site n).h
      { s1 with wgs := Table.mapVal (fun slot w => if siteOfSlot slot = n then { w with oclk := raiseLag h w.oclk } else w) s1.wgs })
/-- AGE_SWEEP (R236, R237): the lines of a slice lose their aged entries, and the site a floor that has aged. -/
def execAgeSweep (s0 : State) : Host.Outcome State Fault Refusal :=
  let h := (s0.site s0.arg.site).h
  let x := s0.site s0.arg.site
  let s := if liveFloor h x.f = x.f then s0 else s0.setSite s0.arg.site { x with f := none }
  .next { s with lines := Table.mapVal (fun key m =>
    if homeSite (key * 128) = s.arg.site ∧ homeSlice (key * 128) = s.arg.n then m.aged h else m) s.lines }
/-- A coach whose next turn fetches the word at an address: it may issue, and neither takes a trap nor performs again what it has issued. -/
def fetchesAt (w : Workgroup) (c : Coach) (va : DWord) : Bool :=
  mayIssue w c && c.pendTrap.isNone && c.rq.isEmpty && !c.woken && !c.reconv && c.pc == va
/-- A coach of a core, in a context, fetches at an address next. -/
def State.fetching (s : State) (core ctx : Nat) (va : DWord) : Bool :=
  s.wgs.any (fun w => coreOfSlot w.1 == core && w.2.ctx == ctx && w.2.coaches.any (fun c => fetchesAt w.2 c.2 va))
/-- PAGE_WALK (R286): a walker of a core's site translates the page of the word that a coach of the core fetches next, which both TLBs
miss, and they hold the translation when the word may be executed. The walk of every other access that misses is part of the access
(DESIGN CHOICE, log 106). -/
def execPageWalk (s : State) : Host.Outcome State Fault Refusal :=
  let core := s.arg.core
  let n := siteOfCore core
  .next (if core < coreCount ∧ s.fetching core s.arg.n s.arg.value = true ∧
      (tlbFind (s.core core).tlb s.arg.n s.arg.value).isNone = true ∧ (tlbFind (s.site n).tlb s.arg.n s.arg.value).isNone = true then
      (s.translate (some core) n s.arg.n s.arg.value Need.exec).2
    else s)

/-! Refresh-exempt regions (R284, R285, R375). -/

def State.rexBase (s : State) (n i : Nat) : Nat := (s.win n (offREX i)).toNat
def State.rexLen (s : State) (n i : Nat) : Nat := (s.win n (offREX i + 8)).toNat
/-- A byte of a site's DRAM lies in a region. -/
def State.inRex (s : State) (n i pa : Nat) : Bool :=
  decide (paSpace pa ≤ 1 ∧ homeSite pa = n ∧ s.rexBase n i ≤ s.dramOffset pa ∧ s.dramOffset pa < s.rexBase n i + s.rexLen n i)
/-- An armed region's deadline has passed. -/
def State.rexPast (s : State) (n i : Nat) : Bool := (s.site n).armed.getLsbD i && decide ((s.win n (offREX i + 16)).toNat ≤ (s.time n).toNat)
/-- The lines of a region whose deadline has passed leave their slices without write-back, with their race metadata (R238, R285): what
the DRAM holds of their bytes is not known. -/
def State.discardRex (s : State) (n i : Nat) : State :=
  if (s.site n).expired.getLsbD i then s
  else
    let gone := s.lines.filter (fun e => s.inRex n i (128 * e.1))
    let x := s.site n
    ({ s with
      lines := s.lines.filter (fun e => !s.inRex n i (128 * e.1))
      mem := gone.foldl (fun (m : Memory) (e : Nat × LineMeta) => Memory.writeN m (128 * e.1) ((upFrom (128 * e.1) 128).map (Config.lostByte s.tick))) s.mem }.setSite n
      { x with expired := x.expired ||| BitVec.ofNat 16 (2 ^ i) }).addWin n offDROPPED (gone.foldl (fun (a : Nat) (e : Nat × LineMeta) => a + e.2.count) 0)
/-- Write zeros to a region: the memory of its site keeps none of its bytes. The writes are compared with the monitors, and the
queue controllers doubt the blocks among them (R158, R318). -/
def State.zeroRex (s : State) (n i : Nat) : State :=
  let t := s.discardRex n i
  let u : State :=
    { t with
      mem := t.mem.foldl (fun m c => if t.inRex n i c.1 then Memory.write m c.1 0 else m) t.mem
      poison := t.poison.filter (fun g => !t.inRex n i (16 * g)) }
  let qs := (u.sites.flatMap (fun x => x.2.qcbs.map QcbHeld.pa)).filter (u.inRex n i)
  let ms := (u.sites.flatMap (fun x => x.2.mon.map MonEntry.pa)).eraseDups.filter (u.inRex n i)
  ms.foldl (fun v pa => v.fireMonitors pa 4) (qs.foldl (fun v pa => v.doubtQcbs pa 64) u)
/-- Two ranges share a byte. -/
def rangesMeet (a n b m : Nat) : Bool := decide (a < b + m ∧ b < a + n)
/-- The command of REXCMD has ended. -/
def State.rexDone (s : State) (n : Nat) : State := s.endCmd n offREXCMD 2
/-- A REXCMD command runs on the region. -/
def State.rexRuns (s : State) (n i cmd : Nat) : Bool :=
  match s.cmd n offREXCMD with
  | some v => decide (n < 64 ∧ i < 16) && fld v 4 2 == cmd && fld v 6 4 == i
  | none => false
/-- ARM (R284, R375). A refused one is logged as an event of kind 11, of class 1 and the region's number (DESIGN CHOICE, log 125). -/
def execArm (s : State) : Host.Outcome State Fault Refusal :=
  let n := s.arg.site
  let i := s.arg.n
  .next (if !s.rexRuns n i 1 then s
    else
      let b := s.rexBase n i
      let len := s.rexLen n i
      if b % 65536 ≠ 0 ∨ len % 65536 ≠ 0 ∨ (List.range 16).any (fun j =>
          j != i && (s.site n).armed.getLsbD j && rangesMeet b len (s.rexBase n j) (s.rexLen n j)) = true then
        (s.rexDone n).logEvent n evOther 1 i 0 0
      else
        let s1 := if s.rexPast n i then s.zeroRex n i else s
        let x := s1.site n
        ((s1.setSite n { x with armed := x.armed ||| BitVec.ofNat 16 (2 ^ i), expired := x.expired &&& ~~~BitVec.ofNat 16 (2 ^ i) }).setWin n
          (offREX i + 16) (s.time n + 48000000)).rexDone n)
/-- DISARM (R284). -/
def execDisarm (s : State) : Host.Outcome State Fault Refusal :=
  let n := s.arg.site
  let i := s.arg.n
  .next (if !s.rexRuns n i 2 then s
    else
      let s1 := if s.rexPast n i then s.zeroRex n i else s
      let x := s1.site n
      (s1.setSite n { x with armed := x.armed &&& ~~~BitVec.ofNat 16 (2 ^ i), expired := x.expired &&& ~~~BitVec.ofNat 16 (2 ^ i) }).rexDone n)
/-- REX_DEADLINE (R285): at its deadline the lines of a region are discarded. -/
def execRexDeadline (s : State) : Host.Outcome State Fault Refusal :=
  let n := s.arg.site
  let i := s.arg.n
  .next (if n ≥ 64 ∨ i ≥ 16 ∨ s.rexPast n i = false then s else s.discardRex n i)

/-! Invalidation of translations (R287). -/

/-- Drop translations and walker entries from every site and core. -/
def State.dropXlate (s : State) (tlb : TlbEntry → Bool) (ctx : Option Nat) : State :=
  { s with
    sites := Table.mapVal (fun _ x => { x with
      tlb := x.tlb.filter (fun e => !tlb e), walk := x.walk.filter (fun (e : Nat × Nat × Nat × DWord) => match ctx with | some c => !(e.2.1 == c) | none => false) }) s.sites
    cores := Table.mapVal (fun _ c => { c with tlb := c.tlb.filter (fun e => !tlb e) }) s.cores }
/-- Drop the cached FRDs of a context, or of all. -/
def State.dropFrd (s : State) (ctx : Option Nat) : State :=
  { s with sites := Table.mapVal (fun _ x => { x with
      frd := x.frd.filter (fun e => match ctx with | some c => !(e.1 == c) | none => false) }) s.sites }
/-- The pages through which an entry's operands are pinned. -/
def MEntry.pages (m : MEntry) : List (Nat × Nat) := match m.op with | .mma _ _ _ _ a b => if m.consumed then [] else a.pages ++ b.pages | _ => []
/-- The entry pins operands that were decoded by a descriptor of a format (R173, R178). -/
def MEntry.coded (m : MEntry) : Bool := match m.op with | .mma _ _ _ _ a b => !m.consumed && (a.coded || b.coded) | _ => false
/-- Such operands of a context are pinned. -/
def State.pinnedCoded (s : State) (ctx : Nat) : Bool := s.cores.any (fun c => c.2.mq.any (fun m => m.coded && m.ctx == ctx))
/-- An operand pins L2 lines (R178, R308) of a context, or of all, through a page that a test names. -/
def State.pinned (s : State) (ctx : Option Nat) (page : Nat × Nat → Bool) : Bool :=
  s.cores.any (fun c => c.2.mq.any (fun m => m.pages.any page && (match ctx with | some x => m.ctx == x | none => true)))
/-- The command of TLBINV that runs, when it is of a kind. -/
def State.invRuns (s : State) (n kind : Nat) : Option DWord :=
  if n < 64 then (s.cmd n offTLBINV).filter (fun v => fld v 2 3 == kind) else none
/-- The invalidation completes, unless an operand's pins hold it. -/
def State.invDone (s : State) (n : Nat) (held : Bool) : State := if held then s else s.endCmd n offTLBINV 2
/-- TLBINV_PAGE: the pages of each size at VA. -/
def execTlbinvPage (s : State) : Host.Outcome State Fault Refusal :=
  let n := s.arg.site
  .next (match s.invRuns n 0 with
    | none => s
    | some v =>
      let c := fld v 8 8
      let va := v.toNat / 65536 * 65536
      (s.dropXlate (fun e => e.ctx == c && va / 2 ^ pageShift e.level == e.vpn) (some c)).invDone n
        (s.pinned (some c) (fun p => va / 2 ^ pageShift p.1 == p.2)))
/-- TLBINV_CONTEXT: all that is held of CTX. -/
def execTlbinvContext (s : State) : Host.Outcome State Fault Refusal :=
  let n := s.arg.site
  .next (match s.invRuns n 1 with
    | none => s
    | some v =>
      let c := fld v 8 8
      ((s.dropXlate (fun e => e.ctx == c) (some c)).dropFrd (some c)).invDone n (s.pinned (some c) (fun _ => true)))
/-- TLBINV_FRD: the FRD cache of CTX; the operands decoded through it hold the command while they are pinned. -/
def execTlbinvFrd (s : State) : Host.Outcome State Fault Refusal :=
  let n := s.arg.site
  .next (match s.invRuns n 2 with
    | none => s
    | some v => (s.dropFrd (some (fld v 8 8))).invDone n (s.pinnedCoded (fld v 8 8)))
/-- TLBINV_ALL: all contexts. -/
def execTlbinvAll (s : State) : Host.Outcome State Fault Refusal :=
  let n := s.arg.site
  .next (match s.invRuns n 3 with
    | none => s
    | some _ => ((s.dropXlate (fun _ => true) none).dropFrd none).invDone n (s.pinned none (fun _ => true)))

/-! Registers, errors and banks. -/

/-- REGISTER_WRITE (R374): an aligned write of 8 bytes reaches a window. -/
def execRegisterWrite (s : State) : Host.Outcome State Fault Refusal :=
  .next (if s.arg.site < 64 ∧ s.arg.pa % 8 = 0 ∧ s.arg.pa < 2 ^ 44 then Ssc.write s s.arg.site s.arg.pa s.arg.value else s)
/-- The unit that an error names, by its class (R380): an L2 slice and a DRAM bank by the address, a core's buffer by its core and kind; of
the other classes the event gives the number. -/
def State.eccUnit (s : State) : Nat :=
  match s.arg.m, Buf.ofKind s.arg.k with
  | 0, _ => homeSlice s.arg.pa
  | 1, _ => s.dramOffset s.arg.pa / bankBytes
  | 2, some b => bufUnit s.arg.core b
  | _, _ => s.arg.p
/-- The unit belongs to the site. -/
def State.eccHere (s : State) : Bool :=
  let n := s.arg.site
  match s.arg.m with
  | 0 | 1 => decide (paSpace s.arg.pa ≤ 1 ∧ homeSite s.arg.pa = n)
  | 2 => decide (siteOfCore s.arg.core = n) && (Buf.ofKind s.arg.k).isSome
  | m => decide (m ≤ 5)
/-- ECC_SELF_TEST (R380): a corrected (1) or uncorrectable (2) error or a parity error (3) of a unit is logged, and the unit
comes under test. An uncorrectable error of memory, or of the buffer of kind k of a core of the site, leaves its 16 bytes
poisoned (R270). -/
def execEccSelfTest (s : State) : Host.Outcome State Fault Refusal :=
  let n := s.arg.site
  let unit := s.eccUnit
  .next (if n ≥ 64 ∨ s.arg.n < 1 ∨ s.arg.n > 3 ∨ s.eccHere = false then s
    else
      let s1 := s.logEvent n s.arg.n s.arg.m unit 0 (if s.arg.m ≤ 1 then s.arg.pa else 0)
      let x := s1.site n
      let u := (s.arg.m, unit)
      let s2 := if x.testing.contains u then s1 else s1.setSite n { x with testing := x.testing ++ [u] }
      if s.arg.n = 2 ∧ s.arg.m ≤ 1 ∧ s2.poison.contains (s.arg.pa / 16) = false then
        { s2 with poison := s2.poison ++ [s.arg.pa / 16] }
      else if s.arg.n = 2 ∧ s.arg.m = 2 then
        let c := s2.core s.arg.core
        s2.setCore s.arg.core { c with bad := if c.bad.contains (s.arg.k, s.arg.pa / 16) then c.bad else c.bad ++ [(s.arg.k, s.arg.pa / 16)] }
      else s2)
/-- TARGETED_SELF_TEST_END (R380): the result is logged; a LASTING deck (`ok`) becomes FAILED. A deck's test ends at a batch's
close. -/
def execTargetedSelfTestEnd (s : State) : Host.Outcome State Fault Refusal :=
  let n := s.arg.site
  let u := (s.arg.m, s.arg.p)
  .next (if n ≥ 64 ∨ (s.site n).testing.contains u = false then s
    else
      let core := 32 * n + s.arg.p / 4 % 32
      let d := s.arg.p % 4
      if s.arg.m = 4 ∧ (s.core core).deckOpen d = true then s
      else
        let x := s.site n
        let s1 := (s.setSite n { x with testing := x.testing.filter (fun t => !(t == u)) }).logEvent n evSelfTest s.arg.m s.arg.p
          (if s.arg.ok then 2 else 1) 0
        if s.arg.m = 4 && s.arg.ok then s1.loseDeck core d 2 else s1)
/-- A bank holds rows of an armed region. -/
def State.bankExempt (s : State) (n bank : Nat) : Bool :=
  (List.range 16).any (fun i => (s.site n).armed.getLsbD i && rangesMeet (bankBytes * bank) bankBytes (s.rexBase n i) (s.rexLen n i))
/-- The coolest layer with a free spare, by what the sensors of the layers read; the lowest on a tie. -/
def coolestLayer (spare : Table Nat) (reads : List Word) : Option Nat :=
  (sortBy (fun l => (reads.getD l 0).toNat) ((List.range 8).filter (fun l => (Table.find spare l).isNone))).head?
/-- DRAM_EVACUATE (R271, R367): the sensor of bank n reads `value` °C, and those of the layers `words`. An evacuation begins, DONE reads
0, and the bank's rows move in chunks on copy engine 3 (EVAC's chunks are COPY_CHUNK's). A bank that cannot be evacuated is reported;
one whose rows are moving, or have moved, is hot no more. -/
def execDramEvacuate (s : State) : Host.Outcome State Fault Refusal :=
  let n := s.arg.site
  let x := s.site n
  .next (if n ≥ 64 ∨ s.arg.n ≥ 128 ∨ s.arg.value.toNat < s.tDram n ∨ x.spare.any (fun e => e.2 == s.arg.n) = true ∨
      x.evac.any (fun e => e.bank == s.arg.n) = true then s
    else
      match coolestLayer x.spare s.arg.words with
      | some l =>
        if s.epol.getLsbD 3 && (s.win n offEVACCTL).getLsbD 1 && x.evac.isNone && !s.bankExempt n s.arg.n then
          (s.setSite n { x with evac := some { bank := s.arg.n, layer := l, chunk := 0 } }).setWin n offEVACCTL (setFld (s.win n offEVACCTL) 1 1 0)
        else s.logEvent n evThermal 1 s.arg.n 0 0
      | none => s.logEvent n evThermal 1 s.arg.n 0 0)
/-- BACK (R367): the rows of a sleeping bank return from its spare. -/
def execBack (s : State) : Host.Outcome State Fault Refusal :=
  let n := s.arg.site
  let x := s.site n
  .next (match s.cmd n offEVACCTL with
    | none => s
    | some v => (s.setSite n { x with spare := x.spare.filter (fun e => !(e.2 == fld v 4 8)) }).endCmd n offEVACCTL 2)

end Sys2Proof.Machine
end

