-- ==== Sys2Proof/Machine/Place.lean ====
section
/-! DEFINITION. A word placed as the next instruction to run: what a launch from outside (R373, R291, R294) and the
fetch of its clause leave, made at once. Used by `State.withFetchWord`. -/

namespace Sys2Proof.Machine

/-- The coach of a placed word: W = 8, D = 1, all threads active, its clause fetched (R26, R73). -/
def Coach.start (entry args : DWord) (n : Nat) : Coach :=
  { state := .runnable, pc := entry, clause := none, exec := maskAll n, exited := 0, v := [],
    s := Table.put 0 (Table.put 0 [] 2 (args.truncate 32)) 3 ((args >>> 32).truncate 32), p := [], flags := [], div := [],
    dphase := 0, tcause := 0, tpc := 0, taddr := 0, trqn := 0, tmask := 0, frame := none, pendTrap := none, rq := [],
    flights := [], nextId := 0, wait := Wait.none, deadlineRisk := false, preemptNotice := false, rfails := [],
    heldCauses := [], escalated := none, stepRec := 0, openBatch := 1, lastBatch := 0, reports := [], batchWrap := false, reconv := false,
    copies := 0, slice := 0, octet := 0, slotIx := 0, stamp := 0, holds := 0, starv := 0 }

/-- The VA and PA of the page a placed word lies in, and of its tables. -/
def placeVa : DWord := 0x10000
def placePa : Nat := 0x10000
def placeRoot : Nat := 0x1000

/-- The page table of a placed word: one 64 KiB page, readable, writable, executable, accessed and dirty (R278-R280). -/
def placeTables : List (Nat × Nat) :=
  [(0x1000, 0x20 * 2 ^ 20 + 1), (0x2000, 0x30 * 2 ^ 20 + 1), (0x3000, 0x40 * 2 ^ 20 + 1), (0x4008, 1 * 2 ^ 28 + 0xC0001F)]

/-- The header of a clause of one word whose class is that of the word's opcode row (R72, R75). -/
def placeHeader (w : Word) : Word := BitVec.ofNat 32 (classOf (opcodeOf w).toNat * 16 + 1)

/-- A workgroup of one coach of W = 8, D = 1 with every register declared (R17, R24). -/
def placeWg (w : Word) : Workgroup :=
  let c := { Coach.start placeVa 0 8 with pc := placeVa + 4, clause := some { header := placeHeader w, next := 0, guard := 0 } }
  { ctx := 0, gid := 0, index := 0, x := 0, y := 0, z := 0, w := 8, logd := 0, ncoach := 1, vregs := 64, sregs := 64, haz := false,
    oclk := 1, baseSlice := 0, sbufBase := 0, sbufSize := 0, tinBase := 0, tins := 0, bars := [(0, { Bar.zero with e := 8 })],
    coaches := [(0, c)], startTime := 0, saving := none, noticeEnd := none, noticeLeft := [], parkTo := 0, moveTo := none }

/-- The grid of the placed workgroup. -/
def placeGrid : Grid :=
  { ctx := 0, num := 0, site := 0, entry := placeVa, args := 0, w := 8, logd := 0, ncoach := 1, vregs := 64, sregs := 64, haz := false,
    tins := 0, sbuf := 0, xbuf := 0, wbuf := 0, abuf := 0, park := 0, bwafer := 0, bsite := 0, bquad := 0, bcore := 0, bwg := 0,
    bpod := 0, xe := 1, ye := 1, ze := 1, notice := 0, tree := false, stagger := false, prio := 0, sites := 0, parkVa := 0,
    crec := 0, tag := 0, clock := 0, t0 := 0, nextIndex := 1, nextSite := 0, regions := [], started := 1, retired := 0,
    startedAt := 0, final := 0, status := none, killed := false, held := [] }

/-- A state with a word placed as the next instruction of a coach that is chosen to issue. -/
def State.place (s : State) (w : Word) : State :=
  let m1 := placeTables.foldl (fun m e => Memory.writeN m e.1 (bytesLE 8 e.2)) s.mem
  let m2 := Memory.writeN m1 placePa (wordBytes (placeHeader w) ++ wordBytes w)
  let s0 := { s with
    mem := m2, poison := s.poison.filter (fun b => b ≠ placePa / 16), agenda := [], issue := [{ slot := 0, k := 0 }],
    wgs := s.wgs.filter (fun w => coreOfSlot w.1 ≠ 0) }
  let s1 := ((s0.setCore 0 { s0.core 0 with tlb := [] }).setSite 0 { s0.site 0 with tlb := [], walk := [] }).setWin 0 (offCTX 0) (BitVec.ofNat 64 (placeRoot + 3))
  ((s1.setContext 0 { s1.context 0 with resident := true }).setGrid 0 placeGrid).setWg 0 (placeWg w)

end Sys2Proof.Machine
end

