-- ==== Sys2Proof/Machine/Sched.lean ====
section
/-! DEFINITION. Room on a core and the placing of a workgroup (R14-R18, R153, R273, R277, R294), the launch unit (R288-R292),
placement with its order (R293, R296, R297), the distributor tree (R298, R299), and what makes room (R276, R301). -/

namespace Sys2Proof.Machine

/-! Room (R294). -/

def coresOf (site : Nat) : List Nat := upFrom (32 * site) 32
/-- The sites that may hold workgroups of a grid (R289). -/
def Grid.siteSet (g : Grid) : List Nat := if g.sites = 0 then List.range 64 else (List.range 64).filter (fun n => g.sites.getLsbD n)
/-- The lowest free address of a range of a size, under a limit, among ranges taken. -/
def lowestGap (size limit : Nat) (occ : List (Nat × Nat)) : Option Nat :=
  let clear (a : Nat) (o : Nat × Nat) : Bool := decide (size = 0 ∨ o.2 = 0 ∨ a + size ≤ o.1 ∨ o.1 + o.2 ≤ a)
  listMin? ((0 :: occ.map (fun o => o.1 + o.2)).filter (fun a => decide (a + size ≤ limit) && occ.all (clear a)))

/-- What a coach takes of its slice: octets from the first, the register words per lane, and its coach slot. -/
structure Bind where
  slice : Nat
  octet : Nat
  octets : Nat
  words : Nat
  slotIx : Nat
  deriving DecidableEq, Repr
/-- The binds of a core's coaches. -/
def State.binds (s : State) (core : Nat) : List Bind :=
  (s.wgs.filter (fun w => coreOfSlot w.1 == core)).flatMap (fun w =>
    (w.2.coaches.filter (fun c => decide (c.2.slotIx ≠ noSlot))).map (fun c =>
      { slice := c.2.slice, octet := c.2.octet, octets := octetsOf w.2.w, words := w.2.depth * w.2.vregs, slotIx := c.2.slotIx : Bind }))
def sliceSlots : Nat := 8
def laneWords : Nat := 256
/-- Bind one coach to a slice: the lowest aligned octet group with free registers, and the lowest free slot. -/
def bindOne (use : List Bind) (slice octets words : Nat) : Option Bind :=
  let mine := use.filter (fun b => b.slice == slice)
  let used (o : Nat) : Nat := sumOf ((mine.filter (fun b => decide (b.octet ≤ o ∧ o < b.octet + b.octets))).map Bind.words)
  let fits (o : Nat) : Bool := decide (o % octets = 0 ∧ o + octets ≤ 8) && (upFrom o octets).all (fun j => decide (used j + words ≤ laneWords))
  match (List.range 8).find? fits, (List.range sliceSlots).find? (fun i => !mine.any (fun b => b.slotIx == i)) with
  | some o, some i => some { slice := slice, octet := o, octets := octets, words := words, slotIx := i }
  | _, _ => none
/-- Bind n coaches from coach k on, coach k to slice (b + k) mod 6 (R17). -/
def bindAll (n : Nat) (use : List Bind) (b k octets words : Nat) : Option (List Bind) :=
  match n with
  | 0 => some []
  | n + 1 =>
    match bindOne use ((b + k) % 6) octets words with
    | none => none
    | some x => (bindAll n (use ++ [x]) b (k + 1) octets words).map (fun l => x :: l)
/-- The free coach slots of the slices that a workgroup with base slice b uses. -/
def freeOn (use : List Bind) (b n : Nat) : Nat :=
  sumOf ((List.range 6).map (fun sl =>
    if (List.range n).any (fun k => decide ((b + k) % 6 = sl)) then sliceSlots - (use.filter (fun x => x.slice == sl)).length else 0))
/-- The base slice and the binds of a workgroup: the base with the most free coach slots, then the lowest. -/
def bindBest (use : List Bind) (n octets words : Nat) : Option (Nat × List Bind) :=
  ((List.range 6).filterMap (fun b => (bindAll n use b 0 octets words).map (fun l => (b, l)))).foldl (fun best x =>
    match best with
    | none => some x
    | some y => if freeOn use x.1 n > freeOn use y.1 n then some x else best) none

/-- A place for a workgroup on a core. -/
structure Room where
  w : Nat
  base : Nat
  binds : List Bind
  sbuf : Nat
  tin : Nat
  resv : Option Resv
  deriving DecidableEq, Repr

def sbufBytes : Nat := 524288
def xbufBytes : Nat := 1048576
def wbufBytes : Nat := 2097152
def abufBytes : Nat := 524288
/-- The reservation that a grid would take on a core that holds none of its workgroups; none when it does not fit. -/
def newResv (c : Core) (gid : Nat) (g : Grid) : Option Resv :=
  match lowestGap g.xbuf xbufBytes (c.resv.map (fun r => (r.xbase, r.xsize))), lowestGap g.wbuf wbufBytes (c.resv.map (fun r => (r.wbase, r.wsize))),
      lowestGap g.abuf abufBytes (c.resv.map (fun r => (r.abase, r.asize))) with
  | some x, some w, some a => some { gid := gid, xbase := x, xsize := g.xbuf, wbase := w, wsize := g.wbuf, abase := a, asize := g.abuf }
  | _, _, _ => none
/-- The barrier slots that a grid declares for a scope, with the pool of an instance (R20, R153). -/
def Grid.declared (g : Grid) (scope : Nat) : Nat := match scope with | 2 => g.bcore | 3 => g.bquad | 4 => g.bsite | _ => g.bwafer
def barPool (scope : Nat) : Nat := match scope with | 2 | 3 => 32 | _ => 64
/-- An instance can give a grid the slots it declares, or has given them. -/
def State.poolHas (s : State) (scope inst gid : Nat) (g : Grid) : Bool :=
  s.given.any (fun x => x.1 == scope && x.2.1 == inst && x.2.2.1 == gid) ||
    decide (sumOf ((s.given.filter (fun x => x.1 == scope && x.2.1 == inst)).map (fun x => x.2.2.2)) + g.declared scope ≤ barPool scope)
/-- The room that a core has for a workgroup of a grid (R294). -/
def State.roomOn (s : State) (core gid : Nat) (g : Grid) : Option Room :=
  let here := s.wgs.filter (fun w => coreOfSlot w.1 == core)
  let c := s.core core
  if !s.powered (siteOfCore core) || core ≥ 2048 then none
  else
    match (List.range 16).find? (fun w => (s.wg (16 * core + w)).isNone), bindBest (s.binds core) g.ncoach (octetsOf g.w) (2 ^ g.logd * g.vregs),
        lowestGap g.sbuf sbufBytes (here.map (fun w => (w.2.sbufBase, w.2.sbufSize))), lowestGap g.tins 64 (here.map (fun w => (w.2.tinBase, w.2.tins))) with
    | some w, some (b, l), some sb, some t =>
      let held := c.resv.any (fun r => r.gid == gid)
      let r := if held then none else newResv c gid g
      if (held || r.isSome) && [2, 3, 4].all (fun sc => s.poolHas sc (scopeInst sc core) gid g) then
        some { w := w, base := b, binds := l, sbuf := sb, tin := t, resv := r }
      else none
    | _, _, _, _ => none

/-! Placing (R277, R294). -/

def unitBytes : Nat := 32768
/-- The SBUF units that a range meets. -/
def sbufUnits (base size : Nat) : List Nat :=
  if size = 0 then [] else upFrom (base / unitBytes) ((base + size - 1) / unitBytes - base / unitBytes + 1)
/-- Return a lent unit to the SBUF: its way's dirty bytes are written back and its lines invalidated (R277). -/
def State.reclaim (s : State) (core u : Nat) : State :=
  let c := s.core core
  if !c.lent.contains u then s
  else
    let s1 := (c.cc.filter (fun l => l.2.way == 8 + u)).foldl (fun t l => t.ccDrop core l.1) s
    s1.setCore core { s1.core core with lent := (s1.core core).lent.filter (fun x => decide (x ≠ u)) }
/-- Take a place: the lent units of its SBUF range return, the grid's reservation is made with its INVALID marks clear,
and the barrier units give the grid its slots. -/
def State.take (s : State) (core gid : Nat) (g : Grid) (r : Room) : State :=
  let s1 := (sbufUnits r.sbuf g.sbuf).foldl (fun t u => t.reclaim core u) s
  let c := s1.core core
  let s2 := match r.resv with
    | none => s1
    | some x => s1.setCore core { c with resv := c.resv ++ [x], inval := c.inval.filter (fun p => !(p.1 == gid)) }
  let new := ([2, 3, 4].filter (fun sc => decide (g.declared sc ≠ 0) &&
    !s2.given.any (fun x => x.1 == sc && x.2.1 == scopeInst sc core && x.2.2.1 == gid))).map (fun sc => (sc, scopeInst sc core, gid, g.declared sc))
  { s2 with given := s2.given ++ new }
/-- A workgroup of a grid in a place, with its coaches. -/
def Room.workgroup (r : Room) (g : Grid) (gid index now : Nat) (oclk : Word) (coaches : Table Coach) : Workgroup :=
  { ctx := g.ctx, gid := gid, index := index, x := index % g.xe, y := index / g.xe % g.ye, z := index / (g.xe * g.ye), w := g.w, logd := g.logd,
    ncoach := g.ncoach, vregs := g.vregs, sregs := g.sregs, haz := g.haz, oclk := oclk, baseSlice := r.base, sbufBase := r.sbuf,
    sbufSize := g.sbuf, tinBase := r.tin, tins := g.tins, bars := [], coaches := coaches, startTime := now, saving := none,
    noticeEnd := none, noticeLeft := [], parkTo := 0, moveTo := none }
/-- A coach bound to its place. -/
def Coach.bound (c : Coach) (b : Bind) (cyc : Nat) : Coach :=
  { c with slice := b.slice, octet := b.octet, slotIx := b.slotIx, stamp := cyc, holds := 0, starv := 0 }

/-! The choice of a core (R295, R296). -/

/-- The droop count of a region: alarms in the last 10 µs. -/
def State.droops (s : State) (region : Nat) : Nat := ((s.region region).alarms.filter (fun a => decide (s.now ≤ a + 10000))).length
def State.freeSlots (s : State) (core : Nat) : Nat := 6 * sliceSlots - (s.binds core).length
def State.freeSbuf (s : State) (core : Nat) : Nat :=
  sbufBytes - sumOf ((s.wgs.filter (fun w => coreOfSlot w.1 == core)).map (fun w => w.2.sbufSize))
/-- The best core of a list that has room: not hot, then the fewest droops, the most free coach slots, the most free SBUF
bytes, the lowest number. -/
def State.bestCore (s : State) (cores : List Nat) : Option Nat :=
  (sortBy (fun c => if (s.core c).hot then 1 else 0) (sortBy (fun c => s.droops (regionOf (siteOfCore c)))
    (sortBy (fun c => 6 * sliceSlots - s.freeSlots c) (sortBy (fun c => sbufBytes - s.freeSbuf c) cores)))).head?
/-- The cores of a site with room for a grid's workgroup. -/
def State.roomy (s : State) (site gid : Nat) (g : Grid) : List Nat := (coresOf site).filter (fun c => (s.roomOn c gid g).isSome)

/-! The start of a workgroup (R26, R231, R293, R297). -/

/-- `parkTo` of a workgroup whose last save has failed (R301). -/
def saveFailed : Nat := 3
/-- A waiting workgroup has found room: the workgroups whose saves failed while it waited are candidates like the others again. -/
def State.endRound (s : State) : State :=
  if s.wgs.any (fun w => w.2.parkTo == saveFailed) then
    { s with wgs := Table.mapVal (fun _ w => if w.parkTo = saveFailed then { w with parkTo := 0 } else w) s.wgs }
  else s
/-- A context is resident (R40), or becomes so: at most 64 are, and one with no resident workgroup may be switched out. -/
def State.admission (s : State) (ctx : Nat) : Option State :=
  let x := s.context ctx
  if x.resident then some s
  else
    let t := s.setContext ctx { x with resident := true }
    let res := s.ctxs.filter (fun c => c.2.resident)
    if res.length < 64 then some t
    else
      match res.find? (fun c => !s.wgs.any (fun w => w.2.ctx == c.1)) with
      | none => none
      | some c => some (t.setContext c.1 { c.2 with resident := false })
/-- May workgroups start on a site yet (R297)? -/
def Grid.siteStarted (g : Grid) (site : Nat) : Bool := !g.stagger || g.regions.contains (regionOf site)
/-- Start workgroup `index` of a grid on a core with room: its clock joins H and the record's slot clock, and the core's column
cache acquires (R91, R218 row 8, R231). -/
def State.startWg (s : State) (core gid index : Nat) (g : Grid) (r : Room) : State :=
  let s1 := s.endRound.take core gid g r
  let n := g.threads
  let cs := (List.zip (List.range g.ncoach) r.binds).map (fun b => (b.1, (Coach.start g.entry g.args n).bound b.2 (s1.sliceCycle core b.2.slice + 1)))
  let wg := r.workgroup g gid index s.now (clkMax ((s1.site (siteOfCore core)).h + 1) g.clock) cs
  let s2 := (s1.setWg (16 * core + r.w) wg).ccAcquire core
  s2.setGrid gid { g with started := g.started + 1, startedAt := if g.started = 0 then (s.time g.site).toNat else g.startedAt }

/-- A grid has workgroups that have not been handed out, are held for a site, or wait in the range queues of a tree. -/
def State.unstarted (s : State) (gid : Nat) (g : Grid) : Bool :=
  decide (g.nextIndex < g.count) || !g.held.isEmpty || s.cores.any (fun c => c.2.ranges.any (fun q => q.gid == gid))
/-- The sites of a grid in the cyclic order of its launch unit. -/
def Grid.cyclic (g : Grid) : List Nat := g.siteSet.filter (fun n => decide (g.nextSite ≤ n)) ++ g.siteSet.filter (fun n => decide (n < g.nextSite))
/-- A site has a core with room for a grid's next workgroup (R296). -/
def State.siteRoom (s : State) (gid : Nat) (g : Grid) (n : Nat) : Bool := !(s.roomy n gid g).isEmpty
/-- A held workgroup whose site has started and has room: the lowest index. -/
def State.heldReady (s : State) (gid : Nat) (g : Grid) : Option (Nat × Nat) :=
  (sortBy Prod.fst g.held).find? (fun h => g.siteStarted h.2 && !(s.roomy h.2 gid g).isEmpty)
/-- The head of a core's range queue that a grid owns. -/
def State.rangeHead (s : State) (core gid : Nat) : Option RangeQ :=
  match (s.core core).ranges with
  | q :: _ => if q.gid = gid then some q else none
  | [] => none
/-- The tree's cores that could start the workgroup at the head of their queue. -/
def State.treeReady (s : State) (gid : Nat) (g : Grid) : List Nat :=
  (s.cores.map Prod.fst).filter (fun c => (s.rangeHead c gid).isSome && g.siteSet.contains (siteOfCore c) && g.siteStarted (siteOfCore c) && (s.roomOn c gid g).isSome)

/-! Saved workgroups that may return (R301, R304). -/

/-- What the wait keeps in which a save has found a coach, with its opcode: that of the handler's word, or of a cancelled entry,
which other entries that the save has cancelled may precede (R256). -/
def Coach.savedWaits (c : Coach) : List (Nat × Wait) :=
  if c.inHandler then (match c.wait.cut with | some w => [((opcodeOf w).toNat, c.wait)] | none => [])
  else (c.rq.filter (fun en => en.status == 2)).map (fun en => ((opcodeOf en.word).toNat, en.wait))
/-- The phase that a barrier-parked coach waits for has completed (R304). -/
def State.parkDone (s : State) (gid : Nat) (c : Coach) : Bool :=
  c.state == .retired || c.savedWaits.all (fun p =>
    match p.2.joined, p.2.bar with
    | some h, some (sc, bix) => s.wideBars.any (fun b => b.scope.toNat == sc && b.owner == gid && b.bix == bix && phaseDone b.bar.g h)
    | _, _ => true)
/-- A wait-parked coach has a reason to return: an absent entry that fired, a monitor entry that has been spilled, or a
deadline that has passed (R304). -/
def State.waitReady (s : State) (v : SavedWg) (k : Nat) (c : Coach) : Bool :=
  let mine := s.sites.flatMap (fun x => x.2.mon.filter (fun m => m.absent && m.gid == v.gid && m.index == v.index && m.k == k))
  mine.any (fun m => m.fired) || c.savedWaits.any (fun p =>
    ((p.1 == 0x94 || p.1 == 0x95) && p.2.entry && mine.isEmpty) ||
      (p.1 == 0x95 && (match p.2.deadline with | some d => decide (d ≤ (s.waferTime (siteOfCore v.oldCore)).toNat) | none => false)))
/-- A saved workgroup may be restored when a core has room. -/
def State.mayReturn (s : State) (v : SavedWg) : Bool :=
  if !v.parked then true
  else if v.inPark then v.coaches.all (fun c => s.parkDone v.gid c.2)
  else v.coaches.any (fun c => s.waitReady v c.1 c.2) || (match s.grid v.gid with | some g => !s.unstarted v.gid g | none => true)
/-- A grid's workgroups live in typed buffers or the matrix array (R265). -/
def Grid.typed (g : Grid) : Bool := decide (g.xbuf + g.wbuf + g.abuf ≠ 0)
/-- Places on a core for n more workgroups of a grid, one after the other. -/
def State.roomsFor (n : Nat) (s : State) (core gid : Nat) (g : Grid) : Option (List Room) :=
  match n with
  | 0 => some []
  | n + 1 =>
    match s.roomOn core gid g with
    | none => none
    | some r =>
      let cs := (List.zip (List.range g.ncoach) r.binds).map (fun b => (b.1, (Coach.start 0 0 0).bound b.2 0))
      let t := (s.take core gid g r).setWg (16 * core + r.w) (r.workgroup g gid 0 0 0 cs)
      (State.roomsFor n t core gid g).map (fun l => r :: l)
/-- The workgroups that return together, a core group (R265): those whose typed buffers were saved with the last of them;
without typed buffers all but the parked ones, which return as R304 says, when an empty core holds them all (log 102). -/
def State.groupOf (s : State) (v : SavedWg) : List SavedWg :=
  let mates := sortBy SavedWg.index (s.saved.filter (fun x => x.gid == v.gid && x.oldCore == v.oldCore))
  match s.grid v.gid with
  | none => [v]
  | some g =>
    if g.typed then (if mates.any (fun x => x.typed.isSome) then mates else [v])
    else if v.parked then [v]
    else
      let l := mates.filter (fun x => !x.parked)
      let here := (s.wgs.filter (fun w => coreOfSlot w.1 == v.oldCore)).map Prod.fst
      if (State.roomsFor l.length (here.foldl State.freeWg s) v.oldCore v.gid g).isSome then l else [v]
/-- The cores on which a saved workgroup may return: the one that its group migrates to (R265). With typed buffers still held on its
old core it is that one only, and none while their other holders are to migrate too. -/
def State.returnCores (s : State) (v : SavedWg) (g : Grid) : List Nat :=
  if g.typed && (s.core v.oldCore).resv.any (fun r => r.gid == v.gid) then
    (if s.wgs.any (fun w => coreOfSlot w.1 == v.oldCore && w.2.gid == v.gid && w.2.moveTo.isSome) then [] else [v.oldCore])
  else
    match (s.groupOf v).findSome? SavedWg.moveTo with
    | some c => [c]
    | none => g.siteSet.flatMap coresOf
def State.canReturn (s : State) (v : SavedWg) (core : Nat) : Option (List Room) :=
  match s.grid v.gid with
  | none => none
  | some g =>
    if !s.mayReturn v || !(s.returnCores v g).contains core then none else State.roomsFor (s.groupOf v).length s core v.gid g
/-- The saved workgroup of a grid that returns next: the lowest index of those that can (R293, R301). -/
def State.nextReturn (s : State) (gid : Nat) (g : Grid) : Option SavedWg :=
  (sortBy SavedWg.index (s.saved.filter (fun v => v.gid == gid))).find? (fun v =>
    s.mayReturn v && (s.returnCores v g).any (fun c => (s.canReturn v c).isSome))
/-- Some saved workgroup of a grid can return. -/
def State.returnWaits (s : State) (gid : Nat) (g : Grid) : Bool := (s.nextReturn gid g).isSome
/-- A retirement of a core is due: saves complete there after it (R302). -/
def State.retiring (s : State) (core : Nat) : Bool :=
  s.wgs.any (fun w => coreOfSlot w.1 == core && w.2.saving.isNone &&
    w.2.coaches.all (fun c => c.2.state == .retired && c.2.flags.isEmpty) && !s.engineWork w.1)
/-- A retirement or a completed save of a core is due: restores and starts there come after it (R302). -/
def State.departing (s : State) (core : Nat) : Bool :=
  s.retiring core || s.wgs.any (fun w => coreOfSlot w.1 == core && w.2.saving.isSome && !s.saveBusy w.1)

/-! The order across grids (R293, R301). -/

/-- An unstarted workgroup of a grid has room somewhere. -/
def State.startWaits (s : State) (gid : Nat) (g : Grid) : Bool :=
  g.status.isNone &&
    (if g.tree then !(s.treeReady gid g).isEmpty
     else (s.heldReady gid g).isSome || (decide (g.nextIndex < g.count) && g.siteSet.any (s.siteRoom gid g)))
/-- The grid comes before another: higher priority, or taken earlier. -/
def gridBefore (a b : Nat × Grid) : Bool := decide (a.2.prio > b.2.prio) || (a.2.prio == b.2.prio && decide (a.1 < b.1))
/-- No workgroup of a grid that comes earlier could start or return. -/
def State.firstInOrder (s : State) (gid : Nat) (g : Grid) : Bool :=
  !s.grids.any (fun x => gridBefore x (gid, g) && (s.startWaits x.1 x.2 || s.returnWaits x.1 x.2))

/-- A tree's core starts the workgroup at the head of its queue (R298), in a state that has admitted its context. -/
def State.startTree (s s1 : State) (core gid : Nat) (g : Grid) : State :=
  match s1.rangeHead core gid, s1.roomOn core gid g with
  | some q, some r =>
    if !g.siteStarted (siteOfCore core) || !g.siteSet.contains (siteOfCore core) || s.departing core then s
    else
      let c := s1.core core
      let rest := if q.lo + 1 < q.hi then { q with lo := q.lo + 1 } :: c.ranges.drop 1 else c.ranges.drop 1
      (s1.setCore core { c with ranges := rest }).startWg core gid q.lo g r
  | _, _ => s
/-- WORKGROUP_START (R293, R296, R298): the next workgroup of a grid starts, when it is first in order. In normal placement
the rules choose the core; a tree's core starts the workgroup at the head of its queue. -/
def execWorkgroupStart (s : State) : Host.Outcome State Fault Refusal :=
  let gid := s.arg.id
  .next (match s.grid gid with
    | none => s
    | some g =>
      if g.status.isSome || !s.firstInOrder gid g || s.returnWaits gid g then s
      else
        match s.admission g.ctx with
        | none => s
        | some s1 =>
          if g.tree then s.startTree s1 s.arg.core gid g
          else
            match s1.heldReady gid g with
            | some h =>
              (match s1.bestCore (s1.roomy h.2 gid g) with
               | some core =>
                 (match (if s.departing core then none else s1.roomOn core gid g) with
                  | some r => s1.startWg core gid h.1 { g with held := g.held.filter (fun x => decide (x ≠ h)) } r
                  | none => s)
               | none => s)
            | none =>
              if g.nextIndex ≥ g.count then s
              else
                match g.cyclic.find? (s1.siteRoom gid g) with
                | none => s
                | some n =>
                  let g1 := { g with nextIndex := g.nextIndex + 1, nextSite := n + 1 }
                  if !g.siteStarted n then s1.setGrid gid { g1 with held := g.held ++ [(g.nextIndex, n)] }
                  else
                    match s1.bestCore (s1.roomy n gid g) with
                    | some core =>
                      (match (if s.departing core then none else s1.roomOn core gid g) with
                       | some r => s1.startWg core gid g.nextIndex g1 r
                       | none => s)
                    | none => s)
/-- The power regions that hold a site of a grid, rising (R297). -/
def Grid.regionList (g : Grid) : List Nat := (List.range 16).filter (fun r => (regionSites r).any (fun n => g.siteSet.contains n))
/-- STAGGER_REGION_START (R297): region j of the grid's regions starts 200 j ns after the record passed. -/
def execStaggerRegionStart (s : State) : Host.Outcome State Fault Refusal :=
  .next (match s.grid s.arg.id with
    | none => s
    | some g =>
      let rank := (g.regionList.takeWhile (fun r => decide (r ≠ s.arg.n))).length
      if !g.stagger || g.regions.contains s.arg.n || !g.regionList.contains s.arg.n || decide ((s.time g.site).toNat < g.t0 + 200 * rank) then s
      else s.setGrid s.arg.id { g with regions := g.regions ++ [s.arg.n] })

/-! The launch unit (R288-R291). -/

/-- The grid that a record and its descriptor describe. -/
def gridOf (ctx num site : Nat) (rec_ d : List Byte) (clock : Word) (t0 : Nat) : Grid :=
  let dim := fieldLE rec_ 0x18 4
  let k4 := fieldLE d 4 4
  let k10 := fieldLE d 0x10 4
  let k30 := fieldLE d 0x30 4
  let c := fieldLE rec_ 0x1C 4
  { ctx := ctx, num := num, site := site, entry := dword64 d 8, args := dword64 rec_ 0x10, w := bits k4 0 8, logd := bits k4 8 2, ncoach := bits k4 16 5 + 1,
    vregs := bits k10 0 8, sregs := bits k10 8 8, haz := bitN k4 28, tins := bits k10 16 7, sbuf := fieldLE d 0x14 4, xbuf := fieldLE d 0x18 4,
    wbuf := fieldLE d 0x1C 4, abuf := fieldLE d 0x20 4, park := fieldLE d 0x28 8, bwafer := bits k30 24 7, bsite := bits k30 17 7,
    bquad := bits k30 11 6, bcore := bits k30 5 6, bwg := bits k30 0 5, bpod := bits (fieldLE d 0x34 4) 0 5, xe := bits dim 0 16 + 1,
    ye := bits dim 16 8 + 1, ze := bits dim 24 8 + 1, notice := bits c 16 10, tree := bitN c 3, stagger := bitN c 2, prio := bits c 0 2,
    sites := dword64 rec_ 0x20, parkVa := dword64 rec_ 0x28, crec := dword64 rec_ 0x30, tag := word32 rec_ 0x38, clock := clock, t0 := t0,
    nextIndex := 0, nextSite := 0, regions := [], started := 0, retired := 0, startedAt := 0, final := 0, status := none, killed := false,
    held := [] }
/-- The record's own fields (R291 order 2). -/
def recordOk (rec_ : List Byte) (queue : DWord) : Bool :=
  let c := fieldLE rec_ 0x1C 4
  decide (dword64 rec_ 0 = queue ∧ bits c 26 6 = 0 ∧ bits c 4 12 = 0 ∧ fieldLE rec_ 0x3C 4 = 0 ∧ fieldLE rec_ 0x28 8 % 4096 = 0 ∧
    bits c 16 10 ≤ 1000)
/-- A register count that a kernel may declare (R24). -/
def countOk (n : Nat) : Bool := decide (8 ≤ n ∧ n ≤ 64 ∧ n % 8 = 0)
/-- The shape (R291 order 3). -/
def Grid.shapeOk (g : Grid) : Bool := [8, 16, 32, 64].contains g.w && decide (g.logd ≤ 2) && countOk g.vregs && countOk g.sregs
/-- The descriptor's other fields (R291 order 4). -/
def descriptorOk (d : List Byte) (g : Grid) : Bool :=
  let k4 := fieldLE d 4 4
  decide (fieldLE d 0 4 = 0x4B445301) && decide (bits k4 29 3 = 0 ∧ bits k4 21 7 = 0 ∧ bits k4 10 6 = 0) &&
    decide (bits (fieldLE d 0x10 4) 23 9 = 0 ∧ fieldLE d 0x24 4 = 0 ∧ bitN (fieldLE d 0x30 4) 31 = false) &&
    decide (fieldLE d 0x34 4 < 32 ∧ fieldLE d 0x38 8 = 0) && decide (g.tins ≤ 64 ∧ g.sbuf ≤ sbufBytes ∧ g.sbuf % 128 = 0) &&
    decide (g.xbuf % 4096 = 0 ∧ g.xbuf ≤ xbufBytes ∧ g.wbuf % 4096 = 0 ∧ g.wbuf ≤ wbufBytes ∧ g.abuf % 4096 = 0 ∧ g.abuf ≤ abufBytes) &&
    decide (g.park % 4096 = 0 ∧ g.bwafer ≤ 64 ∧ g.bsite ≤ 64 ∧ g.bquad ≤ 32 ∧ g.bcore ≤ 32 ∧ g.bwg ≤ 16 ∧ g.bpod ≤ 16)
/-- PARKMIN of R303. -/
def Grid.parkMin (g : Grid) : Nat :=
  let wgrec := 256 + g.ncoach * upTo 256 (0x1200 + 4 * g.vregs * g.threads) + upTo 256 (128 * g.tins) + 256 + upTo 256 (32 * g.ncoach) + upTo 256 g.sbuf
  let trec := g.xbuf + g.wbuf + g.abuf + (if g.abuf > 0 then 1048576 else 0)
  upTo 4096 (g.count * wgrec + min g.count (32 * g.siteSet.length) * trec)
/-- The statuses of a completion record (R292). -/
def stBADSHAPE : Nat := 1
def stNORESIDENCE : Nat := 2
def stBADDESC : Nat := 3
def stBADRECORD : Nat := 4
def stFAULT : Nat := 6
/-- Read the descriptor and check the record (R291): the grid, and the status of the first failure. -/
def State.checkRecord (s : State) (site ctx : Nat) (queue : DWord) (rec_ : List Byte) (clock : Word) : Grid × Option Nat × State :=
  let num := (s.context ctx).nextGrid
  let t0 := (s.time site).toNat
  let none_ := gridOf ctx num site rec_ [] clock t0
  match State.devRead 3 s site ctx (dword64 rec_ 8) 64 with
  | (.error _, s1) => (none_, some stFAULT, s1)
  | (.ok d, s1) =>
    let g := gridOf ctx num site rec_ d clock t0
    match s1.devAddr site ctx g.entry 4 Need.exec with
    | (.error _, s2) => (g, some stFAULT, s2)
    | (.ok _, s2) =>
      match s2.devAddr site ctx g.crec 4 Need.write with
      | (.error _, s3) => (g, some stFAULT, s3)
      | (.ok _, s3) =>
        let st :=
          if !recordOk rec_ queue then some stBADRECORD
          else if !g.shapeOk then some stBADSHAPE
          else if !descriptorOk d g then some stBADDESC
          else if (g.bwafer > 0 ∧ g.park < g.parkMin) ∨ (g.park > 0 ∧ g.parkVa = 0) then some stNORESIDENCE
          else none
        (g, st, s3)

/-- Split [lo, hi) over n parts: part i. -/
def splitRange (lo hi n i : Nat) : Nat × Nat := (lo + i * (hi - lo) / n, lo + (i + 1) * (hi - lo) / n)
/-- Hand the ranges of a tree down to the cores (R298). -/
def State.distribute (s : State) (gid : Nat) (g : Grid) : State :=
  let sites := g.siteSet
  (List.zip (List.range sites.length) sites).foldl (fun (t : State) e =>
    let rs := splitRange 0 g.count sites.length e.1
    (List.range 32).foldl (fun (u : State) c =>
      let rq := splitRange rs.1 rs.2 8 (c / 4)
      let rc := splitRange rq.1 rq.2 4 (c % 4)
      if rc.1 < rc.2 then
        let core := 32 * e.2 + c
        u.setCore core { u.core core with ranges := (u.core core).ranges ++ [{ gid := gid, lo := rc.1, hi := rc.2 }] }
      else u) t) s
/-- Are a grid's WAFER barrier slots free (R153)? -/
def State.waferFree (s : State) (g : Grid) : Bool := decide (sumOf ((s.given.filter (fun x => x.1 == 5)).map (fun x => x.2.2.2)) + g.bwafer ≤ barPool 5)
/-- A record that has passed gives its grid the next number, so that grids stand in the order of their records (R293). -/
def State.nameGrid (s : State) (ctx : Nat) : State :=
  let x := s.context ctx
  ({ s with gidNext := s.gidNext + 1 }).setContext ctx { x with nextGrid := x.nextGrid + 1 }
/-- A record that has passed becomes a grid, which is given its WAFER slots. -/
def State.addGrid (s : State) (gid : Nat) (g : Grid) : State :=
  let s1 := { s with given := if g.bwafer = 0 then s.given else s.given ++ [(5, 0, gid, g.bwafer)] }
  if g.tree then (s1.distribute gid g).setGrid gid { g with nextIndex := g.count } else s1.setGrid gid g
/-- A refused record: a grid that has ended, whose completion record is written next (R291, R292). -/
def State.refuse (s : State) (g : Grid) (status : Nat) : State :=
  let gid := s.gidNext
  ({ s with gidNext := gid + 1 }.setGrid gid { g with status := some status, nextIndex := g.count, retired := g.count }).later
    [⟨.gridCompletion, { EvArgs.zero with id := gid }⟩]

/-- The number of a launch-table entry. -/
def queueKey (site ctx e : Nat) : Nat := site * 4096 + 16 * ctx + e
/-- The record at the head of a launch queue that is ready: its bytes, without an effect on the state (R290). -/
def State.peekRecord (s : State) (site ctx e : Nat) : Option (List Byte) :=
  let va := s.win site (offLAUNCH ctx e)
  if va = 0 then none
  else
    match s.openQcb none site ctx va .both with
    | (.ok (x, q), s1) =>
      if homeSite x.pa ≠ site ∨ q.esize ≠ 64 then none
      else
        (match s1.deqAddrs none site (Acc.device (32 * site) ctx) va x q 1 with
         | (.ok (a :: _), s2) => some (s2.slotElem a 64)
         | _ => none)
    | _ => none
/-- The launch queues of a site with a ready record, of contexts that are resident or can become so (R40, R290): context, entry and
priority. -/
def State.readyQueues (s : State) (site : Nat) : List (Nat × Nat × Nat) :=
  (s.site site).win.filterMap (fun e =>
    if 0x3000 ≤ e.1 ∧ e.1 < 0xB000 then
      let i := (e.1 - 0x3000) / 8
      if s.waitRecs.any (fun w => w.1 == queueKey site (i / 16) (i % 16)) ∨ (s.admission (i / 16)).isNone then none
      else (s.peekRecord site (i / 16) (i % 16)).map (fun r => (i / 16, i % 16, fieldLE r 0x1C 4 % 4))
    else (none : Option (Nat × Nat × Nat)))
/-- The launch unit meets a queue as DEQ does (R158, R290): it poisons one that is corrupt. -/
def State.launchProbe (s : State) (site ctx e : Nat) : State :=
  let va := s.win site (offLAUNCH ctx e)
  if va = 0 then s
  else
    match s.openQcb none site ctx va .both with
    | (.error _, s1) => s1
    | (.ok (x, q), s1) => (s1.readySlots none site ctx x.pa q 1).2
/-- The queue whose turn it is (R290): of the highest priority, the one served longest ago. -/
def nextQueue (served : List Nat) (l : List (Nat × Nat × Nat)) : Option (Nat × Nat × Nat) :=
  let top := listMax (l.map (fun q => q.2.2))
  (sortBy (fun q => match served.findIdx? (fun n => n == 16 * q.1 + q.2.1) with | some i => i + 1 | none => 0) (l.filter (fun q => q.2.2 == top))).head?
/-- LAUNCH_RECORD_TAKE (R153, R290, R291): the launch unit of a site takes a record from a queue whose turn it is, and
checks it; a record that waits for WAFER slots goes first. A module that is not in service takes none (R383). -/
def execLaunchRecordTake (s : State) : Host.Outcome State Fault Refusal :=
  let site := s.arg.site
  let ctx := s.arg.n
  let en := s.arg.m
  let key := queueKey site ctx en
  .next (if s.stage < stageService then s else match s.waitRecs.find? (fun w => w.1 == key) with
    | some (_, gid, g) => if s.waferFree g then { s with waitRecs := s.waitRecs.filter (fun w => !(w.1 == key)) }.addGrid gid g else s
    | none =>
      let rq := s.readyQueues site
      match rq.find? (fun q => q.1 == ctx && q.2.1 == en) with
      | none => if ctx < 256 ∧ en < 16 ∧ (s.admission ctx).isSome then s.launchProbe site ctx en else s
      | some me =>
        if nextQueue (s.site site).served rq ≠ some me ∨ ctx ≥ 256 then s
        else
          match s.admission ctx with
          | none => s
          | some s0 =>
            let served1 := (s.site site).served.filter (fun n => decide (n ≠ 16 * ctx + en)) ++ [16 * ctx + en]
            let va := s0.win site (offLAUNCH ctx en)
            match s0.openQcb none site ctx va .both with
            | (.error _, s1) => s1
            | (.ok (x, q), s1) =>
              match s1.deqAddrs none site (Acc.device (32 * site) ctx) va x q 1 with
              | (.ok (a :: _), s2) =>
                let rec_ := s2.slotElem a 64
                let clock := s2.slotClock a
                let s3 := s2.deqCommit x.pa q (s2.site site).h [a]
                let s4 := s3.setSite site { s3.site site with served := served1 }
                (match s4.checkRecord site ctx va rec_ clock with
                 | (g, some st, s5) => s5.refuse g st
                 | (g, none, s5) =>
                   let s6 := s5.nameGrid g.ctx
                   if s6.waferFree g then s6.addGrid s5.gidNext g else { s6 with waitRecs := s6.waitRecs ++ [(key, s5.gidNext, g)] })
              | (_, s2) => s2)

/-! GRID_COMPLETION (R231, R292, R404). -/

/-- The bytes of a completion record after its first word. -/
def Grid.recordTail (g : Grid) (ended : Nat) : List Byte :=
  bytesLE 4 g.tag.toNat ++ bytesLE 8 (if g.started = 0 then 0 else g.startedAt) ++ bytesLE 8 ended ++ bytesLE 4 g.final.toNat ++ bytesLE 4 g.started ++
    List.replicate 32 0
def execGridCompletion (s : State) : Host.Outcome State Fault Refusal :=
  let gid := s.arg.id
  .next (match s.grid gid with
    | none => s
    | some g =>
      if g.retired < g.count then s
      else
        let s1 := if g.started = 0 then s else s.raiseH g.final
        let bad (t : State) : State := t.report g.site g.ctx cDEVWRITE_FAULT 0 g.crec
        let s2 :=
          match State.devWrite 3 s1 g.site g.ctx (g.crec + 4) (g.recordTail (s1.time g.site).toNat) with
          | (some _, t) => bad t
          | (none, t) =>
            match t.devAddr g.site g.ctx g.crec 4 Need.write with
            | (.error _, u) => bad u
            | (.ok x, u) =>
              (u.homeWrite x.pa (bytesLE 4 (2 ^ 31 + (match g.status with | some st => st | none => 0)))).raiseLine x.pa (g.final + 1)
        { s2 with
          grids := Table.erase s2.grids gid, given := s2.given.filter (fun x => !(x.2.2.1 == gid)),
          wideBars := s2.wideBars.filter (fun b => b.scope == 6 || !(b.owner == gid)) })

/-! Stealing (R298, R299). -/

/-- One step of a core's LFSR: x^16 + x^14 + x^13 + x^11 + 1. -/
def lfsrStep (x : BitVec 16) : BitVec 16 :=
  let b := (x.getLsbD 0).xor ((x.getLsbD 2).xor ((x.getLsbD 3).xor (x.getLsbD 5)))
  (x >>> 1) ||| (if b then 0x8000 else 0)
/-- The unstarted indices of a list of ranges. -/
def unstartedIn (l : List RangeQ) : Nat := sumOf (l.map (fun q => q.hi - q.lo))
/-- Take n indices from the tail of a queue, of ranges that may be taken: what is left, and what is taken. -/
def takeTail (ok : RangeQ → Bool) (l : List RangeQ) (n : Nat) : List RangeQ × List RangeQ :=
  l.reverse.foldl (fun (a : List RangeQ × List RangeQ) q =>
    let k := if ok q then min (n - unstartedIn a.2) (q.hi - q.lo) else 0
    if k = 0 then (q :: a.1, a.2)
    else if k = q.hi - q.lo then (a.1, q :: a.2)
    else ({ q with hi := q.hi - k } :: a.1, { q with lo := q.hi - k } :: a.2)) ([], [])
/-- A range may go to a site: its grid's SITES names the site. -/
def State.goesTo (s : State) (site : Nat) (q : RangeQ) : Bool := match s.grid q.gid with | some g => g.siteSet.contains site | none => false
/-- The unstarted indices of a list of cores that may go to a site. -/
def State.unstartedOf (s : State) (site : Nat) (cores : List Nat) : Nat :=
  unstartedIn ((cores.flatMap (fun c => (s.core c).ranges)).filter (s.goesTo site))
/-- Take half of the indices of a list of cores, from the last core's tail on; they go to a core. -/
def State.takeHalf (s : State) (cores : List Nat) (thief : Nat) : State :=
  let n := s.unstartedOf (siteOfCore thief) cores / 2
  let r := cores.reverse.foldl (fun (a : State × List RangeQ) c =>
    let x := takeTail (s.goesTo (siteOfCore thief)) (a.1.core c).ranges (n - unstartedIn a.2)
    (a.1.setCore c { a.1.core c with ranges := x.1 }, x.2 ++ a.2)) (s, [])
  r.1.setCore thief { r.1.core thief with ranges := (r.1.core thief).ranges ++ r.2, misses := 0, stealWait := false }
/-- The start from the head of a core's queue that is due, which is served before a steal from its tail (R299). -/
def State.startHead (s : State) (core : Nat) : State :=
  match (s.core core).ranges with
  | [] => s
  | q :: _ =>
    match s.grid q.gid with
    | none => s
    | some g =>
      if !g.tree || g.status.isSome || !s.firstInOrder q.gid g || s.returnWaits q.gid g then s
      else
        match s.admission g.ctx with
        | none => s
        | some s1 => s.startTree s1 core q.gid g
/-- Ask a core's quad distributor (R298): a sibling quad of the site, then another site; else the core waits, as after an empty answer,
and counts its empty answers from 0 again (DESIGN CHOICE, log 121). -/
def State.askQuad (s : State) (core : Nat) : State :=
  let site := siteOfCore core
  let quad (q : Nat) : List Nat := upFrom (4 * q) 4
  let mine := quadOf core
  let idle := s.setCore core { s.core core with misses := 0, stealWait := true }
  if s.unstartedOf site (quad mine) ≠ 0 then idle
  else
    match (upFrom (8 * site) 8).find? (fun q => decide (q ≠ mine) && decide (s.unstartedOf site (quad q) ≥ 2)) with
    | some q => s.takeHalf (quad q) core
    | none =>
      if s.unstartedOf site (coresOf site) ≠ 0 then idle
      else
        match (List.range 64).find? (fun n => decide (n ≠ site) && decide (s.unstartedOf site (coresOf n) ≥ 2)) with
        | some n => s.takeHalf (coresOf n) core
        | none => idle
/-- STEAL_REQUEST (R299): a core with nothing to start and with room asks a victim of its site. The LFSR steps first, and the victim is
taken from its new value (DESIGN CHOICE, log 121); a start that is due at the victim's head is served before the steal. -/
def execStealRequest (s : State) : Host.Outcome State Fault Refusal :=
  let core := s.arg.core
  let c := s.core core
  .next (
    if !c.ranges.isEmpty || c.stealWait || core ≥ 2048 ||
        !s.grids.any (fun g => g.2.tree && g.2.status.isNone && (s.roomOn core g.1 g.2).isSome) then s
    else if c.misses ≥ 31 then s.askQuad core
    else
      let l := lfsrStep c.lfsr
      let v := l.toNat % 31
      let victim := 32 * siteOfCore core + (if v < core % 32 then v else v + 1)
      let s1 := (s.setCore core { c with lfsr := l }).startHead victim
      if s1.unstartedOf (siteOfCore core) [victim] ≤ 1 then s1.setCore core { c with lfsr := l, misses := c.misses + 1, stealWait := decide (c.misses + 1 < 31) }
      else s1.takeHalf [victim] core)
/-- STEAL_RETRY_WAIT (R299): the 64 cycles after an empty answer have passed. -/
def execStealRetryWait (s : State) : Host.Outcome State Fault Refusal :=
  .next (s.setCore s.arg.core { s.core s.arg.core with stealWait := false })

/-! Lent SBUF units (R276, R277). -/

/-- The SBUF units that are free and not lent. -/
def State.freeUnits (s : State) (core : Nat) : List Nat :=
  (List.range 16).filter (fun u => !(s.core core).lent.contains u &&
    !s.wgs.any (fun w => coreOfSlot w.1 == core && decide (w.2.sbufSize ≠ 0 ∧ w.2.sbufBase < unitBytes * (u + 1) ∧ unitBytes * u < w.2.sbufBase + w.2.sbufSize)))
/-- A tin whose range lies in an SBUF unit is FILLING or DRAINING; one whose workgroup has left may lie in any (R276). -/
def State.tinsIn (s : State) (core u : Nat) : Bool :=
  (s.core core).tins.any (fun t => (t.2.state == 1 || t.2.state == 3) && (Buf.ofKind t.2.kind == some .sbuf) &&
    (match s.wgs.find? (fun w => coreOfSlot w.1 == core && decide (w.2.tinBase ≤ t.1 ∧ t.1 < w.2.tinBase + w.2.tins)) with
     | some w =>
       let a := w.2.sbufBase + t.2.off.toNat
       decide (a < unitBytes * (u + 1) ∧ unitBytes * u < a + t.2.len.toNat)
     | none => true))
/-- SBUF_LEND (R276): the highest free unit becomes a way of the column cache, when no tin of the core is busy in it. -/
def execSbufLend (s : State) : Host.Outcome State Fault Refusal :=
  let core := s.arg.core
  .next (match (s.freeUnits core).getLast? with
    | some u => if u = s.arg.n ∧ core < 2048 ∧ s.tinsIn core u = false then s.setCore core { s.core core with lent := (s.core core).lent ++ [u] } else s
    | none => s)
/-- The places on a core that the next placement of a grid takes: the return of a saved workgroup with its group, or the start of a
workgroup on the core that the rules choose. -/
def State.placesOn (s : State) (core gid : Nat) (g : Grid) : List Room :=
  let site := siteOfCore core
  let chosen (n : Nat) : List Room := if n = site ∧ g.siteStarted n ∧ s.bestCore (s.roomy n gid g) = some core then (s.roomOn core gid g).toList else []
  match s.nextReturn gid g with
  | some v => if s.bestCore ((coresOf site).filter (fun c => (s.canReturn v c).isSome)) = some core then (s.canReturn v core).getD [] else []
  | none =>
    if g.tree then (if (s.treeReady gid g).contains core then (s.roomOn core gid g).toList else [])
    else
      match s.heldReady gid g with
      | some h => chosen h.2
      | none => if g.nextIndex < g.count then (match g.cyclic.find? (s.siteRoom gid g) with | some n => chosen n | none => []) else []
/-- A placement on a core needs a lent unit: the SBUF range of the next workgroup there meets it (R277). -/
def State.needsUnit (s : State) (core u : Nat) : Bool :=
  s.grids.any (fun g => g.2.status.isNone && s.firstInOrder g.1 g.2 && (s.placesOn core g.1 g.2).any (fun r => (sbufUnits r.sbuf g.2.sbuf).contains u))
/-- SBUF_RECLAIM (R277): a lent unit returns, for a placement that needs it. -/
def execSbufReclaim (s : State) : Host.Outcome State Fault Refusal :=
  .next (if s.needsUnit s.arg.core s.arg.n then s.reclaim s.arg.core s.arg.n else s)

/-! Making room by pre-emption (R255, R301, R304). -/

/-- The workgroup is being saved, or has been given notice of it. -/
def Workgroup.leaving (w : Workgroup) : Bool := w.saving.isSome || w.noticeEnd.isSome
/-- The state with workgroups gone, to ask what room they would leave. -/
def State.without (s : State) (slots : List Nat) : State := slots.foldl (fun t w => t.freeWg w) s
/-- A workgroup of a grid waits, started or saved, and no eligible core has room, or will have when the workgroups that already leave
have left. -/
def State.starved (s : State) (gid : Nat) (g : Grid) : Bool :=
  let t := s.without ((s.wgs.filter (fun w => w.2.leaving)).map Prod.fst)
  g.status.isNone && (s.unstarted gid g || s.saved.any (fun v => v.gid == gid && s.mayReturn v)) &&
    !(g.siteSet.flatMap coresOf).any (fun c => (t.roomOn c gid g).isSome)
/-- The shortest run of victims of a core, in order, that makes room; those that already leave are counted as gone. -/
def State.victims (s : State) (core gid : Nat) (g : Grid) (l taken : List Nat) : Option (List Nat) :=
  if ((s.without taken).roomOn core gid g).isSome then some []
  else
    match l with
    | [] => none
    | v :: r => (s.victims core gid g r (taken ++ [v])).map (fun x => v :: x)
/-- The priority of a resident workgroup's grid, and its notice interval. -/
def State.prioOf (s : State) (w : Workgroup) : Nat := match s.grid w.gid with | some g => g.prio | none => 0
def State.noticeOf (s : State) (w : Workgroup) : Nat := match s.grid w.gid with | some g => g.notice | none => 0
/-- Workgroups of lower priority on a grid's cores, in the order in which they are saved: the lowest priority, the most
recently started, the highest slot; one whose save has failed comes after the others. -/
def State.lowerWgs (s : State) (g : Grid) : List (Nat × Workgroup) :=
  let l := s.wgs.filter (fun w => g.siteSet.contains (siteOfSlot w.1) && decide (s.prioOf w.2 < g.prio) && !w.2.leaving)
  sortBy (fun w => if w.2.parkTo = saveFailed then 1 else 0) (sortBy (fun w => s.prioOf w.2)
    (sortBy (fun w => 2 ^ 64 - w.2.startTime) (sortBy (fun w => 2 ^ 20 - w.1) l)))
/-- The workgroups to save for a grid by priority: those of the first core, by its first victim, that room can be made on. -/
def State.preemptPlan (s : State) (gid : Nat) (g : Grid) : Option (List Nat) :=
  let l := s.lowerWgs g
  ((l.map (fun w => coreOfSlot w.1)).eraseDups).findSome? (fun core =>
    let gone := (s.wgs.filter (fun w => coreOfSlot w.1 == core && w.2.leaving)).map Prod.fst
    s.victims core gid g ((l.filter (fun w => coreOfSlot w.1 == core)).map Prod.fst) gone)
/-- PRIORITY_PREEMPT (R301): lower-priority workgroups are asked to leave a core. -/
def execPriorityPreempt (s : State) : Host.Outcome State Fault Refusal :=
  let gid := s.arg.id
  .next (match s.grid gid with
    | none => s
    | some g =>
      if !s.starved gid g then s
      else
        match s.preemptPlan gid g with
        | none => s
        | some l => s.later (l.map (fun v => ⟨.preemptRequest, { EvArgs.zero with slot := v, n := (match s.wg v with | some w => s.noticeOf w | none => 0) }⟩)))
/-- QUANTUM of a site in ns (R295). -/
def State.quantum (s : State) (site : Nat) : Nat := 1000 * fld (s.win site offPLACE) 16 16
/-- A workgroup may be saved at the end of its time slice for a grid. -/
def State.sliceOver (s : State) (g : Grid) (w : Nat × Workgroup) : Bool :=
  let q := s.quantum (siteOfSlot w.1)
  g.siteSet.contains (siteOfSlot w.1) && decide (q ≠ 0 ∧ w.2.startTime + q ≤ s.now ∧ w.2.ctx ≠ g.ctx ∧ s.prioOf w.2 = g.prio) && !w.2.leaving
/-- The candidates for a grid's time slice, the longest resident first; one whose save has failed comes after the others. -/
def State.sliceVictims (s : State) (g : Grid) : List (Nat × Workgroup) :=
  sortBy (fun w => if w.2.parkTo = saveFailed then 1 else 0) (sortBy (fun w => w.2.startTime) (s.wgs.filter (s.sliceOver g)))
/-- QUANTUM_EXPIRY (R301): the longest resident workgroup of another context of equal priority gives way. -/
def execQuantumExpiry (s : State) : Host.Outcome State Fault Refusal :=
  let slot := s.arg.slot
  .next (match s.wg slot with
    | none => s
    | some w =>
      if s.grids.any (fun g => s.sliceOver g.2 (slot, w) && s.starved g.1 g.2 && (s.preemptPlan g.1 g.2).isNone &&
          (s.sliceVictims g.2).head?.map Prod.fst == some slot) then
        s.later [⟨.preemptRequest, { EvArgs.zero with slot := slot }⟩]
      else s)
/-- Begin the save of a workgroup: to the pool (0), to the park area (1), or by wait parking (2). -/
def State.beginSave (s : State) (slot parkTo : Nat) : State :=
  match s.wg slot with
  | none => s
  | some w =>
    if w.saving.isSome then s
    else (s.setWg slot { w with saving := some 0, noticeEnd := none, noticeLeft := [], parkTo := parkTo }).later
      [⟨.workgroupSave, { EvArgs.zero with slot := slot }⟩]
/-- PREEMPT_REQUEST (R255): a request to save a workgroup, with its notice interval in µs. -/
def execPreemptRequest (s : State) : Host.Outcome State Fault Refusal :=
  let slot := s.arg.slot
  .next (match s.wg slot with
    | none => s
    | some w =>
      if w.leaving then s
      else if s.arg.n = 0 then s.beginSave slot 0
      else
        let site := siteOfSlot slot
        let h := s.handler site w.ctx cPREEMPT_NOTICE
        let told := if h.1.isSome then (w.coaches.filter (fun c => c.2.state != .retired)).map Prod.fst else []
        let s1 := told.foldl (fun t k => t.modCoach { slot := slot, k := k } (fun c => { c with preemptNotice := true })) h.2
        let s2 := s1.modWg slot (fun x => { x with noticeEnd := some (s.now + 1000 * min s.arg.n 1000), noticeLeft := told })
        if told.isEmpty then s2.later [⟨.noticeIntervalExpiry, { EvArgs.zero with slot := slot }⟩] else s2)
/-- NOTICE_INTERVAL_EXPIRY (R255): the notice interval is over, or every notified coach has returned from its handler. -/
def execNoticeIntervalExpiry (s : State) : Host.Outcome State Fault Refusal :=
  let slot := s.arg.slot
  .next (match s.wg slot with
    | none => s
    | some w =>
      match w.noticeEnd with
      | some t => if t ≤ s.now ∨ w.noticeLeft.isEmpty then s.beginSave slot 0 else s
      | none => s)
/-- A parkable workgroup (R304): each coach waits at a WAFER barrier or has retired. -/
def Workgroup.parkable (w : Workgroup) : Bool :=
  !w.leaving && w.coaches.all (fun c => c.2.state == .retired || (c.2.state == .waitBar && (match c.2.wait.bar with | some b => b.1 == 5 | none => false)))
/-- A wait-parkable workgroup (R304). -/
def Workgroup.waitParkable (w : Workgroup) : Bool :=
  !w.leaving && w.coaches.all (fun c => c.2.state == .retired || c.2.state == .parkedMon || c.2.state == .parkedQueue) &&
    w.coaches.any (fun c => c.2.state != .retired)
/-- The resident workgroup of a grid with the lowest index that satisfies a test; one whose save has failed comes last. -/
def State.lowestWg (s : State) (gid : Nat) (p : Workgroup → Bool) : Option Nat :=
  ((sortBy (fun w => if w.2.parkTo = saveFailed then 1 else 0)
    (sortBy (fun w => w.2.index) (s.wgs.filter (fun w => w.2.gid == gid && p w.2)))).head?).map Prod.fst
/-- A parking of a grid is in progress: one at a time. -/
def State.parkingNow (s : State) (gid : Nat) : Bool := s.wgs.any (fun w => w.2.gid == gid && decide (w.2.parkTo ≠ 0) && w.2.saving.isSome)
/-- BARRIER_PARK (R38, R304). -/
def execBarrierPark (s : State) : Host.Outcome State Fault Refusal :=
  let gid := s.arg.id
  .next (match s.grid gid with
    | none => s
    | some g =>
      if !s.unstarted gid g || !s.starved gid g || s.parkingNow gid then s
      else match s.lowestWg gid Workgroup.parkable with | some slot => s.beginSave slot 1 | none => s)
/-- WAIT_PARK (R37, R304): when no parkable workgroup is resident. -/
def execWaitPark (s : State) : Host.Outcome State Fault Refusal :=
  let gid := s.arg.id
  .next (match s.grid gid with
    | none => s
    | some g =>
      if !s.unstarted gid g || !s.starved gid g || s.parkingNow gid || (s.lowestWg gid Workgroup.parkable).isSome then s
      else match s.lowestWg gid Workgroup.waitParkable with | some slot => s.beginSave slot 2 | none => s)

end Sys2Proof.Machine
end

