-- ==== Sys2Proof/Machine/Save.lean ====
section
/-! DEFINITION. The save of a workgroup (R256-R262), its restore (R263-R265), and migration. -/

namespace Sys2Proof.Machine

/-! Bringing a workgroup to rest (R22, R156, R165, R256 steps 1 to 4). -/

/-- Mark the monitor entries of a coach absent (R156); its queue entries too, when its workgroup is wait-parked (R304). -/
def State.markAbsent (s : State) (r : CoachRef) (queues : Bool) : State :=
  s.sites.foldl (fun t e =>
    if e.2.mon.any (fun m => m.slot == r.slot && m.k == r.k && !m.absent) then
      t.setSite e.1 { t.site e.1 with mon := (t.site e.1).mon.map (fun m =>
        if m.slot == r.slot && m.k == r.k && !m.absent && (queues || (match m.kind with | .cmp _ _ _ => true | .queue _ => false)) then { m with absent := true } else m) }
    else t) s
/-- A coach has an absent queue entry: its place among the waiters is kept. -/
def State.keepsPlace (s : State) (r : CoachRef) : Bool :=
  s.sites.any (fun x => x.2.mon.any (fun m => m.absent && m.slot == r.slot && m.k == r.k && (match m.kind with | .queue _ => true | _ => false)))
/-- Stop a coach for a save (R256 step 1): its wait is cancelled, and the state in which it stood is kept for its record. A wait
that has ended completes first (R22). -/
def State.stopCoach (queues : Bool) (s : State) (r : CoachRef) : State :=
  match s.coach r with
  | none => s
  | some c =>
    if c.woken || c.stopped.isSome || !(c.state.waits || c.state == .waitFlags) then s
    else
      let s1 := s.markAbsent r queues
      let kept := { c.wait with queue := if s1.keepsPlace r then none else c.wait.queue }
      (s1.setCoach r { c with wait := kept, stopped := some c.state }).cancelWait r
/-- A stopped coach at rest: its performed operations have completed, what is unfinished is in its replay queue, and it stands at
its resume point. -/
def State.restCoach (s : State) (r : CoachRef) : State :=
  s.modCoach r (fun c =>
    if c.inHandler then c.drained
    else
      let rp := c.resumePoint
      let away := (c.unfinished (fun en => { en with status := 2 })).map ReplayEntry.anew
      { c.drained with rq := away, trqn := away.length, pc := rp.1, clause := rp.2 })
/-- The coaches of a workgroup slot. -/
def State.coachRefs (s : State) (slot : Nat) : List CoachRef :=
  match s.wg slot with | some w => w.coaches.map (fun c => { slot := slot, k := c.1 }) | none => []
/-- A trap that has been detected and whose older entries have completed forms its frame before the save (R252). -/
def State.settleTrap (s : State) (r : CoachRef) : State :=
  match s.coach r with
  | some c =>
    match c.pendTrap with
    | some p => if c.flights.any (fun f => f.entry && f.rep.isSome) then s
        else (s.setCoach r c.drained).formFrame r p.cause p.addr p.mask p.entries p.tpc p.clause false
    | none => s
  | none => s

/-! The record (R260-R262). -/

/-- The sections of a record: their offsets, each aligned to 256, and the end. -/
def sectionOffsets (lens : List Nat) (at_ : Nat) : List Nat × Nat :=
  match lens with
  | [] => ([], at_)
  | n :: r =>
    let q := sectionOffsets r (upTo 256 (at_ + n))
    ((if n = 0 then 0 else at_) :: q.1, q.2)
/-- The copy that a workgroup has paused on a destination tin: engine, queue, bytes done, source tin, snapshot. -/
def pausedOn (w : Workgroup) (l : List (Nat × CopyEntry)) (t : Nat) : Option (Nat × Nat × Nat × Nat × List Byte) :=
  (l.find? (fun p => p.2.kind != .cpym && p.2.dtin == some t)).map (fun p =>
    (p.1 / 4, p.1 % 4, p.2.done, (match p.2.stin with | some u => 64 + (u - w.tinBase) | none => 0), p.2.params))
/-- The bytes of a grid's XBUF, WBUF and ABUF reservations. -/
def Core.typedData (c : Core) (gid : Nat) : List Byte :=
  let r := c.resvOf gid
  bufRead c.xbuf r.xbase r.xsize ++ bufRead c.wbuf r.wbase r.wsize ++ bufRead c.abuf r.abase r.asize
/-- The typed-buffer section (R260): the reservations, with the INVALID marks in the first word. -/
def Core.typedBytes (c : Core) (gid : Nat) : List Byte :=
  bytesLE 4 ((List.range 32).foldl (fun a n => if c.invalidTile gid n then a + 2 ^ n else a) 0) ++ (c.typedData gid).drop 4
/-- The monitor section: the compares that the workgroup's coaches have registered. -/
def State.monBytes (s : State) (gid index ncoach : Nat) : List Byte :=
  padTo (32 * ncoach) (s.sites.flatMap (fun x => (x.2.mon.filter (fun m => m.absent && m.gid == gid && m.index == index &&
    (match m.kind with | .cmp _ _ _ => true | .queue _ => false))).flatMap MonEntry.bytes))
/-- What a save writes: the record with NEXT, the offsets of its coach records, tin records, typed buffers and image. -/
structure SaveImage where
  bytes : List Byte
  recs : List Nat
  tins : Nat
  typed : Nat
  typedWord : Word
  image : Nat
  deriving DecidableEq, Repr
/-- The record of a workgroup at rest; `states` are the states in which its coaches were stopped. -/
def State.saveImage (s : State) (slot : Nat) (w : Workgroup) (g : Grid) (num next : Nat) (oclk : Word) (states : Table CoachState)
    (copies : List (Nat × CopyEntry)) (last : Bool) : SaveImage :=
  let core := coreOfSlot slot
  let c := s.core core
  let recs := w.coaches.map (fun k =>
    let d := match Table.find states k.1 with | some st => { k.2 with state := if k.2.inHandler then .trapped else st } | none => k.2
    d.record w true k.2.inHandler)
  let cs := recs.flatten
  let ts := (List.range w.tins).flatMap (fun t => Tin.record (c.tin (w.tinBase + t)) (pausedOn w copies (w.tinBase + t)))
  let bs := (List.range 16).flatMap (fun b => (Table.getD w.bars b (freshBar w (some g) 1 b)).bytes)
  let ms := s.monBytes w.gid w.index w.ncoach
  let sb := bufRead c.sbuf w.sbufBase w.sbufSize
  let ty := if last && g.typed then c.typedBytes w.gid else []
  let im := if last && decide (g.abuf ≠ 0) then imageOf s.tick else []
  let secs := [cs, ts, bs, ms, sb, ty, im]
  let o := sectionOffsets (secs.map List.length) 256
  let body := (List.zip o.1 secs).foldl (fun b x => if x.2.isEmpty then b else padTo x.1 b ++ x.2) []
  let hd := recordHeader { w with oclk := oclk } num o.2 next core (slot % 16) false (!im.isEmpty) (!ty.isEmpty) (decide (w.parkTo ≠ 0)) (o.1 ++ [0])
  let sizes := recs.map List.length
  { bytes := padTo o.2 (hd ++ body.drop 256), recs := (List.range sizes.length).map (fun i => 256 + sumOf (sizes.take i)),
    tins := o.1.getD 1 0, typed := o.1.getD 5 0, typedWord := word32 (c.typedData w.gid) 0, image := o.1.getD 6 0 }

/-- Where a record may be written: its VA, its NEXT, and why not. -/
structure SavePlace where
  va : DWord
  next : Nat
  deriving DecidableEq, Repr
/-- A place for `size` bytes in the context's pool (R258). -/
def State.poolPlace (s : State) (site ctx size : Nat) : Option SavePlace × State :=
  match s.saveHeader site ctx with
  | (none, s1) => (none, s1)
  | (some h, s1) =>
    let at_ := upTo 256 h.pool
    if !h.ok || decide (at_ + size > h.limit) then (none, s1)
    else (some { va := (s1.context ctx).ctxsave + BitVec.ofNat 64 at_, next := h.first }, s1)
/-- The records of a grid in its park area, in chain order, which is that of their addresses. -/
def State.parkedOf (s : State) (gid : Nat) : List SavedWg := sortBy (fun v => v.va.toNat) (s.saved.filter (fun v => v.gid == gid && v.inPark))
/-- The records of a grid's park area around an address. -/
def State.parkBefore (s : State) (gid : Nat) (va : DWord) : Option SavedWg := ((s.parkedOf gid).filter (fun v => v.va.ult va)).getLast?
def State.parkAfter (s : State) (gid : Nat) (va : DWord) : Option SavedWg := (s.parkedOf gid).find? (fun v => va.ult v.va)
/-- A place in the grid's park area (R303). -/
def State.parkPlace (s : State) (gid : Nat) (g : Grid) (size : Nat) : Option SavePlace :=
  (lowestGap size g.park ((s.parkedOf gid).map (fun v => ((v.va - g.parkVa).toNat, v.size)))).map (fun a =>
    { va := g.parkVa + BitVec.ofNat 64 a,
      next := match s.parkAfter gid (g.parkVa + BitVec.ofNat 64 a) with | some v => (v.va - g.parkVa).toNat | none => 0 })
/-- Write header fields in turn, up to the first write that faults, with which a save stops (R258): its VA. -/
def State.saveFields (site ctx : Nat) (l : List (Nat × Nat × Nat)) (s : State) : Option DWord × State :=
  match l with
  | [] => (none, s)
  | x :: r =>
    match s.saveField site ctx x.1 x.2.1 x.2.2 with
    | (none, s1) => State.saveFields site ctx r s1
    | (some va, s1) => (some va, s1)
/-- Link a record that has been written: at the head of the pool's chain, or at its place in the park area's (R258, R303); the VA
of an access that faults (R254). -/
def State.linkRecord (s : State) (site ctx gid : Nat) (g : Grid) (park : Bool) (va : DWord) (size : Nat) (matrix : Bool) : Option DWord × State :=
  if park then
    match s.parkBefore gid va with
    | some v =>
      let r := State.devWrite 2 s site ctx (v.va + 8) (bytesLE 8 (va - g.parkVa).toNat)
      (r.1.map Prod.snd, r.2)
    | none => (none, s)
  else
    match s.saveHeader site ctx with
    | (none, s1) => (some (s1.context ctx).ctxsave, s1)
    | (some h, s1) =>
      let off := s1.areaOff ctx va
      State.saveFields site ctx ([(0x10, 8, off + size), (0x18, 4, h.nsaved + 1), (0x20, 8, off)] ++ (if matrix then [(0x1C, 4, mxver)] else [])) s1

/-- Give the open steps of a slot another number, or those of a saved workgroup its slot (R353). -/
def State.rekeySteps (s : State) (from_ to_ : Nat) : State :=
  s.sites.foldl (fun t e =>
    if e.2.steps.any (fun st => st.slot == from_) then
      t.setSite e.1 { t.site e.1 with steps := (t.site e.1).steps.map (fun st => if st.slot = from_ then { st with slot := to_ } else st) }
    else t) s
/-- The copies of a slot, with their queues; packets of a CPYM and chunks that are under way land (R190, R257). -/
def State.copiesOf (s : State) (slot : Nat) : List (Nat × CopyEntry) :=
  (s.site (siteOfSlot slot)).copyq.flatMap (fun q => (q.2.filter (fun c => c.slot == slot)).map (fun c => (q.1, c)))
def State.landPackets (s : State) (slot : Nat) : State :=
  let site := siteOfSlot slot
  (s.copiesOf slot).foldl (fun t p => p.2.away.foldl (fun u o => u.landChunk site p.1 p.2.id o) (t.landAll site (p.1 / 4) p.2.flying)) s
/-- The switch ports of a collective's participants: its circuit reservations are the slots granted to them (R345). -/
def Coll.ports (c : Coll) : List Nat := c.group.map (fun w => Config.switchPort (bits w.toNat 0 16) (bits w.toNat 16 6))
/-- The circuit reservations of a pre-empted collective are released, but for the slot in flight (R257, R345); those to a port that
another collective of the site uses too are kept for it (DESIGN CHOICE, log 118). -/
def Site.release (x : Site) (slot : Nat) : Site :=
  let mine := (x.colls.filter (fun c => c.slot == slot)).flatMap Coll.ports
  let others := (x.colls.filter (fun c => !(c.slot == slot))).flatMap Coll.ports
  if mine.isEmpty then x
  else { x with links := Table.mapVal (fun _ l => { l with
    granted := l.granted.filter (fun g => l.slotNo == some g.1 || !mine.contains g.2.1 || others.contains g.2.1) }) x.links }
/-- Take the work of a slot out of the engines (R257). -/
def State.liftWork (s : State) (slot : Nat) : State :=
  let core := coreOfSlot slot
  let site := siteOfSlot slot
  let c := s.core core
  let s1 := s.setCore core { c with mq := c.mq.filter (fun m => !(m.slot == slot)), batches := c.batches.filter (fun b => !(b.slot == slot)) }
  let x := (s1.site site).release slot
  s1.setSite site { x with
    copyq := (x.copyq.map (fun q => (q.1, q.2.filter (fun c => !(c.slot == slot))))).filter (fun q => !q.2.isEmpty),
    colls := x.colls.filter (fun c => !(c.slot == slot)) }

/-- A save that fails (R258): the workgroup stays resident, its coaches resume, and a report is posted. -/
def State.saveFails (s : State) (slot : Nat) (w : Workgroup) (va : DWord) : State :=
  let site := siteOfSlot slot
  let s1 := s.sites.foldl (fun t e =>
    if e.2.mon.any (fun m => m.absent && m.gid == w.gid && m.index == w.index) then
      t.setSite e.1 { t.site e.1 with mon := (t.site e.1).mon.filter (fun m => !(m.absent && m.gid == w.gid && m.index == w.index)) }
    else t) s
  (s1.modWg slot (fun x => { x with
    saving := none, parkTo := saveFailed, moveTo := none, coaches := Table.mapVal (fun _ d => { d with stopped := none }) x.coaches })).report site w.ctx cSAVEAREA_FAULT (agentField { slot := slot, k := 0 }) va
/-- The last steps of a save (R256 steps 4 to 7), once nothing of the workgroup is on its way to another device. -/
def State.saveNow (s : State) (slot : Nat) (w0 : Workgroup) (g : Grid) (states : Table CoachState) : State :=
  let site := siteOfSlot slot
  let core := coreOfSlot slot
  let s1 := s.landPackets slot
  let k := s1.release slot scCORE
  match k.2.wg slot with
  | none => s
  | some w =>
    let s2 := k.2
    let last := !s2.wgs.any (fun x => x.1 != slot && coreOfSlot x.1 == core && x.2.gid == w.gid)
    let copies := s2.copiesOf slot
    let probe := s2.saveImage slot w g g.num 0 k.1 states copies last
    let size := probe.bytes.length
    let park := decide (w.parkTo = 1)
    let pl := if park then (s2.parkPlace w.gid g size, s2) else s2.poolPlace site w.ctx size
    match pl.1 with
    | none => pl.2.saveFails slot w0 (if park then g.parkVa else (pl.2.context w.ctx).ctxsave)
    | some p =>
      let im := s2.saveImage slot w g g.num p.next k.1 states copies last
      match State.devWrite (size / 65536 + 2) pl.2 site w.ctx p.va im.bytes with
      | (some (_, va), s3) => s3.saveFails slot w0 va
      | (none, s3) =>
        match s3.linkRecord site w.ctx w.gid g park p.va size (decide (im.image ≠ 0)) with
        | (some va, s4) => s4.saveFails slot w0 va
        | (none, s4) =>
        let c := s4.core core
        let x := s4.site site
        let v : SavedWg :=
          { gid := w.gid, index := w.index, va := p.va, size := size, inPark := park, parked := decide (w.parkTo ≠ 0), oldCore := core, oldSlot := slot,
            tinBase := w.tinBase, tins := w.tins, tinVa := p.va + BitVec.ofNat 64 im.tins, bars := w.bars,
            coaches := Table.mapVal (fun _ d => { d with state := if d.state = .retired then .retired else .saved, stopped := none }) w.coaches,
            mq := c.mq.filter (fun m => m.slot == slot), batches := c.batches.filter (fun b => b.slot == slot),
            halted := Table.find c.halted w.ctx, copies := copies,
            copyHalt := (x.copyHalt.filter (fun h => h.2 == w.ctx && copies.any (fun y => y.1 == h.1))).map Prod.fst,
            colls := x.colls.filter (fun y => y.slot == slot), recs := im.recs,
            typed := if im.typed = 0 then none else some (p.va + BitVec.ofNat 64 im.typed), typedWord := im.typedWord,
            image := if im.image = 0 then none else some (p.va + BitVec.ofNat 64 im.image), savedAt := s4.now, moveTo := w.moveTo }
        let s5 := ((s4.liftWork slot).freeWg slot).rekeySteps slot (awaySlot w.gid w.index)
        { s5 with saved := s5.saved ++ [v] }
/-- The states in which a workgroup's coaches were stopped, for their records. -/
def Workgroup.states (w : Workgroup) : Table CoachState := w.coaches.map (fun c => (c.1, c.2.stopped.getD c.2.state))
/-- WORKGROUP_SAVE (R256, R258): a save that has been asked for stops the coaches and then goes as far as it can: it waits for a
detected trap's frame, for the accesses in flight, for a handler's own operations, for the workgroup's remote operations, and for a
retirement that is due on its core (R302). -/
def execWorkgroupSave (s : State) : Host.Outcome State Fault Refusal :=
  let slot := s.arg.slot
  .next (match s.wg slot with
    | none => s
    | some w =>
      if w.saving.isNone then s
      else
        let s0 := (s.coachRefs slot).foldl State.settleTrap s
        let s1 := (s0.coachRefs slot).foldl (State.stopCoach (decide (w.parkTo = 2))) s0
        if s1.saveBusy slot || s1.retiring (coreOfSlot slot) then s1
        else
          match s1.wg slot, s1.grid w.gid with
          | some w1, some g =>
            let s3 := (s1.coachRefs slot).foldl State.restCoach s1
            (match s3.wg slot with
             | some w2 => s3.saveNow slot w2 g w1.states
             | none => s3)
          | _, _ => s1)

/-! Restore (R263-R265). -/

/-- Check a record (R263 step 1): MAGIC, SIZE and the context header; the bytes when they are right. -/
def State.recordOf (s : State) (site ctx : Nat) (v : SavedWg) : Except DWord (List Byte) × State :=
  match s.saveHeader site ctx with
  | (none, s1) => (.error (s1.context ctx).ctxsave, s1)
  | (some h, s1) =>
    if !h.ok then (.error (s1.context ctx).ctxsave, s1)
    else
      match State.devRead (v.size / 65536 + 2) s1 site ctx v.va v.size with
      | (.error e, s2) => (.error e.2, s2)
      | (.ok b, s2) => if fieldLE b 0 4 = 0x57475201 ∧ fieldLE b 4 4 = v.size then (.ok b, s2) else (.error v.va, s2)
/-- Put the typed-buffer section into a grid's new reservation, the marks' word replaced by the one it displaced. -/
def Core.loadTyped (c : Core) (gid : Nat) (w : Word) (b : List Byte) : Core :=
  let r := c.resvOf gid
  let m := fieldLE b 0 4
  let d := bytesLE 4 w.toNat ++ b.drop 4
  let c1 := ((c.putBytes .xbuf r.xbase (d.take r.xsize)).putBytes .wbuf r.wbase ((d.drop r.xsize).take r.wsize)).putBytes .abuf r.abase
    ((d.drop (r.xsize + r.wsize)).take r.asize)
  { c1 with inval := c.inval ++ ((List.range 32).filter (fun n => bitN m n)).map (fun n => (gid, n)) }
/-- How the numbers of a core group change: matrix entries and copies take new ones above every present one, and each old
slot its new slot with its new first tin. -/
structure Rebase where
  mq : Nat
  cq : Nat
  ids : List Nat
  slots : List (Nat × Nat × Nat × Nat)
  deriving DecidableEq, Repr
/-- The new slot of an old one. -/
def Rebase.slot (b : Rebase) (old : Nat) : Nat := match b.slots.find? (fun x => x.1 == old) with | some x => x.2.1 | none => old
/-- A physical tin of a member. -/
def Rebase.tin (b : Rebase) (old t : Nat) : Nat := match b.slots.find? (fun x => x.1 == old) with | some x => x.2.2.2 + (t - x.2.2.1) | none => t
def MOperand.rebase (m : MOperand) (b : Rebase) (old : Nat) : MOperand := { m with gate := m.gate.map (b.tin old) }
def MEntry.rebase (m : MEntry) (b : Rebase) : MEntry :=
  { m with
    id := b.mq + m.id, slot := b.slot m.slot, after := (m.after.filter (fun i => b.ids.contains i)).map (fun i => b.cq + i),
    op := match m.op with
      | .mma op t z p x y => .mma op t z p (x.rebase b m.slot) (y.rebase b m.slot)
      | o => o }
def CopyEntry.rebase (c : CopyEntry) (b : Rebase) : CopyEntry :=
  { c with
    id := b.cq + c.id, slot := b.slot c.slot, stin := c.stin.map (b.tin c.slot), paused := false,
    dtin := if c.kind = .cpym then c.dtin else c.dtin.map (b.tin c.slot), after := c.after.map (fun a => (b.slot a.1, a.2)),
    kind := match c.kind with | .join id qs => .join (b.cq + id) qs | k => k }
/-- Take back work into the engines: entries behind a halt stay behind it, a copy goes on ahead of those of its queue that
have not started (R257). -/
def State.returnWork (s : State) (core ctx : Nat) (v : SavedWg) (b : Rebase) : State :=
  let c := s.core core
  let mq := v.mq.map (fun m => m.rebase b)
  let top := listMax ((mq.map MEntry.id) ++ (match v.halted with | some h => [b.mq + h] | none => []))
  let s1 := s.setCore core { c with
    mq := sortBy MEntry.id (c.mq ++ mq), batches := c.batches ++ v.batches.map (fun x => { x with slot := b.slot x.slot }),
    nextId := max c.nextId (top + 1),
    halted := match v.halted with | some h => if (Table.find c.halted ctx).isSome then c.halted else Table.insert c.halted ctx (b.mq + h) | none => c.halted }
  let site := siteOfCore core
  let s2 := v.copies.foldl (fun (t : State) p =>
    let q := (t.site site).queue p.1
    let run := q.takeWhile (fun (e : CopyEntry) => e.started || b.ids.contains (e.id - b.cq))
    t.setQueue site p.1 (run ++ [p.2.rebase b] ++ q.drop run.length)) s1
  let y := s2.site site
  let s3 := s2.setSite site { y with
    nextId := max y.nextId (listMax (v.copies.map (fun p => b.cq + p.2.id)) + 1),
    copyHalt := y.copyHalt ++ (v.copyHalt.filter (fun q => !y.copyHalted q ctx)).map (fun q => (q, ctx)) }
  let old := siteOfCore v.oldCore
  (s3.setSite old { s3.site old with colls := (s3.site old).colls ++ v.colls.map (fun z => { z with slot := b.slot z.slot }) }).later
    ((v.copies.filter (fun p => p.2.err.isSome)).map (fun p =>
      ⟨.copyRuntimeError, { EvArgs.zero with site := site, n := p.1, id := b.cq + p.2.id }⟩))

/-- The spill list without the entry at n: the last entry takes its place (R258, R318). -/
def State.unspill (s : State) (site ctx n count : Nat) : State :=
  let base := (s.context ctx).ctxsave
  match State.devRead 2 s site ctx (spillVa base (count - 1)) 32 with
  | (.error _, s1) => s1
  | (.ok b, s1) => (((State.devWrite 2 s1 site ctx (spillVa base n) b).2).saveField site ctx 0x28 8 (count - 1)).2
/-- The spilled entries of a slot's coaches leave the list. -/
def State.unspillAll (fuel : Nat) (s : State) (site ctx slot n : Nat) : State :=
  match fuel with
  | 0 => s
  | f + 1 =>
    match s.saveHeader site ctx with
    | (none, s1) => s1
    | (some h, s1) =>
      if n ≥ h.nspill then s1
      else
        match State.devRead 2 s1 site ctx (spillVa (s1.context ctx).ctxsave n) 32 with
        | (.error _, s2) => s2
        | (.ok b, s2) =>
          if fieldLE b 14 2 = slot then State.unspillAll f (s2.unspill site ctx n h.nspill) site ctx slot n
          else State.unspillAll f s2 site ctx slot (n + 1)
/-- The absent entries of a workgroup leave the tables; those of queues are cancelled (R156, R165, R318). -/
def State.recallEntries (s : State) (site ctx : Nat) (v : SavedWg) : State :=
  let mine (m : MonEntry) : Bool := m.absent && m.gid == v.gid && m.index == v.index
  let found := s.sites.flatMap (fun e => e.2.mon.filter mine)
  let s1 := s.sites.foldl (fun t e =>
    if e.2.mon.any mine then t.setSite e.1 { t.site e.1 with mon := (t.site e.1).mon.filter (fun m => !mine m) } else t) s
  let s2 := found.foldl (fun (t : State) m => match m.kind with
    | .queue producer => t.uncount { Wait.none with queue := some (m.pa, producer) }
    | .cmp _ _ _ => t) s1
  let waits := v.coaches.any (fun c => c.2.savedWaits.any (fun p => p.1 == 0x94 || p.1 == 0x95))
  if waits then State.unspillAll (2 * spillMax) s2 site ctx v.oldSlot 0 else s2

/-- A coach as its record holds it (R263 step 6), bound to its new slice. -/
def restoredCoach (old : Coach) (w : Workgroup) (bs : List Byte) (b : Bind) (cyc : Nat) (re : Rebase) : Coach :=
  let c := Coach.ofRecord old w bs true old.inHandler
  let code := fieldLE bs 0 4 % 16
  { c with
    state := if code = 7 then .trapped else if code = 9 then .retired else .runnable,
    wait := if code = 7 then cutShort old.wait else Wait.none, pendTrap := none,
    flights := c.flights.map (fun (f : Flight) => match f.kind with | .qfence j => { f with kind := .qfence (re.cq + j) } | _ => f) }.bound b cyc
/-- The tin of a record: one that lost arrivals is FILLING with ERR (R257). -/
def restoredTin (bs : List Byte) : Tin :=
  let t := Tin.ofRecord bs
  if t.lost then { t with state := 1, err := true } else t
/-- Load one workgroup into its place (R263 steps 3 to 6); its record has been read and checked. -/
def State.restoreOne (s : State) (core : Nat) (g : Grid) (v : SavedWg) (r : Room) (b : List Byte) (re : Rebase) : State :=
  let site := siteOfCore core
  let slot := 16 * core + r.w
  let off (i : Nat) : Nat := fieldLE b (0x30 + 4 * i) 4
  let saved := word32 b 0x1C
  let oclk := clkMax saved ((s.site site).h - 0x200000)
  let w0 := r.workgroup g v.gid v.index s.now oclk []
  let cs := (List.zip (List.range g.ncoach) r.binds).map (fun x =>
    let old := match Table.find v.coaches x.1 with | some c => c | none => Coach.start g.entry g.args g.threads
    (x.1, restoredCoach old w0 (b.drop (v.recs.getD x.1 256)) x.2 (s.sliceCycle core x.2.slice + 1) re))
  let bars := (List.range 16).foldl (fun (t : Table Bar) i =>
    let fresh := freshBar w0 (some g) 1 i
    let y := { Bar.ofBytes ((b.drop (off 2 + 16 * i)).take 16) with m := (Table.getD v.bars i fresh).m }
    if y = fresh then t else Table.insert t i y) []
  let c := s.core core
  let s1 := s.setCore core { c.putBytes .sbuf r.sbuf ((b.drop (off 4)).take g.sbuf) with
    tins := (List.range g.tins).foldl (fun t i => Table.insert t (r.tin + i) (restoredTin ((b.drop (off 1 + 128 * i)).take 128))) c.tins }
  let s2 := s1.setWg slot { w0 with coaches := cs, bars := bars }
  let s3 := if core = v.oldCore then s2 else s2.ccAcquire core
  let s4 := ((s3.recallEntries site g.ctx v).returnWork core g.ctx v re).rekeySteps (awaySlot v.gid v.index) slot
  let s5 := { s4 with saved := s4.saved.filter (fun x => !(x.gid == v.gid && x.index == v.index)) }
  if v.inPark then
    match s5.parkBefore v.gid v.va with
      -- NEXT as it stands now: a record restored before this one may have been its successor
    | some u =>
      (match State.devRead 2 s5 site g.ctx (v.va + 8) 8 with
       | (.ok n, s6) => (State.devWrite 2 s6 site g.ctx (u.va + 8) n).2
       | (.error _, s6) => s6)
    | none => s5
  else s5.freeRecord site g.ctx v.va
/-- Read the records of a group; the first failure with its VA. -/
def readRecords (site ctx : Nat) (l : List SavedWg) (s : State) : Except DWord (List (SavedWg × List Byte)) × State :=
  match l with
  | [] => (.ok [], s)
  | v :: r =>
    match s.recordOf site ctx v with
    | (.error va, s1) => (.error va, s1)
    | (.ok b, s1) =>
      match readRecords site ctx r s1 with
      | (.error va, s2) => (.error va, s2)
      | (.ok q, s2) => (.ok ((v, b) :: q), s2)
/-- Restore a core group in its places (R263-R265). -/
def State.restoreGroup (s : State) (core : Nat) (g : Grid) (gid : Nat) (l : List SavedWg) (rooms : List Room) : State :=
  let site := siteOfCore core
  match readRecords site g.ctx l s with
  | (.error va, s1) => s1.report site g.ctx cRESTORE_FAULT 0 va
  | (.ok bs, s1) =>
    let withBuf := bs.find? (fun x => x.1.typed.isSome || x.1.image.isSome)
    let imageOff := match withBuf with | some x => fieldLE x.2 0x48 4 | none => 0
    let badImage := match withBuf with | some x => decide (imageOff ≠ 0) && decide (fieldLE x.2 imageOff 4 ≠ mxver) | none => false
    if badImage then s1.report site g.ctx cMXVER_MISMATCH 0 (match withBuf with | some x => x.1.va + BitVec.ofNat 64 imageOff | none => 0)
    else
      let re : Rebase :=
        { mq := (s1.core core).nextId, cq := (s1.site site).nextId, ids := l.flatMap (fun v => v.copies.map (fun p => p.2.id)),
          slots := (List.zip l rooms).map (fun x => (x.1.oldSlot, 16 * core + x.2.w, x.1.tinBase, x.2.tin)) }
      let s2 := (rooms.take 1).foldl (fun t r => t.take core gid g r) s1.endRound
      let s3 := match withBuf with
        | some x => if x.1.typed.isSome then s2.setCore core ((s2.core core).loadTyped gid x.1.typedWord (x.2.drop (fieldLE x.2 0x44 4))) else s2
        | none => s2
      (List.zip bs rooms).foldl (fun (t : State) x => (t.take core gid g { x.2 with resv := none }).restoreOne core g x.1.1 x.2 x.1.2 re) s3
/-- WORKGROUP_RESTORE (R263, R301, R304): a saved workgroup returns to a core with room, with its core group. -/
def execWorkgroupRestore (s : State) : Host.Outcome State Fault Refusal :=
  let gid := s.arg.id
  let core := s.arg.core
  .next (match s.grid gid, s.saved.find? (fun v => v.gid == gid && v.index == s.arg.n) with
    | some g, some v =>
      let best := s.bestCore ((coresOf (siteOfCore core)).filter (fun c => (s.canReturn v c).isSome))
      (match s.canReturn v core, s.admission g.ctx with
       | some rooms, some s1 =>
         if !s.firstInOrder gid g || best != some core || (s.nextReturn gid g).map SavedWg.index != some v.index || s.departing core then s
         else s1.restoreGroup core g gid (s.groupOf v) rooms
       | _, _ => s)
    | _, _ => s)
/-- The workgroups that migrate with one: the residents of its grid on its core, when the buffers of that core are theirs (R265). -/
def State.coreMates (s : State) (slot gid : Nat) (g : Grid) : List Nat :=
  if g.typed then (s.wgs.filter (fun x => coreOfSlot x.1 == coreOfSlot slot && x.2.gid == gid)).map Prod.fst else [slot]
/-- MIGRATION (R39, R265): a save, then a restore on a given core of the grid's SITES, as soon as there is room. -/
def execMigration (s : State) : Host.Outcome State Fault Refusal :=
  let slot := s.arg.slot
  .next (match s.wg slot with
    | none => s
    | some w =>
      if w.leaving || s.arg.core == coreOfSlot slot then s
      else
        match s.grid w.gid with
        | none => s
        | some g =>
          let core := s.arg.core
          if core ≥ 2048 || !g.siteSet.contains (siteOfCore core) || !s.powered (siteOfCore core) then s
          else (s.coreMates slot w.gid g).foldl (fun t n => (t.beginSave n 0).modWg n (fun x => { x with moveTo := some core })) s)

end Sys2Proof.Machine
end

