-- ==== Sys2Proof/Machine/HostLink.lean ====
section
/-! DEFINITION. Power-on and bring-up (R9, R378, R382, R383), the module management controller (R4, R368), the host's ports,
accesses and launches (R371-R373), attestation (R379) and checkpoints (R381). -/

namespace Sys2Proof.Machine

/-! Power-on, firmware and bring-up. -/

/-- POWER_ON_RESET (R9): every register takes its reset value. The fused values and the firmware slot (R378, R379) are no
registers, and a remote pool is no part of the device. -/
def execPowerOnReset (s : State) : Host.Outcome State Fault Refusal :=
  .next { State.reset with
    tick := s.tick, fwImage := s.fwImage, fwSig := s.fwSig, fuseKey := s.fuseKey, fuseMin := s.fuseMin, serial := s.serial,
    pools := s.pools }
/-- The boot ROM's check of an image (R378): its signature block holds the public key, whose hash is fused, then r and s (DESIGN
CHOICE, log 124); the image's security version is at least the fused minimum. -/
def State.imageOk (s : State) (image sig : List Byte) : Bool :=
  sha384 (sig.take 96) == s.fuseKey && ecdsaOk (sig.take 96) (sha384 image) (sig.drop 96) && decide (s.fuseMin.toNat ≤ (Config.imageVersion image).toNat)
/-- FIRMWARE_UPDATE (R378): an update is verified whole, then written to the slot. -/
def execFirmwareUpdate (s : State) : Host.Outcome State Fault Refusal :=
  .next (if s.imageOk s.arg.data s.arg.sig then { s with fwImage := s.arg.data, fwSig := s.arg.sig } else s)
/-- A failure has stopped bring-up (R383). -/
def State.stopped (s : State) : Bool := s.failBit && decide (s.stage < stageService)
/-- A failure: the first one's site, and, before service, the end of bring-up with no port up. -/
def State.fails (s : State) (site : Nat) : State :=
  if s.failBit then s else { s with failBit := true, failSite := site, ports := if s.stage < stageService then [] else s.ports }
/-- What the stage in progress waits for: the ms of the region that is powered (stage 1), or a port that is UP (stage 5). -/
def State.stageHeld (s : State) : Bool :=
  match s.stage with
  | 1 => decide (s.now < s.powerAt)
  | 5 => !s.ports.any (fun p => p.2.up)
  | _ => false
/-- Every link of the device takes a state and a lane set, both ways (R341). -/
def State.linksTo (s : State) (lanes st : Nat) : State :=
  (List.range 64).foldl (fun t n => (List.range 4).foldl (fun u f => (List.range 2).foldl (fun v d =>
    v.setLstat n f d (setFld (setFld (v.lstat n f d) 24 8 lanes) 0 3 st)) u) t) s
/-- Every site loads the link key and puts its endpoint in service. -/
def State.opticsUp (s : State) (key : List Byte) : State :=
  (List.range 64).foldl (fun t n =>
    let t1 := (List.range 6).foldl (fun u i => u.setWin n (offLINKKEY + 8 * i) (dword64 key (8 * i))) t
    t1.setWin n offEPCFG (setFld (t1.win n offEPCFG) 0 1 1)) (s.linksTo 255 stUP)
/-- What a stage does when it succeeds (R382): stage 1 powers the regions in order, one each ms; `n` is the stripe partition in units of
64 MiB, and `m` the collective L2 region, of which nothing else of the spec speaks, at stage 2; `data` is the link key at stage 4, whose
optics train from the end of stage 3 (R341). -/
def State.stageAction (s : State) : State :=
  match s.stage with
  | 0 => { s with powerAt := s.now + 1000000 }
  | 1 => { s with regionsOn := s.regionsOn + 1, powerAt := s.now + 1000000 }
  | 2 => { s with stripe := min dramBytes (s.arg.n * (64 * 2 ^ 20)), collL2 := s.arg.m }
  | 3 => (s.linksTo 0 stTRAINING).later ((List.range 64).map (fun n => ⟨.bandedLatencyMeasure, { EvArgs.zero with site := n, bands := measured (s.tick + n) }⟩))
  | 4 => s.opticsUp s.arg.data
  | _ => s
/-- The stage that follows: stage 1 ends with the sixteenth region. -/
def State.nextStage (s : State) : Nat := if s.stage = 1 ∧ s.regionsOn + 1 < 16 then 1 else s.stage + 1
/-- BRINGUP_STAGE (R382, R383): the stage in progress succeeds (`ok`; stage 0 is the firmware's verification, R378) or fails. -/
def execBringupStage (s : State) : Host.Outcome State Fault Refusal :=
  .next (if s.failBit || decide (s.stage ≥ stageService) then s
    else if !(if s.stage = 0 then s.imageOk s.fwImage s.fwSig else s.arg.ok) then s.fails s.arg.site
    else if s.stageHeld then s
    else { s.stageAction with stage := s.nextStage })
/-- What the module management controller writes as a site's TOFF: a measurement, kept within 2 ns of the counter's offset (R4). -/
def State.measuredOffset (s : State) (n : Nat) (m : Int) : Int := (s.site n).skew + max (-2) (min 2 (m - (s.site n).skew))
/-- TOFF_UPDATE (R4): the module management controller writes a site's TOFF. -/
def execToffUpdate (s : State) : Host.Outcome State Fault Refusal :=
  let m := s.measuredOffset s.arg.site (s.arg.value.truncate 32 : Word).toInt
  .next (if s.arg.site < 64 then { s with toff := Table.insert s.toff s.arg.site (BitVec.ofInt 32 m) } else s)
/-- THERMAL_TRIP (R368, R383): a sensor of the site reads n °C, at least TTRIP: its power is removed, the trip is logged (SITE is
that of the first failure), and every grid with workgroups there completes KILLED. -/
def execThermalTrip (s : State) : Host.Outcome State Fault Refusal :=
  let n := s.arg.site
  .next (if n ≥ 64 ∨ s.arg.n < s.tTrip n ∨ s.powered n = false then s
    else
      let s1 := s.logEvent n evTrip 0 0 0 0
      let s2 := (s1.setSite n { s1.site n with powered := false }).fails n
      let gids := ((s2.wgs.filter (fun w => siteOfSlot w.1 == n)).map (fun w => w.2.gid)).eraseDups
      gids.foldl (fun t g => t.killGrid g) s2)

/-! The host's ports (R371-R373). -/

/-- A port that has trained with m lanes: gen 3 or gen 2, or gen 2 for management only. -/
def portOf (gen3 mgmt : Bool) (m : Nat) : Port := { up := [32, 16, 8].contains m, gen3 := gen3 && !mgmt, lanes := m, mgmt := mgmt }
/-- OZRIK_LINK_TRAIN (R371, R382, R383): port n trains at gen 3 (`ok`) or gen 2, with m lanes, from stage 5 on. After a failed bring-up
only port 0 trains, as gen 2, for management. -/
def execOzrikLinkTrain (s : State) : Host.Outcome State Fault Refusal :=
  let port := portOf s.arg.ok s.stopped s.arg.m
  .next (if s.arg.n ≥ 2 then s
    else if s.stopped then (if s.arg.n = 0 then { s with ports := [(0, port)], mgmtBit := port.up } else s)
    else if s.stage < 5 then s
    else { s with ports := Table.insert s.ports s.arg.n port })
/-- A port carries an access to a physical address. -/
def State.portCarries (s : State) (port pa : Nat) : Bool :=
  let p := Table.getD s.ports port Port.down
  decide (port < 2) && p.up && (!p.mgmt || paSpace pa == 3)
/-- The fabric manager assigns a context its POD barrier slots: their E, A and g start at 0 (R153). -/
def State.assignPod (s : State) (ctx : Nat) : State := { s with wideBars := s.wideBars.filter (fun b => !(b.scope == 6 && b.owner == ctx)) }
/-- HOST_ACCESS (R371, R372): through port n, of bytes within a line. A read of spaces 0 and 1 may leave the line in the
host's cache; a write of host memory is the host's own. Accesses of agent 0x8002 are not checked. With n = 2, which is no port, it is
the fabric manager's assignment of POD slots to context m, for which the spec has no event (R153; log 97). -/
def execHostAccess (s : State) : Host.Outcome State Fault Refusal :=
  let pa := s.arg.pa
  let port := s.arg.n
  .next (if port = 2 then s.assignPod s.arg.m else if !s.portCarries port pa || decide (pa ≥ 2 ^ 52) || decide (pa % 128 + s.arg.data.length > 128) then s
    else
      match paSpace pa with
      | 3 =>
        if s.arg.ok && decide (pa % 8 = 0 ∧ s.arg.data.length = 8) then Ssc.write s (homeSite pa) (pa % 2 ^ 44) (dword64 s.arg.data 0) else s
      | 2 => if s.arg.ok then { s with mem := Memory.writeN s.mem pa s.arg.data } else s
      | _ =>
        if !s.paOk pa then s
        else
          let s1 := s.homeTouch pa
          if s.arg.ok then s1.homeWrite pa s.arg.data
          else
            let m := s1.line pa
            s1.setLine pa { m with sharers := m.sharers ||| BitVec.ofNat 2 (2 ^ port) })
/-- The accesses of the host on a context's behalf (R216, R373). -/
def Acc.host (core ctx : Nat) : Acc := { core := core, ctx := ctx, agent := 0x8002, clk := 0 }
/-- The record that the host has written to HQREC. -/
def State.hqRecord (s : State) (n : Nat) : List Byte := (List.range 8).flatMap (fun i => bytesLE 8 (s.win n (offHQREC + 8 * i)).toNat)
/-- The outcome of a host enqueue (R373): its status code and the state; none while a self-test holds it. A module that is not in
service enqueues nothing (R383; the code is the model's choice, log 64). -/
def State.hostEnqueue (s : State) (n ctx : Nat) (va : DWord) : Option (Nat × State) :=
  let done (code : Nat) (t : State) : Option (Nat × State) := some (code, t)
  if s.stage < stageService ∨ s.ctxValid n ctx = false then done qFAULT s
  else
    match s.openQcb none n ctx va .both with
    | (.error .held, _) => none
    | (.error .corrupt, s1) => done qBADPARAM s1
    | (.error (.trap _ _), s1) => done qFAULT s1
    | (.ok (x, q), s1) =>
      if q.esize ≠ 64 then done qBADPARAM s1
      else if q.state = 1 then done qEND s1
      else if q.free = 0 then done qFULL s1
      else
        match s1.enqAddrs none n (Acc.host (32 * n) ctx) va x q 1 with
        | (.error .held, _) => none
        | (.error .corrupt, s2) => done qBADPARAM s2
        | (.error (.trap _ _), s2) => done qFAULT s2
        | (.ok l, s2) => done qOK (s2.enqCommit x.pa q (s2.site (homeSite x.pa)).h l [s2.hqRecord n])
/-- HQENQ (R373): the enqueue of HQREC, and its CODE. -/
def execHqenq (s : State) : Host.Outcome State Fault Refusal :=
  let n := s.arg.site
  .next (match s.cmd n offHQENQ with
    | none => s
    | some v =>
      let raw := v &&& 0x0000FFFFFFFFFFC0
      let va : DWord := raw ||| (if raw.getLsbD 47 then 0xFFFF000000000000 else 0)
      match s.hostEnqueue n (fld v 48 8) va with
      | none => s
      | some r => (r.2.setWin n offHQENQ (setFld (r.2.win n offHQENQ) 56 4 r.1)).endCmd n offHQENQ 0x4000000000000000)

/-! Attestation (R379). -/

def attMagic : Nat := 0x41545401
/-- The bytes of the peer table of site 0. -/
def State.peerBytes (s : State) : List Byte := (List.range 16384).flatMap (fun i => bytesLE 8 (s.win 0 (0x10000 + 8 * i)).toNat)
/-- The report over a nonce. -/
def State.attReport (s : State) (nonce : List Byte) : List Byte :=
  let cfg := bytesLE 8 s.epol.toNat ++ bytesLE 8 (Ssc.read s 0 offBRSTAT).toNat ++ bytesLE 8 s.stripe ++ s.peerBytes
  let body := padTo 256 (bytesLE 4 attMagic ++ bytesLE 4 0 ++ bytesLE 8 s.serial.toNat ++ padTo 48 nonce ++ padTo 48 (sha384 s.fwImage) ++
    padTo 48 (sha384 cfg) ++ bytesLE 8 (s.time 0).toNat)
  padTo 512 (body ++ padTo 96 (Config.sign (sha384 body)))
/-- ATTCMD (R379): the report replaces the buffer, and DONE reads 1. -/
def execAttcmd (s : State) : Host.Outcome State Fault Refusal :=
  let v := s.win 0 offATTCMD
  let pa := s.arg.pa
  .next (if v.getLsbD 0 = true ∨ pa % 512 ≠ 0 ∨ fld v 0 52 ≠ pa ∨ paSpace pa ≥ 3 ∨ s.paOk pa = false then s
    else (s.homeWrite pa (s.attReport (s.homeRead pa 48))).setWin 0 offATTCMD (v ||| 1))

/-! Checkpoint and restore (R381). -/

/-- A command of CKPTCTL runs, in a direction. -/
def State.ckptRuns (s : State) (dir : Bool) : Bool :=
  match s.cmd 0 offCKPTCTL with
  | some v => v.getLsbD 2 == dir
  | none => false
/-- The pool that the command names. -/
def State.ckptPool (s : State) : Nat := match s.cmd 0 offCKPTCTL with | some v => fld v 16 32 | none => 0
/-- It has ended: DONE, and ERR when a transfer has failed. -/
def State.ckptDone (s : State) (err : Bool) : State :=
  (s.setWin 0 offCKPTCTL (setFld (s.win 0 offCKPTCTL) 3 1 (if err then 1 else 0))).endCmd 0 offCKPTCTL 2
/-- The bytes of the sites' DRAM. -/
def dramOf (m : Memory) : Memory := m.filter (fun c => decide (paSpace c.1 ≤ 1))
/-- Every site's endpoint is in service and its peer table leads to the pool (R337, R377): an RPUT to it is not refused. -/
def State.poolReached (s : State) (pool : Nat) : Bool :=
  (List.range 64).all (fun n => (s.win n offEPCFG).getLsbD 0 && (s.peerEntries n pool).any (fun x => (s.transport n pool x.1).isSome))
/-- CHECKPOINT: every resident workgroup is saved with no notice; when none is left, each site's DRAM goes to the pool, or
(`ok` false) a transfer fails. -/
def execCheckpoint (s : State) : Host.Outcome State Fault Refusal :=
  .next (if !s.ckptRuns false then s
    else if !s.wgs.isEmpty then s.wgs.foldl (fun t w => t.beginSave w.1 0) s
    else
      let pool := s.ckptPool
      if s.arg.ok && s.poolReached pool then
        { s with pools := Table.insert s.pools pool { mem := dramOf s.mem, poison := s.poison, saved := s.saved, grids := s.grids, ctxs := s.ctxs, wideBars := s.wideBars, given := s.given } }.ckptDone false
      else s.ckptDone true)
/-- What memory holds has been replaced: no cache keeps a line, a table entry or a descriptor of what was there, the monitors see the
writes, and the queue controllers doubt their blocks (R158, R318). -/
def State.afterRestore (s : State) : State :=
  let t : State := { (s.dropXlate (fun _ => true) none).dropFrd none with lines := [] }
  let u : State := { t with
    cores := Table.mapVal (fun _ c => { c with cc := [] }) t.cores
    sites := Table.mapVal (fun _ x => { x with qcbs := x.qcbs.map (fun q => { q with verified := false }) }) t.sites }
  ((u.sites.flatMap (fun x => x.2.mon.map MonEntry.pa)).eraseDups).foldl (fun v pa => v.fireMonitors pa 4) u
/-- CHECKPOINT_RESTORE: the DRAM takes what the pool holds, with the work saved in it. -/
def execCheckpointRestore (s : State) : Host.Outcome State Fault Refusal :=
  .next (if !s.ckptRuns true || !s.wgs.isEmpty then s
    else
      match Table.find s.pools s.ckptPool, s.arg.ok && s.poolReached s.ckptPool with
      | some c, true =>
        { s with
          mem := c.mem.foldl (fun (m : Memory) (x : Host.Cell) => Memory.write m x.1 x.2) (s.mem.filter (fun x => !decide (paSpace x.1 ≤ 1)))
          poison := c.poison, saved := c.saved, grids := c.grids, ctxs := c.ctxs, wideBars := c.wideBars, given := c.given }.afterRestore.ckptDone false
      | _, _ => s.ckptDone true)

end Sys2Proof.Machine
end

