-- ==== Sys2Proof/Machine/Lane.lean ====
section
/-! DEFINITION. Row 0x5: lane, reduction and predicate instructions (R60, R118-R122). -/

namespace Sys2Proof.Machine

/-- D := A of a partner thread, active or not (R118). -/
def lanePick (f : RRR) (partner : Env → Nat → Nat) : Env → State → State :=
  lanewise false f.d.toNat 1 (fun e t => clean (e.opA f 1 (partner e t)))
/-- Lane ℓ + W·d of a thread's depth slot. -/
def inSlot (e : Env) (t l : Nat) : Nat := l + e.wg.w * (t / e.wg.w)

def execLxch (f : RRR) (s : State) : Host.Outcome State Fault Refusal :=
  issue (.lxch f) s (lanePick f (fun e t => inSlot e t ((t % e.wg.w) ^^^ f.b.toNat)))
def execLshfl (f : RRR) (s : State) : Host.Outcome State Fault Refusal :=
  issue (.lshfl f) s (lanePick f (fun e t => inSlot e t (e.opB f 1 1 t % e.wg.w)))
def execLbcast (f : RRR) (s : State) : Host.Outcome State Fault Refusal :=
  issue (.lbcast f) s (lanePick f (fun e _ => (e.c.readS e.tick f.b.toNat).toNat % e.wg.threads))
def execLrot (f : RRR) (s : State) : Host.Outcome State Fault Refusal :=
  issue (.lrot f) s (lanePick f (fun e t => inSlot e t ((t % e.wg.w + e.wg.w - f.b.toNat) % e.wg.w)))

/-! CRED and CSCAN (R60, R119). -/

/-- The operation ⊕ of M[2:0] on FP32 or INT32 words, with its flags (R119). -/
def reduceOp (m : Nat) (a b : Nat) : Nat × Word :=
  let fa := Fv.ofBits fp32 a
  let fb := Fv.ofBits fp32 b
  match m with
  | 0 => clean ((a + b) % 2 ^ 32)
  | 1 => clean (intOut false false 32 (min (intOf false 32 a) (intOf false 32 b)))
  | 2 => clean (intOut false false 32 (max (intOf false 32 a) (intOf false 32 b)))
  | 3 => fp32.deliver .rne false (addF .rne fa fb)
  | 4 => clean (fp32.roundF .rne false (minF fa fb)).1
  | 5 => clean (fp32.roundF .rne false (maxF fa fb)).1
  | 6 => clean (a &&& b)
  | _ => clean (a ||| b)
/-- ⊕ on positions of which some are absent (R60). -/
def reduceOpt (m : Nat) (a b : Option (Nat × Word)) : Option (Nat × Word) :=
  match a, b with
  | none, y => y
  | x, none => x
  | some x, some y => let r := reduceOp m x.1 y.1; some (r.1, r.2 ||| x.2 ||| y.2)
/-- One level of the tree. -/
def pairUp (m : Nat) (l : List (Option (Nat × Word))) : List (Option (Nat × Word)) :=
  match l with
  | a :: b :: r => reduceOpt m a b :: pairUp m r
  | l => l
/-- The levels of the tree, from level 0 up (R60). -/
def treeLevels (fuel m : Nat) (l : List (Option (Nat × Word))) : List (List (Option (Nat × Word))) :=
  match fuel with
  | 0 => [l]
  | n + 1 => if l.length ≤ 1 then [l] else l :: treeLevels n m (pairUp m l)
/-- The nodes that cover positions 0 to t, each as large as possible, in ascending position: (level, node). -/
def coverNodes (fuel k done count : Nat) : List (Nat × Nat) :=
  match fuel with
  | 0 => []
  | n + 1 =>
    if count / 2 ^ k % 2 = 1 then (k, done / 2 ^ k) :: (if k = 0 then [] else coverNodes n (k - 1) (done + 2 ^ k) count)
    else if k = 0 then [] else coverNodes n (k - 1) done count
/-- The inclusive scan at position t (R60). -/
def scanAt (m t : Nat) (lv : List (List (Option (Nat × Word)))) : Option (Nat × Word) :=
  (coverNodes 10 9 0 (t + 1)).foldl (fun a n => reduceOpt m a ((lv.getD n.1 []).getD n.2 none)) none
/-- Level 0: the values of the active threads. -/
def positions (f : RRR) (e : Env) : List (Option (Nat × Word)) :=
  (List.range e.wg.threads).map (fun t => if e.active.getLsbD t then some (e.opA f 1 t, flNone) else none)

def execCred (f : RRR) (s : State) : Host.Outcome State Fault Refusal :=
  issue (.cred f) s (fun e s =>
    let root := ((treeLevels 9 f.m.toNat (positions f e)).getLastD []).headD none
    lanewise false f.d.toNat 1 (fun _ _ => match root with | some v => v | none => (0, flNone)) e s)
/-- Flags are those of the combinations that make a result. -/
def execCscan (f : RRR) (s : State) : Host.Outcome State Fault Refusal :=
  issue (.cscan f) s (fun e s =>
    let lv := treeLevels 9 f.m.toNat (positions f e)
    lanewise false f.d.toNat 1 (fun _ t => match scanAt f.m.toNat t lv with | some v => v | none => (0, flNone)) e s)

/-! Predicates (R120-R122). -/

def execPand (f : RRR) (s : State) : Host.Outcome State Fault Refusal :=
  issue (.pand f) s (fun e s => setPreds f.d.toNat (fun t => e.c.readP f.a.toNat t && e.c.readP f.b.toNat t) e s)
def execPor (f : RRR) (s : State) : Host.Outcome State Fault Refusal :=
  issue (.por f) s (fun e s => setPreds f.d.toNat (fun t => e.c.readP f.a.toNat t || e.c.readP f.b.toNat t) e s)
def execPxor (f : RRR) (s : State) : Host.Outcome State Fault Refusal :=
  issue (.pxor f) s (fun e s => setPreds f.d.toNat (fun t => e.c.readP f.a.toNat t != e.c.readP f.b.toNat t) e s)
def execPnot (f : RRR) (s : State) : Host.Outcome State Fault Refusal :=
  issue (.pnot f) s (fun e s => setPreds f.d.toNat (fun t => !e.c.readP f.a.toNat t) e s)
/-- Only the threads of word k are written (R120). -/
def execPmask (f : RRR) (s : State) : Host.Outcome State Fault Refusal :=
  issue (.pmask f) s (fun e s =>
    let x := e.c.readS e.tick f.b.toNat
    setPreds f.d.toNat (fun t => x.getLsbD (t % 32))
      { e with active := e.active &&& maskOf e.wg.threads (fun t => decide (t / 32 = f.a.toNat)) } s)
def execPsets (f : RRR) (s : State) : Host.Outcome State Fault Refusal :=
  issue (.psets f) s (fun e s => setPreds f.d.toNat (fun _ => e.c.readS e.tick f.b.toNat != 0) e s)
/-- The threads of Active(c) with pA set. -/
def votes (f : RRR) (e : Env) : List Nat := e.threads.filter (fun t => e.c.readP f.a.toNat t)
def voteOf (f : RRR) (e : Env) : Nat :=
  match f.m.toNat % 4 with
  | 0 => (votes f e).foldl (fun a t => if t / 32 = f.b.toNat then a + 2 ^ (t % 32) else a) 0
  | 1 => if (votes f e).isEmpty then 0 else 1
  | 2 => if (votes f e).length = e.threads.length then 1 else 0
  | _ => (votes f e).length
def execVote (f : RRR) (s : State) : Host.Outcome State Fault Refusal :=
  issue (.vote f) s (lanewise f.u f.d.toNat 1 (fun e _ => clean (voteOf f e)))
def execElect (f : RRR) (s : State) : Host.Outcome State Fault Refusal :=
  issue (.elect f) s (fun e s => setPreds f.d.toNat (fun t => decide (e.threads.head? = some t)) e s)
/-- s[B] mod (W·D) (R122). -/
def namedThread (f : RRR) (e : Env) : Nat := (e.c.readS e.tick f.b.toNat).toNat % e.wg.threads
def execVget (f : RRR) (s : State) : Host.Outcome State Fault Refusal :=
  issue (.vget f) s (fun e s =>
    finishW e [{ scalar := true, reg := f.d.toNat, thread := 0, val := e.c.readV e.tick f.a.toNat (namedThread f e) }] s)
/-- The named thread need not be active (R122). -/
def execVput (f : RRR) (s : State) : Host.Outcome State Fault Refusal :=
  issue (.vput f) s (fun e s =>
    finishW e [{ scalar := false, reg := f.d.toNat, thread := namedThread f e, val := e.c.readS e.tick f.a.toNat }] s)

end Sys2Proof.Machine
end

