-- ==== Sys2Proof/Machine/Transcend.lean ====
section
/-! DEFINITION. FRCP and FRSQ of row 0x2 and the transcendental instructions of row 0x4 (R66-R68, R113): the value of
the function to some 200 bits beyond its ULP, the free deviation from it that R66 bounds (`Config.deviation`, by
operation and operand), the exact cases and the special inputs. -/

namespace Sys2Proof.Machine

/-- The scale of the fixed-point values below: 512 fraction bits. -/
def fxOne : Int := 2 ^ 512
/-- ln 2 and π/2 with 512 fraction bits, 2/π with 1152 (R68). -/
def fxLn2 : Int :=
  0xb17217f7d1cf79abc9e3b39803f2f6af40f343267298b62d8a0d175b8baafa2be7b876206debac98559552fb4afa1b10ed2eae35c138214427573b291169b825
def fxHalfPi : Int :=
  0x1921fb54442d18469898cc51701b839a252049c1114cf98e804177d4c76273644a29410f31c6809bbdf2a33679a748636605614dbe4be286e9fc26adadaa3848b
def twoOverPi : Nat :=
  0xa2f9836e4e441529fc2757d1f534ddc0db6295993c439041fe5163abdebbc561b7246e3a424dd2e006492eea09d1921cfe1deb1cb129a73ee88235f52ebb4484e99c7026b45f7e413991d639835339f49c845f8bbdf9283b1ff897ffde05980fef2f118b5a0a6d1f6d367ecf27cb09b74f463f669e5fea2d7527bac7ebe5f17b3d0739f78a5292ea6bfb5fb11f8d5d08

def fxMul (a b : Int) : Int := a * b / fxOne
/-- e^x for 0 ≤ x ≤ ln 2: 1 + x/k (1 + x/(k+1) (...)). -/
def expSeries (n k : Nat) (x : Int) : Int :=
  match n with
  | 0 => fxOne
  | n + 1 => fxOne + fxMul x (expSeries n (k + 1) x) / k
/-- sin x / x and cos x as series in x² = q. -/
def sinSeries (n k : Nat) (q : Int) : Int :=
  match n with
  | 0 => fxOne
  | n + 1 => fxOne - fxMul q (sinSeries n (k + 1) q) / (2 * k * (2 * k + 1))
def cosSeries (n k : Nat) (q : Int) : Int :=
  match n with
  | 0 => fxOne
  | n + 1 => fxOne - fxMul q (cosSeries n (k + 1) q) / ((2 * k - 1) * (2 * k))
/-- atanh t / t as a series in t² = q. -/
def atanhSeries (n k : Nat) (q : Int) : Int :=
  match n with
  | 0 => 0
  | n + 1 => fxOne / (2 * k + 1) + fxMul q (atanhSeries n (k + 1) q)

/-- A real value, to the precision above: ±m * 2^e. -/
structure Approx where
  neg : Bool
  m : Nat
  e : Int
  deriving DecidableEq, Repr
def Approx.ofFx (x : Int) : Approx := { neg := decide (x < 0), m := x.natAbs, e := -512 }
/-- A finite operand in fixed point. -/
def fxOf (neg : Bool) (m : Nat) (e : Int) : Int :=
  let v : Int := (unitsOf m e (-512)).1
  if neg then -v else v

/-- e^x and 2^x for a fixed-point x, |x| < 256. -/
def expFx (x : Int) : Approx := { neg := false, m := (expSeries 110 1 (x - x / fxLn2 * fxLn2)).toNat, e := x / fxLn2 - 512 }
def exp2Fx (x : Int) : Approx :=
  { neg := false, m := (expSeries 110 1 (fxMul (x - x / fxOne * fxOne) fxLn2)).toNat, e := x / fxOne - 512 }
/-- Stand-ins beyond the range of FP32, where only the direction matters. -/
def hugeA : Approx := { neg := false, m := 1, e := 400 }
def tinyA : Approx := { neg := false, m := 1, e := -400 }
def belowOne : Approx := { neg := false, m := 2 ^ 200 - 1, e := -200 }
/-- ln of m * 2^e as (n, ln z): the value is n ln 2 + ln z with z between 3/4 and 3/2. -/
def lnParts (m : Nat) (e : Int) : Int × Int :=
  let l := Nat.log2 m
  let up := decide (2 * m > 3 * 2 ^ l)
  let z : Int := (m : Int) * fxOne / 2 ^ (if up then l + 1 else l)
  let t := (z - fxOne) * fxOne / (z + fxOne)
  ((l : Int) + e + (if up then 1 else 0), 2 * fxMul t (atanhSeries 160 0 (fxMul t t)))

/-- The reduction of R68: the quadrant and the reduced argument of a positive x. -/
def reduce (m : Nat) (e : Int) : Nat × Int :=
  let sh := (1152 - e).toNat
  let p := m * twoOverPi
  let k := (p + 2 ^ (sh - 1)) / 2 ^ sh
  (k % 4, ((p : Int) - (k * 2 ^ sh : Nat)) * fxHalfPi / 2 ^ sh)
def sinFx (x : Int) : Int := fxMul x (sinSeries 70 1 (fxMul x x))
def cosFx (x : Int) : Int := cosSeries 70 1 (fxMul x x)
def sinA (neg : Bool) (m : Nat) (e : Int) : Approx :=
  let r := reduce m e
  let v := match r.1 with
    | 0 => sinFx r.2
    | 1 => cosFx r.2
    | 2 => -sinFx r.2
    | _ => -cosFx r.2
  Approx.ofFx (if neg then -v else v)
def cosA (m : Nat) (e : Int) : Approx :=
  let r := reduce m e
  Approx.ofFx (match r.1 with
    | 0 => cosFx r.2
    | 1 => -sinFx r.2
    | 2 => -cosFx r.2
    | _ => sinFx r.2)

/-- The function of a nonzero finite operand. -/
inductive Tfun where
  | rcp
  | rsq
  | sin
  | cos
  | exp2
  | log2
  | exp
  | ln
  | tanh
  | sigm
  deriving DecidableEq, Repr
/-- R66's bound in ULP. -/
def Tfun.bound (f : Tfun) : Nat :=
  match f with
  | .exp | .ln | .tanh | .sigm => 2
  | _ => 1
/-- The opcode of the instruction, by which the free deviation is asked for. -/
def Tfun.code (f : Tfun) : Nat :=
  match f with
  | .rcp => 0x2A
  | .rsq => 0x2B
  | .sin => 0x42
  | .cos => 0x43
  | .exp2 => 0x45
  | .log2 => 0x46
  | .exp => 0x47
  | .ln => 0x48
  | .tanh => 0x49
  | .sigm => 0x4A
def Tfun.value (f : Tfun) (neg : Bool) (m : Nat) (e : Int) : Approx :=
  let x := fxOf neg m e
  let big := decide (lead m e ≥ 8)
  match f with
  | .rcp => { neg := neg, m := stick (2 ^ 300 / m) (2 ^ 300 % m), e := -e - 301 }
  | .rsq => let r := sqrtMag 120 (stick (2 ^ 300 / m) (2 ^ 300 % m)) (-e - 301); { neg := false, m := r.1, e := r.2 }
  | .sin => sinA neg m e
  | .cos => cosA m e
  | .exp2 => if big then (if neg then tinyA else hugeA) else exp2Fx x
  | .exp => if big then (if neg then tinyA else hugeA) else expFx x
  | .log2 => let p := lnParts m e; Approx.ofFx (p.1 * fxOne + p.2 * fxOne / fxLn2)
  | .ln => let p := lnParts m e; Approx.ofFx (p.1 * fxLn2 + p.2)
  | .tanh =>
    if big then { belowOne with neg := neg }
    else
      let a := expFx (fxOf false m (e + 1))
      let w : Int := (unitsOf a.m a.e (-512)).1
      { neg := neg, m := ((w - fxOne) * fxOne / (w + fxOne)).toNat, e := -512 }
  | .sigm =>
    if big then (if neg then tinyA else belowOne)
    else
      let a := expFx (-x)
      let w : Int := (unitsOf a.m a.e (-512)).1
      { neg := false, m := (fxOne * fxOne / (fxOne + w)).toNat, e := -512 }

/-- A magnitude as an integer in units of 2^lo. -/
def signedAt (neg : Bool) (m : Nat) (e lo : Int) : Int :=
  let v : Int := (unitsOf m e lo).1
  if neg then -v else v
/-- The FP32 value nearest to a value, no end of range regarded, in units of 2^lo; its exponent is at least lo. -/
def nearest32 (v lo : Int) : Int :=
  if v = 0 then 0
  else
    let q := fp32.ulpExp v.natAbs lo
    let r := unitsOf v.natAbs lo q
    let t := if roundsUp .rne (decide (v < 0)) r.1 r.2.1 r.2.2 then r.1 + 1 else r.1
    signedAt (decide (v < 0)) t q lo
/-- A result within R66's bound of the value: the value moved by the free deviation and taken to the nearest FP32
value; where that lies beyond the bound, the FP32 value nearest to the value itself. -/
def withinBound (bound : Nat) (dev : Int) (y : Approx) : Fv :=
  let u := if y.m = 0 then (-149 : Int) else fp32.ulpExp y.m y.e
  let lo := min y.e (u - 40)
  let lim : Int := bound * 2 ^ 40
  let d := max (-lim) (min lim dev)
  let yv := signedAt y.neg y.m y.e lo
  let v := nearest32 (yv + d * 2 ^ (u - 40 - lo).toNat) lo
  let r := if (v - yv).natAbs ≤ bound * 2 ^ (u - lo).toNat then v else nearest32 yv lo
  .num (if r = 0 then (if yv = 0 then decide (d < 0) else y.neg) else decide (r < 0)) r.natAbs lo

/-- The inputs of R67 and the exact cases of R66. -/
def Tfun.special (f : Tfun) (x : Fv) : Option FRes :=
  let one : Fv := .num false 1 0
  match x with
  | .nan => some (.ok .nan)
  | .inf n =>
    match f with
    | .sin | .cos => some .bad
    | .exp2 | .exp => some (.ok (if n then Fv.zero else .inf false))
    | .log2 | .ln => some (if n then .bad else .ok (.inf false))
    | .rcp => some (.ok (.num n 0 0))
    | .rsq => some (if n then .bad else .ok Fv.zero)
    | .tanh => some (.ok (.num n 1 0))
    | .sigm => some (.ok (if n then Fv.zero else one))
  | .num n m e =>
    if m = 0 then
      match f with
      | .sin | .tanh => some (.ok x)
      | .cos | .exp2 | .exp => some (.ok one)
      | .log2 | .ln => some (.ok (.inf true))
      | .rcp | .rsq => some (.ok (.inf n))
      | .sigm => some (.ok (Fv.pow2 (-1)))
    else
      match f with
      | .log2 =>
        if n then some .bad
        else if m = 2 ^ Nat.log2 m then some (.ok (Fv.ofInt (lead m e)))
        else none
      | .ln => if n then some .bad else none
      | .rsq => if n then some .bad else none
      | .exp2 =>
        -- an integer k in -149 to 127 gives exactly 2^k
        let w := unitsOf m e 0
        let k : Int := if n then -(w.1 : Int) else w.1
        if lead m e < 8 ∧ w.2.1 = 0 ∧ -149 ≤ k ∧ k ≤ 127 then some (.ok (Fv.pow2 k)) else none
      | _ => none

/-- The result of a function on an FP32 operand, in a mode and with FTZ on the input and the result (R53, R66, R67). -/
def Tfun.run (f : Tfun) (mode : RMode) (ftz : Bool) (m3 : BitVec 3) (a : Nat) : Nat × Word :=
  let x := Fv.ofBitsFtz fp32 ftz a
  match f.special x with
  | some r => fp32.deliver mode ftz r
  | none =>
    match x with
    | .num n m e => fp32.roundF mode ftz (withinBound f.bound (Config.deviation (8 * f.code + m3.toNat) a) (f.value n m e))
    | _ => (fp32.nan, flNone)

def execFrcp (f : RRR) (s : State) : Host.Outcome State Fault Refusal :=
  issue (.frcp f) s (opDA f 1 (Tfun.run .rcp f.mode f.ftz f.m))
def execFrsq (f : RRR) (s : State) : Host.Outcome State Fault Refusal :=
  issue (.frsq f) s (opDA f 1 (Tfun.run .rsq f.mode f.ftz f.m))
def execFsin (f : RRR) (s : State) : Host.Outcome State Fault Refusal :=
  issue (.fsin f) s (opDA f 1 (Tfun.run .sin .rne f.ftz f.m))
def execFcos (f : RRR) (s : State) : Host.Outcome State Fault Refusal :=
  issue (.fcos f) s (opDA f 1 (Tfun.run .cos .rne f.ftz f.m))
/-- The sine to D and the cosine to D + 1, each as its own instruction gives it (R68, R113). -/
def execFsincos (f : RRR) (s : State) : Host.Outcome State Fault Refusal :=
  issue (.fsincos f) s (lanewise f.u f.d.toNat 2 (fun e t =>
    let x := Tfun.run .sin .rne f.ftz f.m (e.opA f 1 t)
    let y := Tfun.run .cos .rne f.ftz f.m (e.opA f 1 t)
    (x.1 + y.1 * 2 ^ 32, x.2 ||| y.2)))
def execFexp2 (f : RRR) (s : State) : Host.Outcome State Fault Refusal :=
  issue (.fexp2 f) s (opDA f 1 (Tfun.run .exp2 .rne f.ftz f.m))
def execFlog2 (f : RRR) (s : State) : Host.Outcome State Fault Refusal :=
  issue (.flog2 f) s (opDA f 1 (Tfun.run .log2 .rne f.ftz f.m))
def execFexp (f : RRR) (s : State) : Host.Outcome State Fault Refusal :=
  issue (.fexp f) s (opDA f 1 (Tfun.run .exp .rne f.ftz f.m))
def execFln (f : RRR) (s : State) : Host.Outcome State Fault Refusal :=
  issue (.fln f) s (opDA f 1 (Tfun.run .ln .rne f.ftz f.m))
def execFtanh (f : RRR) (s : State) : Host.Outcome State Fault Refusal :=
  issue (.ftanh f) s (opDA f 1 (Tfun.run .tanh .rne f.ftz f.m))
def execFsigm (f : RRR) (s : State) : Host.Outcome State Fault Refusal :=
  issue (.fsigm f) s (opDA f 1 (Tfun.run .sigm .rne f.ftz f.m))

end Sys2Proof.Machine
end

