-- ==== Sys2Proof/Machine/Dispatch.lean ====
section
/-! DEFINITION. One arm per constructor of Instr: the call of its meaning. -/

namespace Sys2Proof.Machine

def exec (i : Instr) (s : State) : Host.Outcome State Fault Refusal :=
  match i with
  | .nop f => Sys2Proof.Machine.execNop f s
  | .iadd f => Sys2Proof.Machine.execIadd f s
  | .isub f => Sys2Proof.Machine.execIsub f s
  | .imul f => Sys2Proof.Machine.execImul f s
  | .imulh f => Sys2Proof.Machine.execImulh f s
  | .imad f => Sys2Proof.Machine.execImad f s
  | .imin f => Sys2Proof.Machine.execImin f s
  | .imax f => Sys2Proof.Machine.execImax f s
  | .iabs f => Sys2Proof.Machine.execIabs f s
  | .ineg f => Sys2Proof.Machine.execIneg f s
  | .popc f => Sys2Proof.Machine.execPopc f s
  | .clz f => Sys2Proof.Machine.execClz f s
  | .brev f => Sys2Proof.Machine.execBrev f s
  | .idot4 f => Sys2Proof.Machine.execIdot4 f s
  | .andI f => Sys2Proof.Machine.execAndI f s
  | .orI f => Sys2Proof.Machine.execOrI f s
  | .xorI f => Sys2Proof.Machine.execXorI f s
  | .notI f => Sys2Proof.Machine.execNotI f s
  | .shl f => Sys2Proof.Machine.execShl f s
  | .shr f => Sys2Proof.Machine.execShr f s
  | .sar f => Sys2Proof.Machine.execSar f s
  | .rotl f => Sys2Proof.Machine.execRotl f s
  | .bfx f => Sys2Proof.Machine.execBfx f s
  | .bfi f => Sys2Proof.Machine.execBfi f s
  | .icmp f => Sys2Proof.Machine.execIcmp f s
  | .fcmp f => Sys2Proof.Machine.execFcmp f s
  | .sel f => Sys2Proof.Machine.execSel f s
  | .movI f => Sys2Proof.Machine.execMovI f s
  | .prmt f => Sys2Proof.Machine.execPrmt f s
  | .fadd f => Sys2Proof.Machine.execFadd f s
  | .fsub f => Sys2Proof.Machine.execFsub f s
  | .fmul f => Sys2Proof.Machine.execFmul f s
  | .ffma f => Sys2Proof.Machine.execFfma f s
  | .fmin f => Sys2Proof.Machine.execFmin f s
  | .fmax f => Sys2Proof.Machine.execFmax f s
  | .fabs f => Sys2Proof.Machine.execFabs f s
  | .fneg f => Sys2Proof.Machine.execFneg f s
  | .fdiv f => Sys2Proof.Machine.execFdiv f s
  | .fsqrt f => Sys2Proof.Machine.execFsqrt f s
  | .frcp f => Sys2Proof.Machine.execFrcp f s
  | .frsq f => Sys2Proof.Machine.execFrsq f s
  | .fscl f => Sys2Proof.Machine.execFscl f s
  | .frnd f => Sys2Proof.Machine.execFrnd f s
  | .hadd2 f => Sys2Proof.Machine.execHadd2 f s
  | .hsub2 f => Sys2Proof.Machine.execHsub2 f s
  | .hmul2 f => Sys2Proof.Machine.execHmul2 f s
  | .hfma2 f => Sys2Proof.Machine.execHfma2 f s
  | .hmin2 f => Sys2Proof.Machine.execHmin2 f s
  | .hmax2 f => Sys2Proof.Machine.execHmax2 f s
  | .hdot2 f => Sys2Proof.Machine.execHdot2 f s
  | .dadd f => Sys2Proof.Machine.execDadd f s
  | .dsub f => Sys2Proof.Machine.execDsub f s
  | .dmul f => Sys2Proof.Machine.execDmul f s
  | .dfma f => Sys2Proof.Machine.execDfma f s
  | .dmin f => Sys2Proof.Machine.execDmin f s
  | .dmax f => Sys2Proof.Machine.execDmax f s
  | .ddiv f => Sys2Proof.Machine.execDdiv f s
  | .dsqrt f => Sys2Proof.Machine.execDsqrt f s
  | .cvt f => Sys2Proof.Machine.execCvt f s
  | .cvtsr f => Sys2Proof.Machine.execCvtsr f s
  | .fsin f => Sys2Proof.Machine.execFsin f s
  | .fcos f => Sys2Proof.Machine.execFcos f s
  | .fsincos f => Sys2Proof.Machine.execFsincos f s
  | .fexp2 f => Sys2Proof.Machine.execFexp2 f s
  | .flog2 f => Sys2Proof.Machine.execFlog2 f s
  | .fexp f => Sys2Proof.Machine.execFexp f s
  | .fln f => Sys2Proof.Machine.execFln f s
  | .ftanh f => Sys2Proof.Machine.execFtanh f s
  | .fsigm f => Sys2Proof.Machine.execFsigm f s
  | .bscale f => Sys2Proof.Machine.execBscale f s
  | .benc f => Sys2Proof.Machine.execBenc f s
  | .bdec f => Sys2Proof.Machine.execBdec f s
  | .lxch f => Sys2Proof.Machine.execLxch f s
  | .lshfl f => Sys2Proof.Machine.execLshfl f s
  | .lbcast f => Sys2Proof.Machine.execLbcast f s
  | .lrot f => Sys2Proof.Machine.execLrot f s
  | .cred f => Sys2Proof.Machine.execCred f s
  | .cscan f => Sys2Proof.Machine.execCscan f s
  | .pand f => Sys2Proof.Machine.execPand f s
  | .por f => Sys2Proof.Machine.execPor f s
  | .pxor f => Sys2Proof.Machine.execPxor f s
  | .pnot f => Sys2Proof.Machine.execPnot f s
  | .pmask f => Sys2Proof.Machine.execPmask f s
  | .psets f => Sys2Proof.Machine.execPsets f s
  | .vote f => Sys2Proof.Machine.execVote f s
  | .elect f => Sys2Proof.Machine.execElect f s
  | .vget f => Sys2Proof.Machine.execVget f s
  | .vput f => Sys2Proof.Machine.execVput f s
  | .movi f => Sys2Proof.Machine.execMovi f s
  | .movih f => Sys2Proof.Machine.execMovih f s
  | .iaddi f => Sys2Proof.Machine.execIaddi f s
  | .imuli f => Sys2Proof.Machine.execImuli f s
  | .andi f => Sys2Proof.Machine.execAndi f s
  | .ori f => Sys2Proof.Machine.execOri f s
  | .xori f => Sys2Proof.Machine.execXori f s
  | .shli f => Sys2Proof.Machine.execShli f s
  | .shri f => Sys2Proof.Machine.execShri f s
  | .fmovi f => Sys2Proof.Machine.execFmovi f s
  | .faddi f => Sys2Proof.Machine.execFaddi f s
  | .fmuli f => Sys2Proof.Machine.execFmuli f s
  | .haddi2h f => Sys2Proof.Machine.execHaddi2h f s
  | .haddi2b f => Sys2Proof.Machine.execHaddi2b f s
  | .hmuli2h f => Sys2Proof.Machine.execHmuli2h f s
  | .hmuli2b f => Sys2Proof.Machine.execHmuli2b f s
  | .f8muli f => Sys2Proof.Machine.execF8muli f s
  | .f8addi f => Sys2Proof.Machine.execF8addi f s
  | .ld8 f => Sys2Proof.Machine.execLd8 f s
  | .ld16 f => Sys2Proof.Machine.execLd16 f s
  | .ld32 f => Sys2Proof.Machine.execLd32 f s
  | .ld64 f => Sys2Proof.Machine.execLd64 f s
  | .ld128 f => Sys2Proof.Machine.execLd128 f s
  | .st8 f => Sys2Proof.Machine.execSt8 f s
  | .st16 f => Sys2Proof.Machine.execSt16 f s
  | .st32 f => Sys2Proof.Machine.execSt32 f s
  | .st64 f => Sys2Proof.Machine.execSt64 f s
  | .st128 f => Sys2Proof.Machine.execSt128 f s
  | .ldacq f => Sys2Proof.Machine.execLdacq f s
  | .strel f => Sys2Proof.Machine.execStrel f s
  | .fence f => Sys2Proof.Machine.execFence f s
  | .ldq f => Sys2Proof.Machine.execLdq f s
  | .stq f => Sys2Proof.Machine.execStq f s
  | .pref f => Sys2Proof.Machine.execPref f s
  | .lds f => Sys2Proof.Machine.execLds f s
  | .sts f => Sys2Proof.Machine.execSts f s
  | .lds128 f => Sys2Proof.Machine.execLds128 f s
  | .sts128 f => Sys2Proof.Machine.execSts128 f s
  | .ldx f => Sys2Proof.Machine.execLdx f s
  | .stx f => Sys2Proof.Machine.execStx f s
  | .ldw f => Sys2Proof.Machine.execLdw f s
  | .stw f => Sys2Proof.Machine.execStw f s
  | .ldac f => Sys2Proof.Machine.execLdac f s
  | .stac f => Sys2Proof.Machine.execStac f s
  | .atom f => Sys2Proof.Machine.execAtom f s
  | .atomar f => Sys2Proof.Machine.execAtomar f s
  | .acas f => Sys2Proof.Machine.execAcas f s
  | .acasar f => Sys2Proof.Machine.execAcasar f s
  | .atoms f => Sys2Proof.Machine.execAtoms f s
  | .aredg f => Sys2Proof.Machine.execAredg f s
  | .bara f => Sys2Proof.Machine.execBara f s
  | .barw f => Sys2Proof.Machine.execBarw f s
  | .baraw f => Sys2Proof.Machine.execBaraw f s
  | .barinit f => Sys2Proof.Machine.execBarinit f s
  | .waitc f => Sys2Proof.Machine.execWaitc f s
  | .waitct f => Sys2Proof.Machine.execWaitct f s
  | .enq f => Sys2Proof.Machine.execEnq f s
  | .deq f => Sys2Proof.Machine.execDeq f s
  | .enqnb f => Sys2Proof.Machine.execEnqnb f s
  | .deqnb f => Sys2Proof.Machine.execDeqnb f s
  | .qinit f => Sys2Proof.Machine.execQinit f s
  | .qclose f => Sys2Proof.Machine.execQclose f s
  | .qstat f => Sys2Proof.Machine.execQstat f s
  | .ocrd f => Sys2Proof.Machine.execOcrd f s
  | .yield f => Sys2Proof.Machine.execYield f s
  | .sleep f => Sys2Proof.Machine.execSleep f s
  | .mmaBf16 f => Sys2Proof.Machine.execMmaBf16 f s
  | .mmaF16 f => Sys2Proof.Machine.execMmaF16 f s
  | .mmaE4m3 f => Sys2Proof.Machine.execMmaE4m3 f s
  | .mmaE5m2 f => Sys2Proof.Machine.execMmaE5m2 f s
  | .mmaE2m1 f => Sys2Proof.Machine.execMmaE2m1 f s
  | .mmaE2m1x f => Sys2Proof.Machine.execMmaE2m1x f s
  | .mmaI8 f => Sys2Proof.Machine.execMmaI8 f s
  | .mmaF32 f => Sys2Proof.Machine.execMmaF32 f s
  | .mmaF64 f => Sys2Proof.Machine.execMmaF64 f s
  | .bfence f => Sys2Proof.Machine.execBfence f s
  | .bwait f => Sys2Proof.Machine.execBwait f s
  | .aczero f => Sys2Proof.Machine.execAczero f s
  | .acscl f => Sys2Proof.Machine.execAcscl f s
  | .mrep f => Sys2Proof.Machine.execMrep f s
  | .mqry f => Sys2Proof.Machine.execMqry f s
  | .cpy f => Sys2Proof.Machine.execCpy f s
  | .cpym f => Sys2Proof.Machine.execCpym f s
  | .cpyt f => Sys2Proof.Machine.execCpyt f s
  | .tininit f => Sys2Proof.Machine.execTininit f s
  | .tinwait f => Sys2Proof.Machine.execTinwait f s
  | .tinrel f => Sys2Proof.Machine.execTinrel f s
  | .tinkill f => Sys2Proof.Machine.execTinkill f s
  | .tinq f => Sys2Proof.Machine.execTinq f s
  | .qfence f => Sys2Proof.Machine.execQfence f s
  | .coll f => Sys2Proof.Machine.execColl f s
  | .rput f => Sys2Proof.Machine.execRput f s
  | .rget f => Sys2Proof.Machine.execRget f s
  | .ratom f => Sys2Proof.Machine.execRatom f s
  | .rflush f => Sys2Proof.Machine.execRflush f s
  | .launchI f => Sys2Proof.Machine.execLaunchI f s
  | .bra f => Sys2Proof.Machine.execBra f s
  | .brs f => Sys2Proof.Machine.execBrs f s
  | .brp f => Sys2Proof.Machine.execBrp f s
  | .callI f => Sys2Proof.Machine.execCallI f s
  | .retI f => Sys2Proof.Machine.execRetI f s
  | .jmpr f => Sys2Proof.Machine.execJmpr f s
  | .ifI f => Sys2Proof.Machine.execIfI f s
  | .elseI f => Sys2Proof.Machine.execElseI f s
  | .endifI f => Sys2Proof.Machine.execEndifI f s
  | .loopI f => Sys2Proof.Machine.execLoopI f s
  | .endloopI f => Sys2Proof.Machine.execEndloopI f s
  | .breakI f => Sys2Proof.Machine.execBreakI f s
  | .contI f => Sys2Proof.Machine.execContI f s
  | .exitI f => Sys2Proof.Machine.execExitI f s
  | .srd f => Sys2Proof.Machine.execSrd f s
  | .swr f => Sys2Proof.Machine.execSwr f s
  | .trapI f => Sys2Proof.Machine.execTrapI f s
  | .tret f => Sys2Proof.Machine.execTret f s
  | .lrd f => Sys2Proof.Machine.execLrd f s
  | .lwr f => Sys2Proof.Machine.execLwr f s
  | .rqrd f => Sys2Proof.Machine.execRqrd f s
  | .rqwr f => Sys2Proof.Machine.execRqwr f s
  | .stepo f => Sys2Proof.Machine.execStepo f s
  | .stepm f => Sys2Proof.Machine.execStepm f s
  | .stepc f => Sys2Proof.Machine.execStepc f s
  | .timeI f => Sys2Proof.Machine.execTimeI f s
  | .eres f => Sys2Proof.Machine.execEres f s
  | .msave f => Sys2Proof.Machine.execMsave f s
  | .mrest f => Sys2Proof.Machine.execMrest f s
  | .brk f => Sys2Proof.Machine.execBrk f s
  | .powerOnReset => Sys2Proof.Machine.execPowerOnReset s
  | .bringupStage => Sys2Proof.Machine.execBringupStage s
  | .firmwareUpdate => Sys2Proof.Machine.execFirmwareUpdate s
  | .thermalTrip => Sys2Proof.Machine.execThermalTrip s
  | .toffUpdate => Sys2Proof.Machine.execToffUpdate s
  | .ozrikLinkTrain => Sys2Proof.Machine.execOzrikLinkTrain s
  | .clauseFetch => Sys2Proof.Machine.execClauseFetch s
  | .clauseWaitEnd => Sys2Proof.Machine.execClauseWaitEnd s
  | .sliceIssueCycle => Sys2Proof.Machine.execSliceIssueCycle s
  | .operationComplete => Sys2Proof.Machine.execOperationComplete s
  | .trapTake => Sys2Proof.Machine.execTrapTake s
  | .asyncTrapTake => Sys2Proof.Machine.execAsyncTrapTake s
  | .resume => Sys2Proof.Machine.execResume s
  | .reflect => Sys2Proof.Machine.execReflect s
  | .kill => Sys2Proof.Machine.execKill s
  | .coachSlotFree => Sys2Proof.Machine.execCoachSlotFree s
  | .gridCompletion => Sys2Proof.Machine.execGridCompletion s
  | .preemptRequest => Sys2Proof.Machine.execPreemptRequest s
  | .noticeIntervalExpiry => Sys2Proof.Machine.execNoticeIntervalExpiry s
  | .workgroupSave => Sys2Proof.Machine.execWorkgroupSave s
  | .workgroupRestore => Sys2Proof.Machine.execWorkgroupRestore s
  | .migration => Sys2Proof.Machine.execMigration s
  | .launchRecordTake => Sys2Proof.Machine.execLaunchRecordTake s
  | .workgroupStart => Sys2Proof.Machine.execWorkgroupStart s
  | .staggerRegionStart => Sys2Proof.Machine.execStaggerRegionStart s
  | .stealRequest => Sys2Proof.Machine.execStealRequest s
  | .stealRetryWait => Sys2Proof.Machine.execStealRetryWait s
  | .priorityPreempt => Sys2Proof.Machine.execPriorityPreempt s
  | .quantumExpiry => Sys2Proof.Machine.execQuantumExpiry s
  | .barrierPark => Sys2Proof.Machine.execBarrierPark s
  | .waitPark => Sys2Proof.Machine.execWaitPark s
  | .sbufLend => Sys2Proof.Machine.execSbufLend s
  | .sbufReclaim => Sys2Proof.Machine.execSbufReclaim s
  | .barrierRelease => Sys2Proof.Machine.execBarrierRelease s
  | .monitorWake => Sys2Proof.Machine.execMonitorWake s
  | .monitorPoll => Sys2Proof.Machine.execMonitorPoll s
  | .waitctDeadline => Sys2Proof.Machine.execWaitctDeadline s
  | .queueWake => Sys2Proof.Machine.execQueueWake s
  | .queuePoll => Sys2Proof.Machine.execQueuePoll s
  | .sleepExpiry => Sys2Proof.Machine.execSleepExpiry s
  | .horizonReport => Sys2Proof.Machine.execHorizonReport s
  | .ageSweep => Sys2Proof.Machine.execAgeSweep s
  | .pageWalk => Sys2Proof.Machine.execPageWalk s
  | .rexDeadline => Sys2Proof.Machine.execRexDeadline s
  | .arm => Sys2Proof.Machine.execArm s
  | .disarm => Sys2Proof.Machine.execDisarm s
  | .tlbinvPage => Sys2Proof.Machine.execTlbinvPage s
  | .tlbinvContext => Sys2Proof.Machine.execTlbinvContext s
  | .tlbinvFrd => Sys2Proof.Machine.execTlbinvFrd s
  | .tlbinvAll => Sys2Proof.Machine.execTlbinvAll s
  | .hostAccess => Sys2Proof.Machine.execHostAccess s
  | .hqenq => Sys2Proof.Machine.execHqenq s
  | .attcmd => Sys2Proof.Machine.execAttcmd s
  | .checkpoint => Sys2Proof.Machine.execCheckpoint s
  | .checkpointRestore => Sys2Proof.Machine.execCheckpointRestore s
  | .registerWrite => Sys2Proof.Machine.execRegisterWrite s
  | .dstatWrite => Sys2Proof.Machine.execDstatWrite s
  | .eccSelfTest => Sys2Proof.Machine.execEccSelfTest s
  | .dramEvacuate => Sys2Proof.Machine.execDramEvacuate s
  | .back => Sys2Proof.Machine.execBack s
  | .mmaGateStart => Sys2Proof.Machine.execMmaGateStart s
  | .mmaComplete => Sys2Proof.Machine.execMmaComplete s
  | .matrixPass => Sys2Proof.Machine.execMatrixPass s
  | .batchComplete => Sys2Proof.Machine.execBatchComplete s
  | .matrixRuntimeError => Sys2Proof.Machine.execMatrixRuntimeError s
  | .rampStart => Sys2Proof.Machine.execRampStart s
  | .rampStep => Sys2Proof.Machine.execRampStep s
  | .ballastStep => Sys2Proof.Machine.execBallastStep s
  | .currentStep => Sys2Proof.Machine.execCurrentStep s
  | .droopAlarm => Sys2Proof.Machine.execDroopAlarm s
  | .throttleEnd => Sys2Proof.Machine.execThrottleEnd s
  | .deckThermal => Sys2Proof.Machine.execDeckThermal s
  | .governorSample => Sys2Proof.Machine.execGovernorSample s
  | .islandTarget => Sys2Proof.Machine.execIslandTarget s
  | .clockSwitch => Sys2Proof.Machine.execClockSwitch s
  | .islandMoveComplete => Sys2Proof.Machine.execIslandMoveComplete s
  | .thermalControl => Sys2Proof.Machine.execThermalControl s
  | .sliceAutoIdle => Sys2Proof.Machine.execSliceAutoIdle s
  | .bandedLatencyMeasure => Sys2Proof.Machine.execBandedLatencyMeasure s
  | .copyStart => Sys2Proof.Machine.execCopyStart s
  | .copyChunk => Sys2Proof.Machine.execCopyChunk s
  | .copyRuntimeError => Sys2Proof.Machine.execCopyRuntimeError s
  | .cpymDeliver => Sys2Proof.Machine.execCpymDeliver s
  | .cpymAck => Sys2Proof.Machine.execCpymAck s
  | .collHeaderExchange => Sys2Proof.Machine.execCollHeaderExchange s
  | .collChunk => Sys2Proof.Machine.execCollChunk s
  | .collComplete => Sys2Proof.Machine.execCollComplete s
  | .remoteAck => Sys2Proof.Machine.execRemoteAck s
  | .rmtTimeout => Sys2Proof.Machine.execRmtTimeout s
  | .packetReceive => Sys2Proof.Machine.execPacketReceive s
  | .ackReceive => Sys2Proof.Machine.execAckReceive s
  | .retransmitTimer => Sys2Proof.Machine.execRetransmitTimer s
  | .occupancyReport => Sys2Proof.Machine.execOccupancyReport s
  | .ohealthUpdate => Sys2Proof.Machine.execOhealthUpdate s
  | .linkNarrow => Sys2Proof.Machine.execLinkNarrow s
  | .linkWiden => Sys2Proof.Machine.execLinkWiden s
  | .onewayEnter => Sys2Proof.Machine.execOnewayEnter s
  | .onewayHoldExpiry => Sys2Proof.Machine.execOnewayHoldExpiry s
  | .powerStateAnnounce => Sys2Proof.Machine.execPowerStateAnnounce s
  | .linkWake => Sys2Proof.Machine.execLinkWake s
  | .relightLockTimeout => Sys2Proof.Machine.execRelightLockTimeout s
  | .arbiterRound => Sys2Proof.Machine.execArbiterRound s
  | .slotStart => Sys2Proof.Machine.execSlotStart s
  | .slotEnd => Sys2Proof.Machine.execSlotEnd s
  | .hotMarkChange => Sys2Proof.Machine.execHotMarkChange s
  | .laserStateReached => Sys2Proof.Machine.execLaserStateReached s
  | .targetedSelfTestEnd => Sys2Proof.Machine.execTargetedSelfTestEnd s
  | .linkAcknowledgement => Sys2Proof.Machine.execLinkAcknowledgement s

end Sys2Proof.Machine
end

