-- ==== Sys2Proof/Machine/Time.lean ====
section
/-! DEFINITION. The passing of time: what happens at an instant of its own, whatever else the machine does. The governor samples every
open step (R353), targets reach the islands (R353), the lines of an expired region are discarded (R285), and the slices under AUTO
are watched (R350). -/

namespace Sys2Proof.Machine

/-- The ns until the next of these instants; none when there is none to come. -/
def State.untilDue (s : State) : Option Nat :=
  listMin? (s.sites.flatMap (fun x =>
    (if x.2.steps.isEmpty && !x.2.stale then [] else [1000 - (s.time x.1).toNat % 1000]) ++
    (x.2.mail.take 1).map (fun e => e.2.2 + 200 - s.now) ++
    ((List.range 16).filter (fun i => x.2.armed.getLsbD i && !x.2.expired.getLsbD i)).map (fun i =>
      (s.win x.1 (offREX i + 16)).toNat - (s.time x.1).toNat)))
/-- The cores with a slice under AUTO and a workgroup. -/
def State.autoCores (s : State) : List Nat :=
  ((s.wgs.map (fun w => coreOfSlot w.1)).eraseDups).filter (fun c => (s.win (siteOfCore c) (offSLRATIO (c % 32))).getLsbD 18)
/-- Until `now`, the slices of a core that have a RUNNABLE coach are not idle (R350); one that was idle keeps its ratio to the end of the
cluster cycle. -/
def State.watchSlices (now : Nat) (s : State) (core : Nat) : State :=
  (List.range 6).foldl (fun (t : State) sl =>
    if t.sliceRuns core sl then
      let c := t.core core
      let late := Table.insert c.cycles (24 + sl) now
      t.setCore core { c with
        autoIdle := c.autoIdle &&& ~~~BitVec.ofNat 6 (2 ^ sl)
        cycles := if c.autoIdle.getLsbD sl then Table.insert late (32 + sl) (t.clk (siteOfCore core) + 1) else late }
    else t) s
/-- The steps that a site owns are sampled (R353), once, but for one that has opened in this instant; then the islands of its closed steps have their
targets too (R211). -/
def State.sampleSite (s : State) (n : Nat) : State :=
  let x := s.site n
  let t := (x.steps.filter (fun st => decide (st.opened ≠ s.time n ∧ st.sampled ≠ some (s.time n)))).foldl (fun t st => t.governorSample { slot := st.slot, k := st.k } false) s
  if x.stale then (t.setSite n { t.site n with stale := false }).sendTargets (List.range 64) else t
/-- What is due at this instant. -/
def State.dueNow (s : State) : State :=
  let owners := (s.sites.filter (fun x => (!x.2.steps.isEmpty || x.2.stale) && decide ((s.time x.1).toNat % 1000 = 0))).map Prod.fst
  let s1 := owners.foldl State.sampleSite s
  let mails := (s1.sites.filter (fun x => x.2.mail.any (fun e => decide (e.2.2 + 200 ≤ s1.now)))).map Prod.fst
  let s2 := mails.foldl (fun t n =>
    (((t.site n).mail.filter (fun e => decide (e.2.2 + 200 ≤ t.now))).foldl (fun (u : State) _ => u.deliverTarget n) t)) s1
  (s2.sites.flatMap (fun x => ((List.range 16).filter (fun i => s2.rexPast x.1 i)).map (fun i => (x.1, i)))).foldl (fun t p => t.discardRex p.1 p.2) s2
/-- A step takes some time, and uses up its free values. Time does not pass over an instant at which something is due. -/
def State.ticked (s : State) : State :=
  let dt := Config.elapsed s.tick
  let auto := s.autoCores
  match s.untilDue with
  | none => { auto.foldl (State.watchSlices (s.now + dt)) s with tick := s.tick + 1, now := s.now + dt }
  | some d =>
    let t := { auto.foldl (State.watchSlices (s.now + min dt d)) s with tick := s.tick + 1, now := s.now + min dt d }
    if d ≤ dt then t.dueNow else t

end Sys2Proof.Machine
end

