-- ==== Sys2Proof/Machine/Step.lean ====
section
/-! DEFINITION. One step of the machine: the next event of the agenda, else the turn of the next coach chosen to
issue, else an event that the device or the world outside lets happen; and the placing of a word as the next
instruction. -/

namespace Sys2Proof.Machine

/-- Execute an instruction or event as a step. -/
def runInstr (i : Instr) (s : State) : Host.Outcome State Fault Refusal :=
  match exec i s with
  | .next t => .next t.ticked
  | .fault f => .fault f
  | .refused r => .refused r

/-- The turn of a chosen coach as a step. -/
def runTurn (t : Turn) : Host.Outcome State Fault Refusal :=
  match t with
  | .run i s => runInstr i s
  | .done s => .next s.ticked

/-- One step. -/
def step (s : State) : Host.Outcome State Fault Refusal :=
  match s.agenda with
  | ev :: rest => runInstr ev.op { s with agenda := rest, arg := ev.arg }
  | [] =>
    match s.issue with
    | r :: rest => runTurn (turn { s with issue := rest, cur := r })
    | [] =>
      match Config.nextEvent s.tick with
      | none => .next s.ticked
      | some ev => if ev.op.isEvent then runInstr ev.op { s with arg := ev.arg } else .next s.ticked

/-- The state with an instruction placed where the next step fetches it. -/
def State.withFetchWord (s : State) (nbits w : Nat) : State := s.place (BitVec.ofNat 32 (w % 2 ^ nbits))

end Sys2Proof.Machine
end

