-- ==== Sys2Proof/Safety.lean ====
section
/-! DEFINITION. What a safe step is, when an instruction executes normally, and the words in which the claims say what
an instruction changes and what it leaves. -/

namespace Sys2Proof.Machine

/-- A step that goes on: neither a fault nor a refusal. -/
def GoesOn (o : Host.Outcome State Fault Refusal) : Prop := ∃ t, o = .next t

/-- The invariant of memory (R8, R266): its canonical form. -/
def State.Canonical (s : State) : Prop := Memory.wf s.mem = true

/-- What is done next was made by the device: events, never a word of code. -/
def State.AgendaOk (s : State) : Prop := ∀ ev ∈ s.agenda, ev.op.isEvent = true

/-- The current coach executes the instruction normally, in the environment `e` (R74, R90): it is resident, no cause of
groups 4 to 8 of R90 holds, some thread is active, no resource stalls the issue (R27, R76, R246, R251), and it is no
trackable instruction that is held back or performs later (R246). -/
structure Runs (i : Instr) (s : State) (e : Env) : Prop where
  env : ∃ e0, s.env s.cur = some e0 ∧ e = e0.holding i
  cause : wordCause e (s.grid e.wg.gid) (s.privileged e.site e.ctx) i = none
  active : e.active ≠ 0
  ready : issueStalls e i s = false
  clear : heldBack e i s = false
  prompt : issuesLate e i s = false

/-- No operand of the instruction has a pending write (R77). -/
def Settled (e : Env) (i : Instr) : Prop := i.uses.all (fun x => !e.c.usePending x) = true

/-- The coach wrote `n` registers from `d` up in every unit (each active thread, or with U=1 the coach itself), the
lowest with the lowest 32 bits of the unit's value, and went on to the next word; nothing else of the coach changed. A
write to s0 is discarded (R25). -/
structure Wrote (e : Env) (c : Coach) (u : Bool) (d n : Nat) (val : Nat → Nat) : Prop where
  result : ∀ t ∈ e.units u, ∀ j < n,
    c.rawReg u (d + j) t = if u = true ∧ d + j = 0 then 0 else BitVec.ofNat 32 (val t / 2 ^ (32 * j))
  others : ∀ sc r t, t < 256 → ¬ (sc = u ∧ d ≤ r ∧ r < d + n ∧ (u = true ∨ t ∈ e.threads)) →
    c.rawReg sc r t = e.c.rawReg sc r t
  rest : { c with v := e.c.v, s := e.c.s } = e.c.advance e

/-- The coach has those results in its registers and has not gone on: nothing else of it changed. -/
structure Results (e : Env) (c : Coach) (u : Bool) (d n : Nat) (val : Nat → Nat) : Prop where
  result : ∀ t ∈ e.units u, ∀ j < n,
    c.rawReg u (d + j) t = if u = true ∧ d + j = 0 then 0 else BitVec.ofNat 32 (val t / 2 ^ (32 * j))
  others : ∀ sc r t, t < 256 → ¬ (sc = u ∧ d ≤ r ∧ r < d + n ∧ (u = true ∨ t ∈ e.threads)) →
    c.rawReg sc r t = e.c.rawReg sc r t
  rest : { c with v := e.c.v, s := e.c.s } = e.c

/-- The instruction computes `val` in every unit, raises no flag, and changes nothing but its coach. -/
def Computes (i : Instr) (s : State) (e : Env) (u : Bool) (d n : Nat) (val : Nat → Nat) : Prop :=
  ∃ c, exec i s = .next (s.setCoach s.cur c) ∧ Wrote e c u d n val

/-- As `Computes`, and the flags `fl` of all units together are ORed into the arithmetic status word once (R55). -/
def ComputesF (i : Instr) (s : State) (e : Env) (u : Bool) (d n : Nat) (val : Nat → Nat × Word) : Prop :=
  ∃ c, exec i s = .next ((s.orStatus e.site e.ctx (flagsAll ((e.units u).map (fun t => (val t).2)))).setCoach s.cur c) ∧
    Wrote e c u d n (fun t => (val t).1)

/-- The instruction writes predicate `p` in the threads `ts`, goes on to the next word, and changes nothing else; a
write to p0 is ignored (R23). -/
def SetsPred (i : Instr) (s : State) (e : Env) (p : Nat) (ts : List Nat) (val : Nat → Bool) : Prop :=
  ∃ c, exec i s = .next (s.setCoach s.cur c) ∧
    (∀ t ∈ ts, c.readP p t = if p = 0 then true else val t) ∧
    (∀ q t, ¬ (q = p ∧ t ∈ ts) → c.readP q t = e.c.readP q t) ∧
    { c with p := e.c.p } = e.c.advance e

/-- In every state in which the instruction executes normally with settled operands, it computes `val` (R99). -/
def Gives (i : Instr) (u : Bool) (d n : Nat) (val : Env → Nat → Nat) : Prop :=
  ∀ s e, Runs i s e → Settled e i → Computes i s e u d n (val e)

/-- As `Gives`, with flags. -/
def GivesF (i : Instr) (u : Bool) (d n : Nat) (val : Env → Nat → Nat × Word) : Prop :=
  ∀ s e, Runs i s e → Settled e i → ComputesF i s e u d n (val e)

/-- In every state in which the instruction executes normally, it writes a predicate in the active threads (R104). -/
def GivesPred (i : Instr) (p : Nat) (val : Env → Nat → Bool) : Prop :=
  ∀ s e, Runs i s e → SetsPred i s e p e.threads (val e)

/-- The instruction changes its coach by `f`, which then goes on to the next word (R69, R74); nothing else changes. -/
def GoesOnBy (i : Instr) (s : State) (e : Env) (f : Coach → Coach) : Prop :=
  exec i s = .next (s.setCoach s.cur (f (e.c.advance e)))

/-- The instruction changes its coach by `f` and continues it at a clause header (R70); nothing else changes. At the header that
follows its clause the clause state stays (R244). -/
def GoesTo (i : Instr) (s : State) (e : Env) (f : Coach → Coach) (pc : DWord) : Prop :=
  GoesOnBy i s e (fun c => f { c with pc := pc, clause := if pc = e.nextHdr then c.clause else none })

/-- The instruction changes its coach by `f`, which leaves no thread in EXEC, and the coach reconverges from the header that follows
(R129, R130, R132): the step answers what reconvergence reaches, a cause that it meets at the clause of a resume address is taken there,
and when no entry can bring back threads ILLEGAL_CONVERGENCE is the instruction's own. -/
def Reconverges (i : Instr) (s : State) (e : Env) (f : Coach → Coach) : Prop :=
  let s1 := s.setCoach s.cur (f { e.c.advance e with pc := e.nextHdr })
  (∀ t, s1.reconverge reconvFuel s.cur = (.done, t) → exec i s = .next t) ∧
  (∀ t cause pc addr, s1.reconverge reconvFuel s.cur = (.trap cause pc addr, t) → exec i s = .next (t.takeTrap s.cur cause addr 0 [] pc none)) ∧
  (∀ t d, s1.reconverge reconvFuel s.cur = (.stuck, t) → t.coach s.cur = some d → exec i s =
    .next (t.takeTrap s.cur cILLEGAL_CONVERGENCE 0 0 (capture e i none 1 0 0 cILLEGAL_CONVERGENCE Wait.none :: d.rq) e.nextHdr (e.c.advance e).clause))

/-- The instruction issues, holding its octets, and its coach waits in `st`; nothing else changes (R21, R300). A wait that goes on
does not issue again. -/
def WaitsIn (i : Instr) (s : State) (e : Env) (st : CoachState) (w : Wait) : Prop :=
  exec i s = .next (s.setCoach s.cur { e.c with
    state := st, wait := { w with word := encode i, clk := some e.acc.clk },
    holds := if e.c.wait.word.isSome = true then e.c.holds else e.clk + e.dur,
    starv := if e.c.wait.word.isSome = true then e.c.starv else 0 })

/-- Every unit's address passes orders 1 and 2 of R135: aligned to the access, translated with the permission it needs, and
in the window of a service controller only with 8 bytes, and held by no self-test (R380). `gs` are the translated accesses, `s1` the state after the walks. -/
def Reaches (e : Env) (u : Bool) (size : Nat) (need : Need) (ea : Nat → DWord) (s : State) (gs : List Target) (s1 : State) : Prop :=
  (∀ t ∈ e.units u, (ea t).toNat % size = 0) ∧
  translateEach e need ((e.units u).map (fun t => (t, ea t))) s = (gs, [], s1) ∧
  ∀ g ∈ gs, badWindow size g.x = false ∧ s1.tested g.x.pa size = false

/-- Every unit's offset passes orders 1, 4 and 7 of R135 for an access of a core's buffer, and none has to wait (R144, R145,
R270). -/
def ReachesBuf (e : Env) (u : Bool) (b : Buf) (size : Nat) (store : Bool) (ea : Nat → DWord) (s : State) : Prop :=
  s.bufTested e.core b = false ∧ ∀ t ∈ e.units u, (ea t).toNat % size = 0 ∧ bufCause (s.core e.core) e b size (ea t) = none ∧
    bufStalls (s.core e.core) e b size store (ea t) = false ∧
    (s.core e.core).bufBad b (((s.core e.core).window e.wg b).1 + (ea t).toNat) size store = false

/-- The instruction issues as a trackable one whose accesses have been performed, reaching `s1`: its register results are
due, its flag counts it, and its coach goes on (R76, R77). -/
def TracksFrom (i : Instr) (s : State) (e : Env) (ws : List RegWrite) (s1 : State) : Prop :=
  exec i s = .next (tracked e i ws s1)

end Sys2Proof.Machine
end

