-- ==== Sys2Proof/WellFormed.lean ====
section
/-! DEFINITION. Which instructions are well formed: every field holds a value its description accepts (R82) and
every register field obeys the alignment of its operand (R25). An operation or event of the device has no fields of
a word and is always well formed. -/

namespace Sys2Proof

/-- The instruction's fields are accepted (R82, R25); other words trap with ILLEGAL_FIELD (R89). -/
def Instr.WellFormed (i : Instr) : Prop := i.fieldsOk = true

end Sys2Proof
end

