-- ==== Sys2Proof/Certificates/Slice0/Obligations.lean ====
section
/-! DEFINITION. The statements for the provers. Each says which rule of spec/ it formalises; the words in which they say
what changes and what stays are those of Safety.lean. -/

open Sys2Proof Sys2Proof.Machine

/-! Rows 0x0 to 0x6 and 0xE: what the arithmetic instructions compute. -/

/-- R101: IntOut wraps modulo 2^n, or clamps to the range of its reading; each instruction of row 0x0 writes IntOut of its
exact value, in every active thread or, with U=1, once on s registers; NOP has no effect but to go on.
R84, R123: the immediate instructions on integers read IMM sign-extended, zero-extended, shifted or as a count, and the
result wraps. -/
def Obligations.IntegerResults : Prop :=
  (∀ (n : Nat) (x : Int), n = 32 ∨ n = 64 →
    (∀ uns, (intOut false uns n x : Int) = x % 2 ^ n) ∧
    (intOut true true n x : Int) = min (max x 0) (2 ^ n - 1) ∧
    (BitVec.ofNat n (intOut true false n x)).toInt = min (max x (-(2 ^ (n - 1)))) (2 ^ (n - 1) - 1)) ∧
  (∀ f : RRR,
    let val (e : Env) (t : Nat) (g : Int → Int → Int) : Nat :=
      intOut f.sat f.uns f.nbits (g (intOf f.uns f.nbits (e.opA f f.width t)) (intOf f.uns f.nbits (e.opB f f.width f.width t)))
    (∀ s e, Runs (.nop f) s e → exec (.nop f) s = .next (s.setCoach s.cur (e.c.advance e))) ∧
    Gives (.iadd f) f.u f.d.toNat f.width (fun e t => val e t (fun a b => a + b)) ∧
    Gives (.isub f) f.u f.d.toNat f.width (fun e t => val e t (fun a b => a - b)) ∧
    Gives (.imul f) f.u f.d.toNat f.width (fun e t => val e t (fun a b => a * b)) ∧
    Gives (.imulh f) f.u f.d.toNat f.width (fun e t => val e t (fun a b => a * b / 2 ^ f.nbits)) ∧
    Gives (.imad f) f.u f.d.toNat f.width (fun e t =>
      val e t (fun a b => a * b + intOf f.uns f.nbits (e.opD f (2 * f.width) f.width t))) ∧
    Gives (.imin f) f.u f.d.toNat f.width (fun e t => val e t min) ∧
    Gives (.imax f) f.u f.d.toNat f.width (fun e t => val e t max) ∧
    Gives (.iabs f) f.u f.d.toNat f.width (fun e t => val e t (fun a _ => |a|)) ∧
    Gives (.ineg f) f.u f.d.toNat f.width (fun e t => val e t (fun a _ => -a)) ∧
    Gives (.popc f) f.u f.d.toNat f.width (fun e t => (List.range f.nbits).countP (fun i => (e.opA f f.width t).testBit i)) ∧
    Gives (.clz f) f.u f.d.toNat f.width (fun e t =>
      ((List.range f.nbits).takeWhile (fun i => !(e.opA f f.width t).testBit (f.nbits - 1 - i))).length) ∧
    Gives (.brev f) f.u f.d.toNat f.width (fun e t => (BitVec.ofNat f.nbits (e.opA f f.width t)).reverse.toNat) ∧
    Gives (.idot4 f) f.u f.d.toNat 1 (fun e t => intOut f.sat f.uns 32 (intOf f.uns 32 (e.opD f 2 1 t) +
      ((List.range 4).map (fun k => intOf f.uns 8 (e.opA f 1 t / 2 ^ (8 * k) % 256) *
        intOf f.uns 8 (e.opB f 1 1 t / 2 ^ (8 * k) % 256))).sum))) ∧
  (∀ f : RI,
    let d (e : Env) (t : Nat) : BitVec 32 := BitVec.ofNat 32 (e.opReg f.u 0 f.d.toNat t).toNat
    Gives (.movi f) f.u f.d.toNat 1 (fun _ _ => (f.imm.signExtend 32).toNat) ∧
    Gives (.movih f) f.u f.d.toNat 1 (fun e t => (f.imm ++ (d e t).extractLsb' 0 16).toNat) ∧
    Gives (.iaddi f) f.u f.d.toNat 1 (fun e t => (d e t + f.imm.signExtend 32).toNat) ∧
    Gives (.imuli f) f.u f.d.toNat 1 (fun e t => (d e t * f.imm.signExtend 32).toNat) ∧
    Gives (.andi f) f.u f.d.toNat 1 (fun e t => (d e t &&& f.imm.setWidth 32).toNat) ∧
    Gives (.ori f) f.u f.d.toNat 1 (fun e t => (d e t ||| f.imm.setWidth 32).toNat) ∧
    Gives (.xori f) f.u f.d.toNat 1 (fun e t => (d e t ^^^ f.imm.setWidth 32).toNat) ∧
    Gives (.shli f) f.u f.d.toNat 1 (fun e t => (d e t <<< (f.imm.toNat % 32)).toNat) ∧
    Gives (.shri f) f.u f.d.toNat 1 (fun e t => (d e t >>> (f.imm.toNat % 32)).toNat))

/-- R102, R103, R105: the bitwise and shift instructions, the field extract and insert, the byte permute, SEL and MOV. -/
def Obligations.LogicShiftAndFieldResults : Prop :=
  ∀ f : RRR,
    let a (e : Env) (t : Nat) : BitVec f.nbits := BitVec.ofNat f.nbits (e.opA f f.width t)
    let b (e : Env) (t : Nat) : BitVec f.nbits := BitVec.ofNat f.nbits (e.opB f f.width f.width t)
    let c (e : Env) (t : Nat) : Nat := e.opB f f.width f.width t % 256
    Gives (.andI f) f.u f.d.toNat f.width (fun e t => (a e t &&& b e t).toNat) ∧
    Gives (.orI f) f.u f.d.toNat f.width (fun e t => (a e t ||| b e t).toNat) ∧
    Gives (.xorI f) f.u f.d.toNat f.width (fun e t => (a e t ^^^ b e t).toNat) ∧
    Gives (.notI f) f.u f.d.toNat f.width (fun e t => (~~~a e t).toNat) ∧
    Gives (.shl f) f.u f.d.toNat f.width (fun e t => (a e t <<< c e t).toNat) ∧
    Gives (.shr f) f.u f.d.toNat f.width (fun e t => (a e t >>> c e t).toNat) ∧
    Gives (.sar f) f.u f.d.toNat f.width (fun e t => ((a e t).sshiftRight (c e t)).toNat) ∧
    Gives (.rotl f) f.u f.d.toNat f.width (fun e t => ((a e t).rotateLeft (c e t)).toNat) ∧
    Gives (.movI f) f.u f.d.toNat f.width (fun e t => e.opB f 0 f.width t) ∧
    Gives (.sel f) f.u f.d.toNat 1 (fun e t => if e.c.readP f.m.toNat t then e.opA f 1 t else e.opB f 1 1 t) ∧
    Gives (.bfx f) f.u f.d.toNat 1 (fun e t =>
      let pos := min (e.opB f 1 1 t % 256) 32
      let len := min (e.opB f 1 1 t / 256 % 256) (32 - pos)
      let field := BitVec.ofNat len (e.opA f 1 t / 2 ^ pos)
      if f.uns then (field.setWidth 32).toNat else (field.signExtend 32).toNat) ∧
    Gives (.bfi f) f.u f.d.toNat 1 (fun e t =>
      let pos := min (e.opB f 1 1 t % 256) 32
      let len := min (e.opB f 1 1 t / 256 % 256) (32 - pos)
      let mask : BitVec 32 := BitVec.ofNat 32 ((2 ^ len - 1) * 2 ^ pos)
      ((BitVec.ofNat 32 (e.opD f 2 1 t) &&& ~~~mask) ||| ((BitVec.ofNat 32 (e.opA f 1 t) <<< pos) &&& mask)).toNat) ∧
    Gives (.prmt f) f.u f.d.toNat 1 (fun e t => prmtN (e.opA f 1 t) (e.opB f 1 1 t) (e.opD f 2 1 t))

/-- R104: ICMP and FCMP write 1 into their predicate in the active threads where the condition holds, 0 in the others. -/
def Obligations.CompareResults : Prop :=
  ∀ f : RRR,
    GivesPred (.icmp f) (f.d.toNat % 8) (fun e t =>
      let a := intOf f.uns f.nbits (e.opA f f.width t)
      let b := intOf f.uns f.nbits (e.opB f f.width f.width t)
      match f.d.toNat / 8 with
      | 0 => a == b
      | 1 => a != b
      | 2 => decide (a < b)
      | 3 => decide (a ≤ b)
      | 4 => decide (b < a)
      | _ => decide (b ≤ a)) ∧
    GivesPred (.fcmp f) (f.d.toNat % 8) (fun e t =>
      let n := if f.m.getLsbD 0 then 2 else 1
      let fmt := if f.m.getLsbD 0 then fp64 else fp32
      fcmpHolds (f.d.toNat / 8) (Fv.ofBitsFtz fmt (f.m.getLsbD 2) (e.opA f n t)) (Fv.ofBitsFtz fmt (f.m.getLsbD 2) (e.opB f n n t)))

/-- R106, R107: row 0x2 rounds the exact result once in the instruction's mode and raises its flags; a minimum, a maximum,
FABS and FNEG raise none.
R84, R124: the immediate instructions on floating-point numbers widen IMM exactly, round to nearest even once per
element, and raise the flags of all elements together. -/
def Obligations.Fp32Results : Prop :=
  (∀ f : RRR,
    let x (v : Nat) : Fv := Fv.ofBitsFtz fp32 f.ftz v
    let out (r : FRes) : Nat × Word := fp32.deliver f.mode f.ftz r
    let a (e : Env) (t : Nat) : Nat := e.opA f 1 t
    let b (e : Env) (t : Nat) : Nat := e.opB f 1 1 t
    GivesF (.fadd f) f.u f.d.toNat 1 (fun e t => out (addF f.mode (x (a e t)) (x (b e t)))) ∧
    GivesF (.fsub f) f.u f.d.toNat 1 (fun e t => out (subF f.mode (x (a e t)) (x (b e t)))) ∧
    GivesF (.fmul f) f.u f.d.toNat 1 (fun e t => out (mulF (x (a e t)) (x (b e t)))) ∧
    GivesF (.ffma f) f.u f.d.toNat 1 (fun e t => out (fmaF f.mode (x (a e t)) (x (b e t)) (x (e.opD f 2 1 t)))) ∧
    GivesF (.fdiv f) f.u f.d.toNat 1 (fun e t => out (divF fp32 (x (a e t)) (x (b e t)))) ∧
    GivesF (.fsqrt f) f.u f.d.toNat 1 (fun e t => out (sqrtF fp32 (x (a e t)))) ∧
    GivesF (.frnd f) f.u f.d.toNat 1 (fun e t => out (.ok (integralF f.mode (x (a e t))))) ∧
    GivesF (.fscl f) f.u f.d.toNat 1 (fun e t =>
      out (.ok ((x (a e t)).scale (max (-4096) (min 4096 (BitVec.ofNat 32 (b e t)).toInt))))) ∧
    Gives (.fmin f) f.u f.d.toNat 1 (fun e t => (fp32.roundF .rne false (minF (x (a e t)) (x (b e t)))).1) ∧
    Gives (.fmax f) f.u f.d.toNat 1 (fun e t => (fp32.roundF .rne false (maxF (x (a e t)) (x (b e t)))).1) ∧
    Gives (.fabs f) f.u f.d.toNat 1 (fun e t =>
      if (Fv.ofBits fp32 (a e t)).isNan then fp32.nan else (BitVec.ofNat 32 (a e t) &&& 0x7FFFFFFF).toNat) ∧
    Gives (.fneg f) f.u f.d.toNat 1 (fun e t =>
      if (Fv.ofBits fp32 (a e t)).isNan then fp32.nan else (BitVec.ofNat 32 (a e t) ^^^ 0x80000000).toNat)) ∧
  (∀ f : RI,
    let d (e : Env) (t : Nat) : Nat := (e.opReg f.u 0 f.d.toNat t).toNat
    let imm : Fv := Fv.ofBits bf16 f.imm.toNat
    let two (fmt : FloatFmt) (g : Fv → Fv → FRes) (x : Nat) : Nat × Word :=
      let r (pos : Nat) := fmt.deliver .rne false (g (Fv.ofBits fmt (x / 2 ^ pos % 2 ^ 16)) (Fv.ofBits fmt f.imm.toNat))
      ((r 0).1 + (r 16).1 * 2 ^ 16, (r 0).2 ||| (r 16).2)
    let four (g : Fv → Fv → FRes) (x : Nat) : Nat × Word :=
      let r (k : Nat) := e4m3.deliver .rne false
        (g (Fv.ofBits e4m3 (x / 2 ^ (8 * k) % 256)) (Fv.ofBits e4m3 (f.imm.toNat / 2 ^ (8 * (k % 2)) % 256)))
      ((r 0).1 + (r 1).1 * 2 ^ 8 + (r 2).1 * 2 ^ 16 + (r 3).1 * 2 ^ 24, (r 0).2 ||| (r 1).2 ||| (r 2).2 ||| (r 3).2)
    GivesF (.fmovi f) f.u f.d.toNat 1 (fun _ _ => fp32.roundF .rne false imm) ∧
    GivesF (.faddi f) f.u f.d.toNat 1 (fun e t => fp32.deliver .rne false (addF .rne (Fv.ofBits fp32 (d e t)) imm)) ∧
    GivesF (.fmuli f) f.u f.d.toNat 1 (fun e t => fp32.deliver .rne false (mulF (Fv.ofBits fp32 (d e t)) imm)) ∧
    GivesF (.haddi2h f) f.u f.d.toNat 1 (fun e t => two fp16 (addF .rne) (d e t)) ∧
    GivesF (.haddi2b f) f.u f.d.toNat 1 (fun e t => two bf16 (addF .rne) (d e t)) ∧
    GivesF (.hmuli2h f) f.u f.d.toNat 1 (fun e t => two fp16 mulF (d e t)) ∧
    GivesF (.hmuli2b f) f.u f.d.toNat 1 (fun e t => two bf16 mulF (d e t)) ∧
    GivesF (.f8muli f) f.u f.d.toNat 1 (fun e t => four mulF (d e t)) ∧
    GivesF (.f8addi f) f.u f.d.toNat 1 (fun e t => four (addF .rne) (d e t)))

/-- R108, R109: row 0x3 computes each half of a packed register by itself, sums HDOT2 exactly into FP32, and rounds FP64
results once. -/
def Obligations.PackedAndFp64Results : Prop :=
  ∀ f : RRR,
    let h (v pos : Nat) : Fv := Fv.ofBits f.half (v / 2 ^ pos % 2 ^ 16)
    let two (g : Nat → Nat × Word) : Nat × Word := ((g 0).1 + (g 16).1 * 2 ^ 16, (g 0).2 ||| (g 16).2)
    let out (r : FRes) : Nat × Word := f.half.deliver f.hmode false r
    let a (e : Env) (t : Nat) : Nat := e.opA f 1 t
    let b (e : Env) (t : Nat) : Nat := e.opB f 1 1 t
    let x (e : Env) (t : Nat) : Fv := Fv.ofBits fp64 (e.opA f 2 t)
    let y (e : Env) (t : Nat) : Fv := Fv.ofBits fp64 (e.opB f 2 2 t)
    let o (r : FRes) : Nat × Word := fp64.deliver f.mode false r
    GivesF (.hadd2 f) f.u f.d.toNat 1 (fun e t => two (fun p => out (addF f.hmode (h (a e t) p) (h (b e t) p)))) ∧
    GivesF (.hsub2 f) f.u f.d.toNat 1 (fun e t => two (fun p => out (subF f.hmode (h (a e t) p) (h (b e t) p)))) ∧
    GivesF (.hmul2 f) f.u f.d.toNat 1 (fun e t => two (fun p => out (mulF (h (a e t) p) (h (b e t) p)))) ∧
    GivesF (.hfma2 f) f.u f.d.toNat 1 (fun e t =>
      two (fun p => out (fmaF f.hmode (h (a e t) p) (h (b e t) p) (h (e.opD f 2 1 t) p)))) ∧
    GivesF (.hmin2 f) f.u f.d.toNat 1 (fun e t =>
      two (fun p => ((f.half.roundF .rne false (minF (h (a e t) p) (h (b e t) p))).1, 0))) ∧
    GivesF (.hmax2 f) f.u f.d.toNat 1 (fun e t =>
      two (fun p => ((f.half.roundF .rne false (maxF (h (a e t) p) (h (b e t) p))).1, 0))) ∧
    GivesF (.hdot2 f) f.u f.d.toNat 1 (fun e t => fp32.deliver f.hmode false
      (dotF f.hmode [(h (a e t) 0, h (b e t) 0), (h (a e t) 16, h (b e t) 16)] [Fv.ofBits fp32 (e.opD f 2 1 t)])) ∧
    GivesF (.dadd f) f.u f.d.toNat 2 (fun e t => o (addF f.mode (x e t) (y e t))) ∧
    GivesF (.dsub f) f.u f.d.toNat 2 (fun e t => o (subF f.mode (x e t) (y e t))) ∧
    GivesF (.dmul f) f.u f.d.toNat 2 (fun e t => o (mulF (x e t) (y e t))) ∧
    GivesF (.dfma f) f.u f.d.toNat 2 (fun e t => o (fmaF f.mode (x e t) (y e t) (Fv.ofBits fp64 (e.opD f 4 2 t)))) ∧
    GivesF (.ddiv f) f.u f.d.toNat 2 (fun e t => o (divF fp64 (x e t) (y e t))) ∧
    GivesF (.dsqrt f) f.u f.d.toNat 2 (fun e t => o (sqrtF fp64 (x e t))) ∧
    Gives (.dmin f) f.u f.d.toNat 2 (fun e t => (fp64.roundF .rne false (minF (x e t) (y e t))).1) ∧
    Gives (.dmax f) f.u f.d.toNat 2 (fun e t => (fp64.roundF .rne false (maxF (x e t) (y e t))).1)

/-- R54: an arithmetic result with a NaN operand is the default NaN, and a NaN operand alone sets no flag; 0 times an
infinity, 0/0, infinities of opposite sign that are added and the square root of a negative number set NV.
R52, R55, R56: a finite result whose exponent lies above the largest finite number's sets OF, and that number itself does not; a NaN or an
infinity that is converted into an integer sets NV. The flags of an instruction are ORed into bits 2 (OF), 1 (NV) and 0 (FMT) of the
arithmetic status word, whose other bits, and every other byte of memory, stay; with no flag nothing is written, and a word that cannot be
written is reported and stays. -/
def Obligations.NanAndFlagRules : Prop :=
  (flFMT = 1 ∧ flNV = 2 ∧ flOF = 4) ∧
  (∀ fmt ∈ [fp32, fp64, fp16, bf16], ∀ (m : RMode) (z n : Bool) (x : Nat) (k : Int),
    (x ≠ 0 → lead fmt.maxM fmt.maxE < lead x k → (fmt.roundF m z (.num n x k)).2 = flOF) ∧
    (fmt.roundF m z (.num n fmt.maxM fmt.maxE)).2 = 0) ∧
  (∀ (m : RMode) (n : Bool) (lo hi : Int), toIntF m lo hi .nan = (0, flNV) ∧ toIntF m lo hi (.inf n) = (if n then lo else hi, flNV)) ∧
  (∀ (s : State) (n ctx : Nat) (b : Word),
    let va := (s.context ctx).ctxsave + 0x10000
    (b = 0 → s.orStatus n ctx b = s) ∧
    (∀ x s1, b ≠ 0 → (s.context ctx).ctxsave ≠ 0 → s.devAddr n ctx va 4 Need.both = (.ok x, s1) →
      let t := s.orStatus n ctx b
      BitVec.ofNat 32 (ofBytesLE (t.homeRead x.pa 4)) = BitVec.ofNat 32 (ofBytesLE (s1.homeRead x.pa 4)) ||| b ∧
      (∀ a, ¬ (x.pa ≤ a ∧ a < x.pa + 4) → Memory.read t.mem a = Memory.read s1.mem a) ∧ t.wgs = s1.wgs) ∧
    (∀ c s1, b ≠ 0 → (s.context ctx).ctxsave ≠ 0 → s.devAddr n ctx va 4 Need.both = (.error c, s1) →
      s.orStatus n ctx b = s1.report n ctx cDEVWRITE_FAULT 0 va) ∧
    (b ≠ 0 → (s.context ctx).ctxsave = 0 → s.orStatus n ctx b = s.report n ctx cDEVWRITE_FAULT 0 va)) ∧
  (∀ fmt ∈ [fp32, fp64, fp16, bf16], ∀ (m : RMode) (z : Bool) (x : Fv),
    fmt.deliver m z (addF m .nan x) = (fmt.nan, 0) ∧ fmt.deliver m z (addF m x .nan) = (fmt.nan, 0) ∧
    fmt.deliver m z (mulF .nan x) = (fmt.nan, 0) ∧ fmt.deliver m z (mulF x .nan) = (fmt.nan, 0) ∧
    fmt.deliver m z (divF fmt .nan x) = (fmt.nan, 0) ∧ fmt.deliver m z (divF fmt x .nan) = (fmt.nan, 0) ∧
    fmt.deliver m z (sqrtF fmt .nan) = (fmt.nan, 0)) ∧
  (∀ fmt ∈ [fp32, fp64, fp16, bf16], ∀ (m : RMode) (z a b : Bool) (e e' k : Int),
    fmt.deliver m z (addF m (.inf a) (.inf !a)) = (fmt.nan, flNV) ∧
    fmt.deliver m z (mulF (.inf a) (.num b 0 e)) = (fmt.nan, flNV) ∧
    fmt.deliver m z (divF fmt (.num a 0 e) (.num b 0 e')) = (fmt.nan, flNV) ∧
    fmt.deliver m z (divF fmt (.inf a) (.inf b)) = (fmt.nan, flNV) ∧
    ∀ q, q ≠ 0 → fmt.deliver m z (sqrtF fmt (.num true q k)) = (fmt.nan, flNV))

/-- R67: the special inputs of the transcendental functions give the results of its table, in every rounding mode, with FTZ and
without (which reads a negative subnormal operand as -0); FSINCOS gives the sine and, above it, the cosine. Each of these
instructions writes the result of its function in the model; how far an approximated result lies from the exact one is a free value within
R66's bound: this clause is the model's choice (DESIGN CHOICE, log 18). -/
def Obligations.TranscendentalResults : Prop :=
  (∀ f : RRR,
    let val (g : Tfun) (mode : RMode) (e : Env) (t : Nat) : Nat × Word := Tfun.run g mode f.ftz f.m (e.opA f 1 t)
    GivesF (.frcp f) f.u f.d.toNat 1 (val .rcp f.mode) ∧ GivesF (.frsq f) f.u f.d.toNat 1 (val .rsq f.mode) ∧
    GivesF (.fsin f) f.u f.d.toNat 1 (val .sin .rne) ∧ GivesF (.fcos f) f.u f.d.toNat 1 (val .cos .rne) ∧
    GivesF (.fexp2 f) f.u f.d.toNat 1 (val .exp2 .rne) ∧ GivesF (.flog2 f) f.u f.d.toNat 1 (val .log2 .rne) ∧
    GivesF (.fexp f) f.u f.d.toNat 1 (val .exp .rne) ∧ GivesF (.fln f) f.u f.d.toNat 1 (val .ln .rne) ∧
    GivesF (.ftanh f) f.u f.d.toNat 1 (val .tanh .rne) ∧ GivesF (.fsigm f) f.u f.d.toNat 1 (val .sigm .rne) ∧
    GivesF (.fsincos f) f.u f.d.toNat 2 (fun e t =>
      ((val .sin .rne e t).1 + (val .cos .rne e t).1 * 2 ^ 32, (val .sin .rne e t).2 ||| (val .cos .rne e t).2))) ∧
  (∀ (mode : RMode) (z : Bool) (m3 : BitVec 3),
    let run (g : Tfun) (a : Nat) : Nat × Word := Tfun.run g mode z m3 a
    (∀ g ∈ [Tfun.sin, .cos, .exp2, .exp, .log2, .ln, .rcp, .rsq, .tanh, .sigm], ∀ a, a < 2 ^ 32 → 0x7F800000 < a % 2 ^ 31 →
      run g a = (0x7FC00000, 0)) ∧
    (∀ g ∈ [Tfun.log2, .ln, .rsq], ∀ a, (if z then 0x80800000 else 0x80000001) ≤ a → a < 0xFF800000 → run g a = (0x7FC00000, flNV)) ∧
    run .sin 0 = (0, 0) ∧ run .sin 0x80000000 = (0x80000000, 0) ∧
    (∀ g ∈ [Tfun.sin, .cos], run g 0x7F800000 = (0x7FC00000, flNV) ∧ run g 0xFF800000 = (0x7FC00000, flNV)) ∧
    (∀ g ∈ [Tfun.cos, .exp2, .exp], run g 0 = (0x3F800000, 0) ∧ run g 0x80000000 = (0x3F800000, 0)) ∧
    (∀ g ∈ [Tfun.exp2, .exp], run g 0x7F800000 = (0x7F800000, 0) ∧ run g 0xFF800000 = (0, 0)) ∧
    (∀ g ∈ [Tfun.log2, .ln], run g 0 = (0xFF800000, 0) ∧ run g 0x80000000 = (0xFF800000, 0) ∧
      run g 0x7F800000 = (0x7F800000, 0) ∧ run g 0xFF800000 = (0x7FC00000, flNV)) ∧
    run .rcp 0 = (0x7F800000, 0) ∧ run .rcp 0x80000000 = (0xFF800000, 0) ∧ run .rcp 0x7F800000 = (0, 0) ∧
    run .rcp 0xFF800000 = (0x80000000, 0) ∧ run .rsq 0 = (0x7F800000, 0) ∧ run .rsq 0x80000000 = (0xFF800000, 0) ∧
    run .rsq 0x7F800000 = (0, 0) ∧ run .rsq 0xFF800000 = (0x7FC00000, flNV) ∧
    run .tanh 0 = (0, 0) ∧ run .tanh 0x80000000 = (0x80000000, 0) ∧ run .tanh 0x7F800000 = (0x3F800000, 0) ∧
    run .tanh 0xFF800000 = (0xBF800000, 0) ∧
    (∀ a ∈ [0, 0x80000000], run .sigm a = (0x3F000000, 0)) ∧ run .sigm 0x7F800000 = (0x3F800000, 0) ∧
    run .sigm 0xFF800000 = (0, 0))

/-- R33, R56-R58, R111, R112: CVT rounds each value of its code by the target's rule, CVTSR by the dither of the thread's
position and DPHASE at its issue; a tile of CVTSR advances DPHASE when it completes. -/
def Obligations.ConversionResults : Prop :=
  ∀ f : RRR,
    let items := cvtItems f.b.toNat
    let a (e : Env) (t : Nat) : Nat := e.opA f (cvtSrcRegs f.b.toNat) t
    GivesF (.cvt f) f.u f.d.toNat (cvtDstRegs f.b.toNat) (fun e t =>
      cvtAll items (fun _ i => i.write f.mode f.ftz (i.read f.ftz (a e t)))) ∧
    ∀ s e, Runs (.cvtsr f) s e → Settled e (.cvtsr f) →
      let val (t : Nat) : Nat × Word := cvtAll items (fun j i =>
        i.writeSr (dither ((t * items.length + j) % 32) e.c.dphase.toNat) f.ftz (i.read f.ftz (a e t)))
      (∃ c, exec (.cvtsr f) s = .next (tracked e (.cvtsr f) []
          ((s.orStatus e.site e.ctx (flagsAll ((e.units f.u).map (fun t => (val t).2)))).setCoach s.cur c)) ∧
        Results e c f.u f.d.toNat (cvtDstRegs f.b.toNat) (fun t => (val t).1)) ∧
      ∀ (c : Coach) (fl : Flight), fl.kind = .performed → fl.word.toNat / 2 ^ 24 = 0x41 → (c.afterFlight fl).dphase = c.dphase + 1

/-- R49, R50, R114-R117: BSCALE gives every thread the side record of its block of 32 positions, inactive positions
counting as zero; BENC packs the codes of a thread's group; BDEC decodes a thread's code of the packed word, and an
ill-formed side record sets FMT. -/
def Obligations.BlockScaleResults : Prop :=
  ∀ f : RRR,
    let k := BlkFmt.of f.m.toNat
    let per := 32 / k.bits
    Gives (.bscale f) false f.d.toNat 1 (fun e t =>
      let val (p : Nat) : Fv := if e.active.getLsbD p then Fv.ofBits fp32 (e.opA f 1 p) else Fv.zero
      let r := bscale k ((upFrom (t / 32 * 32) 32).map val)
      r.1 + r.2 * 256) ∧
    GivesF (.benc f) false f.d.toNat 1 (fun e t =>
      ((List.range per).foldl (fun x j => x + (if t / per * per + j < e.wg.threads then
        (bencCode f e (t / per * per + j)).1 else 0) * 2 ^ (k.bits * j)) 0,
       (bencCode f e t).2)) ∧
    GivesF (.bdec f) false f.d.toNat 1 (fun e t =>
      let b := e.opB f 1 1 t
      let r := fp32.roundF .rne false
        (decodeElem k (b % 256) (b / 256 % 256) (e.opA f 1 t / 2 ^ (k.bits * (t % per)) % 2 ^ k.bits))
      (r.1, r.2 ||| if illFormed k (b % 256) (b / 256 % 256) then flFMT else 0))

/-- R118: a lane instruction gives each active thread the value that its partner held before the instruction, whether the
partner is active or not; lanes stay within their depth slot, and LBCAST names one thread of the coach.
R122: VGET reads v[A] of the thread that s[B] names, modulo the number of threads, into s[D]; VPUT writes s[A] into
v[D] of that thread, active or not. Nothing else changes. -/
def Obligations.LaneResults : Prop :=
  (∀ f : RRR,
    Gives (.lxch f) false f.d.toNat 1 (fun e t =>
      e.opA f 1 ((t % e.wg.w ^^^ f.b.toNat) + e.wg.w * (t / e.wg.w))) ∧
    Gives (.lshfl f) false f.d.toNat 1 (fun e t => e.opA f 1 (e.opB f 1 1 t % e.wg.w + e.wg.w * (t / e.wg.w))) ∧
    Gives (.lbcast f) false f.d.toNat 1 (fun e _ => e.opA f 1 ((e.c.readS e.tick f.b.toNat).toNat % e.wg.threads)) ∧
    Gives (.lrot f) false f.d.toNat 1 (fun e t =>
      e.opA f 1 ((t % e.wg.w + e.wg.w - f.b.toNat) % e.wg.w + e.wg.w * (t / e.wg.w)))) ∧
  (∀ (f : RRR) (s : State) (e : Env),
    let t := (e.c.readS e.tick f.b.toNat).toNat % e.wg.threads
    (Runs (.vget f) s e → Settled e (.vget f) → Computes (.vget f) s e true f.d.toNat 1 (fun _ => (e.c.readV e.tick f.a.toNat t).toNat)) ∧
    (Runs (.vput f) s e → Settled e (.vput f) → t < 256 → ∃ c, exec (.vput f) s = .next (s.setCoach s.cur c) ∧
      c.rawReg false f.d.toNat t = e.c.readS e.tick f.a.toNat ∧
      (∀ sc r x, x < 256 → ¬ (sc = false ∧ r = f.d.toNat ∧ x = t) → c.rawReg sc r x = e.c.rawReg sc r x) ∧
      { c with v := e.c.v } = e.c.advance e))

/-- R60, R119: CRED gives every active thread the root of the combining tree over the active positions, CSCAN the inclusive
scan at the thread's own position. -/
def Obligations.ReductionResults : Prop :=
  ∀ f : RRR,
    let levels (e : Env) := treeLevels 9 f.m.toNat (positions f e)
    GivesF (.cred f) false f.d.toNat 1 (fun e _ => (((levels e).getLastD []).headD none).getD (0, 0)) ∧
    GivesF (.cscan f) false f.d.toNat 1 (fun e t => (scanAt f.m.toNat t (levels e)).getD (0, 0))

/-- R120-R122: the instructions on predicates write them in the active threads; PMASK writes only the threads of its word;
VOTE counts the active threads whose predicate is set; ELECT sets the lowest active thread alone. -/
def Obligations.PredicateResults : Prop :=
  ∀ f : RRR,
    let p (e : Env) (n : RegNo) (t : Nat) : Bool := e.c.readP n.toNat t
    GivesPred (.pand f) f.d.toNat (fun e t => p e f.a t && p e f.b t) ∧
    GivesPred (.por f) f.d.toNat (fun e t => p e f.a t || p e f.b t) ∧
    GivesPred (.pxor f) f.d.toNat (fun e t => p e f.a t ^^ p e f.b t) ∧
    GivesPred (.pnot f) f.d.toNat (fun e t => !p e f.a t) ∧
    GivesPred (.psets f) f.d.toNat (fun e _ => e.c.readS e.tick f.b.toNat != 0) ∧
    GivesPred (.elect f) f.d.toNat (fun e t => decide (∀ x ∈ e.threads, t ≤ x)) ∧
    (∀ s e, Runs (.pmask f) s e → SetsPred (.pmask f) s e f.d.toNat (e.threads.filter (fun t => decide (t / 32 = f.a.toNat)))
      (fun t => (e.c.readS e.tick f.b.toNat).getLsbD (t % 32))) ∧
    Gives (.vote f) f.u f.d.toNat 1 (fun e _ =>
      let set := e.threads.filter (fun t => p e f.a t)
      match f.m.toNat % 4 with
      | 0 => ((set.filter (fun t => decide (t / 32 = f.b.toNat))).map (fun t => 2 ^ (t % 32))).sum
      | 1 => if set = [] then 0 else 1
      | 2 => if set = e.threads then 1 else 0
      | _ => set.length)

/-! Row 0xC: control. -/

/-- R70, R127: BRA, a BRS or BRP whose condition holds, and JMPR continue the whole coach at their target, which is counted
in words from the header that follows their clause; a target that is
not word-aligned and canonical traps with BAD_TARGET and has no other effect. A BRS or BRP whose condition does not hold goes on, whatever
its target: that its target is then not checked is the model's choice (log 22). -/
def Obligations.BranchResults : Prop :=
  ∀ (f : FJ) (g : FJC) (s : State) (e : Env),
    let pc : DWord := e.nextHdr + f.off.signExtend 64 * 4
    let dest : DWord := e.nextHdr + g.off.signExtend 64 * 4
    let x : Int := (e.c.readS e.tick g.reg.toNat).toInt
    let brs : Prop := match g.cond.toNat with
      | 0 => x = 0 | 1 => x ≠ 0 | 2 => x < 0 | 3 => 0 ≤ x | 4 => 0 < x | _ => x ≤ 0
    let p (t : Nat) : Prop := e.c.readP g.reg.toNat t = true
    let brp : Prop := match g.cond.toNat with
      | 0 => ∃ t ∈ e.threads, p t | 1 => ∀ t ∈ e.threads, p t | 2 => ∀ t ∈ e.threads, ¬ p t | _ => ∃ t ∈ e.threads, ¬ p t
    let pair : DWord := e.c.readS e.tick (g.reg.toNat + 1) ++ e.c.readS e.tick g.reg.toNat
    let ok (a : DWord) : Prop := a.toNat % 4 = 0 ∧ canonical a = true
    (Runs (.bra f) s e → ok pc → GoesTo (.bra f) s e id pc) ∧
    (Runs (.bra f) s e → ¬ ok pc → exec (.bra f) s = .next (trapAll e (.bra f) cBAD_TARGET 0 s)) ∧
    (Runs (.brs g) s e → brs → ok dest → GoesTo (.brs g) s e id dest) ∧
    (Runs (.brs g) s e → brs → ¬ ok dest → exec (.brs g) s = .next (trapAll e (.brs g) cBAD_TARGET 0 s)) ∧
    (Runs (.brs g) s e → ¬ brs → GoesOnBy (.brs g) s e id) ∧
    (Runs (.brp g) s e → brp → ok dest → GoesTo (.brp g) s e id dest) ∧
    (Runs (.brp g) s e → brp → ¬ ok dest → exec (.brp g) s = .next (trapAll e (.brp g) cBAD_TARGET 0 s)) ∧
    (Runs (.brp g) s e → ¬ brp → GoesOnBy (.brp g) s e id) ∧
    (Runs (.jmpr g) s e → ok pair → GoesTo (.jmpr g) s e id pair) ∧
    (Runs (.jmpr g) s e → ¬ ok pair → exec (.jmpr g) s = .next (trapAll e (.jmpr g) cBAD_TARGET 0 s))

/-- R128: CALL pushes an entry that resumes at the header after its clause and continues at its target; RET pops such an
entry and continues where it says; RET with any other entry on top traps with ILLEGAL_CONVERGENCE. -/
def Obligations.CallAndReturn : Prop :=
  ∀ (f : FJ) (s : State) (e : Env),
    let pc : DWord := e.nextHdr + f.off.signExtend 64 * 4
    (Runs (.callI f) s e → targetOk pc = true → e.c.div.length < 32 →
      GoesTo (.callI f) s e (fun c => { c with div := { mask := 0, kind := .callK, resume := e.nextHdr } :: e.c.div }) pc) ∧
    (Runs (.callI f) s e → targetOk pc = true → 32 ≤ e.c.div.length →
      exec (.callI f) s = .next (trapAll e (.callI f) cDIV_OVERFLOW 0 s)) ∧
    (∀ m a r, Runs (.retI f) s e → e.c.div = { mask := m, kind := .callK, resume := a } :: r → targetOk a = true →
      GoesTo (.retI f) s e (fun c => { c with div := r }) a) ∧
    (Runs (.retI f) s e → (∀ d ∈ e.c.div.head?, d.kind ≠ .callK) →
      exec (.retI f) s = .next (trapAll e (.retI f) cILLEGAL_CONVERGENCE 0 s))

/-- R129, R130: IF, ELSE, ENDIF, LOOP, ENDLOOP, BREAK and CONT move threads between EXEC and the divergence stack, and while
threads remain the coach continues at the clause that the rule names; an ENDLOOP that reconvergence performs (R132) with no
thread left to go round leaves the loop with those that broke out of it. A thread that has exited stays out of EXEC (R28). BREAK and CONT
find the innermost loop below the IF and ELSE entries at the top of the stack. Where no thread remains the coach reconverges.
R70, R129, R130: the structured instructions trap with ILLEGAL_CONVERGENCE when the top of the divergence stack is not of
their kind, with DIV_OVERFLOW when an IF's entry or a LOOP's two do not fit, and with BAD_TARGET when their target is none. That of an
ELSE or ENDLOOP over another entry ILLEGAL_CONVERGENCE is the cause, whatever its target, is the model's choice (log 93). -/
def Obligations.StructuredControl : Prop :=
  (∀ (f : FJ) (g : FJC) (s : State) (e : Env),
    let pc : DWord := e.nextHdr + f.off.signExtend 64 * 4
    let dest : DWord := e.nextHdr + g.off.signExtend 64 * 4
    let want : Mask := e.c.exec &&& maskOf e.wg.threads (fun t => e.c.readP g.reg.toNat t == (g.cond == 0))
    (Runs (.ifI g) s e → targetOk dest = true → e.c.div.length < 32 → want ≠ 0 →
      GoesTo (.ifI g) s e (fun c => { c with
        exec := want, div := { mask := e.c.exec &&& ~~~want, kind := .ifK, resume := dest } :: e.c.div }) e.nextHdr) ∧
    (∀ m a r, Runs (.elseI f) s e → e.c.div = { mask := m, kind := .ifK, resume := a } :: r → targetOk pc = true →
      m &&& ~~~e.c.exited ≠ 0 →
      GoesTo (.elseI f) s e (fun c => { c with
        exec := m &&& ~~~e.c.exited, div := { mask := e.c.exec, kind := .elseK, resume := pc } :: r }) e.nextHdr) ∧
    (∀ d r, Runs (.endifI f) s e → e.c.div = d :: r → d.kind = .ifK ∨ d.kind = .elseK →
      (e.c.exec ||| d.mask) &&& ~~~e.c.exited ≠ 0 →
      GoesTo (.endifI f) s e (fun c => { c with exec := (e.c.exec ||| d.mask) &&& ~~~e.c.exited, div := r }) e.nextHdr) ∧
    (Runs (.loopI f) s e → targetOk pc = true → e.c.div.length < 31 →
      let d : DivEntry := { mask := 0, kind := .loopK, resume := pc }
      GoesTo (.loopI f) s e (fun c => { c with div := d :: d :: e.c.div }) e.nextHdr) ∧
    (∀ lc lx r, Runs (.endloopI f) s e → e.c.div = lc :: lx :: r → lc.kind = .loopK → lx.kind = .loopK → targetOk pc = true →
      (e.c.exec ||| lc.mask) &&& ~~~e.c.exited ≠ 0 →
      GoesTo (.endloopI f) s e (fun c => { c with
        exec := (e.c.exec ||| lc.mask) &&& ~~~e.c.exited, div := { lc with mask := 0 } :: lx :: r }) pc) ∧
    (∀ (c : Coach) (next start : DWord) lc lx r, c.div = lc :: lx :: r → lc.kind = .loopK → lx.kind = .loopK →
      targetOk start = true → (c.exec ||| lc.mask) &&& ~~~c.exited = 0 →
      c.actEndloop next start = .ok { c with exec := lx.mask &&& ~~~c.exited, div := r, pc := next, clause := none }) ∧
    (∀ up lc lx r, e.c.div = up ++ lc :: lx :: r → (∀ d ∈ up, d.kind = .ifK ∨ d.kind = .elseK) → lc.kind = .loopK → lx.kind = .loopK →
      let breaks (c : Coach) : Coach := { c with exec := e.c.exec &&& ~~~want, div := up ++ lc :: { lx with mask := lx.mask ||| want } :: r }
      let conts (c : Coach) : Coach := { c with exec := e.c.exec &&& ~~~want, div := up ++ { lc with mask := lc.mask ||| want } :: lx :: r }
      (Runs (.breakI g) s e → e.c.exec &&& ~~~want ≠ 0 → GoesTo (.breakI g) s e breaks e.nextHdr) ∧
      (Runs (.contI g) s e → e.c.exec &&& ~~~want ≠ 0 → GoesTo (.contI g) s e conts e.nextHdr) ∧
      (Runs (.breakI g) s e → e.c.exec &&& ~~~want = 0 → Reconverges (.breakI g) s e breaks) ∧
      (Runs (.contI g) s e → e.c.exec &&& ~~~want = 0 → Reconverges (.contI g) s e conts)) ∧
    (Runs (.ifI g) s e → targetOk dest = true → e.c.div.length < 32 → want = 0 → Reconverges (.ifI g) s e (fun c => { c with
      exec := 0, div := { mask := e.c.exec, kind := .ifK, resume := dest } :: e.c.div })) ∧
    (∀ m a r, Runs (.elseI f) s e → e.c.div = { mask := m, kind := .ifK, resume := a } :: r → targetOk pc = true →
      m &&& ~~~e.c.exited = 0 → Reconverges (.elseI f) s e (fun c => { c with
        exec := 0, div := { mask := e.c.exec, kind := .elseK, resume := pc } :: r }))) ∧
  (∀ (f : FJ) (g : FJC) (s : State) (e : Env),
    let pc : DWord := e.nextHdr + f.off.signExtend 64 * 4
    let dest : DWord := e.nextHdr + g.off.signExtend 64 * 4
    let stuck (i : Instr) : Prop := exec i s = .next (trapAll e i cILLEGAL_CONVERGENCE 0 s)
    let bad (i : Instr) : Prop := exec i s = .next (trapAll e i cBAD_TARGET 0 s)
    (Runs (.elseI f) s e → (∀ d ∈ e.c.div.head?, d.kind ≠ .ifK) → stuck (.elseI f)) ∧
    (Runs (.endifI f) s e → (∀ d ∈ e.c.div.head?, d.kind = .loopK ∨ d.kind = .callK) → stuck (.endifI f)) ∧
    (Runs (.endloopI f) s e → (∀ d ∈ e.c.div.head?, d.kind ≠ .loopK) → stuck (.endloopI f)) ∧
    (Runs (.endloopI f) s e → (∀ d ∈ (e.c.div.drop 1).head?, d.kind ≠ .loopK) → stuck (.endloopI f)) ∧
    (∀ up r, e.c.div = up ++ r → (∀ d ∈ up, d.kind = .ifK ∨ d.kind = .elseK) → (∀ d ∈ r.head?, d.kind = .callK) →
      (Runs (.breakI g) s e → stuck (.breakI g)) ∧ (Runs (.contI g) s e → stuck (.contI g))) ∧
    (Runs (.ifI g) s e → targetOk dest = true → 32 ≤ e.c.div.length → exec (.ifI g) s = .next (trapAll e (.ifI g) cDIV_OVERFLOW 0 s)) ∧
    (Runs (.loopI f) s e → targetOk pc = true → 31 ≤ e.c.div.length →
      exec (.loopI f) s = .next (trapAll e (.loopI f) cDIV_OVERFLOW 0 s)) ∧
    (Runs (.ifI g) s e → targetOk dest = false → bad (.ifI g)) ∧
    (Runs (.loopI f) s e → targetOk pc = false → bad (.loopI f)) ∧
    (∀ d r, Runs (.elseI f) s e → e.c.div = d :: r → d.kind = .ifK → targetOk pc = false → bad (.elseI f)) ∧
    (∀ lc lx r, Runs (.endloopI f) s e → e.c.div = lc :: lx :: r → lc.kind = .loopK → lx.kind = .loopK → targetOk pc = false →
      bad (.endloopI f)))

/-- R131: EXIT takes the active threads out of EXEC for good; while others run the coach goes on, with none left in EXEC it reconverges, and
when every thread has exited it is retired with an empty stack. -/
def Obligations.ExitResults : Prop :=
  ∀ (f : FJ) (s : State) (e : Env), Runs (.exitI f) s e →
    (e.c.exited ||| e.active ≠ maskAll e.wg.threads → e.c.exec &&& ~~~e.active ≠ 0 →
      GoesTo (.exitI f) s e (fun c => { c with exec := e.c.exec &&& ~~~e.active, exited := e.c.exited ||| e.active }) e.nextHdr) ∧
    (e.c.exited ||| e.active ≠ maskAll e.wg.threads → e.c.exec &&& ~~~e.active = 0 →
      Reconverges (.exitI f) s e (fun c => { c with exec := 0, exited := e.c.exited ||| e.active })) ∧
    (e.c.exited ||| e.active = maskAll e.wg.threads → s.findStep s.cur = none →
      ∃ t c, exec (.exitI f) s = .next t ∧ t.coach s.cur = some c ∧ c.state = .retired ∧ c.div = [] ∧ c.exec = 0 ∧
        c.exited = maskAll e.wg.threads ∧ c.v = e.c.v ∧ c.s = e.c.s ∧ t.mem = s.mem)

/-! Row 0xD: system registers, handlers and steps. -/

/-- R30-R33: SRD reads the system register that it names, a 64-bit one into a pair; the value of each of them. -/
def Obligations.SystemRegisterReads : Prop :=
  ∀ (f : FS) (s : State) (e : Env), Runs (.srd f) s e → Settled e (.srd f) →
    let n := f.sysreg.toNat
    let w := e.wg
    let grid : Nat := match s.grid w.gid with
      | some g => (g.ze - 1) * 2 ^ 24 + (g.ye - 1) * 2 ^ 16 + (g.xe - 1)
      | none => 0
    Computes (.srd f) s e f.u f.d.toNat (if sysregWidth n = some 64 then 2 else 1) (fun t =>
      if n = 0x000 then (BitVec.ofNat 64 (e.ref.k * e.wg.threads + t)).toNat
      else if n = 0x001 then (BitVec.ofNat 64 (t % e.wg.w)).toNat
      else if n = 0x002 then (BitVec.ofNat 64 (t / e.wg.w)).toNat
      else if n = 0x003 then (BitVec.ofNat 64 e.ref.k).toNat
      else if n = 0x004 then (BitVec.ofNat 64 w.x).toNat
      else if n = 0x005 then (BitVec.ofNat 64 w.y).toNat
      else if n = 0x006 then (BitVec.ofNat 64 w.z).toNat
      else if n = 0x007 then (BitVec.ofNat 64 ((w.ncoach - 1) * 2 ^ 16 + w.logd * 2 ^ 8 + w.w)).toNat
      else if n = 0x008 then (BitVec.ofNat 64 grid).toNat
      else if n = 0x009 then (BitVec.ofNat 64 e.core).toNat
      else if n = 0x00A then (BitVec.ofNat 64 (e.core / 4)).toNat
      else if n = 0x00B then (BitVec.ofNat 64 e.site).toNat
      else if n = 0x00C then s.waferId.toNat
      else if n = 0x00D then s.podId.toNat
      else if n = 0x00E then (BitVec.ofNat 64 w.ctx).toNat
      else if n = 0x010 then (BitVec.ofNat 64 (s.clk e.site)).toNat
      else if n = 0x011 then (s.time e.site).toNat
      else if n = 0x012 then (s.toffOf e.site).toNat
      else if n = 0x013 then e.wg.oclk.toNat
      else if n = 0x014 then e.c.dphase.toNat
      else if n = 0x020 then (s.context e.wg.ctx).thbase.toNat
      else if n = 0x021 then e.c.tcause.toNat
      else if n = 0x022 then e.c.tpc.toNat
      else if n = 0x023 then e.c.taddr.toNat
      else if n = 0x024 then (BitVec.ofNat 64 e.c.trqn).toNat
      else if 0x028 ≤ n ∧ n ≤ 0x02F then (e.c.tmask >>> (32 * (n - 0x028))).toNat % 2 ^ 32
      else if n = 0x030 then (e.c.exec >>> (32 * f.a.toNat)).toNat % 2 ^ 32
      else if n = 0x031 then e.c.stepRec.toNat
      else if n = 0x040 then s.epol.toNat
      else if n = 0x041 then (s.context e.wg.ctx).ctxsave.toNat
      else if n = 0x042 then 1
      else if 0x050 ≤ n ∧ n ≤ 0x05F then (Table.getD s.csl (n - 0x050) 0x80).toNat
      else 0)

/-- R30, R32, R205: SWR writes the system register that it names, its reserved bits discarded, and changes nothing else; the
value is the lowest active thread's, or with U=1 the coach's. -/
def Obligations.SystemRegisterWrites : Prop :=
  ∀ (f : FS) (s : State) (e : Env), Runs (.swr f) s e →
    let n := f.sysreg.toNat
    let v : DWord := BitVec.ofNat 64 (wordsToNat (e.opRun f.u 0 f.d.toNat (sysregRegs n) (e.threads.headD 0)))
    let on (t : State) : State := t.setCoach s.cur (e.c.advance e)
    (n = 0x00C → exec (.swr f) s = .next (on { s with waferId := v.setWidth 16 })) ∧
    (n = 0x00D → exec (.swr f) s = .next (on { s with podId := v.setWidth 16 })) ∧
    (n = 0x014 → exec (.swr f) s = .next (s.setCoach s.cur { e.c.advance e with dphase := v.setWidth 5 })) ∧
    (n = 0x020 → exec (.swr f) s = .next (on (s.setContext e.wg.ctx { s.context e.wg.ctx with thbase := v &&& ~~~63 }))) ∧
    (n = 0x022 → exec (.swr f) s = .next (s.setCoach s.cur { e.c.advance e with tpc := v })) ∧
    (n = 0x040 → exec (.swr f) s = .next (on { s with epol := v &&& 63 })) ∧
    (n = 0x041 → exec (.swr f) s = .next (on (s.setContext e.wg.ctx { s.context e.wg.ctx with ctxsave := v &&& ~~~4095 }))) ∧
    (∀ k < 16, n = 0x050 + k → exec (.swr f) s = .next (on { s.enterStep k with csl := Table.put 0x80 s.csl k ((v.setWidth 16).setWidth 32) }))

/-- R24, R32, R41, R75, R77, R90, R118, R149, R205, R207, R208, R213: what traps before an instruction is executed, in this order. An
instruction of another class than its clause's, but for a control instruction at the clause's end: CLAUSE_CLASS. Of code that is not
privileged, a register that only privileged code may reach, MSAVE, MREST, and ERES for other contexts: PRIV. A field that the word's own
encoding refuses, a write of a read-only register, a handler's instruction outside a handler, a barrier that is not declared, a lane
distance of W or more, a change of the stack in a guarded clause: ILLEGAL_FIELD. A register beyond those declared: REG_RANGE. A register
with a pending write where the grid asks for the check: HAZARD. So even when no thread is active. -/
def Obligations.WordTraps : Prop :=
  ∀ (i : Instr) (s : State) (e0 : Env), i.isEvent = false → s.env s.cur = some e0 →
    let e := e0.holding i
    let user : Prop := s.privileged e.site e.wg.ctx = false
    let slots : Nat → Nat := barSlots (s.grid e.wg.gid)
    let noBar (b : FB) : Prop := slots b.scope.toNat ≤ b.bix.toNat ∧ ¬ (b.scope = 5 ∧ slots 5 = 0)
    let clash : Prop := ∃ h, e.header = some h ∧ classOf i.op ≠ hdrCLS h ∧ ¬ (i.op / 16 = 12 ∧ e.last = true)
    let priv : Prop := user ∧ (match i with
      | .msave _ | .mrest _ => True
      | .srd f | .swr f => (sysregAccess f.sysreg.toNat = .privOnly ∨ sysregAccess f.sysreg.toNat = .privReadOnly) ∧ (sysregWidth f.sysreg.toNat).isSome = true
      | .eres f => (e.sop 0 f.a).toNat / 2 ^ 16 % 2 ^ 16 ≠ 0xFFFF ∧ (e.sop 0 f.a).toNat / 2 ^ 16 % 2 ^ 16 ≠ e.wg.ctx
      | _ => False)
    let field : Prop := i.fieldsOk = false ∨ (match i with
      | .swr f => sysregAccess f.sysreg.toNat = .readOnly ∨ sysregAccess f.sysreg.toNat = .privReadOnly ∨
          (sysregAccess f.sysreg.toNat = .privElseRO ∧ user)
      | .tret _ | .lrd _ | .lwr _ => e.c.inHandler = false
      | .bara f | .baraw f | .barw f | .barinit f => noBar f
      | .lxch f | .lrot f => e.wg.w ≤ f.b.toNat
      | .callI _ | .retI _ | .ifI _ | .elseI _ | .endifI _ | .loopI _ | .endloopI _ | .breakI _ | .contI _ => ∃ h, e.header = some h ∧ hdrGP h ≠ 0
      | _ => False)
    let range : Prop := ∃ u ∈ i.uses, (if u.file = .v then e.wg.vregs else e.wg.sregs) < u.reg + u.n
    let hazard : Prop := e.replay = none ∧ e.wg.haz = true ∧ ∃ u ∈ i.uses, e.c.usePending u = true
    let traps (c : Cause) : Prop := exec i s = .next (trapAll e i c 0 s)
    (e.active = 0 ∨ issueStalls e i s = false) →
      (clash → traps cCLAUSE_CLASS) ∧ (¬ clash → priv → traps cPRIV) ∧ (¬ clash → ¬ priv → field → traps cILLEGAL_FIELD) ∧
      (¬ clash → ¬ priv → ¬ field → range → traps cREG_RANGE) ∧ (¬ clash → ¬ priv → ¬ field → ¬ range → hazard → traps cHAZARD) ∧
      (¬ clash → ¬ priv → ¬ field → ¬ range → ¬ hazard → e.active = 0 → exec i s = .next (finish e s))

/-! Rows 0x7 and 0x8: memory, formats, buffers and atomics. -/

/-- R133, R135, R136, R139: a plain load or store whose accesses all pass performs them in rising thread index, each of its
own size, a load's bytes going to T (sign-extended where asked) and a store's coming from T, and then goes on with its
results due. -/
def Obligations.PlainLoadsAndStores : Prop :=
  ∀ (f : FM) (s s1 s2 : State) (e : Env) (gs : List Target) (d : Done),
    let ea := e.ea f.u f.base f.idx
    let load (size : Nat) : Prop := Reaches e f.u size .read ea s gs s1 ∧ d.misses = [] ∧
      performEach (checkLoad e size) (fun g s =>
        ((putWords f.u f.t g.t (loadWords size (f.scope == 1) (s.loadBytes e.acc g.x size f.nt).1), none, 0),
          (s.loadBytes e.acc g.x size f.nt).2)) gs .none s1 = (d, s2)
    let store (size : Nat) : Prop := Reaches e f.u size .write ea s gs s1 ∧ d.misses = [] ∧
      performEach (checkStore e size f.nt) (fun g s =>
        (([], none, 0), s.storeBytes e.acc g.x (bytesLE size (wordsToNat ((List.range ((size + 3) / 4)).map
          (fun j => e.data f.u f.t j g.t)))) f.nt)) gs .none s1 = (d, s2)
    let goes (i : Instr) : Prop := TracksFrom i s e d.ws (s2.raise e d.fl)
    (Runs (.ld8 f) s e → load 1 → goes (.ld8 f)) ∧ (Runs (.ld16 f) s e → load 2 → goes (.ld16 f)) ∧
    (Runs (.ld32 f) s e → load 4 → goes (.ld32 f)) ∧ (Runs (.ld64 f) s e → load 8 → goes (.ld64 f)) ∧
    (Runs (.ld128 f) s e → load 16 → goes (.ld128 f)) ∧
    (Runs (.st8 f) s e → store 1 → goes (.st8 f)) ∧ (Runs (.st16 f) s e → store 2 → goes (.st16 f)) ∧
    (Runs (.st32 f) s e → store 4 → goes (.st32 f)) ∧ (Runs (.st64 f) s e → store 8 → goes (.st64 f)) ∧
    (Runs (.st128 f) s e → store 16 → goes (.st128 f))

/-- R133, R135: a load or store some unit of which has a misaligned address traps with UNALIGNED at the lowest such unit's address,
TMASK naming those units, and no unit performs; so a unit whose address does not translate has its cause raised. R278-R281, R286: an
address that is not canonical, a context that is not valid, a table entry that is not valid, is a leaf where none may be or none
where one must be, or has a reserved field set is XLATE_NOTPRESENT, as is a page with nothing behind it; a leaf without the
permission of the access, or of space 3 in a user context, is XLATE_PERM; a leaf that the core's TLB holds and that permits the
access gives FRAME and the offset. R216, R234: an access of the device is not checked for races; one whose granules an entry of
another agent covers that is not ordered before it is RACE_RAW when it reads and the entry is a writer's, else RACE_WAW, and
RACE_WAR when it writes and only a reader's does, and then every line keeps its metadata; otherwise it passes. -/
def Obligations.AccessFaults : Prop :=
  (∀ (f : FM) (s s1 : State) (e : Env) (gs : List Target) (m : Miss) (ms : List Miss),
    let ea := e.ea f.u f.base f.idx
    let misses (size : Nat) (need : Need) : Prop := (∀ t ∈ e.units f.u, (ea t).toNat % size = 0) ∧
      translateEach e need ((e.units f.u).map (fun t => (t, ea t))) s = (gs, m :: ms, s1)
    let raises (i : Instr) : Prop := exec i s = .next (raiseCause e i m.cause m.va
      (e.unitMask f.u (((m :: ms).filter (fun x => x.cause == m.cause)).map Miss.t)) e.active s1)
    (Runs (.ld8 f) s e → misses 1 .read → raises (.ld8 f)) ∧ (Runs (.ld16 f) s e → misses 2 .read → raises (.ld16 f)) ∧
    (Runs (.ld32 f) s e → misses 4 .read → raises (.ld32 f)) ∧ (Runs (.ld64 f) s e → misses 8 .read → raises (.ld64 f)) ∧
    (Runs (.ld128 f) s e → misses 16 .read → raises (.ld128 f)) ∧
    (Runs (.st8 f) s e → misses 1 .write → raises (.st8 f)) ∧ (Runs (.st16 f) s e → misses 2 .write → raises (.st16 f)) ∧
    (Runs (.st32 f) s e → misses 4 .write → raises (.st32 f)) ∧ (Runs (.st64 f) s e → misses 8 .write → raises (.st64 f)) ∧
    (Runs (.st128 f) s e → misses 16 .write → raises (.st128 f))) ∧
  (∀ (s : State) (core : Option Nat) (n ctx : Nat) (va : DWord) (need : Need),
    (canonical va = false → s.translate core n ctx va need = (.error cXLATE_NOTPRESENT, s)) ∧
    (canonical va = true → s.ctxValid n ctx = false → (∀ c, core = some c → tlbFind (s.core c).tlb ctx va = none) → tlbFind (s.site n).tlb ctx va = none →
      s.translate core n ctx va need = (.error cXLATE_NOTPRESENT, s)) ∧
    (∀ c e, canonical va = true → core = some c → tlbFind (s.core c).tlb ctx va = some e → (need.w = true → leafD e.leaf = true) →
      let pa := leafFRAME e.leaf + va.toNat % 2 ^ pageShift e.level
      let denied : Prop := (need.r = true ∧ leafR e.leaf = false) ∨ (need.w = true ∧ leafW e.leaf = false) ∨ (need.x = true ∧ leafX e.leaf = false) ∨
        (paSpace pa = 3 ∧ s.privileged n ctx = false)
      (s.paOk pa = false → s.translate core n ctx va need = (.error cXLATE_NOTPRESENT, s)) ∧
      (s.paOk pa = true → denied → s.translate core n ctx va need = (.error cXLATE_PERM, s)) ∧
      (s.paOk pa = true → ¬ denied → s.translate core n ctx va need = (.ok { pa := pa, leaf := e.leaf, level := e.level }, s)))) ∧
  (∀ (s : State) (n ctx level table : Nat) (va : DWord),
    let r := s.walkRead n ctx (table + 8 * vaIndex level va)
    let e := r.1
    s.poisoned (table + 8 * vaIndex level va) 8 = false →
    (e.getLsbD 0 = false ∨ (e.getLsbD 1 = true ∧ 3 ≤ level) ∨ (e.getLsbD 1 = false ∧ level = 0) ∨ (e.getLsbD 1 = false ∧ fld e 2 18 ≠ 0) ∨
      (e.getLsbD 1 = true ∧ (fld e 24 4 ≠ 0 ∨ leafHOME e = 3 ∨ leafCACHE e = 3 ∨ (leafHSITE e ≠ 0 ∧ leafHOME e ≠ 2) ∨
        leafFRAME e % 2 ^ pageShift level ≠ 0))) →
    s.walkFrom n ctx level table va = (.error cXLATE_NOTPRESENT, r.2)) ∧
  (∀ (s : State) (pa n : Nat) (kind : AccKind) (agent : BitVec 16) (k : Word),
    (agent.getLsbD 15 = true → s.raceCheck pa n kind agent k = (none, s)) ∧
    (agent.getLsbD 15 = false → 0 < n → pa % 128 + n ≤ 128 →
      let s1 := s.homeTouch pa n
      let x := s1.site (homeSite pa)
      let m := (s1.line pa).aged x.h
      let conflict (e : RaceEntry) : Prop := e.gmask &&& partGranules pa n ≠ 0 ∧ e.agent ≠ agent ∧ 0 ≤ delta24 e.clk (low24 k) ∧
        ∀ f, liveFloor x.h x.f = some f → delta24 (low24 f) e.clk < 0
      let reads : Prop := kind = .read ∨ ∃ b, kind = .sync true b
      let writes : Prop := kind = .write ∨ ∃ b, kind = .sync b true
      let writer : Prop := conflict m.w0 ∨ conflict m.w1
      let reader : Prop := conflict m.r0 ∨ conflict m.r1
      let r := s.raceCheck pa n kind agent k
      (reads → writer → r.1 = some cRACE_RAW) ∧ (¬ reads → writes → writer → r.1 = some cRACE_WAW) ∧
      (writes → ¬ writer → reader → r.1 = some cRACE_WAR) ∧ (¬ writer → ¬ (writes ∧ reader) → r.1 = none) ∧
      (r.1.isSome = true → r.2.lines = s1.lines ∧ r.2.mem = s1.mem))) ∧
  ∀ (f : FM) (s : State) (e : Env) (t : Nat) (r : List Nat),
    let ea := e.ea f.u f.base f.idx
    let bad (size : Nat) : Prop := (e.units f.u).filter (fun t => decide ((ea t).toNat % size ≠ 0)) = t :: r
    let traps (i : Instr) : Prop := exec i s = .next (trapWith e i cUNALIGNED (ea t) (e.unitMask f.u (t :: r)) e.active s)
    (Runs (.ld16 f) s e → bad 2 → traps (.ld16 f)) ∧ (Runs (.ld32 f) s e → bad 4 → traps (.ld32 f)) ∧
    (Runs (.ld64 f) s e → bad 8 → traps (.ld64 f)) ∧ (Runs (.ld128 f) s e → bad 16 → traps (.ld128 f)) ∧
    (Runs (.st16 f) s e → bad 2 → traps (.st16 f)) ∧ (Runs (.st32 f) s e → bad 4 → traps (.st32 f)) ∧
    (Runs (.st64 f) s e → bad 8 → traps (.st64 f)) ∧ (Runs (.st128 f) s e → bad 16 → traps (.st128 f)) ∧
    (Runs (.ldacq f) s e → bad 4 → traps (.ldacq f)) ∧ (Runs (.strel f) s e → bad 4 → traps (.strel f))

/-- R8, R139, R274: a store that does not stay in the column cache (its page or its NT bit keeps it out, or its page is
race-checked) leaves its bytes in memory, the lowest address first, and every other byte of memory as it was.
R274: a store that stays in the column cache changes no byte of memory, and a load of the core sees its bytes. -/
def Obligations.StoredBytes : Prop :=
  (∀ (s : State) (a : Acc) (x : Xl) (bs : List Byte) (nt : Bool), paSpace x.pa ≤ 1 → (cacheable x nt && !leafRDC x.leaf) = false →
    ∀ addr, Memory.read (s.storeBytes a x bs nt).mem addr =
      if h : x.pa ≤ addr ∧ addr - x.pa < bs.length then bs[addr - x.pa]'h.2 else Memory.read s.mem addr) ∧
  (∀ (s : State) (a : Acc) (x : Xl) (bs : List Byte) (nt : Bool), paSpace x.pa ≤ 1 → (cacheable x nt && !leafRDC x.leaf) = true →
    (Table.find (s.core a.core).cc (x.pa / 128)).isSome → x.pa % 128 + bs.length ≤ 128 →
    (s.storeBytes a x bs nt).mem = s.mem ∧
    ∀ (i : Nat) (h : i < bs.length), (s.storeBytes a x bs nt).ccByte a.core (x.pa + i) = bs[i])

/-- R140, R141, R229: LDACQ reads a word and its line's clock at the home and then acquires; STREL releases and then stores
with the release's clock; FENCE releases, acquires or both, as its kind says, and goes on.
R91, R229: a release carries the workgroup's clock plus 1 and leaves it as the clock; an acquire leaves the later of the
clock and the one acquired. -/
def Obligations.SynchronisingAccesses : Prop :=
  (∀ (f : FM) (s s1 s2 : State) (e : Env) (gs : List Target) (d : Done),
    let ea := e.ea f.u f.base f.idx
    let scope := f.scope.toNat
    (Runs (.ldacq f) s e → Reaches e f.u 4 .read ea s gs s1 → d.misses = [] →
      performEach (checkHome e 4 (.sync true false)) (fun g s =>
        let h := (s.ccDrop e.core (g.x.pa / 128)).homeTouch g.x.pa
        ((putWords f.u f.t g.t [BitVec.ofNat 32 (ofBytesLE (h.homeLoad g.x 4))], some (h.lineClock g.x.pa), 0), h)) gs .none s1 = (d, s2) →
      TracksFrom (.ldacq f) s e d.ws ((match d.clk with | none => s2 | some k => s2.acquire e.ref.slot scope k).raise e d.fl)) ∧
    (Runs (.strel f) s e → Reaches e f.u 4 .write ea s gs s1 → s1.engineBusy e.ref scope = false → d.misses = [] →
      performEach (checkHome e 4 (.sync false true)) (fun g s =>
        (([], none, 0), ((((s.ccDrop e.core (g.x.pa / 128)).homeTouch g.x.pa).homeStore g.x
          (bytesLE 4 (wordsToNat [e.data f.u f.t 0 g.t]))).raiseLine g.x.pa (s1.release e.ref.slot scope).1)))
        gs .none (s1.release e.ref.slot scope).2 = (d, s2) →
      TracksFrom (.strel f) s e d.ws (s2.raise e d.fl)) ∧
    (Runs (.fence f) s e → f.t.getLsbD 1 = true → f.t.getLsbD 0 = false → s.engineBusy e.ref scope = false →
      exec (.fence f) s = .next (finish e (s.release e.ref.slot scope).2)) ∧
    (Runs (.fence f) s e → f.t.getLsbD 1 = false → f.t.getLsbD 0 = true →
      exec (.fence f) s = .next (finish e (s.acquire e.ref.slot scope (s.oclk e.ref.slot)))) ∧
    (Runs (.fence f) s e → f.t.getLsbD 1 = true → f.t.getLsbD 0 = true → s.engineBusy e.ref scope = false →
      let s1 := (s.release e.ref.slot scope).2
      exec (.fence f) s = .next (finish e (s1.acquire e.ref.slot scope (s1.oclk e.ref.slot))))) ∧
  (∀ (s : State) (slot scope : Nat) (w : Workgroup) (k : Word), s.wg slot = some w →
    (s.release slot scope).1 = w.oclk + 1 ∧ (s.release slot scope).2.oclk slot = w.oclk + 1 ∧
    (s.acquire slot scope k).oclk slot = (if 1 ≤ (w.oclk - k).toNat ∧ (w.oclk - k).toNat < 2 ^ 31 then w.oclk else k))

/-- R142, R143: LDQ and STQ, when their formats and side records are found and their accesses pass, load or store each
unit's element as its region's format says; STQ with the dither advances DPHASE when it completes; PREF brings its line in and goes on. -/
def Obligations.FormatDecodedAccesses : Prop :=
  ∀ (f : FM) (s s1 s2 : State) (e : Env) (qs : List QTarget) (d : Done), d.misses = [] →
    let found (i : Instr) (need : Need) : Prop := ∀ k, formatAll e i f need s k = k qs s1
    (Runs (.ldq f) s e → found (.ldq f) .read →
      performQ e f.nt false (fun q x z s =>
        let w := ldqWords q.d x z (s.loadBytes e.acc q.g.x q.d.size f.nt).1
        ((putWords f.u f.t q.g.t w.1, w.2), (s.loadBytes e.acc q.g.x q.d.size f.nt).2)) qs .none s1 = (d, s2) →
      TracksFrom (.ldq f) s e d.ws (s2.raise e d.fl)) ∧
    (Runs (.stq f) s e → found (.stq f) .write →
      performQ e f.nt true (fun q x z s =>
        (([], (stqBytes e f q.d q.off x z q.g.t).2), s.storeBytes e.acc q.g.x (stqBytes e f q.d q.off x z q.g.t).1 f.nt))
        qs .none s1 = (d, s2) →
      TracksFrom (.stq f) s e d.ws (s2.raise e d.fl)) ∧
    (∀ (c : Coach) (fl : Flight), fl.kind = .performed → fl.word.toNat / 2 ^ 24 = 0x7E → fl.word.toNat / 2 % 8 = 1 →
      (c.afterFlight fl).dphase = c.dphase + 1) ∧
    (Runs (.pref f) s e → exec (.pref f) s =
      .next (finish e ((e.units f.u).foldl (fun t u => prefOne e (f.t == 0) t (e.ea f.u f.base f.idx u)) s)))

/-- R135, R144, R145: a buffer access within its window reads or writes the bytes of the core's buffer at the window's base
plus each unit's offset, 4 bytes or 16. -/
def Obligations.BufferAccesses : Prop :=
  ∀ (f : FM) (s : State) (e : Env),
    let ea := e.ea f.u f.base f.idx
    let at_ (b : Buf) (t : Nat) : Nat := ((s.core e.core).window e.wg b).1 + (ea t).toNat
    let loads (i : Instr) (b : Buf) (size : Nat) : Prop := Runs i s e → ReachesBuf e f.u b size false ea s →
      TracksFrom i s e ((e.units f.u).flatMap (fun t =>
        putWords f.u f.t t (loadWords size false (bufRead ((s.core e.core).buf b) (at_ b t) size)))) s
    let stores (i : Instr) (b : Buf) (size : Nat) : Prop := Runs i s e → ReachesBuf e f.u b size true ea s →
      TracksFrom i s e [] ((e.units f.u).foldl (fun u t =>
        u.setCore e.core ((u.core e.core).putBytes b (at_ b t) (e.storeData f size t))) s)
    loads (.lds f) .sbuf 4 ∧ loads (.lds128 f) .sbuf 16 ∧ loads (.ldx f) .xbuf 16 ∧ loads (.ldw f) .wbuf 16 ∧
    loads (.ldac f) .abuf 16 ∧ stores (.sts f) .sbuf 4 ∧ stores (.sts128 f) .sbuf 16 ∧ stores (.stx f) .xbuf 16 ∧
    stores (.stw f) .wbuf 16 ∧ stores (.stac f) .abuf 16

/-- R86, R146-R148: an atomic whose accesses pass performs its step at each unit's home in rising thread index; ATOM, ATOMAR,
ACAS and ACASAR return the old value, AREDG returns none, and ATOMAR and ACASAR release before and acquire after at WAFER
scope; ATOMS does the same on the workgroup's SBUF.
R86, R147: what the integer steps of an atomic store: the sum, the difference, the signed and unsigned minimum and
maximum, the bitwise combinations, the exchange, the wrapping increment and decrement; a compare and swap stores its new
value exactly when the old one equals the expected. -/
def Obligations.Atomics : Prop :=
  (∀ (f : FA) (s s1 s2 : State) (e : Env) (gs : List Target) (d : Done), d.misses = [] →
    let ea := e.ea f.u f.base f.idx
    let act (step : AtomStep) (order ret : Bool) (size : Nat) (k : Word) (g : Target) (s : State) :
        (List RegWrite × Option Word × Word) × State :=
      let h := (s.ccDrop e.core (g.x.pa / 128)).homeTouch g.x.pa
      let a := step g.t (h.homeLoad g.x size)
      let h2 := match a.2.1 with | some bs => h.homeStore g.x bs | none => h
      ((if ret then putWords f.u f.t g.t a.1 else [], if order then some (h2.lineClock g.x.pa) else none, a.2.2),
        if order then h2.raiseLine g.x.pa k else h2)
    let plain (i : Instr) (size : Nat) (ret : Bool) (step : AtomStep) : Prop :=
      Runs i s e → Reaches e f.u size .both ea s gs s1 →
        performEach (checkHome e size (.sync true true)) (act step false ret size 0) gs .none s1 = (d, s2) →
        TracksFrom i s e d.ws ((s2.acquireOpt e.ref.slot 5 d.clk).raise e d.fl)
    let ordered (i : Instr) (size : Nat) (step : AtomStep) : Prop :=
      Runs i s e → Reaches e f.u size .both ea s gs s1 → s1.engineBusy e.ref 5 = false →
        performEach (checkHome e size (.sync true true)) (act step true true size (s1.release e.ref.slot 5).1) gs .none
          (s1.release e.ref.slot 5).2 = (d, s2) →
        TracksFrom i s e d.ws ((s2.acquireOpt e.ref.slot 5 d.clk).raise e d.fl)
    plain (.atom f) 4 true (atomStep f e) ∧ plain (.aredg f) 4 false (atomStep f e) ∧ ordered (.atomar f) 4 (atomStep f e) ∧
    plain (.acas f) (4 * casWords f) true (casStep f (casWords f) e) ∧
    ordered (.acasar f) (4 * casWords f) (casStep f (casWords f) e) ∧
    (Runs (.atoms f) s e → ReachesBuf e f.u .sbuf 4 true ea s →
      let r := (e.units f.u).foldl (fun (d : (List RegWrite × Word) × State) t =>
        let off := ((s.core e.core).window e.wg .sbuf).1 + (ea t).toNat
        let c := d.2.core e.core
        let a := atomStep f e t (bufRead c.sbuf off 4)
        ((d.1.1 ++ putWords f.u f.t t a.1, d.1.2 ||| a.2.2),
          d.2.setCore e.core { c with sbuf := match a.2.1 with | some bs => bufWrite c.sbuf off bs | none => c.sbuf })) (([], 0), s)
      TracksFrom (.atoms f) s e r.1.1 (r.2.raise e r.1.2))) ∧
  (
  (∀ old x : Word, (combine 0 old x).1 = old + x ∧ (combine 1 old x).1 = old - x ∧
    (combine 2 old x).1.toInt = min old.toInt x.toInt ∧ (combine 3 old x).1.toInt = max old.toInt x.toInt ∧
    (combine 4 old x).1.toNat = min old.toNat x.toNat ∧ (combine 5 old x).1.toNat = max old.toNat x.toNat ∧
    (combine 6 old x).1 = old &&& x ∧ (combine 7 old x).1 = old ||| x ∧ (combine 8 old x).1 = x ∧
    (combine 9 old x).1 = (if x.toNat ≤ old.toNat then 0 else old + 1) ∧
    (combine 10 old x).1 = (if old = 0 ∨ x.toNat < old.toNat then x else old - 1) ∧ (combine 15 old x).1 = old ^^^ x) ∧
  (∀ (f : FA) (e : Env) (t : Nat) (bs : List Byte), e.replay = none → f.u = false →
    let expected := e.c.readV e.tick f.t.toNat t
    let new := e.c.readV e.tick (f.t.toNat + 1) t
    ofBytesLE bs < 2 ^ 32 →
    casStep f 1 e t bs = ([BitVec.ofNat 32 (ofBytesLE bs)],
      if ofBytesLE bs = expected.toNat then some (bytesLE 4 new.toNat) else none, 0)))

/-! Traps and handlers. -/

/-- R245-R248: taking a cause that a handler of the context takes, in a coach that is not in its handler and has no older entry
outstanding, saves EXEC, the stack depth, the clause state and the resume point, sets TCAUSE, TADDR, TMASK, TPC and TRQN, leaves one
elected thread in EXEC, and continues TRAPPED at the handler; registers and memory of other coaches are those that reading the
handler's address left. A trackable instruction that is held back behind an operation that may still fault, or an access that is to
perform later (log 9), raises its flag and its coach goes on without performing it: it leaves registers and everything outside its
coach as they were, and keeps an entry with its word, its threads and status PENDING. When the cause arrives, in a running coach
with no older entry outstanding, the replay queue is the access's entry, FAULTED, and then the held ones. -/
def Obligations.TrapEntry : Prop :=
  (∀ (s s2 : State) (r : CoachRef) (w : Workgroup) (c : Coach) (cause : Cause) (addr : DWord) (tmask : Mask)
    (entries : List ReplayEntry) (tpc : DWord) (clause : Option Clause) (h : DWord),
    s.wg r.slot = some w → s.coach r = some c → c.frame = none → c.flights.any Flight.entry = false → causeSystem cause = false →
    let c1 : Coach := { c with
      tcause := cause, taddr := addr, tmask := tmask, tpc := tpc, trqn := entries.length, rq := entries.map ReplayEntry.anew,
      state := .trapped,
      frame := some { exec := c.exec, depth := c.div.length, clause := clause, resume := tpc }, pendTrap := none,
      clause := none, wait := Wait.none }
    (s.setCoach r c1).handler (siteOfSlot r.slot) w.ctx cause = (some h, s2) →
    let t := s.takeTrap r cause addr tmask entries tpc clause
    t.coach r = some { c1 with exec := maskOne (elected w.threads tmask c.exited false), pc := h } ∧
    t.mem = s2.mem ∧ ∀ q, q ≠ r → t.coach q = s2.coach q) ∧
  (∀ (m : FM) (a : FA) (b : FB) (q : FQ), ∀ i ∈ [Instr.ld32 m, .st32 m, .ldq m, .stq m, .strel m, .atom a, .bara b, .enqnb q],
    ∀ (s : State) (e e0 : Env), s.env s.cur = some e0 → e = e0.holding i → e.replay = none →
    wordCause e (s.grid e.wg.gid) (s.privileged e.site e.ctx) i = none → e.active ≠ 0 → issueStalls e i s = false →
    ∀ k : FlightKind, (k = .held ∧ heldBack e i s = true) ∨ (k = .late ∧ heldBack e i s = false ∧ issuesLate e i s = true) →
    ∃ c fl en, exec i s = .next (s.setCoach s.cur c) ∧ c.v = e.c.v ∧ c.s = e.c.s ∧ c.p = e.c.p ∧ c.exec = e.c.exec ∧
      c.flights = e.c.flights ++ [fl] ∧ fl.kind = k ∧ fl.rep = some en ∧ en.status = 0 ∧ en.mask = e.active ∧
      some en.word = encode i ∧ en.flag = e.flagOf i ∧ c.flags = (e.c.raiseFlag (e.flagOf i)).flags ∧
      (c.pc, c.clause) = ((e.c.advance e).pc, (e.c.advance e).clause)) ∧
  (∀ (s : State) (e : Env) (f : Flight) (en : ReplayEntry) (cause : Cause) (addr : DWord) (tmask : Mask) (rest : List Flight),
    let r : CoachRef := { slot := s.arg.slot, k := s.arg.k }
    s.env r = some e → e.c.state = .runnable → e.c.woken = false → e.c.pendTrap = none → e.c.frame = none → e.c.flights = f :: rest →
    e.c.rq = [] →
    f.id = s.arg.id → f.kind = .raised cause addr tmask → f.rep = some en →
    (∀ g ∈ rest, f.id < g.id ∧ g.back = true ∧ g.rep.isSome = true) →
    exec .operationComplete s = .next ((s.setCoach r { e.c with flights := [] }).formFrame r cause addr tmask
      ({ en with status := 1, faddr := addr, cause := cause } :: rest.filterMap Flight.rep)
      ({ e.c with flights := [] } : Coach).resumePoint.1 ({ e.c with flights := [] } : Coach).resumePoint.2 false))

/-- R78, R207, R250: returning from a handler restores EXEC without the threads that have exited, cuts the stack to its saved depth,
takes the exited threads out of the entries and drops those with none left, and resumes at TPC, with the clause state that was saved
when TPC is unchanged: at the clause's header when the fetch of a word had faulted before any word of the clause issued. It waits
for the handler's own entries; a TPC that is no target traps with BAD_TARGET; the return from a PREEMPT_NOTICE handler is counted
(R255). -/
def Obligations.TrapReturn : Prop :=
  ∀ (f : FS) (s : State) (e : Env) (fr : Frame), Runs (.tret f) s e → e.c.frame = some fr →
    (e.c.flights.any Flight.entry = true → exec (.tret f) s = .next s) ∧
    (e.c.flights.any Flight.entry = false → targetOk e.c.tpc = false →
      exec (.tret f) s = .next (trapAll e (.tret f) cBAD_TARGET 0 s)) ∧
    (e.c.flights.any Flight.entry = false → targetOk e.c.tpc = true →
      ∃ c, exec (.tret f) s = .next (if e.c.tcause = cPREEMPT_NOTICE then (s.setCoach s.cur c).noticeDone s.cur else s.setCoach s.cur c) ∧
        c.state = .runnable ∧ c.exec = fr.exec &&& ~~~e.c.exited ∧ c.frame = none ∧
        (c.pc, c.clause) = (match fr.clause with
          | some cl => if e.c.tpc = fr.resume then (match cl.fresh with | some h => (h, none) | none => (e.c.tpc, some cl)) else (e.c.tpc, none)
          | none => (e.c.tpc, none)) ∧
        c.div = e.c.div.drop (e.c.div.length - fr.depth) ∧
        c.rq = (e.c.rq.map (fun en => { en with mask := en.mask &&& ~~~e.c.exited, status := if en.status = 1 then 0 else en.status })).filter
          (fun en => en.mask != 0) ∧
        c.v = e.c.v ∧ c.s = e.c.s ∧ c.p = e.c.p)

/-- R206, R246: TRAP and BRK complete and then raise SW_TRAP and BREAKPOINT with their code in TADDR; in a coach outside its
handler with nothing outstanding the coach is then TRAPPED, TMASK names its active threads, and TPC is the next word. That TMASK
names the active threads is the model's choice (log 21: R206 and R248 fix the elected thread alone). -/
def Obligations.SoftwareTraps : Prop :=
  ∀ (f : FS) (s : State) (e : Env), e.c.frame = none → e.c.flights.any Flight.entry = false →
    let took (i : Instr) (cause : Cause) : Prop := Runs i s e → ∃ t c, exec i s = .next t ∧ t.coach s.cur = some c ∧
      c.state = .trapped ∧ c.tcause = cause ∧ c.taddr = f.sysreg.setWidth 64 ∧ c.tmask = e.active ∧
      c.tpc = (e.c.advance e).pc ∧ c.frame.isSome ∧ c.v = e.c.v ∧ c.s = e.c.s ∧ c.p = e.c.p
    took (.trapI f) cSW_TRAP ∧ took (.brk f) cBREAKPOINT

/-- R208, R209: in a handler, LRD reads and LWR writes a v register, the predicates or a captured operand of the thread that
its s register names; RQRD reads a word of a replay entry, RQWR clears mask bits, replaces captured s operands or removes
the entry. Outside a handler RQRD reads 0 and RQWR
has no effect: the model's choice (log 20). -/
def Obligations.HandlerAccess : Prop :=
  ∀ (f : FS) (s : State) (e : Env),
    let x := (e.c.readS e.tick (f.sysreg.toNat % 64)).toNat
    let t := x % 256 % e.wg.threads
    let n := x / 256 % 16
    let space := f.sysreg.toNat / 64 % 4
    (Runs (.lrd f) s e → Settled e (.lrd f) → Computes (.lrd f) s e true f.d.toNat 1 (fun _ =>
      (match space with
        | 0 => e.c.readV e.tick f.a.toNat t
        | 1 => (Table.getD e.c.p t 0 ||| 1).setWidth 32
        | _ => match e.c.rq[n]? with | some en => Table.getD en.vops (17 * t + f.a.toNat) 0 | none => 0).toNat)) ∧
    (Runs (.lwr f) s e → Settled e (.lwr f) → space = 1 → GoesOnBy (.lwr f) s e (fun c =>
      { c with p := Table.put 0 e.c.p t ((e.c.readS e.tick f.a.toNat).setWidth 8 &&& 0xFE) })) ∧
    (Runs (.lwr f) s e → 2 ≤ space → GoesOnBy (.lwr f) s e (fun c => match e.c.rq[n]? with
      | some en => { c with rq := listSet e.c.rq n { en with
          vops := Table.put 0 en.vops (17 * t + f.d.toNat) (e.c.readS e.tick f.a.toNat) } }
      | none => c)) ∧
    (Runs (.lwr f) s e → space = 0 → e.c.pendOf false f.d.toNat t = none → GoesOnBy (.lwr f) s e (fun c =>
      { c with v := Table.put 0 e.c.v (256 * f.d.toNat + t) (e.c.readS e.tick f.a.toNat) })) ∧
    (Runs (.rqrd f) s e → Settled e (.rqrd f) → Computes (.rqrd f) s e true f.d.toNat 1 (fun _ =>
      (match e.c.rq[(e.sop 0 f.a).toNat]? with
        | some en => if e.c.frame.isSome then en.readWord e.wg.w e.wg.threads (f.sysreg.toNat % 32) else 0
        | none => 0).toNat)) ∧
    (Runs (.rqwr f) s e → (e.c.frame = none ∨ e.c.rq[(e.c.readS e.tick f.a.toNat).toNat]? = none ∨
      (f.sysreg.toNat % 32 = 3 ∧ (e.c.readS e.tick f.d.toNat).toNat % 4 ≠ 3)) → GoesOnBy (.rqwr f) s e id) ∧
    (∀ en, Runs (.rqwr f) s e → e.c.frame.isSome → e.replay = none → e.c.rq[(e.c.readS e.tick f.a.toNat).toNat]? = some en →
      (f.sysreg.toNat % 32 = 3 → (e.c.readS e.tick f.d.toNat).toNat % 4 = 3 → GoesOnBy (.rqwr f) s e (fun c =>
        { c.lowerFlag en.flag with rq := c.rq.eraseIdx (e.c.readS e.tick f.a.toNat).toNat, trqn := c.trqn - 1 })) ∧
      (f.sysreg.toNat % 32 ≠ 3 → GoesOnBy (.rqwr f) s e (fun c =>
        { c with rq := listSet c.rq (e.c.readS e.tick f.a.toNat).toNat (en.writeWord (f.sysreg.toNat % 32) (e.c.readS e.tick f.d.toNat)) })))

/-- R35, R211, R212: with nothing outstanding, STEPO opens a step on an aligned block that may be read and written; STEPM adds to
the progress of the coach's step, STEPC closes it, and TIME writes the site's time and the wafer's time to its quad; behind an
instruction in flight each of them waits. -/
def Obligations.StepsAndTime : Prop :=
  ∀ (f : FS) (s s1 : State) (e : Env) (x : Xl),
    (∀ i ∈ [Instr.stepo f, .stepm f, .stepc f, .timeI f], Runs i s e → e.c.flights ≠ [] → exec i s = .next s) ∧
    (e.c.flights = [] →
    (Runs (.stepo f) s e → (e.sop64 0 f.d).toNat % 64 = 0 →
      s.translate (some e.core) e.site e.ctx (e.sop64 0 f.d) .both = (.ok x, s1) →
      exec (.stepo f) s = .next (finish e (s1.stepOpen e.ref e.ctx (e.sop64 0 f.d) x.pa))) ∧
    (∀ owner st, Runs (.stepm f) s e → s.findStep s.cur = some (owner, st) → exec (.stepm f) s =
      .next ((s.putStep owner s.cur (some { st with progress := st.progress + (e.sop 0 f.a).setWidth 64 })).setCoach s.cur
        (e.c.advance e))) ∧
    (Runs (.stepm f) s e → s.findStep s.cur = none → GoesOnBy (.stepm f) s e id) ∧
    (Runs (.stepc f) s e → exec (.stepc f) s = .next (finish e (s.stepClose s.cur .closed))) ∧
    (Runs (.stepc f) s e → s.findStep s.cur = none → GoesOnBy (.stepc f) s e id) ∧
    (Runs (.timeI f) s e → Computes (.timeI f) s e true f.d.toNat 4 (fun _ =>
      (s.time e.site).toNat + (s.waferTime e.site).toNat * 2 ^ 64)))

/-! Row 0x9: barriers, monitors, queues and clocks. -/

/-- R150-R152: an arrival releases, joins the phase in progress and writes its generation; the one that brings the count to its
expected value completes the phase; a wait for a completed phase acquires the phase's clock, and any other waits; BARINIT sets the
expected count, which completes the phase when the count has reached it. A count that would pass the expected one, or an expected
count below the count, is BAR_OVERFLOW, and a barrier of a scope that the kernel has not declared BAR_SCOPE_UNDECLARED. R405: at POD
scope all of them wait while the device's links carry no message. R150: completing a phase advances the generation by 1, empties the
count, and sets the release clock above every arrival's; the expected count stays. -/
def Obligations.BarrierInstructions : Prop :=
  (∀ (f : FB) (s : State) (e : Env), undeclared e f s = false →
    let sc := f.scope.toNat
    let ix := f.bix.toNat
    let k := s.release e.ref.slot sc
    let b := k.2.bar e.ref.slot sc ix
    let n := if f.cnt = 0 then (threadsOf e.wg.threads e.active).length else (e.sop 0 f.cnt).toNat
    let b1 : Bar := { b with a := b.a + BitVec.ofNat 32 n, m := clkMax b.m k.1 }
    let joined := if b1.a = b.e then k.2.completePhase e.ref.slot sc ix b1 else k.2.setBar e.ref.slot sc ix b1
    let now := s.bar e.ref.slot sc ix
    let h := e.sop 1 f.gen
    (s.barCarried sc = false → ∀ i ∈ [Instr.bara f, .barinit f], Runs i s e → exec i s = .next s) ∧
    (s.barCarried sc = false → Runs (.baraw f) s e → e.kept.joined = none → exec (.baraw f) s = .next s) ∧
    (Runs (.barw f) s e → ¬ (1 ≤ (now.g - h).toNat ∧ (now.g - h).toNat ≤ 2 ^ 31 ∧ s.barCarried sc = true) →
      WaitsIn (.barw f) s e .waitBar { Wait.none with joined := some h, bar := some (sc, ix) }) ∧
    (s.barCarried sc = true →
    (Runs (.bara f) s e → s.engineBusy e.ref sc = false → b.a.toNat + n ≤ b.e.toNat →
      TracksFrom (.bara f) s e (genWrite f b.g) joined) ∧
    (Runs (.bara f) s e → s.engineBusy e.ref sc = false → b.e.toNat < b.a.toNat + n →
      exec (.bara f) s = .next (raiseCause e (.bara f) cBAR_OVERFLOW 0 e.active e.active k.2)) ∧
    (Runs (.baraw f) s e → e.kept.joined = none → s.engineBusy e.ref sc = false → b.a.toNat + n ≤ b.e.toNat →
      exec (.baraw f) s = .next (barWait e (.baraw f) f b.g (genWrite f b.g) joined)) ∧
    (Runs (.baraw f) s e → e.kept.joined = none → s.engineBusy e.ref sc = false → b.e.toNat < b.a.toNat + n →
      exec (.baraw f) s = .next (raiseCause e (.baraw f) cBAR_OVERFLOW 0 e.active e.active k.2)) ∧
    (Runs (.barw f) s e → 1 ≤ (now.g - h).toNat → (now.g - h).toNat ≤ 2 ^ 31 →
      exec (.barw f) s = .next (finish e (s.acquire e.ref.slot sc now.rclk))) ∧
    (∀ m : Word, Runs (.barinit f) s e → m = (if f.cnt = 0 then 0 else e.sop 0 f.cnt) →
      (now.a.toNat ≤ m.toNat → (now.a = 0 ∨ now.a ≠ m) →
        TracksFrom (.barinit f) s e (genWrite f now.g) (s.setBar e.ref.slot sc ix { now with e := m })) ∧
      (now.a ≠ 0 → now.a = m → TracksFrom (.barinit f) s e (genWrite f now.g) (s.completePhase e.ref.slot sc ix { now with e := m })) ∧
      (m.toNat < now.a.toNat → exec (.barinit f) s = .next (raiseCause e (.barinit f) cBAR_OVERFLOW 0 e.active e.active s))))) ∧
  (∀ (f : FB) (s : State) (e : Env), undeclared e f s = true → e.kept.joined = none →
    ∀ i ∈ [Instr.bara f, .baraw f, .barw f, .barinit f], Runs i s e → exec i s = .next (trapAll e i cBAR_SCOPE_UNDECLARED 0 s)) ∧
  (∀ (s : State) (slot scope bix : Nat) (w : Workgroup) (b : Bar), s.wg slot = some w → 1 ≤ scope → scope ≤ 6 →
    (s.completePhase slot scope bix b).bar slot scope bix = { e := b.e, a := 0, g := b.g + 1, rclk := b.m + 1, m := 0 })

/-- R154, R155, R166: WAITC and WAITCT whose word satisfies the compare, or whose deadline has come, write the word (and
WAITCT whether it timed out) and acquire its line's clock; a SLEEP of n waits until n ns later and one of 0 yields; OCRD
reads the order clock and the agent when no synchronising operation is outstanding. -/
def Obligations.MonitorWaits : Prop :=
  (∀ (f : FW) (s s1 s3 : State) (e : Env) (x : Xl), (s.dropWaiter e.ref).translate (some e.core) e.site e.ctx (e.sop64 0 f.base) .read = (.ok x, s1) →
    (e.sop64 0 f.base).toNat % 4 = 0 → paSpace x.pa ≤ 1 → s1.tested x.pa 4 = false →
    let s2 := (s1.ccDrop e.core (x.pa / 128)).homeTouch x.pa
    let w := BitVec.ofNat 32 (ofBytesLE (s2.homeLoad x 4))
    let met := waitCompare f.cond.toNat w (e.data true f.t 0 0)
    let due := match e.kept.deadline with | some d => d | none => (s.waferTime e.site).toNat + (e.data true f.t 1 0).toNat
    s2.homeCheck e.acc x 4 (.sync true false) = (none, s3) →
    (Runs (.waitc f) s e → met = true → exec (.waitc f) s = .next (finishW e
      [{ scalar := true, reg := f.t.toNat + 1, thread := 0, val := w }] (s3.acquire e.ref.slot 5 (s3.lineClock x.pa)))) ∧
    (Runs (.waitct f) s e → (met = true ∨ due ≤ (s2.waferTime (homeSite x.pa)).toNat) →
      (s.dropWaiter e.ref).waferTime e.site = s.waferTime e.site → exec (.waitct f) s = .next (finishW e
        [{ scalar := true, reg := f.t.toNat + 2, thread := 0, val := w },
         { scalar := true, reg := f.t.toNat + 3, thread := 0, val := if met then 0 else 1 }]
        (s3.acquire e.ref.slot 5 (s3.lineClock x.pa))))) ∧
  (∀ (f : RRR) (s : State) (e : Env),
    (Runs (.sleep f) s e → e.kept.deadline = none → e.sop 0 f.a ≠ 0 →
      WaitsIn (.sleep f) s e .parkedMon { Wait.none with deadline := some ((s.time e.site).toNat + (e.sop 0 f.a).toNat) }) ∧
    (Runs (.sleep f) s e → e.kept.deadline = none → e.sop 0 f.a = 0 →
      GoesOnBy (.sleep f) s e (fun c => { c with stamp := e.clk + 1, yieldAt := e.clk + 1 })) ∧
    (Runs (.yield f) s e → GoesOnBy (.yield f) s e (fun c => { c with stamp := e.clk + 1, yieldAt := e.clk + 1 })) ∧
    (Runs (.ocrd f) s e → Settled e (.ocrd f) → e.c.flights.any (fun x => isSyncOp (opcodeOf x.word).toNat) = false →
      Computes (.ocrd f) s e true f.d.toNat 2 (fun _ => e.wg.oclk.toNat + 2 ^ 32 * e.ref.slot)))

/-- R158, R160, R161: on a queue whose block its controller has verified, by a coach that is no waiter of a queue, ENQ and
ENQNB of n elements that fit release, publish them with the release's clock and answer OK; ENQNB on a full queue answers
FULL; DEQ and DEQNB of n elements that are ready acquire, take them and answer OK.
R158, R161: publishing n elements leaves in memory a block whose TAIL has advanced and whose FREE has fallen by n, with
HEAD as it was and a matching CHECK; taking them advances HEAD and gives the slots back. -/
def Obligations.QueueTransfers : Prop :=
  (∀ (f : FQ) (s s1 s2 s3 : State) (e : Env) (x : Xl) (q : Qcb) (addrs : List Slot),
    let us := e.units f.u
    let n := us.length
    let va := e.qcbVa f
    let words (t : Nat) : List Byte := bytesLE q.esize (wordsToNat ((List.range (nregOf f)).map (fun j => e.data f.u f.t j t)))
    s.openQcb (some e.core) e.site e.ctx va .both = (.ok (x, q), s1) → s.registered e.ref = false →
    q.esize = 4 * nregOf f → n ≤ 2 ^ q.logn → 0 < n →
    let k := s2.release e.ref.slot q.scope
    let put : State := k.2.enqCommit x.pa q k.1 addrs (us.map words)
    (q.state ≠ 1 → n ≤ q.free.toNat → s1.enqAddrs (some e.core) e.site e.acc va x q n = (.ok addrs, s2) →
      s2.engineBusy e.ref q.scope = false →
      (Runs (.enq f) s e → exec (.enq f) s = .next (finishW e [statWrite f (qStat 0 n)] put)) ∧
      (Runs (.enqnb f) s e → TracksFrom (.enqnb f) s e [statWrite f (qStat 0 n)] put)) ∧
    (Runs (.enqnb f) s e → q.state ≠ 1 → q.free.toNat < n → s1.useQcb (some e.core) e.acc va x true [] = (none, s2) →
      TracksFrom (.enqnb f) s e [statWrite f (qStat 1 0)] s2) ∧
    (addrs.length = n → s1.readySlots (some e.core) e.site e.ctx x.pa q n = (.ok addrs, s2) →
      s2.useQcb (some e.core) e.acc va x true (deqParts q addrs) = (none, s3) →
      ¬ (q.state = 1 ∧ q.head + BitVec.ofNat 32 n = q.tail) →
      let s4 := s3.acquire e.ref.slot q.scope (s3.slotClocks addrs (match addrs with | l :: _ => s3.slotClock l | [] => 0))
      let ws := (List.zip us addrs).flatMap (fun p => putWords f.u f.t p.1 (natToWords (nregOf f) (ofBytesLE (s4.slotElem p.2 q.esize))))
      let took := s4.deqCommit x.pa q (s4.oclk e.ref.slot) addrs
      (Runs (.deq f) s e → exec (.deq f) s = .next (finishW e (ws ++ [statWrite f (qStat 0 n)]) took)) ∧
      (Runs (.deqnb f) s e → TracksFrom (.deqnb f) s e (ws ++ [statWrite f (qStat 0 n)]) took))) ∧
  (∀ (s : State) (pa : Nat) (q : Qcb) (k : Word) (addrs : List Slot) (elems : List (List Byte)),
    let q1 := Qcb.ofBytes ((s.enqCommit pa q k addrs elems).homeRead pa 64)
    let q2 := Qcb.ofBytes ((s.deqCommit pa q k addrs).homeRead pa 64)
    q1.tail = q.tail + BitVec.ofNat 32 elems.length ∧ q1.free = q.free - BitVec.ofNat 32 elems.length ∧ q1.head = q.head ∧
    q1.check = q1.crc ∧
    q2.head = q.head + BitVec.ofNat 32 addrs.length ∧ q2.free = q.free + BitVec.ofNat 32 addrs.length ∧ q2.tail = q.tail ∧
    q2.check = q2.crc)

/-- R162-R164: QINIT with parameters that fit makes an empty queue whose slots are all EMPTY; QCLOSE closes an open queue,
its clock raised to the release's, and wakes every waiter; QSTAT reads the block's words. -/
def Obligations.QueueControl : Prop :=
  ∀ (f : FQ) (s s1 s2 s3 : State) (e : Env) (x : Xl) (q : Qcb) (addrs : List Slot),
    let va := e.qcbVa f
    let d (j : Nat) : Word := e.data true f.t j 0
    let esize := (d 0).toNat % 256
    let logn := (d 0).toNat / 256 % 32
    let scope := (d 0).toNat / 2 ^ 16 % 8
    let dbase : DWord := d 3 ++ d 2
    let qn : Qcb :=
      { magic := qcbMagic, ctl := BitVec.ofNat 32 (esize * 65536 + logn * 256 + scope * 16), head := 0, tail := 0,
        free := BitVec.ofNat 32 (2 ^ logn), dbase := dbase, pclk := e.wg.oclk, cclk := e.wg.oclk, cwait := 0, pwait := 0,
        check := 0, crc := 0 }
    (Runs (.qinit f) s e → s.reachQcb (some e.core) e.site e.ctx va .both = (.ok x, s1) →
      d 0 &&& 0xFFF8E000 = 0 → qShapeOk esize logn = true → qScopeOk scope = true → d 1 = 0 → dbase.toNat % 64 = 0 →
      (Qcb.ofBytes (s1.homeRead x.pa 64)).magic ≠ qcbMagic →
      s1.findSlots (some e.core) e.site e.ctx qn .write 8 0 (2 ^ logn) = (.ok addrs, s2) →
      s2.useQcb (some e.core) e.acc va x true (addrs.flatMap (fun l => l.part (.sync false true) 0 4)) = (none, s3) →
      TracksFrom (.qinit f) s e [statWrite f (qStat 0 0)]
        (((addrs.foldl State.slotEmpty s3).writeQcb x.pa qn).queueWakeEv x.pa true)) ∧
    (Runs (.qclose f) s e → s.openQcb (some e.core) e.site e.ctx va .both = (.ok (x, q), s1) → q.state = 0 →
      s1.useQcb (some e.core) e.acc va x true [] = (none, s2) → s2.engineBusy e.ref q.scope = false →
      let k := s2.release e.ref.slot q.scope
      TracksFrom (.qclose f) s e [statWrite f (qStat 0 0)]
        ((k.2.writeQcb x.pa ({ q with pclk := clkMax q.pclk k.1 }.setState 1)).queueWakeAll x.pa)) ∧
    (Runs (.qstat f) s e → s.openQcb (some e.core) e.site e.ctx va .read = (.ok (x, q), s1) →
      s1.useQcb (some e.core) e.acc va x false [] = (none, s2) →
      TracksFrom (.qstat f) s e
        (putWords true f.t 0 (natToWords (nregOf f) (ofBytesLE (s2.homeRead x.pa 64))) ++ [statWrite f (qStat 0 0)]) s2)

/-! Row 0xA: the matrix instructions. -/

/-- R169, R174-R178: an MMA of any type by a full coach, with no halt, a valid accumulator and valid operands, available decks
and room in the queue, captures its operands and is accepted at the end of its core's queue, in the coach's open batch. -/
def Obligations.MatrixAcceptance : Prop :=
  ∀ (f : FX) (s s1 s2 s3 s4 : State) (e : Env) (ga gb : List GRow) (a1 b1 : MOperand) (za zb : Option (Nat × Nat × DWord)),
    let c := s.core e.core
    let acc := (e.sop 0 f.acc).toNat
    let tile := acc % 32
    let r := c.resvOf e.wg.gid
    let a := operandOf e.wg (e.quad 1 f.adesc 0) (e.quad 1 f.adesc 1) (e.quad 1 f.adesc 2) (e.quad 1 f.adesc 3)
    let b := operandOf e.wg (e.quad 5 f.bdesc 0) (e.quad 5 f.bdesc 1) (e.quad 5 f.bdesc 2) (e.quad 5 f.bdesc 3)
    let bt := openBatchOf e c
    let decks := if bt.fixed = true then bt.decks else s2.decksAvail e.core
    e.active = maskAll e.wg.threads → Table.find c.halted e.ctx = none → acc < 512 → acc / 32 % 8 = 0 →
    decks ≠ 0 → (f.dpol = 1 ∨ (f.dpol = 0 ∧ s2.epol.getLsbD 2 = false) → decks = 15) → c.mq.length < 32 →
    ∀ p ∈ [(Instr.mmaBf16 f, 0), (.mmaF16 f, 1), (.mmaE4m3 f, 2), (.mmaE5m2 f, 3), (.mmaE2m1 f, 4), (.mmaE2m1x f, 5), (.mmaI8 f, 6),
        (.mmaF32 f, 7), (.mmaF64 f, 8)],
      let op : MOp := .mma p.2 tile (bitN acc 8) f.p.toNat a1 b1
      Runs p.1 s e → (p.2 = 8 → tile % 2 = 0) →
      descOk c e.wg p.2 (e.quad 1 f.adesc 0) (e.quad 1 f.adesc 1) (e.quad 1 f.adesc 2) (e.quad 1 f.adesc 3) = true →
      descOk c e.wg p.2 (e.quad 5 f.bdesc 0) (e.quad 5 f.bdesc 1) (e.quad 5 f.bdesc 2) (e.quad 5 f.bdesc 3) = true →
      probeOp e p.2 a s = (.ok ga, s1) → probeOp e p.2 b s1 = (.ok gb, s2) →
      a.outside p.2 r.xsize = none → b.outside p.2 r.wsize = none →
      (∀ t ∈ tilesOf p.2 tile, tileIn r.asize t = true ∧ c.invalidTile e.wg.gid t = false) →
      captureOp e p.2 .xbuf a ga s2 = (a1, za, s3) → captureOp e p.2 .wbuf b gb s3 = (b1, zb, s4) →
      (∀ m : MEntry, m.op = op → m.consumed = false →
        sumOf (c.mq.map MEntry.bufPins) + m.bufPins ≤ 16 ∧ sumOf (c.mq.map MEntry.lines) + m.lines ≤ 1024) →
      exec p.1 s = .next (accepted e p.1 .engine
        (acceptM e op (s.nextFlight e.ref) (match za with | some x => some x | none => zb) { bt with decks := decks, fixed := true } s4))

/-- R168, R178, R185, R186: an accepted entry stands last in its core's queue under the next number, its tiles counted in its
batch; ACZERO and ACSCL of tiles in the reservation are accepted so, ACZERO making its tiles valid, and ACZERO of no tile has
no effect. -/
def Obligations.AccumulatorInstructions : Prop :=
  (∀ (e : Env) (op : MOp) (flight : Nat) (z : Option (Nat × Nat × DWord)) (b : Batch) (s : State),
    let c := s.core e.core
    let c1 := (acceptM e op flight z b s).core e.core
    c1.nextId = c.nextId + 1 ∧ ∃ m, c1.mq = c.mq ++ [m] ∧ m.op = op ∧ m.id = c.nextId ∧ m.slot = e.ref.slot ∧ m.k = e.ref.k ∧
      m.batch = b.num ∧ m.flight = flight ∧ m.clock = e.wg.oclk ∧ m.err = z ∧ m.consumed = false ∧
      ∃ x ∈ c1.batches, x.num = b.num ∧ x.slot = b.slot ∧ x.k = b.k ∧ ∀ t ∈ op.tiles, (Table.find x.tiles t).isSome = true) ∧
  ∀ (f : RRR) (s : State) (e : Env),
    let c := s.core e.core
    let asize := (c.resvOf e.wg.gid).asize
    let mask := e.sop 0 f.a
    let v := (e.sop 0 f.a).toNat
    (Runs (.aczero f) s e → mask = 0 → exec (.aczero f) s = .next (accepted e (.aczero f) .performed s)) ∧
    (Runs (.aczero f) s e → mask ≠ 0 → (∀ t ∈ (MOp.aczero mask).tiles, tileIn asize t = true) → c.mq.length < 32 →
      exec (.aczero f) s = .next (accepted e (.aczero f) .engine
        (acceptM e (.aczero mask) (s.nextFlight e.ref) none (openBatchOf e c) (s.setCore e.core { c with
          inval := c.inval.filter (fun x => !(x.1 == e.wg.gid && (MOp.aczero mask).tiles.contains x.2)) })))) ∧
    (∀ kind tile : Nat, Runs (.acscl f) s e → v = kind * 256 + tile → kind ≤ 2 → tile < 32 → (kind = 1 → tile % 2 = 0) →
      (∀ t ∈ (MOp.acscl kind tile (e.sop 1 f.b)).tiles, tileIn asize t = true ∧ c.invalidTile e.wg.gid t = false) → c.mq.length < 32 →
      exec (.acscl f) s = .next (accepted e (.acscl f) .engine
        (acceptM e (.acscl kind tile (e.sop 1 f.b)) (s.nextFlight e.ref) none (openBatchOf e c) s)))

/-- R181-R184: BFENCE puts a close mark in the queue, returns the open batch's number and opens the next; BWAIT on a closed
batch, with every batch up to it complete, acquires the batch's clock; MREP writes a completed batch's report, four zero words
for a number it keeps no report of, and waits for one that is closed and not complete; MQRY answers its four selectors. -/
def Obligations.MatrixBatches : Prop :=
  ∀ (f : RRR) (s : State) (e : Env),
    let c := s.core e.core
    let b := openBatchOf e c
    let v := (e.sop 0 f.a).toNat
    (Runs (.bfence f) s e → c.mq.length < 32 → ∃ g : Coach → Coach,
      let s1 := (acceptM e .close 0 none { b with closed := true, clock := e.wg.oclk } s).applyDecks e.core
      exec (.bfence f) s = .next (finishC e g (if b.err = true then s1.setCore e.core ((s1.core e.core).dropBatch b) else s1)) ∧
      ∀ d : Coach, (g d).openBatch = (if b.num ≥ 65535 then 1 else b.num + 1) ∧
        (g d).rawReg true f.d.toNat 0 = (if f.d.toNat = 0 then 0 else BitVec.ofNat 32 b.num) ∧
        (∀ r, r ≠ f.d.toNat → (g d).rawReg true r 0 = d.rawReg true r 0) ∧ (g d).v = d.v ∧ (g d).p = d.p) ∧
    (Runs (.bwait f) s e → v < 2 ^ 16 → e.c.hasClosed v = true → c.awaited e.ref.slot e.ref.k v = [] →
      exec (.bwait f) s = .next (finish e (s.acquireOpt e.ref.slot 1 ((e.c.reports.find? (fun r => r.batch == v)).map DeckReport.clock)))) ∧
    (Runs (.mrep f) s e → v % 2 ^ 16 ≠ e.c.openBatch →
      (∀ r, e.c.reports.find? (fun r => r.batch == v % 2 ^ 16) = some r → r.complete = true →
        exec (.mrep f) s = .next (track e (.mrep f) .performed false none (mrepWrites f.d.toNat (some r)) s)) ∧
      (∀ r, e.c.reports.find? (fun r => r.batch == v % 2 ^ 16) = some r → r.complete = false →
        exec (.mrep f) s = .next (track e (.mrep f) (.mrep (v % 2 ^ 16) f.d.toNat) false none (e.c.pendingRun f.d.toNat 4) s)) ∧
      (e.c.reports.find? (fun r => r.batch == v % 2 ^ 16) = none →
        exec (.mrep f) s = .next (track e (.mrep f) .performed false none
          ((List.range 4).map (fun j => { scalar := true, reg := f.d.toNat + j, thread := 0, val := 0 })) s))) ∧
    (Runs (.mqry f) s e → ∃ x y : Nat, (v ≤ 3 → exec (.mqry f) s = .next (track e (.mqry f) .performed false none
        (putRun true f.d.toNat 2 0 (x + 2 ^ 32 * y)) s)) ∧
      (v = 0 → x = (s.decksAvail e.core).toNat + (if s.epol.getLsbD 2 = true then 16 else 0) +
        (if (Table.find c.halted e.ctx).isSome = true then 32 else 0) ∧ y = c.mq.length) ∧
      (v = 1 → y = 0 ∧ ∀ t < 32, bitN x t = c.invalidTile e.wg.gid t) ∧
      (v = 2 → x = e.c.openBatch ∧ y = e.c.lastBatch) ∧
      (v = 3 → x = 1 ∧ y = 2 ^ 20))

/-- R213, R214: ERES resumes the named context's matrix queue or copy queue, writing the count it dropped; MSAVE freezes the
array and writes its image, whose first word is 1, and MREST reads an image back: one of another version traps with
MXVER_MISMATCH, and one of this version ends the freeze and, when its bytes are those that an MSAVE wrote, puts the entries
it froze first in the queue again. The count of ERES, what an
image holds and an image that no MSAVE wrote are the model's choice (logs 30, 32, 35). -/
def Obligations.EngineRecovery : Prop :=
  ∀ (f : FS) (s s1 s2 : State) (e : Env) (l : List (Target × Nat)),
    let v := (e.sop 0 f.a).toNat
    let c := s2.core e.core
    let ctx := if v / 2 ^ 16 = 0xFFFF then e.ctx else v / 2 ^ 16
    let va := e.sop64 0 f.d
    (Runs (.eres f) s e → v / 2 ^ 9 % 2 ^ 7 = 0 → v / 32 % 8 = 0 → ctx < 256 →
      (v % 32 = 0 → exec (.eres f) s = .next (finishW e (putRun true f.d.toNat 1 0 (s.eresMatrix e.core ctx (bitN v 8)).1)
        (s.eresMatrix e.core ctx (bitN v 8)).2)) ∧
      (∀ q < 16, v % 32 = q + 1 → exec (.eres f) s = .next (finishW e (putRun true f.d.toNat 1 0 (s.eresCopy e.site q ctx (bitN v 8)).1)
        (s.eresCopy e.site q ctx (bitN v 8)).2)) ∧
      (16 < v % 32 → exec (.eres f) s = .next (finishW e (putRun true f.d.toNat 1 0 0xFFFFFFFF) s))) ∧
    (Runs (.msave f) s e → probeImage e va .write s = (.ok l, s1) → checkParts e.acc .write l s1 = (none, s2) →
      ∃ t, TracksFrom (.msave f) s e [] t ∧ (t.core e.core).frozen = true ∧ t.grids = s2.grids ∧
        t.mem = (writeParts l (imageOf s.tick) (dropParts e.core l (s2.setCore e.core { c with frozen := true }))).mem ∧
        t.images = (imageOf s.tick, c.mq, c.batches, c.halted) :: s2.images ∧ ofBytesLE ((imageOf s.tick).take 4) = 1) ∧
    (Runs (.mrest f) s e → probeImage e va .read s = (.ok l, s1) → checkParts e.acc .read l s1 = (none, s2) →
      let s3 := cleanParts e.core l s2
      let image := readParts s3 l
      (ofBytesLE (image.take 4) ≠ 1 → exec (.mrest f) s = .next (trapAll e (.mrest f) cMXVER_MISMATCH 0 s3)) ∧
      (ofBytesLE (image.take 4) = 1 → ∃ t, TracksFrom (.mrest f) s e [] t ∧ (t.core e.core).frozen = false ∧ t.mem = s3.mem ∧
        ∀ x, s3.images.find? (fun y => y.1 == image) = some x → x.2.1 <+: (t.core e.core).mq))

/-! Row 0xB: the engines. -/

/-- R187-R189, R192, R193, R311: a CPY, CPYM or CPYT whose block passes every check is accepted: the first arrival puts a copy
of the block's parameters last in its queue, which has room; a later coach of the workgroup, with the same operands, joins
the copy that the first one made, by the parameters that copy holds. That the copy's clock becomes the OCLK of
the coach that arrived last is the model's choice (log 36). -/
def Obligations.CopyAcceptance : Prop :=
  ∀ (f : FC) (s s1 s2 : State) (e : Env) (params : List Byte) (pr : Probe) (m : Option CopyEntry),
    ∀ p ∈ [(Instr.cpy f, CopyKind.cpy), (.cpym f, .cpym), (.cpyt f, .cpyt)],
      let x := s.site e.site
      let q := f.qsel.toNat
      let cp := CopyParams.ofBytes params
      let dtin := tinNamed (e.sop 2 f.tin)
      let dt := if p.2 = .cpym then none else dtin
      let st := tinNamed (e.sop 3 f.aux)
      let phys (t : Option Nat) : Option Nat := t.map (fun n => e.wg.tinBase + n)
      let rows := if p.2 = .cpym then List.range cp.rows else rowsOf cp.rows e.wg.ncoach e.ref.k
      Runs p.1 s e →
      m = (if p.2 = .cpym then none else (x.copyq.flatMap Prod.snd).find? (fun c =>
        c.slot == e.ref.slot && c.seq == e.c.copies && (c.kind == .cpy || c.kind == .cpyt))) →
      copyParams e m (e.sop64 0 f.pb) s = (.ok params, s1) →
      cp.ok = true → cp.okFor p.2 = true → tinRegOk (e.sop 2 f.tin) = true → tinRegOk (e.sop 3 f.aux) = true →
      (p.2 = .cpym → dtin.isSome = true) → (dt.isSome = true → cp.dkind ≠ 0) → cp.skind ≠ 2 →
      tinFits (s1.core e.core) e.wg dt 1 cp.dkind cp.daddr (spanOf cp.rows cp.dstride cp.rowBytes) = true →
      tinFits (s1.core e.core) e.wg st 2 cp.skind cp.saddr (spanOf cp.rows cp.sstride cp.rowBytes) = true →
      windowStop e p.2 cp s1 = none → tinStop e dt = none → tinStop e st = none → abufStop e p.2 cp s1 = none →
      probeCopy e p.2 cp rows (match m with | some c => c.fmt | none => none) s1 = (.ok pr, s2) →
      x.copyHalted q e.ctx = false → (p.2 = .cpym → s2.engineBusy e.ref 5 = false) →
      let rel := if p.2 = .cpym then s2.release e.ref.slot 5 else (e.wg.oclk, s2)
      let s3 := dropParts e.core pr.dst (cleanParts e.core pr.src rel.2)
      let arr : CopyArr := { k := e.ref.k, flight := s3.nextFlight e.ref }
      let counted (t : State) : State := if p.2 = .cpym then t else t.modCoach e.ref (fun d => { d with copies := d.copies + 1 })
      (m = none → (x.queue q).length < 32 → ∃ c t, exec p.1 s = .next (accepted e p.1 .engine (counted t)) ∧
        (t.site e.site).queue q = (s3.site e.site).queue q ++ [c] ∧ c.kind = p.2 ∧ c.params = params ∧ c.pb = e.sop64 0 f.pb ∧ c.slot = e.ref.slot ∧ c.k = e.ref.k ∧
        c.ctx = e.ctx ∧ c.gid = e.wg.gid ∧ c.seq = e.c.copies ∧ c.arrivals = [arr] ∧ c.clock = rel.1 ∧
        c.dtin = (if p.2 = .cpym then dtin else phys dt) ∧ c.stin = phys st ∧ c.started = false ∧ c.done = 0 ∧ c.flying = [] ∧
        c.away = [] ∧ c.treg = e.sop 2 f.tin ∧ c.areg = e.sop 3 f.aux ∧ c.fmt = pr.fmt ∧ c.err = none) ∧
      (∀ c, m = some c → c.pb = e.sop64 0 f.pb → c.kind = p.2 → c.treg = e.sop 2 f.tin → c.areg = e.sop 3 f.aux →
        (∃ y ∈ x.queue q, y.id = c.id) →
        exec p.1 s = .next (accepted e p.1 .engine
          (counted (s3.putCopy e.site q { c with arrivals := c.arrivals ++ [arr], fmt := pr.fmt, clock := rel.1 }))))

/-- R194-R196: TININIT makes a FREE tin PENDING, or FULL for a total of 0; TINWAIT on a FULL or DRAINING tin acquires its clock
and goes on, and on a PENDING one waits; TINREL frees a FULL tin; TINKILL kills any; TINQ reads a tin's state; and an index
beyond the declared count, or one that no tin may have, traps with BUF_RANGE. -/
def Obligations.TinInstructions : Prop :=
  ∀ (f : FC) (s : State) (e : Env),
    let v := e.sop 2 f.tin
    let t := e.wg.tinBase + v.toNat
    let x := (s.core e.core).tin t
    let off := e.sopAt 0 f.pb 0
    let len := e.sopAt 0 f.pb 1
    let total := e.sop 3 f.aux
    (∀ i ∈ [Instr.tininit f, .tinwait f, .tinrel f, .tinkill f, .tinq f], Runs i s e → ¬ (v.toNat < 64 ∧ v.toNat < e.wg.tins) →
      exec i s = .next (trapAll e i cBUF_RANGE (v.zeroExtend 64) s)) ∧
    (v.toNat < 64 → v.toNat < e.wg.tins →
      (Runs (.tininit f) s e → x.state = 0 → len ≠ 0 →
        off.toNat + len.toNat ≤ (match Buf.ofKind f.qsel.toNat with | some b => ((s.core e.core).window e.wg b).2 | none => 0) →
        exec (.tininit f) s = .next (accepted e (.tininit f) .performed (s.putTin e.core t
          { Tin.free with state := if total = 0 then 2 else 1, kind := f.qsel.toNat, total := total, off := off, len := len }))) ∧
      (Runs (.tinwait f) s e → x.err = false → (x.state = 2 ∨ x.state = 3) →
        ((e.flagOf (.tinwait f)).isSome = true ∨ e.c.unsettled = false) →
        TracksFrom (.tinwait f) s e [] (s.acquire e.ref.slot (if x.wide = true then 5 else 2) x.clock)) ∧
      (Runs (.tinwait f) s e → x.err = false → x.state = 1 → e.flagOf (.tinwait f) = none →
        WaitsIn (.tinwait f) s e .waitTin { Wait.none with tin := some t }) ∧
      (Runs (.tinwait f) s e → x.err = false → x.state = 1 → (e.flagOf (.tinwait f)).isSome = true →
        exec (.tinwait f) s = .next (track e (.tinwait f) (.tinWait t) true
          (some (capture e (.tinwait f) (e.flagOf (.tinwait f)) 0 e.active 0 0 Wait.none)) [] s)) ∧
      (Runs (.tinrel f) s e → x.state = 2 →
        exec (.tinrel f) s = .next (accepted e (.tinrel f) .performed (s.putTin e.core t { x with state := 0 }))) ∧
      (Runs (.tinkill f) s e → x.state = 0 → exec (.tinkill f) s = .next (accepted e (.tinkill f) .performed s)) ∧
      (Runs (.tinkill f) s e → x.state = 1 ∨ x.state = 2 →
        exec (.tinkill f) s = .next (accepted e (.tinkill f) .performed (s.putTin e.core t { x with state := 0, killed := true }))) ∧
      (Runs (.tinkill f) s e → x.state = 3 →
        exec (.tinkill f) s = .next (accepted e (.tinkill f) .performed (s.putTin e.core t { x with killed := true }))) ∧
      (Runs (.tinq f) s e → exec (.tinq f) s = .next (track e (.tinq f) .performed false none (putRun true f.pb.toNat 2 0
        (x.state.toNat + (if x.err = true then 4 else 0) + t * 256 + e.wg.tinBase * 65536 + 2 ^ 32 * x.arrived.toNat)) s)))

/-- R198, R201-R203: QFENCE of no queue is done, and of some puts one join in each queue named; RPUT, RGET and RATOM whose block and
local memory pass join their site's operations and are queued at the endpoint chosen for them; RFLUSH is done when no remote
operation of its coach is queued, and else waits for those that are; LAUNCH enqueues its record and writes OK, answers FULL when
asked not to wait, and else waits; one that must not pass an engine's access stalls. The peer's site and the endpoint of an
operation with ORD = 1 are the model's choice (logs 89, 39). -/
def Obligations.EngineTransfers : Prop :=
  ∀ (f : FC) (s s1 s2 : State) (e : Env) (bs : List Byte) (l : List (Target × Nat)),
    let x := s.site e.site
    let v := e.sop 3 f.aux
    let va := e.sop64 0 f.pb
    let mine := (x.remotes.filter (fun o => o.slot == e.ref.slot && o.k == e.ref.k)).map RemoteOp.id
    (Runs (.qfence f) s e → v = 0 → exec (.qfence f) s = .next (accepted e (.qfence f) .performed s)) ∧
    (Runs (.qfence f) s e → v ≠ 0 → v.toNat < 2 ^ 16 → (∀ q < 16, v.getLsbD q = true → (x.queue q).length < 32) →
      ∃ t, exec (.qfence f) s = .next (accepted e (.qfence f) (.qfence x.nextId) t) ∧ ∀ q < 16,
        if v.getLsbD q = true then ∃ c, (t.site e.site).queue q = x.queue q ++ [c] ∧ c.kind = .join x.nextId (v.truncate 16) ∧
          c.slot = e.ref.slot ∧ c.arrivals = [{ k := e.ref.k, flight := s.nextFlight e.ref }]
        else (t.site e.site).queue q = x.queue q) ∧
    (∀ p ∈ [(Instr.rput f, 0), (.rget f, 1), (.ratom f, 2)], Runs p.1 s e →
      readBlock e va 32 32 s = (.ok bs, s1) → remoteOk p.2 bs = true →
      xlateParts (some e.core) e.site e.ctx (if p.2 = 0 then .read else .write) (pageParts (fieldLE bs 16 4 / 65536 + 2) (dword64 bs 0) (fieldLE bs 16 4)) s1 =
        (.ok l, s2) →
      let s3 := if p.2 = 0 then cleanParts e.core l s2 else dropParts e.core l s2
      let y := s3.site e.site
      ∃ o, exec p.1 s = .next (accepted e p.1 .engine ((s3.setSite e.site { y with
          nextId := y.nextId + 1, remotes := y.remotes ++ [o] }).queuePackets o.ep o.conn (.remote e.site o.id)
            (if p.2 = 0 then fieldLE bs 16 4 else 0))) ∧
        (o.ep, o.psite) = s3.endpointFor e.site e.ref o.peer o.ord ∧ o.rerouted = (epREROUTE s3 && s3.portLost e.site) ∧ o.pb = va ∧ o.ctx = e.ctx ∧
        o.aop = f.qsel.toNat ∧ o.flight = s3.nextFlight e.ref ∧ o.heard = false ∧ o.since = s3.now ∧ o.id = y.nextId ∧ o.kind = p.2 ∧ o.slot = e.ref.slot ∧ o.k = e.ref.k ∧ o.laddr = dword64 bs 0 ∧ o.raddr = dword64 bs 8 ∧
        o.len = fieldLE bs 16 4 ∧ o.peer = fieldLE bs 20 2 ∧ o.operand = word32 bs 24 ∧ o.clock = e.wg.oclk ∧
        o.ord = (p.2 != 2 && f.qsel.getLsbD 0)) ∧
    (Runs (.rflush f) s e → mine = [] → exec (.rflush f) s = .next (accepted e (.rflush f) .performed s)) ∧
    (Runs (.rflush f) s e → mine ≠ [] → exec (.rflush f) s = .next (accepted e (.rflush f) (.rflush mine) s)) ∧
    (Runs (.launchI f) s e → readBlock e va 64 64 s = (.ok bs, s1) →
      (∀ stat, tryLaunch e.core e.site e.acc e.ref bs s1 = .done stat s2 →
        TracksFrom (.launchI f) s e (putRun true f.tin.toNat 1 0 stat.toNat) s2) ∧
      (tryLaunch e.core e.site e.acc e.ref bs s1 = .full s2 → f.qsel.getLsbD 0 = true →
        TracksFrom (.launchI f) s e (putRun true f.tin.toNat 1 0 (qStat 1 0).toNat) s2) ∧
      (tryLaunch e.core e.site e.acc e.ref bs s1 = .full s2 → f.qsel.getLsbD 0 = false →
        exec (.launchI f) s = .next (track e (.launchI f) (.launch bs f.tin.toNat e.acc.clk) true
          (some (capture e (.launchI f) (e.flagOf (.launchI f)) 0 e.active 0 0 Wait.none)) (e.c.pendingRun f.tin.toNat 1) s2)) ∧
      (tryLaunch e.core e.site e.acc e.ref bs s1 = .busy → exec (.launchI f) s = .next s))

/-- R199, R200, R314: COLL whose block, group and ranges pass, its destination in this site's DRAM, is accepted as the site's
newest collective, this participant's index its place in the group and its own header the only one compared. -/
def Obligations.CollectiveAcceptance : Prop :=
  ∀ (f : FC) (s s1 s2 s3 s4 s5 s6 : State) (e : Env) (bs : List Byte) (gp sp dp rp : List (Target × Nat)),
    let b := CollBlock.ofBytes bs
    let g := groupWords (readParts s3 gp) b.n
    let me := memberWord s e.site
    let i := g.idxOf me
    Runs (.coll f) s e → readBlock e (e.sop64 0 f.pb) 64 64 s = (.ok bs, s1) → b.ok = true →
    probeRange e .read b.group (4 * b.n) s1 = (none, gp, s2) → xferCheck gp (cleanParts e.core gp s2) = (none, s3) → (∀ w ∈ g, w.toNat < 2 ^ 22) → (g.filter (fun w => w == me)).length = 1 →
    (∀ c ∈ (s3.site e.site).colls, c.blk.tag ≠ b.tag) → (s3.site e.site).colls.length < 16 →
    probeRange e .read b.saddr (b.srcLen i) s3 = (none, sp, s4) → probeRange e .write b.daddr (b.dstLen i) s4 = (none, dp, s5) →
    (∀ p ∈ dp, paSpace p.1.x.pa = 0 ∧ homeSite p.1.x.pa = e.site) → probeRange e .write b.record (8 + b.n) s5 = (none, rp, s6) →
    let s7 := dropParts e.core (dp ++ rp) (cleanParts e.core sp s6)
    let y := s7.site e.site
    ∃ c, exec (.coll f) s = .next (accepted e (.coll f) .engine (s7.setSite e.site { y with colls := y.colls ++ [c] })) ∧
      c.slot = e.ref.slot ∧ c.k = e.ref.k ∧ c.ctx = e.ctx ∧ c.flight = s.nextFlight e.ref ∧ c.clock = e.wg.oclk ∧ c.block = bs ∧ c.group = g ∧ c.index = i ∧ c.headers = [i] ∧
      c.mismatch = false ∧ c.shares = [] ∧ c.failed = none

/-! The events: what the device, its firmware and the world outside do between the instructions. Each statement says in which
states an event acts, and what it then does. -/

/-- R21, R70-R73, R76, R131, R246, R250-R253, R300: the events of a coach. CLAUSE_FETCH at a header that can be fetched starts its
clause, which waits for its flags, or traps with ILLEGAL_CLAUSE, or with the fault of a word that cannot be fetched; CLAUSE_WAIT_END
ends that wait. TRAP_TAKE forms the frame of a trap when the older entries are done, and ASYNC_TRAP_TAKE takes the held cause that
comes next. RESUME returns an escalated coach from its reloaded trap, or escalates it with BAD_TARGET; REFLECT enters the user
handler, or kills the grid that has none; KILL kills the grid. COACH_SLOT_FREE takes a retired coach's slot, with the last of them
the workgroup. SLICE_ISSUE_CYCLE counts a cycle of the slice and hands turns to coaches of its core. OPERATION_COMPLETE completes an
operation that is performed, and injects a late access to perform. The words of a clause that cannot be fetched, a RESUME or REFLECT
whose record cannot be read or used, the late injection, and TMASK 0 and no entry after a fetch fault are the model's choice (logs
40, 42, 9, 21), and so is the order in which stalls leave the coaches of a slice (log 47). -/
def Obligations.CoachEvents : Prop :=
  ∀ (s s1 s2 : State) (e : Env) (w : Workgroup) (c : Coach),
    let r : CoachRef := { slot := s.arg.slot, k := s.arg.k }
    (∀ h, s.env r = some e → e.atHeader = true → s.fetchWord r e.ctx e.c.pc = (.ok h, s1) →
      (∀ inner t, s1.clauseWords r e.ctx e.c.pc (hdrCNT h) = (.ok inner, t) →
        (headerBad h = false → inner = false →
          exec .clauseFetch s = .next (t.modCoach r (fun c => { c with
            pc := c.pc + 4, clause := some { header := h, next := 0, guard := 0 },
            state := if c.waiting h = true then .waitFlags else c.state }))) ∧
        ((headerBad h = true ∨ inner = true) →
          exec .clauseFetch s = .next (t.takeTrap r cILLEGAL_CLAUSE 0 0 [] e.c.pc none))) ∧
      (∀ cause va t, s1.clauseWords r e.ctx e.c.pc (hdrCNT h) = (.error (cause, va), t) →
        exec .clauseFetch s = .next (t.takeTrap r cause va 0 [] va (some { header := h, next := 0, guard := 0, fresh := some e.c.pc })))) ∧
    (∀ cl, s.coach r = some c → c.state = .waitFlags → c.clause = some cl → c.waiting cl.header = false →
      exec .clauseWaitEnd s = .next (s.setCoach r c.wake)) ∧
    (∀ p, s.coach r = some c → c.pendTrap = some p → c.flights.any Flight.entry = false →
      exec .trapTake s = .next (s.formFrame r p.cause p.addr p.mask p.entries p.tpc p.clause false)) ∧
    (∀ cause addr, s.env r = some e → e.c.inHandler = false → e.c.pendTrap = none → e.c.escalated = none → e.wg.saving = none →
      e.c.woken = false → e.c.state ≠ .retired → e.c.nextAsync = some (cause, addr, c) →
      exec .asyncTrapTake s = .next ((s.setCoach r c).asyncTrap r cause addr)) ∧
    (∀ va, s.env r = some e → e.c.escalated = some va → e.wg.saving = none →
      (e.c.flights.any Flight.entry = false → s.reload e va = (some c, s1) →
        (targetOk c.tpc = true → exec .resume s = .next (if c.tcause = cPREEMPT_NOTICE then
          (s1.setCoach r c.returnFromTrap).noticeDone r else s1.setCoach r c.returnFromTrap)) ∧
        (targetOk c.tpc = false → exec .resume s = .next ((s1.setCoach r c).escalate r cBAD_TARGET 0 false true))) ∧
      (∀ h, s.reload e va = (some c, s1) → (s1.setCoach r c).handler e.site e.ctx c.tcause = (some h, s2) →
        exec .reflect s = .next (s2.modCoach r (fun d => d.enterHandler e.wg.threads h (causeAsync c.tcause)))) ∧
      (s.reload e va = (some c, s1) → (s1.setCoach r c).handler e.site e.ctx c.tcause = (none, s2) →
        exec .reflect s = .next (s2.killGrid e.wg.gid))) ∧
    (∀ va, s.env r = some e → e.c.escalated = some va → exec .kill s = .next (s.killGrid e.wg.gid)) ∧
    (s.wg r.slot = some w → w.coach r.k = some c → c.state = .retired → c.flags = [] → w.saving = none →
      let w1 := w.setCoach r.k { c with slotIx := 255 }
      let done := w1.coaches.all (fun x => x.2.state == .retired && x.2.slotIx == 255) && !(s.setWg r.slot w1).engineWork r.slot
      exec .coachSlotFree s = .next (if done = true then (s.setWg r.slot w1).retireWg r.slot else s.setWg r.slot w1)) ∧
    (let core := s.arg.core
     let now := s.clk (siteOfCore core)
     s.arg.n < 6 → core < 2048 → Table.getD (s.core core).cycles s.arg.n 0 ≠ now + 1 →
     Table.getD (s.core core).cycles (8 + s.arg.n) 0 / 16 ≠ now / 8 → 0 < s.sliceRate core s.arg.n →
     ∃ t go, exec .sliceIssueCycle s = .next t ∧ t.issue = s.issue ++ go ∧ (∀ x ∈ go, coreOfSlot x.slot = core) ∧
       Table.getD (t.core core).cycles s.arg.n 0 = now + 1 ∧ t.mem = s.mem) ∧
    (∀ f, s.coach r = some c → c.flights.find? (fun f => f.id == s.arg.id) = some f → f.kind = .performed →
      exec .operationComplete s = .next (s.completeFlight r f.id)) ∧
    (∀ f en, s.coach r = some c → c.flights = [f] → f.id = s.arg.id → f.kind = .late → f.rep = some en → c.rq = [] →
      c.state = .runnable → exec .operationComplete s = .next (s.setCoach r { c with flights := [], rq := [en] }))

/-- R22, R150, R155, R166, R317, R405: what wakes a waiting coach. BARRIER_RELEASE, when the phase that a coach waits for has
completed and the scope's messages are carried, completes the wait with the acquire of the phase's clock. MONITOR_WAKE, when the
coach's entry has fired, MONITOR_POLL of a coach without an entry, WAITCT_DEADLINE at the deadline, QUEUE_WAKE of the earliest
waiter, when it is present and what it waits for may hold, QUEUE_POLL of a coach without an entry, and SLEEP_EXPIRY at a sleep's end
make the coach repeat its instruction. -/
def Obligations.WakeEvents : Prop :=
  ∀ (s : State) (e : Env) (c : Coach) (n : Nat) (m : MonEntry),
    let r : CoachRef := { slot := s.arg.slot, k := s.arg.k }
    let registered := s.sites.any (fun x => x.2.mon.any (fun m => m.slot == r.slot && m.k == r.k && !m.absent))
    (∀ scope bix, s.env r = some e → e.c.state = .waitBar → e.c.wait.bar = some (scope, bix) → s.barReady r e.c = true →
      s.barCarried scope = true → exec .barrierRelease s = .next (finish e (s.acquire r.slot scope (s.bar r.slot scope bix).rclk))) ∧
    (s.coach r = some c → c.state = .parkedMon →
      s.sites.any (fun x => x.2.mon.any (fun m => m.slot == r.slot && m.k == r.k && !m.absent && m.fired)) = true →
      exec .monitorWake s = .next (s.setCoach r c.wake)) ∧
    (s.coach r = some c → c.state = .parkedMon → c.wait.poll = some n →
      exec .monitorPoll s = .next ((s.addWin n offMONPOLL 1).wakeFrom r .parkedMon)) ∧
    (∀ x y, s.coach r = some c → c.state = .parkedMon →
      s.sites.findSome? (fun x => (x.2.mon.find? (fun m => m.slot == r.slot && m.k == r.k && !m.absent)).map (fun m => (x.1, m))) = some (n, m) →
      m.kind = .cmp x y true → m.deadline ≤ (s.waferTime n).toNat → exec .waitctDeadline s = .next (s.setCoach r c.wake)) ∧
    (∀ rest, (s.site (homeSite s.arg.pa)).mon.filter (fun m => m.pa == s.arg.pa && m.kind == .queue s.arg.ok) = m :: rest → m.absent = false →
      let t := if s.queueDue m s.arg.ok = true then s.wakeQueue { slot := m.slot, k := m.k } else s
      exec .queueWake s = .next (if s.arg.ok = true then t.flushAll else t)) ∧
    (s.coach r = some c → c.state = .parkedQueue → c.wait.poll = some n →
      exec .queuePoll s = .next ((s.addWin n offQPOLL 1).wakeQueue r)) ∧
    (∀ d, s.coach r = some c → c.state = .parkedMon → c.wait.deadline = some d → c.wait.poll = none → registered = false →
      d ≤ (s.time (siteOfSlot r.slot)).toNat → exec .sleepExpiry s = .next (s.setCoach r c.wake))

/-- R255-R265, R276, R277, R290-R304: the launch of grids, the placing, stealing, saving and return of workgroups, and the end of a
grid. GRID_COMPLETION of a grid whose workgroups have all retired ends it and frees its barrier slots. PREEMPT_REQUEST begins a
save, or a notice interval of at most 1000 µs; NOTICE_INTERVAL_EXPIRY begins the save at its end; WORKGROUP_SAVE saves a workgroup
when nothing of it is busy; WORKGROUP_RESTORE brings the next saved workgroup back with its group; MIGRATION saves one that is to
return on a given core, with those that share typed buffers with it. LAUNCH_RECORD_TAKE takes a record from the queue whose turn it
is, checks it, and makes it a grid, a grid that waits for barrier slots, or a refused one. WORKGROUP_START starts the next workgroup
of the grid that is first in order, on the core that the rules choose, or keeps it for a site that has not started;
STAGGER_REGION_START starts a region 200 ns after the one before. STEAL_REQUEST takes half of a victim's ranges, counts a miss, or
asks the quad; STEAL_RETRY_WAIT ends a wait. PRIORITY_PREEMPT and QUANTUM_EXPIRY ask workgroups to leave; BARRIER_PARK and WAIT_PARK
begin a parking. SBUF_LEND lends the highest free unit, and SBUF_RECLAIM returns one that a placement needs. The form of the LFSR
and when it steps, the empty answers, the held workgroups, the round of the launch queues, the choice of victims, the group that
returns and the order within a cycle are the model's choice (logs 46, 121, 44, 45, 48, 102, 103). -/
def Obligations.SchedulingEvents : Prop :=
  ∀ (s s1 s2 s5 : State) (g : Grid) (w : Workgroup) (room : Room),
    let slot := s.arg.slot
    let gid := s.arg.id
    let core := s.arg.core
    (s.grid gid = some g → g.count ≤ g.retired →
      ∃ t, exec .gridCompletion s = .next t ∧ t.grid gid = none ∧ ∀ x ∈ t.given, x.2.2.1 ≠ gid) ∧
    (s.wg slot = some w → w.leaving = false → s.arg.n = 0 → exec .preemptRequest s = .next (s.beginSave slot 0)) ∧
    (s.wg slot = some w → w.leaving = false → s.arg.n ≠ 0 → ∃ t x, exec .preemptRequest s = .next t ∧ t.wg slot = some x ∧
      x.noticeEnd = some (s.now + 1000 * min s.arg.n 1000)) ∧
    (∀ d, s.wg slot = some w → w.noticeEnd = some d → (d ≤ s.now ∨ w.noticeLeft = []) →
      exec .noticeIntervalExpiry s = .next (s.beginSave slot 0)) ∧
    (s.wg slot = some w → w.saving.isSome = true → (s.coachRefs slot).foldl State.settleTrap s = s2 →
      (s2.coachRefs slot).foldl (State.stopCoach (decide (w.parkTo = 2))) s2 = s1 →
      ((s1.saveBusy slot = true ∨ s1.retiring (coreOfSlot slot) = true) → exec .workgroupSave s = .next s1) ∧
      (∀ w1 w2 x, s1.saveBusy slot = false → s1.retiring (coreOfSlot slot) = false → s1.wg slot = some w1 → s1.grid w.gid = some x →
        (s1.coachRefs slot).foldl State.restCoach s1 = s5 → s5.wg slot = some w2 →
        exec .workgroupSave s = .next (s5.saveNow slot w2 x w1.states))) ∧
    (∀ v rooms, s.grid gid = some g → s.saved.find? (fun v => v.gid == gid && v.index == s.arg.n) = some v → s.canReturn v core = some rooms →
      s.admission g.ctx = some s1 → s.firstInOrder gid g = true → (s.nextReturn gid g).map SavedWg.index = some v.index →
      s.departing core = false →
      s.bestCore ((coresOf (siteOfCore core)).filter (fun c => (s.canReturn v c).isSome)) = some core →
      exec .workgroupRestore s = .next (s1.restoreGroup core g gid (s.groupOf v) rooms)) ∧
    (s.wg slot = some w → w.leaving = false → core ≠ coreOfSlot slot → s.grid w.gid = some g → core < 2048 →
      g.siteSet.contains (siteOfCore core) = true → s.powered (siteOfCore core) = true →
      exec .migration s = .next ((s.coreMates slot w.gid g).foldl (fun t n => (t.beginSave n 0).modWg n (fun x => { x with moveTo := some core })) s)) ∧
    (let n := s.arg.site
     let c := s.arg.n
     let m := s.arg.m
     let key := queueKey n c m
     let rq := s.readyQueues n
     (∀ j i, 6 ≤ s.stage → s.waitRecs.find? (fun w => w.1 == key) = some (j, i, g) → s.waferFree g = true → exec .launchRecordTake s =
       .next ({ s with waitRecs := s.waitRecs.filter (fun w => !(w.1 == key)) }.addGrid i g)) ∧
     (∀ s0 x q a me, 6 ≤ s.stage → s.waitRecs.find? (fun w => w.1 == key) = none → c < 256 →
       rq.find? (fun q => q.1 == c && q.2.1 == m) = some me → nextQueue (s.site n).served rq = some me → s.admission c = some s0 →
       s0.openQcb none n c (s0.win n (offLAUNCH c m)) .both = (.ok (x, q), s1) →
       s1.deqAddrs none n (Acc.device (32 * n) c) (s0.win n (offLAUNCH c m)) x q 1 = (.ok [a], s2) →
       let s3 := s2.deqCommit x.pa q (s2.site n).h [a]
       let served := (s.site n).served.filter (fun x => decide (x ≠ 16 * c + m)) ++ [16 * c + m]
       let chk := (s3.setSite n { s3.site n with served := served }).checkRecord n c (s0.win n (offLAUNCH c m)) (s2.slotElem a 64) (s2.slotClock a)
       (chk = (g, none, s5) →
         let s6 := s5.nameGrid g.ctx
         exec .launchRecordTake s = .next (if s6.waferFree g = true then s6.addGrid s5.gidNext g
           else { s6 with waitRecs := s6.waitRecs ++ [(key, s5.gidNext, g)] })) ∧
       (∀ st, chk = (g, some st, s5) → exec .launchRecordTake s = .next (s5.refuse g st)))) ∧
    (s.grid gid = some g → g.status = none → s.firstInOrder gid g = true → s.returnWaits gid g = false → s.admission g.ctx = some s1 →
      (g.tree = false → s1.heldReady gid g = none → g.nextIndex < g.count → ∀ n, g.cyclic.find? (s1.siteRoom gid g) = some n →
        let g1 := { g with nextIndex := g.nextIndex + 1, nextSite := n + 1 }
        (g.siteStarted n = false → exec .workgroupStart s = .next (s1.setGrid gid { g1 with held := g.held ++ [(g.nextIndex, n)] })) ∧
        (∀ best, g.siteStarted n = true → s1.bestCore (s1.roomy n gid g) = some best → s.departing best = false → s1.roomOn best gid g = some room →
          exec .workgroupStart s = .next (s1.startWg best gid g.nextIndex g1 room))) ∧
      (∀ h best, g.tree = false → s1.heldReady gid g = some h → s1.bestCore (s1.roomy h.2 gid g) = some best → s.departing best = false →
        s1.roomOn best gid g = some room → exec .workgroupStart s =
          .next (s1.startWg best gid h.1 { g with held := g.held.filter (fun x => decide (x ≠ h)) } room)) ∧
      (∀ q, g.tree = true → s1.rangeHead core gid = some q → s1.roomOn core gid g = some room → g.siteStarted (siteOfCore core) = true →
        g.siteSet.contains (siteOfCore core) = true → s.departing core = false →
        let rest := if q.lo + 1 < q.hi then { q with lo := q.lo + 1 } :: (s1.core core).ranges.drop 1 else (s1.core core).ranges.drop 1
        exec .workgroupStart s = .next ((s1.setCore core { s1.core core with ranges := rest }).startWg core gid q.lo g room))) ∧
    (s.grid gid = some g → g.stagger = true → g.regions.contains s.arg.n = false → g.regionList.contains s.arg.n = true →
      g.t0 + 200 * (g.regionList.takeWhile (fun r => decide (r ≠ s.arg.n))).length ≤ (s.time g.site).toNat →
      exec .staggerRegionStart s = .next (s.setGrid gid { g with regions := g.regions ++ [s.arg.n] })) ∧
    (let c := s.core core
     let l := lfsrStep c.lfsr
     let v := l.toNat % 31
     let victim := 32 * siteOfCore core + (if v < core % 32 then v else v + 1)
     let s' := (s.setCore core { c with lfsr := l }).startHead victim
     c.ranges = [] → c.stealWait = false → core < 2048 →
     s.grids.any (fun g => g.2.tree && g.2.status.isNone && (s.roomOn core g.1 g.2).isSome) = true →
     (31 ≤ c.misses → exec .stealRequest s = .next (s.askQuad core)) ∧
     (c.misses < 31 → s'.unstartedOf (siteOfCore core) [victim] ≤ 1 → exec .stealRequest s = .next
       (s'.setCore core { c with lfsr := l, misses := c.misses + 1, stealWait := decide (c.misses + 1 < 31) })) ∧
     (c.misses < 31 → 1 < s'.unstartedOf (siteOfCore core) [victim] → exec .stealRequest s = .next (s'.takeHalf [victim] core))) ∧
    (exec .stealRetryWait s = .next (s.setCore core { s.core core with stealWait := false })) ∧
    (∀ l, s.grid gid = some g → s.starved gid g = true → s.preemptPlan gid g = some l → exec .priorityPreempt s = .next (s.later
      (l.map (fun v => ⟨.preemptRequest, { EvArgs.zero with slot := v, n := (match s.wg v with | some w => s.noticeOf w | none => 0) }⟩)))) ∧
    (s.wg slot = some w → (∃ x ∈ s.grids, s.sliceOver x.2 (slot, w) = true ∧ s.starved x.1 x.2 = true ∧ s.preemptPlan x.1 x.2 = none ∧
        (s.sliceVictims x.2).head?.map Prod.fst = some slot) →
      exec .quantumExpiry s = .next (s.later [⟨.preemptRequest, { EvArgs.zero with slot := slot }⟩])) ∧
    (∀ v, s.grid gid = some g → s.unstarted gid g = true → s.starved gid g = true → s.parkingNow gid = false →
      (s.lowestWg gid Workgroup.parkable = some v → exec .barrierPark s = .next (s.beginSave v 1)) ∧
      (s.lowestWg gid Workgroup.parkable = none → s.lowestWg gid Workgroup.waitParkable = some v →
        exec .waitPark s = .next (s.beginSave v 2))) ∧
    ((s.freeUnits core).getLast? = some s.arg.n → core < 2048 → s.tinsIn core s.arg.n = false →
      exec .sbufLend s = .next (s.setCore core { s.core core with lent := (s.core core).lent ++ [s.arg.n] })) ∧
    (s.needsUnit core s.arg.n = true → exec .sbufReclaim s = .next (s.reclaim core s.arg.n))

/-- R230, R231, R236, R270, R284-R287, R367, R374, R375, R380: the upkeep of a site. HORIZON_REPORT spreads a site's largest clock
and raises its lagging workgroups; AGE_SWEEP ages the lines of a slice; PAGE_WALK translates the page of the word that a coach of a
core fetches next, which both TLBs miss; ARM and DISARM of a region, asked for by its register, set and clear it; REX_DEADLINE drops
the lines of a region whose deadline has passed and changes no other byte; TLBINV of a page, a context, its region descriptors or
all drops what it names from every site and core and reads DONE unless pins hold it; REGISTER_WRITE reaches its register;
ECC_SELF_TEST and TARGETED_SELF_TEST_END begin and end a unit's test, an uncorrectable error spoiling 16 bytes of memory or of a
buffer; DRAM_EVACUATE begins to move a hot bank to the free spare of the coolest layer, and BACK brings it home. The banks'
addresses, the walk that is an event, the regions' zeroing, the pins that hold a command, the chunks and the layer of an evacuation,
and the units and outcomes of a test are the model's choice (logs 26, 106, 68, 69, 70, 71, 105, 115, 125). -/
def Obligations.UpkeepEvents : Prop :=
  ∀ (s : State),
    let n := s.arg.site
    let i := s.arg.n
    (∀ k, s.siteClock n = some k → n < 64 → ∃ t, exec .horizonReport s = .next t ∧ t.mem = s.mem ∧
      (∀ m < 64, (t.site m).h = clkMax (s.site m).h k) ∧
      ∀ slot w, s.wg slot = some w → t.wg slot = some (if siteOfSlot slot = n then { w with oclk := raiseLag (t.site n).h w.oclk } else w)) ∧
    (∃ t, exec .ageSweep s = .next t ∧ t.mem = s.mem ∧ ∀ key m, Table.find s.lines key = some m → Table.find t.lines key =
      some (if homeSite (key * 128) = n ∧ homeSlice (key * 128) = i then m.aged (s.site n).h else m)) ∧
    (s.arg.core < 2048 → s.fetching s.arg.core i s.arg.value = true → tlbFind (s.core s.arg.core).tlb i s.arg.value = none →
      tlbFind (s.site (siteOfCore s.arg.core)).tlb i s.arg.value = none → exec .pageWalk s =
        .next (s.translate (some s.arg.core) (siteOfCore s.arg.core) i s.arg.value Need.exec).2) ∧
    (n < 64 → i < 16 → s.rexPast n i = true → (s.site n).expired.getLsbD i = false → ∃ t, exec .rexDeadline s = .next t ∧
      (t.site n).expired.getLsbD i = true ∧ (∀ e ∈ t.lines, s.inRex n i (128 * e.1) = false ∧ e ∈ s.lines) ∧
      ∀ a, (∀ e ∈ s.lines, s.inRex n i (128 * e.1) = true → a / 128 ≠ e.1) → Memory.read t.mem a = Memory.read s.mem a) ∧
    (s.rexRuns n i 1 = true → s.rexBase n i % 65536 = 0 → s.rexLen n i % 65536 = 0 →
      (∀ j < 16, j ≠ i → (s.site n).armed.getLsbD j = true → rangesMeet (s.rexBase n i) (s.rexLen n i) (s.rexBase n j) (s.rexLen n j) = false) →
      ∃ t, exec .arm s = .next t ∧ (t.site n).armed.getLsbD i = true ∧ (t.site n).expired.getLsbD i = false ∧
        t.win n (offREX i + 16) = s.time n + 48000000 ∧ (t.win n offREXCMD).getLsbD 1 = true ∧ (s.rexPast n i = false → t.mem = s.mem)) ∧
    (s.rexRuns n i 2 = true → ∃ t, exec .disarm s = .next t ∧ (t.site n).armed.getLsbD i = false ∧
      (t.win n offREXCMD).getLsbD 1 = true ∧ (s.rexPast n i = false → t.mem = s.mem)) ∧
    (∀ v : DWord,
     let c := fld v 8 8
     let va := v.toNat / 65536 * 65536
     let here (e : TlbEntry) : Prop := e.ctx = c ∧ va / 2 ^ pageShift e.level = e.vpn
     (s.invRuns n 0 = some v → ∃ t, exec .tlbinvPage s = .next t ∧ (∀ m, ∀ e ∈ (t.site m).tlb, ¬ here e) ∧ (∀ m, ∀ e ∈ (t.core m).tlb, ¬ here e) ∧
       (s.pinned (some c) (fun p => va / 2 ^ pageShift p.1 == p.2) = false → (t.win n offTLBINV).getLsbD 1 = true)) ∧
     (s.invRuns n 1 = some v → ∃ t, exec .tlbinvContext s = .next t ∧ (∀ m, ∀ e ∈ (t.site m).tlb, e.ctx ≠ c) ∧ (∀ m, ∀ e ∈ (t.core m).tlb, e.ctx ≠ c) ∧
       (∀ m, ∀ e ∈ (t.site m).frd, e.1 ≠ c) ∧ (s.pinned (some c) (fun _ => true) = false → (t.win n offTLBINV).getLsbD 1 = true)) ∧
     (s.invRuns n 2 = some v → ∃ t, exec .tlbinvFrd s = .next t ∧ (∀ m, ∀ e ∈ (t.site m).frd, e.1 ≠ c) ∧
       (s.pinnedCoded c = false → (t.win n offTLBINV).getLsbD 1 = true)) ∧
     (s.invRuns n 3 = some v → ∃ t, exec .tlbinvAll s = .next t ∧ (∀ m, (t.site m).tlb = [] ∧ (t.site m).frd = [] ∧ (t.core m).tlb = []) ∧
       (s.pinned none (fun _ => true) = false → (t.win n offTLBINV).getLsbD 1 = true))) ∧
    (n < 64 → s.arg.pa % 8 = 0 → s.arg.pa < 2 ^ 44 → exec .registerWrite s = .next (Ssc.write s n s.arg.pa s.arg.value)) ∧
    (n < 64 → 1 ≤ i → i ≤ 3 → s.arg.m ≤ 5 → (s.arg.m ≤ 1 → paSpace s.arg.pa ≤ 1 ∧ homeSite s.arg.pa = n) →
      (s.arg.m = 2 → siteOfCore s.arg.core = n ∧ (Buf.ofKind s.arg.k).isSome = true) →
      ∃ t, exec .eccSelfTest s = .next t ∧ (t.site n).testing.contains (s.arg.m, s.eccUnit) = true ∧
      (i = 2 → s.arg.m ≤ 1 → t.poison.contains (s.arg.pa / 16) = true) ∧
      (i = 2 → s.arg.m = 2 → (t.core s.arg.core).bad.contains (s.arg.k, s.arg.pa / 16) = true)) ∧
    (n < 64 → (s.site n).testing.contains (s.arg.m, s.arg.p) = true →
      (s.arg.m = 4 → (s.core (32 * n + s.arg.p / 4 % 32)).deckOpen (s.arg.p % 4) = false) →
      ∃ t, exec .targetedSelfTestEnd s = .next t ∧ (t.site n).testing.contains (s.arg.m, s.arg.p) = false) ∧
    (∀ l, n < 64 → i < 128 → s.tDram n ≤ s.arg.value.toNat → (s.site n).spare.any (fun e => e.2 == i) = false → s.epol.getLsbD 3 = true →
      (s.site n).evac = none → (s.win n offEVACCTL).getLsbD 1 = true → coolestLayer (s.site n).spare s.arg.words = some l → s.bankExempt n i = false →
      (l < 8 ∧ Table.find (s.site n).spare l = none ∧ ∀ j < 8, Table.find (s.site n).spare j = none →
        (s.arg.words.getD l 0).toNat ≤ (s.arg.words.getD j 0).toNat ∧ ((s.arg.words.getD l 0).toNat = (s.arg.words.getD j 0).toNat → l ≤ j)) ∧
      ∃ t, exec .dramEvacuate s = .next t ∧ (t.site n).evac = some { bank := i, layer := l, chunk := 0 } ∧ (t.site n).spare = (s.site n).spare ∧
        (t.win n offEVACCTL).getLsbD 1 = false ∧ t.mem = s.mem) ∧
    (∀ v, n < 64 → s.cmd n offEVACCTL = some v → ∃ t, exec .back s = .next t ∧ (t.win n offEVACCTL).getLsbD 1 = true ∧
      ∀ e ∈ (t.site n).spare, e.2 ≠ fld v 4 8)

/-- R4, R9, R368, R371-R373, R378-R383: power, bring-up, the host's ports and what the host asks for. POWER_ON_RESET leaves memory
and workgroups empty, keeps the firmware slot and the fused values and removes the sites' power; BRINGUP_STAGE passes to the next
stage, stage 1 powering one region each ms, stage 2 setting the stripe partition, stage 4 enabling the endpoints, or stops with the
failure's site and no port up; FIRMWARE_UPDATE writes a verified image; THERMAL_TRIP takes a hot site's power; TOFF_UPDATE writes a
measurement within 2 ns of the counter's offset; OZRIK_LINK_TRAIN brings a port up, after a failure port 0 for management only;
HOST_ACCESS writes the device's memory or the host's, and a read of a line marks its port as a sharer; HQENQ enqueues the host's
record and writes its code; ATTCMD leaves the report in its buffer; CHECKPOINT with nothing resident copies the DRAM and the saved
work to the pool, and CHECKPOINT_RESTORE takes them back. The empty memory, what a power-on reset keeps, the registers it clears,
the stripe's and the region's number, the image's check, the code of HQENQ before service, the sharer bit, the report's place and
the pool in one step are the model's choice (logs 1, 63, 4, 64, 129, 58, 124, 66, 122, 67). -/
def Obligations.HostEvents : Prop :=
  ∀ (s : State),
    let n := s.arg.site
    let pa := s.arg.pa
    (∃ t, exec .powerOnReset s = .next t ∧ t.mem = [] ∧ t.wgs = [] ∧ t.epol = State.reset.epol ∧ t.fwImage = s.fwImage ∧
      t.fuseMin = s.fuseMin ∧ t.fuseKey = s.fuseKey ∧ t.serial = s.serial ∧ t.stage = 0 ∧ ∀ m < 64, t.powered m = false) ∧
    (s.failBit = false → s.stage < 6 → (if s.stage = 0 then s.imageOk s.fwImage s.fwSig = true else s.arg.ok = true) →
      (s.stage = 1 → s.powerAt ≤ s.now) → (s.stage = 5 → ∃ p ∈ s.ports, p.2.up = true) →
      ∃ t, exec .bringupStage s = .next t ∧ t.failBit = false ∧ t.stage = (if s.stage = 1 ∧ s.regionsOn + 1 < 16 then 1 else s.stage + 1) ∧
        (s.stage = 1 → t.regionsOn = s.regionsOn + 1 ∧ t.powerAt = s.now + 1000000) ∧ (s.stage ≠ 1 → t.regionsOn = s.regionsOn) ∧
        t.stripe = (if s.stage = 2 then min dramBytes (s.arg.n * 2 ^ 26) else s.stripe) ∧
        (s.stage = 4 → ∀ m < 64, (t.win m offEPCFG).getLsbD 0 = true)) ∧
    (s.failBit = false → s.stage < 6 → (if s.stage = 0 then s.imageOk s.fwImage s.fwSig = false else s.arg.ok = false) →
      exec .bringupStage s = .next { s with failBit := true, failSite := n, ports := [] }) ∧
    (exec .firmwareUpdate s = .next (if s.imageOk s.arg.data s.arg.sig = true then { s with fwImage := s.arg.data, fwSig := s.arg.sig } else s)) ∧
    (n < 64 → s.tTrip n ≤ s.arg.n → s.powered n = true → (∀ x ∈ s.wgs, siteOfSlot x.1 ≠ n) → ∃ t, exec .thermalTrip s = .next t ∧
      (t.site n).powered = false ∧ t.failBit = true ∧ t.failSite = (if s.failBit = true then s.failSite else n)) ∧
    (n < 64 → ∃ m : Int, (s.site n).skew - 2 ≤ m ∧ m ≤ (s.site n).skew + 2 ∧
      exec .toffUpdate s = .next { s with toff := Table.insert s.toff n (BitVec.ofInt 32 m) }) ∧
    (s.arg.n < 2 → (s.failBit = true → s.stage = 6) → 5 ≤ s.stage → ∃ t, exec .ozrikLinkTrain s = .next t ∧ Table.find t.ports s.arg.n =
      some { up := [32, 16, 8].contains s.arg.m, gen3 := s.arg.ok, lanes := s.arg.m, mgmt := false }) ∧
    (s.arg.n = 0 → s.failBit = true → s.stage < 6 → exec .ozrikLinkTrain s = .next
      { s with mgmtBit := [32, 16, 8].contains s.arg.m, ports := [(0, { up := [32, 16, 8].contains s.arg.m, gen3 := false, lanes := s.arg.m, mgmt := true })] }) ∧
    (s.portCarries s.arg.n pa = true → pa < 2 ^ 52 → pa % 128 + s.arg.data.length ≤ 128 →
      (paSpace pa ≤ 1 → s.paOk pa = true → s.arg.ok = true →
        ∃ t, exec .hostAccess s = .next t ∧ ∀ j (h : j < s.arg.data.length), Memory.read t.mem (pa + j) = s.arg.data[j]) ∧
      (paSpace pa ≤ 1 → s.paOk pa = true → s.arg.ok = false → ∃ t, exec .hostAccess s = .next t ∧ t.mem = s.mem ∧
        (s.arg.n < 2 → (t.line pa).sharers.getLsbD s.arg.n = true)) ∧
      (paSpace pa = 2 → s.arg.ok = true → exec .hostAccess s = .next { s with mem := Memory.writeN s.mem pa s.arg.data })) ∧
    (∀ v : DWord, s.cmd n offHQENQ = some v →
      let raw := v &&& 0x0000FFFFFFFFFFC0
      ∀ r, s.hostEnqueue n (fld v 48 8) (raw ||| (if raw.getLsbD 47 = true then 0xFFFF000000000000 else 0)) = some r →
      ∃ t, exec .hqenq s = .next t ∧ t.mem = r.2.mem ∧ (t.win n offHQENQ).getLsbD 62 = true ∧ fld (t.win n offHQENQ) 56 4 = r.1) ∧
    ((s.win 0 offATTCMD).getLsbD 0 = false → pa % 512 = 0 → (s.win 0 offATTCMD).toNat % 2 ^ 52 = pa → paSpace pa ≤ 2 → s.paOk pa = true →
      ∃ t, exec .attcmd s = .next t ∧ (t.win 0 offATTCMD).getLsbD 0 = true ∧ t.homeRead pa 512 = s.attReport (s.homeRead pa 48)) ∧
    (s.ckptRuns false = true → s.wgs = [] → ∃ t, exec .checkpoint s = .next t ∧ t.mem = s.mem ∧ (t.win 0 offCKPTCTL).getLsbD 1 = true ∧
      ((t.win 0 offCKPTCTL).getLsbD 3 = !(s.arg.ok && s.poolReached s.ckptPool)) ∧
      (s.arg.ok = true → s.poolReached s.ckptPool = true → ∃ c, Table.find t.pools s.ckptPool = some c ∧ c.mem = dramOf s.mem ∧ c.saved = s.saved)) ∧
    (∀ c, s.ckptRuns true = true → s.wgs = [] → Table.find s.pools s.ckptPool = some c → s.arg.ok = true → s.poolReached s.ckptPool = true →
      ∃ t, exec .checkpointRestore s = .next t ∧ (t.win 0 offCKPTCTL).getLsbD 1 = true ∧ t.saved = c.saved ∧ t.grids = c.grids ∧
        t.wideBars = c.wideBars ∧ ∀ m, (t.core m).cc = [] ∧ (t.core m).tlb = [] ∧ (t.site m).tlb = []) ∧
    (s.ckptRuns true = true → s.wgs = [] → s.poolReached s.ckptPool = false → ∃ t, exec .checkpointRestore s = .next t ∧ t.mem = s.mem ∧
      (t.win 0 offCKPTCTL).getLsbD 1 = true ∧ (t.win 0 offCKPTCTL).getLsbD 3 = true)

/-- R61, R177-R181, R190-R192, R198-R202, R311-R315, R323, R335, R367: what the engines do with what they have accepted. MATRIX_PASS
performs the queue's next entry or a pass of it; MMA_COMPLETE, BATCH_COMPLETE and MATRIX_RUNTIME_ERROR end an entry, a batch, an
entry that has met an error; MMA_GATE_START reads operands whose tins are FULL. COPY_START starts a copy or passes a join;
COPY_CHUNK moves the next chunk of the queue whose turn it is, which may be an evacuation's, or the chunk that has travelled by
optics; CPYM_DELIVER lands the packet for a core that was injected first, and CPYM_ACK ends a copy all of whose packets have landed;
COPY_RUNTIME_ERROR halts the queue for the copy's context. COLL_HEADER_EXCHANGE compares headers, COLL_CHUNK sends a chunk or lands
a piece all of whose packets are acknowledged, COLL_COMPLETE writes the result when everything has been sent and has arrived, or
ends with the mismatch or the error. REMOTE_ACK ends an operation, or fails it when it is refused; RMT_TIMEOUT fails one of which no
packet has been acknowledged in time. One pass a turn, the place of a halt, the coach of a record and its clock, what a chunk reads
at once, its route and its flags, what a collective hears of the others, the order of a collective's end, the time at which a remote
operation's local side is done, and the chunks of an evacuation are the model's choice (logs 28, 29, 36, 27, 119, 86, 87, 83, 38,
39, 70, 91, 130). -/
def Obligations.EngineEvents : Prop :=
  ∀ (s s1 s2 : State) (m : MEntry) (c : CopyEntry) (k : Coll) (o : RemoteOp),
    let core := s.arg.core
    let n := s.arg.site
    let q := s.arg.n
    let tag : Word := s.arg.value.truncate 32
    ((s.core core).frozen = false → s.nextEntry core (s.core core).mq [] = some m → exec .matrixPass s = .next (s.entryTurn core m)) ∧
    (s.entryById core s.arg.id = some m →
      (∀ op tile zero p x y, m.op = .mma op tile zero p x y → m.consumed = true →
        exec .mmaComplete s = .next ((s.dropEntry core m.id).completeFlight m.ref m.flight)) ∧
      (∀ kd cause addr, s.entryFault core m = some (kd, cause, addr) → exec .matrixRuntimeError s = .next (s.matrixError core m kd cause addr)) ∧
      (m.op = .close → m.consumed = true → exec .batchComplete s = .next (s.completeBatch core m)) ∧
      (∀ op tile zero p x y x1 y1, m.op = .mma op tile zero p x y → m.err = none →
        gateOperand s core m op .xbuf x = (x1, none, s1) → gateOperand s1 core m op .wbuf y = (y1, none, s2) →
        exec .mmaGateStart s = .next (s2.putEntry core { m with op := .mma op tile zero p x1 y1, err := none }))) ∧
    ((s.site n).headOf q = some c →
      (c.kind = .cpym ∨ (∃ w, s.wg c.slot = some w ∧ c.arrivals.length = w.ncoach ∧ (c.kind = .cpy ∨ c.kind = .cpyt)) →
        (s.wg c.slot).isSome = true → c.started = false → c.paused = false →
        exec .copyStart s = .next (match c.stin with
          | some t => (s.putCopy n q { c with started := true }).tinDrain c.core t
          | none => s.putCopy n q { c with started := true })) ∧
      (∀ id qs, c.kind = .join id qs → joinReady (s.site n) id qs = true → exec .copyStart s = .next
        (((List.range 16).foldl (fun t i => if qs.getLsbD i = true then t.dropCopy n i c.id else t) s).endFlights c)) ∧
      (∀ fl, s.arg.ok = false → q < 16 → s.engineTurn n (q / 4) = some q → (c.kind = .cpy ∨ c.kind = .cpyt) →
        let u := s.setSite n { s.site n with turn := Table.insert (s.site n).turn (q / 4) (q % 4) }
        let len := min 4096 (c.total - c.done)
        let c1 := { c with done := c.done + len }
        (c.abufPieces (c.chunkAt c.done)).flatMap (fun a => (tilesAt a.1 a.2).filterMap (fun t =>
          if (u.core c.core).invalidTile c.gid t = true then some (max a.1 (t * tileBytes)) else none)) = [] →
        (∀ t, u.chunkSite n c c.done = some t → u.byOptics n t = false) →
        (∀ t, c.dtin = some t → ((u.core c.core).tin t).state ≠ 0) →
        (c.par.dkind = 1 → u.inFlight n (q / 4) (fun p => p.core == c.core) = []) →
        c1.movePieces n (c1.chunkAt c.done) u = (.ok fl, s1) →
        exec .copyChunk s = .next ((s1.orStatus n c.ctx fl).chunkDone n q c1 len)) ∧
      (c.kind = .cpym → c.started = true → c.err = none → c.total ≤ c.done → c.flying = [] → exec .cpymAck s = .next (s.endCopy n q c))) ∧
    (∀ e, s.arg.ok = false → q = 16 → s.engineTurn n 3 = some 16 → (s.site n).evac = some e → ∃ t, exec .copyChunk s = .next t ∧ t.mem = s.mem ∧
      (e.chunk + 1 < 98304 → (t.site n).evac = some { e with chunk := e.chunk + 1 } ∧ (t.site n).spare = (s.site n).spare) ∧
      (98304 ≤ e.chunk + 1 → (t.site n).evac = none ∧ Table.find (t.site n).spare e.layer = some e.bank ∧ (t.win n offEVACCTL).getLsbD 1 = true)) ∧
    (s.arg.ok = true → ((s.site n).queue q).find? (fun c => c.away.contains s.arg.m && c.err.isNone && !c.paused) = some c →
      (∀ e < 64, s.carries e (.chunk n c.id s.arg.m) = false) →
      exec .copyChunk s = .next (s.moveChunk n q { c with away := c.away.erase s.arg.m } s.arg.m)) ∧
    (∀ z, ((s.site n).queue q).find? (fun c => c.id == s.arg.id) = some c → c.err = some z → ∃ t, exec .copyRuntimeError s = .next t ∧
      (t.site n).copyHalted q c.ctx = true) ∧
    (∀ i p rest, s.inFlight n (q / 4) (fun p => p.core == core) = (i, c, p) :: rest → exec .cpymDeliver s = .next (s.landPacket n i c p)) ∧
    (s.collAt n tag = some k →
      (k.failed = none → q < k.group.length →
        (∀ h, s.headAt n tag k.group[q]? = some h → ∃ t : State, exec .collHeaderExchange s = .next (t.meet n k q h) ∧ t.headAt n tag k.group[q]? = none ∧
          t.collAt n tag = some k) ∧
        (s.headAt n tag k.group[q]? = none → k.headers.contains q = false → k.localSite s q = none → s.arg.words ≠ [] →
          exec .collHeaderExchange s = .next (s.putColl n (k.compare q s.arg.words))) ∧
        (∀ peer d, s.headAt n tag k.group[q]? = none → k.headers.contains q = false → k.localSite s q = some peer → s.collAt peer tag = some d →
          exec .collHeaderExchange s = .next (s.exchange n k q peer d))) ∧
      (s.arg.p ≠ 1 → s.allReady k = true → k.failed = none → q < k.group.length → exec .collChunk s = .next (s.sendShare n k q s.arg.ok)) ∧
      (k.mismatch = true → exec .collComplete s = .next (s.endColl n k 2)) ∧
      (k.mismatch = false → k.failed.isSome = true → exec .collComplete s = .next (s.endColl n k 1)) ∧
      (k.mismatch = false → k.failed = none → s.collLost n k = true →
        exec .collComplete s = .next ((s.failColl n k k.lost).endColl n { k with failed := some k.lost } 1)) ∧
      (∀ t3, k.mismatch = false → k.failed = none → s.collLost n k = false → k.ready = true → k.whole = true → k.spent = true →
        writeGlob n k.acc (granuleParts (k.result.length + 1) k.blk.daddr k.result.length) k.result (s.orStatus n k.ctx k.flags) = (none, t3) →
        exec .collComplete s = .next (t3.endColl n k 0))) ∧
    (∀ p, s.arg.p = 1 → s.pieceTo n tag (BitVec.ofNat 32 q) s.arg.ok = some p → s.carries p.ep (.piece n p.no) = false →
      exec .collChunk s = .next (s.landPiece n p)) ∧
    ((s.site n).remotes.find? (fun o => o.id == s.arg.id) = some o → s.failRoom o = true →
      (o.ord = false → (s.win o.ep offEPCFG).getLsbD 0 = true → s.connRoom o.ep o.conn = true → s.transport o.ep o.peer o.psite = some 1 →
        s.sentWhole n o = true → s.timedOut n o = false →
        (∀ bs, s.arg.ok = true → o.kind = 0 → readGlob n o.acc (granuleParts (o.len + 1) o.laddr o.len) s = (.ok bs, s1) →
          exec .remoteAck s = .next (s1.endRemote n o)) ∧
        (s.arg.ok = true → o.kind ≠ 0 →
          writeGlob n o.acc (granuleParts (o.len + 1) o.laddr o.len) (padTo o.len s.arg.data) s = (none, s1) →
          exec .remoteAck s = .next (s1.endRemote n o)) ∧
        (s.arg.ok = false → exec .remoteAck s = .next (s.failRemote n o cRMT_NAK (some (8, cRMT_NAK.toNat, o.laddr))))) ∧
      (s.timedOut n o = true → exec .rmtTimeout s = .next (s.failRemote n o cRMT_TIMEOUT none)))

/-- R295, R306, R328, R348-R366: power and heat. RAMP_START of a core that asks first in its region is granted when its levels
fit the step's limit, and denied else; RAMP_STEP and BALLAST_STEP take the next level, ballast ending at 0; CURRENT_STEP opens
a new step with nothing granted. DROOP_ALARM is counted, and throttles its region for 2000 ns when EPOL asks for it;
THROTTLE_END ends that. DECK_THERMAL and DSTAT_WRITE change decks, THERMAL_CONTROL lowers a hot site's cap, HOT_MARK_CHANGE
marks a core. GOVERNOR_SAMPLE samples an open step; ISLAND_TARGET, CLOCK_SWITCH and ISLAND_MOVE_COMPLETE move an island;
SLICE_AUTO_IDLE idles a slice; BANDED_LATENCY_MEASURE writes the record of the crossings. The order of cores that
ask at once, ballast's charge, a sample's instant, the thermal cadence, an alarm's log and its place in its cycle, the record of the
crossings and the idle slice are the model's choice (logs 33, 34, 53, 54, 55, 127, 56, 126). -/
def Obligations.PowerEvents : Prop :=
  ∀ (s : State),
    let core := s.arg.core
    let n := s.arg.site
    let i := s.arg.n
    let site := siteOfCore core
    let reg := regionOf site
    let c := s.core core
    (core < 2048 → (s.region reg).step = s.regionStep reg → s.asksNow core = true → (s.region reg).throttleEnd = none →
      (s.cores.any (fun x => regionOf (siteOfCore x.1) == reg && x.1 != core && s.asksNow x.1 && (s.region reg).before x.1 core)) = false →
      let ask := 8 - c.level
      let limit := (s.region reg).csl.toNat % 2 ^ 16
      let fits := if ask ≤ limit then (s.region reg).granted + ask ≤ limit else (s.region reg).granted = 0
      (fits → exec .rampStart s = .next (s.grantRamp core)) ∧
      (¬ fits → exec .rampStart s = .next (s.setRegion reg ((s.region reg).deny core)))) ∧
    (∀ a r, c.slew = .ramp (a :: r) → c.slewAt ≤ s.clk site → exec .rampStep s =
      .next (s.setCore core { c with level := a, slew := if r = [] then .hold else .ramp r, slewAt := s.clk site + 4,
                                     work := c.work + (4 * c.level : Nat) })) ∧
    (∀ a r halves, c.slew = .ballast (a :: r) halves → c.slewAt ≤ s.clk site → exec .ballastStep s =
      .next (s.setCore core { c with level := a, slew := .ballast r (halves + a), slewAt := s.clk site + 4 })) ∧
    (∀ halves, c.slew = .ballast [] halves → c.slewAt ≤ s.clk site → ∃ t, exec .ballastStep s = .next t ∧ (t.core core).level = 0 ∧ (t.core core).slew = .hold) ∧
    (i < 16 → (s.region i).step ≠ s.regionStep i → ∃ t, exec .currentStep s = .next t ∧ (t.region i).step = s.regionStep i ∧
      (t.region i).granted = 0 ∧ (t.region i).csl = s.cslOf i) ∧
    (i < 16 → s.granting i = false → ∃ t, exec .droopAlarm s = .next t ∧ s.now ∈ (t.region i).alarms ∧
      (s.epol.getLsbD 4 = true → (t.region i).throttleEnd = some (s.regionTime i + 2000))) ∧
    (∀ d, i < 16 → (s.region i).throttleEnd = some d → d ≤ s.regionTime i →
      ∃ t, exec .throttleEnd s = .next t ∧ (t.region i).throttleEnd = none) ∧
    (core < 2048 → i < 4 →
      (s.tDeck site ≤ s.arg.m → s.epol.getLsbD 2 = true → s.deck core i = 0 → exec .deckThermal s = .next (s.deckAtClose core i 1)) ∧
      (s.arg.m + 6 < s.tDeck site → s.deck core i = 1 → exec .deckThermal s = .next (s.deckAtClose core i 0))) ∧
    (core < 2048 → (∀ d < 4, (s.arg.value.toNat / 2 ^ (2 * d) % 4 = 0 ∧ s.deck core d ≠ 0) ∨
        (s.arg.value.toNat / 2 ^ (2 * d) % 4 = 1 ∧ c.deckOpen d = false) ∨ s.arg.value.toNat / 2 ^ (2 * d) % 4 = s.deck core d) →
      ∃ t, exec .dstatWrite s = .next t ∧ ∀ d < 4, t.deck core d = s.arg.value.toNat / 2 ^ (2 * d) % 4) ∧
    (∀ owner st, s.findStep { slot := s.arg.slot, k := s.arg.k } = some (owner, st) → (s.time owner).toNat % 1000 = 0 →
      st.sampled ≠ some (s.time owner) → exec .governorSample s = .next (s.governorSample { slot := s.arg.slot, k := s.arg.k } false)) ∧
    (s.findStep { slot := s.arg.slot, k := s.arg.k } = none → (s.time (siteOfSlot s.arg.slot)).toNat % 1000 = 0 →
      exec .governorSample s = .next (s.sendTargets (List.range 64))) ∧
    (∀ h p k at_ rest, h < 64 → i = 3 * h → (s.site h).mail = (p, k, at_) :: rest → k < s.clk h →
      let s1 := s.setSite h { s.site h with mail := rest }
      (islMOVING (s.win h offISLPT) = true → exec .islandTarget s =
        .next (s1.setWin h offISLPT (setFld (setFld (s.win h offISLPT) 29 1 1) 20 4 p))) ∧
      (islMOVING (s.win h offISLPT) = false → islCUR (s.win h offISLPT) ≠ p → exec .islandTarget s =
        .next (s1.startMove h p) ∧ (s1.startMove h p).win h offISLPT = setFld (setFld (s.win h offISLPT) 30 1 1) 16 4 p)) ∧
    (let v := s.win n offISLPT
     n < 64 → islMOVING v = true → (s.site n).switched = false → (s.site n).moveAt ≤ s.now →
      ∃ t, exec .clockSwitch s = .next t ∧ t.mem = s.mem ∧
        (rampNs (islTARGET v) (islCUR v) ≠ 0 → (t.site n).switched = true ∧ islMOVING (t.win n offISLPT) = true) ∧
        (rampNs (islTARGET v) (islCUR v) = 0 → (t.site n).switched = false ∧ islCUR (t.win n offISLPT) = islTARGET v ∧
          (v.getLsbD 29 = false → islMOVING (t.win n offISLPT) = false))) ∧
    (∀ h, h < 64 → i = 3 * h → islMOVING (s.win h offISLPT) = true → (s.site h).switched = true → (s.site h).moveAt ≤ s.now →
      (s.win h offISLPT).getLsbD 29 = false →
      ∃ t, exec .islandMoveComplete s = .next t ∧ (t.site h).switched = false ∧ islMOVING (t.win h offISLPT) = false ∧
        islCUR (t.win h offISLPT) = islTARGET (s.win h offISLPT)) ∧
    (n < 64 → (s.site n).thermAt ≤ s.now → s.epol.getLsbD 5 = true → s.tStack n ≤ s.arg.n → exec .thermalControl s = .next
      (((s.setSite n { s.site n with belowSince := none, thermAt := s.now + 100000 }).setWin n offISLPT (setFld (s.win n offISLPT) 8 4 (islCAP (s.win n offISLPT) - 1))).postTarget n)) ∧
    (core < 2048 → i < 6 → (s.win site (offSLRATIO (core % 32))).getLsbD 18 = true →
      s.wgs.any (fun w => coreOfSlot w.1 == core && w.2.coaches.any (fun x => x.2.slice == i && x.2.state == .runnable)) = false →
      Table.getD c.cycles (24 + i) 0 + 1000 ≤ s.now →
      ∃ t, exec .sliceAutoIdle s = .next t ∧ (t.core core).autoIdle.getLsbD i = true) ∧
    (let pa := (s.win n offBLTADDR).toNat % 2 ^ 52
     n < 64 → paSpace pa = 0 → homeSite pa = n → pa % 128 = 0 → s.paOk pa = true → ∃ t, exec .bandedLatencyMeasure s = .next t ∧
       fieldLE (t.homeRead (pa + 64) 4) 0 4 = 0x424C5401 ∧
       ∀ k < 8, fieldLE (t.homeRead (pa + 8 * k) 4) 0 2 = (s.arg.bands.getD k (0, 0)).1 % 65536 ∧
         fieldLE (t.homeRead (pa + 8 * k) 4) 2 2 = (s.arg.bands.getD k (0, 0)).2 % 65536) ∧
    (core < 2048 → (s.tHot site ≤ i → ∃ t, exec .hotMarkChange s = .next t ∧ (t.core core).hot = true) ∧
      (i + 6 < s.tHot site → ∃ t, exec .hotMarkChange s = .next t ∧ (t.core core).hot = false))

/-- R331, R334-R336, R340-R347: the optical links. PACKET_RECEIVE marks a sequence number of the window, and performs what the
packet carries, at once or in sequence, or gives a collective the bytes it expects next; ACK_RECEIVE frees what is acknowledged, a
congestion mark reducing the window; RETRANSMIT_TIMER sends a packet again and doubles its timer; OCCUPANCY_REPORT keeps a route's
occupancy. OHEALTH_UPDATE writes a lane's health; LINK_NARROW and LINK_WIDEN begin a move, in NARROWING, and end it on the new
lanes, or the direction goes DOWN when no healthy group is left; ONEWAY_ENTER holds a direction that has lost its light, and
ONEWAY_HOLD_EXPIRY brings it DOWN. POWER_STATE_ANNOUNCE, LINK_WAKE and LASER_STATE_REACHED move a laser; RELIGHT_LOCK_TIMEOUT marks
a lane. ARBITER_ROUND grants a slot, SLOT_START checks its identity, SLOT_END locks the port; LINK_ACKNOWLEDGEMENT frees the replay
buffer. The wiring, the narrowing and its answer, a packet's fields and order, the resent packet's timer, the peer's context, TXON,
the flits, the lane that DETAIL names and the entry of the expected peer are the model's choice (logs 57, 61, 62, 84, 87, 90, 107 to
111, 117, 120, 59). -/
def Obligations.LinkEvents : Prop :=
  ∀ (s : State),
    let n := s.arg.site
    let f := s.arg.n
    let m := s.arg.m
    let l := s.link n f
    let rx := s.lstat n f 1
    (n < 64 → s.hearsPeer n (connDev f) (connSite f) = true → s.connRoom n f = true →
      let c := s.conn n f
      let psn : Word := s.arg.value.truncate 32
      let d := (psn - c.rxCum : Word).toNat
      let a : Arrival := { psn := psn, kind := s.arg.k, ctx := m, va := BitVec.ofNat 64 s.arg.pa, aop := s.arg.p % 16,
                           operand := s.arg.words.headD 0, data := s.arg.data.take 4096 }
      let c1 := advanceRx 256 { c with rxMap := c.rxMap ||| BitVec.ofNat 256 (2 ^ d) }
      let all := sortBy (fun x => (x.psn - c.rxCum : Word).toNat) (c.early ++ [a])
      ((256 ≤ d ∨ c.rxMap.getLsbD d = true) → exec .packetReceive s = .next s) ∧
      (d < 256 → c.rxMap.getLsbD d = false → a.kind ≠ 3 → f % 2 = 0 → exec .packetReceive s = .next ((s.setConn n f c1).arrived n f a)) ∧
      (d < 256 → c.rxMap.getLsbD d = false → a.kind = 3 → c.early = [] → s.collNext n a.operand (collPeer f) (a.aop == 1) = some a.va.toNat →
        exec .packetReceive s = .next ((s.setConn n f c1).collTakes n a.operand (collPeer f) (a.aop == 1) a.data)) ∧
      (d < 256 → c.rxMap.getLsbD d = false → a.kind ≠ 3 → f % 2 = 1 → exec .packetReceive s = .next
        ((all.filter (fun x => later32 c1.rxCum x.psn)).foldl (fun t x => t.arrived n f x)
          (s.setConn n f { c1 with early := all.filter (fun x => !later32 c1.rxCum x.psn) })))) ∧
    (∀ c, Table.find (s.site n).conns f = some c →
      (let cum : Word := s.arg.value.truncate 32
       let map : DWord := s.arg.words.getD 1 0 ++ s.arg.words.getD 0 0
       let c1 := c.acked cum map s.arg.ok s.arg.p
       (cum - c.cumAck).toNat ≤ (c.nextPsn - c.cumAck).toNat → exec .ackReceive s =
         .next (((((c.inFlight.filter (fun p => ackedBy cum map p.psn)).map Packet.what).foldl State.hear (s.setConn n f c1)).pump n f)) ∧
         c1.cumAck = cum ∧ (∀ p ∈ c1.inFlight, ackedBy cum map p.psn = false) ∧
         (s.arg.ok = true → c.reduced = false → c1.window = max 1 (c.window * 7 / 8))) ∧
      exec .retransmitTimer s = .next ((s.setConn n f { c with
        inFlight := c.inFlight.map (fun p => if p.psn = s.arg.value.truncate 32 ∧ p.sent + 1000 * p.timer ≤ s.now then
          { p with again := true, timer := min 128 (2 * p.timer) } else p) }).pump n f)) ∧
    (n < 64 → m < 64 → exec .occupancyReport s = .next (s.setSite n { s.site n with occupancy := Table.put 0 (s.site n).occupancy m f })) ∧
    (n < 64 → f < 4 →
      (m < 8 → ∃ t, exec .ohealthUpdate s = .next t ∧ t.win n (offOHEALTH f m) = s.healthWord n f m s.arg.value) ∧
      (let v := s.lstat n f m
       let bad := if m = 0 then s.arg.p % 256 else l.unhealthy.toNat
       m < 2 → Table.find l.newLanes m = none → lsSTATE v = 2 → lsLANES v &&& bad ≠ 0 →
       (∀ g, s.epol.getLsbD 1 = true → healthyGroup bad = some g → ∃ t, exec .linkNarrow s = .next t ∧ lsSTATE (t.lstat n f m) = 3 ∧
         Table.find (t.link n f).newLanes m = some (g, true)) ∧
       ((s.epol.getLsbD 1 = false ∨ healthyGroup bad = none) → ∃ t, exec .linkNarrow s = .next t ∧ lsSTATE (t.lstat n f m) = 0)) ∧
      (m < 2 → Table.find l.newLanes m = none → [255, 15, 240, 3, 12, 48, 192].contains s.arg.p = true → lsSTATE (s.lstat n f m) = 2 →
        lsLANES (s.lstat n f m) &&& s.arg.p = lsLANES (s.lstat n f m) → (m = 0 ∨ s.arg.p &&& l.unhealthy.toNat = 0) →
        ∃ t, exec .linkWiden s = .next t ∧ lsSTATE (t.lstat n f m) = 3 ∧ Table.find (t.link n f).newLanes m = some (s.arg.p, false)) ∧
      (∀ g narrowing, m < 2 → g < 256 → Table.find l.newLanes m = some (g, narrowing) → lsSTATE (s.lstat n f m) = 3 →
        ∃ t, exec (if narrowing = true then .linkNarrow else .linkWiden) s = .next t ∧ lsSTATE (t.lstat n f m) = 2 ∧ lsLANES (t.lstat n f m) = g) ∧
      (lsSTATE rx = 2 → l.peerLp = 0 → (∃ k < 8, bitN (lsLANES rx) k = true ∧ s.lockOf n f k < 2) →
        ∃ t, exec .onewayEnter s = .next t ∧ lsSTATE (t.lstat n f 1) = 4 ∧ (t.link n f).onewayEnd.isSome = true) ∧
      (∀ d, l.onewayEnd = some d → d ≤ s.now → lsSTATE rx = 4 →
        ∃ t, exec .onewayHoldExpiry s = .next t ∧ lsSTATE (t.lstat n f 1) = 0 ∧ (t.link n f).onewayEnd = none) ∧
      (s.arg.ok = true → 1 ≤ m → m ≤ 2 → ∃ t, exec .powerStateAnnounce s = .next t ∧ lsSTATE (t.lstat n f 1) = 5 ∧ (t.link n f).peerLp = m) ∧
      (s.arg.ok = true → m = 0 → l.peerLp ≠ 0 → exec .powerStateAnnounce s =
        .next (s.setLink n f { l with relightEnd := some (s.now + relightNs l.peerLp + 10000) })) ∧
      (let target := if (s.win n (offLPCTL f)).toNat % 4 = 3 then 0 else (s.win n (offLPCTL f)).toNat % 4
       s.arg.ok = false → s.lpCur n f ≠ 3 → s.lpCur n f ≠ target →
        ∃ t, exec .powerStateAnnounce s = .next t ∧ t.lpCur n f = 3 ∧ (t.link n f).moveTo = target) ∧
      ((s.lpCur n f = 1 ∨ s.lpCur n f = 2) → (s.win n (offLPCTL f)).getLsbD 8 = true →
        (∃ c ∈ (s.site n).conns, c.2.waiting ≠ 0 ∨ c.2.unsent ≠ []) →
        ∃ t, exec .linkWake s = .next t ∧ t.lpCur n f = 3 ∧ (t.link n f).moveTo = 0 ∧
          (t.link n f).moveEnd = s.now + (if s.lpCur n f = 1 then 2000 else 50000)) ∧
      (s.lpCur n f = 3 → l.moveEnd ≤ s.now → exec .laserStateReached s = .next
        ((((s.setWin n (offLPCTL f) (setFld (s.win n (offLPCTL f)) 4 4 l.moveTo)).setLstat n f 0 (setFld (s.lstat n f 0) 4 4 l.moveTo)).setLstat n f 1
          (setFld (s.lstat n f 1) 4 4 l.moveTo)).pumpAll n)) ∧
      (s.now < l.moveEnd → exec .laserStateReached s = .next s) ∧
      (∀ d, m < 8 → l.relightEnd = some d → d ≤ s.now → s.lockOf n f m < 2 →
        ∃ t, exec .relightLockTimeout s = .next t ∧ (t.link n f).unhealthy.getLsbD m = true) ∧
      (s.arg.ok = true → ∃ t, exec .arbiterRound s = .next t ∧
        (Config.linkSwitched n f = true → (m, s.arg.p, max s.arg.value.toNat (s.now + 1000)) ∈ (t.link n f).granted) ∧
        (Config.linkSwitched n f = false → t = s)) ∧
      (l.slotNo = none → (∃ g ∈ l.granted, g.1 = m ∧ g.2.2 ≤ s.now) →
        (s.identityOk n m s.arg.value s.arg.p s.arg.id s.arg.data = true → exec .slotStart s =
          .next ((s.setLink n f { l with slotNo := some m, unlocked := true }).pumpAll n)) ∧
        (s.identityOk n m s.arg.value s.arg.p s.arg.id s.arg.data = false → ∃ lane a, exec .slotStart s = .next
          (((s.setLink n f { l with slotNo := some m, unlocked := false }).report n 0xFFFF cPEER_IDENT 0 a).logEvent n evPeerIdent 5 (8 * f + lane) 0 0))) ∧
      (∀ k, l.slotNo = some k → ∃ t, exec .slotEnd s = .next t ∧ (t.link n f).slotNo = none ∧ (t.link n f).unlocked = false ∧
        (t.link n f).acked = l.seq) ∧
      (s.acksHeard n f = true → (Config.linkSwitched n f = false ∨ l.unlocked = true) →
        (BitVec.ofNat 16 m - l.acked).toNat ≤ (l.seq - l.acked).toNat →
        exec .linkAcknowledgement s = .next ((s.setLink n f { l with acked := BitVec.ofNat 16 m }).pumpAll n)))

/-! Encoding, reset, registers, and the machine's step. -/

/-- R79, R80, R87-R89: the word of every encoded instruction, with every operand at every value, decodes to it, through memory's
bytes as well; a well-formed one is the instruction, and one whose fields are not accepted is refused by name. -/
def Obligations.EncodingRoundTrip : Prop :=
  ∀ (i : Instr) (w : Word), encode i = some w →
    parse w = some i ∧ wordOfBytes (wordBytes w) = w ∧ decodeTableWord 32 w.toNat = some i ∧
    (i.WellFormed → decode w = .ok i) ∧ (¬ i.WellFormed → decode w = .error .illegalField)

/-- R79, R80, R87-R89: no two words decode to one instruction: the encoding of what a word decodes to is the word. The opcodes
that R89's first row lists, and no others, decode to none. -/
def Obligations.DecodingIsExact : Prop :=
  (∀ (w : Word) (i : Instr), parse w = some i → encode i = some w) ∧
  ∀ w : Word, parse w = none ↔ ([0x0E, 0x0F, 0x1F, 0x2E, 0x2F, 0x37, 0x4E, 0x4F, 0xAF, 0xBF, 0xCE, 0xCF].contains (w.toNat / 2 ^ 24) = true ∨
    0xE2 ≤ w.toNat / 2 ^ 24)

/-- R79-R88, R101: words written out bit by bit from the formats, and what they stand for. -/
def Obligations.WordsOfTheFormats : Prop :=
  parse 0x05148083 = some (.imad { u := false, fb := false, s := false, m := 5, d := 8, a := 2, b := 3 }) ∧
  parse 0b01100010_1_0_000111_1111111111111110 = some (.iaddi { u := true, fb := false, d := 7, imm := 0xFFFE }) ∧
  parse 0b01110010_0_1_000101_000100_001001_011_1 = some (.ld32 { u := false, fb := true, t := 5, base := 4, idx := 9, scope := 3, nt := true }) ∧
  parse 0b10001010_0_0_001000_000110_000000_0010 = some (.atom { u := false, fb := false, t := 8, base := 6, idx := 0, aop := 2 }) ∧
  parse 0b10010010_1_0_000000_000101_001_0000011 = some (.baraw { u := true, fb := false, cnt := 0, gen := 5, scope := 1, bix := 3 }) ∧
  parse 0b10010100_1_0_001010_000100_000000_0001 = some (.waitc { u := true, fb := false, t := 10, base := 4, z := 0, cond := 1 }) ∧
  parse 0b10010110_1_1_001100_000110_000011_0011 = some (.enq { u := true, fb := true, t := 12, qcb := 6, stat := 3, nregM1 := 3 }) ∧
  parse 0b10101000_1_0_000001_000100_001000_11_10 = some (.mmaF64 { u := true, fb := false, acc := 1, adesc := 4, bdesc := 8, p := 3, dpol := 2 }) ∧
  parse 0b10110000_1_0_000010_000101_000110_1001 = some (.cpy { u := true, fb := false, pb := 2, tin := 5, aux := 6, qsel := 9 }) ∧
  parse 0b11000000_0_0_1111111111111111111111 = some (.bra { u := false, fb := false, off := 0x3FFFFF }) ∧
  parse 0b11000001_0_0_000011_101_1111111111100 = some (.brs { u := false, fb := false, reg := 3, cond := 5, off := 0x1FFC }) ∧
  parse 0b11010000_0_0_000100_0000010001_000000 = some (.srd { u := false, fb := false, d := 4, sysreg := 0x011, a := 0 })

/-- R4, R9, R30: what reset leaves: registers at the values R30 gives and no workgroup. Memory with nothing listed is the model's
(log 1), and so is an empty list of operations to be done next. -/
def Obligations.ResetState : Prop :=
  let s := State.reset
  s.Canonical ∧ s.AgendaOk ∧ s.wgs = [] ∧ s.waferId = 0 ∧ s.podId = 0 ∧ s.epol = 0 ∧
  (∀ n, s.time n = 0 ∧ s.clk n = 0 ∧ Table.getD s.toff n 0 = 0) ∧
  (∀ r, Table.getD s.csl r cslReset = 0x80) ∧ (∀ c, (s.context c).thbase = 0 ∧ (s.context c).ctxsave = 0)

/-- R26: the start of a coach: every register zero but s2 and s3, which hold the address of the argument block; p0 alone set;
flags clear, the divergence stack empty, DPHASE zero, every thread active, and the PC at the entry clause. -/
def Obligations.CoachStart : Prop :=
  ∀ (entry args : DWord) (n : Nat),
    let c := Coach.start entry args n
    (∀ r t, c.rawReg false r t = 0) ∧
    (∀ r t, c.rawReg true r t = if r = 2 then args.truncate 32 else if r = 3 then (args >>> 32).truncate 32 else 0) ∧
    (∀ tick r, c.readS tick r = c.rawReg true r 0) ∧
    (∀ q t, c.readP q t = decide (q = 0)) ∧ (∀ f, c.flagCount f = 0) ∧ c.div = [] ∧ c.exec = maskAll n ∧ c.exited = 0 ∧ c.pc = entry ∧
    c.dphase = 0

/-- R23, R25, R77: s0 and p0 are constants; a register that no operation in flight writes holds what was written to it last; a
read of a pending register gives its value before the write or after it, and a write over one leaves either result. -/
def Obligations.RegistersAndHazards : Prop :=
  ∀ (c : Coach) (tick : Nat) (x : Word),
    c.readS tick 0 = 0 ∧ c.writeS tick 0 x = c ∧ (∀ t, c.readP 0 t = true) ∧ (∀ t b, c.writeP 0 t b = c) ∧
    (∀ n t n' t', t < 256 → t' < 256 → c.pendOf false n t = none → c.pendOf false n' t' = none →
      (c.writeV tick n t x).readV tick n' t' = if n' = n ∧ t' = t then x else c.readV tick n' t') ∧
    (∀ n n', n ≠ 0 → c.pendOf true n 0 = none → c.pendOf true n' 0 = none →
      (c.writeS tick n x).readS tick n' = if n' = n then x else c.readS tick n') ∧
    (∀ n t n' t' b, 1 ≤ n → n ≤ 7 → (c.writeP n t b).readP n' t' = if n' = n ∧ t' = t then b else c.readP n' t') ∧
    (∀ n t p, c.pendOf false n t = some p → (c.readV tick n t = p.old ∨ c.readV tick n t = c.rawReg false n t) ∧
      ((c.writeV tick n t x).rawReg false n t = x ∨ (c.writeV tick n t x).rawReg false n t = c.rawReg false n t)) ∧
    (∀ n p, n ≠ 0 → c.pendOf true n 0 = some p → (c.readS tick n = p.old ∨ c.readS tick n = c.rawReg true n 0) ∧
      ((c.writeS tick n x).rawReg true n 0 = x ∨ (c.writeS tick n x).rawReg true n 0 = c.rawReg true n 0))

/-- R21, R35, R69, R71, R89, R251: the step of a coach that may issue, whose octets are free and that has no trap pending, is a
step's time after the execution of the instruction that the word at its PC decodes to; a word that decodes to none traps with
ILLEGAL_OPCODE, and one of row 0xC before the end of its clause with ILLEGAL_CLAUSE at the clause's header. A coach that has
been woken executes again the instruction that waited, and one with an entry to re-inject that entry's. An operation that the
device has yet to do is done first. A step's time does not pass over an instant at which something is due (a sample, a target, the deadline
of a region: R285, R353), which then happens. -/
def Obligations.StepRunsDecoded : Prop :=
  let after (o : Host.Outcome State Fault Refusal) : Host.Outcome State Fault Refusal :=
    match o with
    | .next u => .next u.ticked
    | .fault f => .fault f
    | .refused x => .refused x
  (∀ u : State,
    (u.untilDue = none → u.autoCores = [] → u.ticked = { u with tick := u.tick + 1, now := u.now + Config.elapsed u.tick }) ∧
    (∀ d, u.untilDue = some d → u.autoCores = [] →
      let t : State := { u with tick := u.tick + 1, now := u.now + min (Config.elapsed u.tick) d }
      u.ticked = if d ≤ Config.elapsed u.tick then t.dueNow else t)) ∧
  (∀ (s : State) (ev : Event) (rest : List Event), s.agenda = ev :: rest →
    step s = after (exec ev.op { s with agenda := rest, arg := ev.arg })) ∧
  ∀ (s s1 : State) (r : CoachRef) (rest : List CoachRef) (e : Env) (w : Word),
    let t : State := { s with issue := rest, cur := r }
    s.agenda = [] → s.issue = r :: rest → t.env r = some e → e.c.escalated = none → e.wg.saving = none → e.c.pendTrap = none →
    (e.c.state = .runnable ∨ e.c.state = .trapped) → t.octetsFree e.ref e.wg e.c = true →
    (e.c.inHandler = true ∨ ((e.c.woken = true ∨ e.c.nextAsync = none) ∧ e.c.reconv = false)) →
    (∀ en i, e.replay = some en → parse en.word = some i → step s = after (exec i t)) ∧
    (∀ i, e.replay = none → e.c.woken = true → e.c.wait.word.bind parse = some i → step s = after (exec i t)) ∧
    (∀ cl, e.replay = none → e.c.woken = false → e.c.openClause = some cl → t.fetchWord r e.ctx e.c.pc = (.ok w, s1) →
      ((isControl (opcodeOf w).toNat = true → e.last = true) →
        (∀ i, parse w = some i → step s = after (exec i s1)) ∧
        (parse w = none → step s = after (.next (s1.opcodeTrap e w)))) ∧
      (isControl (opcodeOf w).toNat = true → e.last = false → step s =
        after (.next (s1.takeTrap e.ref cILLEGAL_CLAUSE 0 0 [] (e.c.pc - BitVec.ofNat 64 (4 * (cl.next + 1))) none))))

/-- Every step goes on: what the spec calls a trap is taken, and no instruction of a resident coach, no event and no word that
stands for no instruction stops the machine. The premise, kept by every step (StepKeepsInvariant), is that what is done next
are operations of the device. -/
def Obligations.StepNeverStops : Prop :=
  ∀ s : State, s.AgendaOk → GoesOn (step s)

/-- R8, R266: every step from every state keeps the canonical form of memory, and leaves only operations of the device to be
done next. -/
def Obligations.StepKeepsInvariant : Prop :=
  ∀ s t : State, s.Canonical → s.AgendaOk → step s = .next t → t.Canonical ∧ t.AgendaOk
end

