-- ==== Sys2Proof/Laws/State.lean ====
section
/-! SUPPORT. Updates of State and of Coach field by field: what each setter leaves as it was, one lemma per field, and
what it sets. No later proof unfolds a record update. -/

namespace Sys2Proof.Machine

variable (s : State)

@[simp] theorem setCore_now (c : Nat) (x : Core) : (s.setCore c x).now = s.now := rfl
@[simp] theorem setCore_tick (c : Nat) (x : Core) : (s.setCore c x).tick = s.tick := rfl
@[simp] theorem setCore_agenda (c : Nat) (x : Core) : (s.setCore c x).agenda = s.agenda := rfl
@[simp] theorem setCore_arg (c : Nat) (x : Core) : (s.setCore c x).arg = s.arg := rfl
@[simp] theorem setCore_issue (c : Nat) (x : Core) : (s.setCore c x).issue = s.issue := rfl
@[simp] theorem setCore_late (c : Nat) (x : Core) : (s.setCore c x).late = s.late := rfl
@[simp] theorem setCore_missing (c : Nat) (x : Core) : (s.setCore c x).missing = s.missing := rfl
@[simp] theorem setCore_cur (c : Nat) (x : Core) : (s.setCore c x).cur = s.cur := rfl
@[simp] theorem setCore_mem (c : Nat) (x : Core) : (s.setCore c x).mem = s.mem := rfl
@[simp] theorem setCore_poison (c : Nat) (x : Core) : (s.setCore c x).poison = s.poison := rfl
@[simp] theorem setCore_lines (c : Nat) (x : Core) : (s.setCore c x).lines = s.lines := rfl
@[simp] theorem setCore_waferId (c : Nat) (x : Core) : (s.setCore c x).waferId = s.waferId := rfl
@[simp] theorem setCore_podId (c : Nat) (x : Core) : (s.setCore c x).podId = s.podId := rfl
@[simp] theorem setCore_epol (c : Nat) (x : Core) : (s.setCore c x).epol = s.epol := rfl
@[simp] theorem setCore_csl (c : Nat) (x : Core) : (s.setCore c x).csl = s.csl := rfl
@[simp] theorem setCore_toff (c : Nat) (x : Core) : (s.setCore c x).toff = s.toff := rfl
@[simp] theorem setCore_stripe (c : Nat) (x : Core) : (s.setCore c x).stripe = s.stripe := rfl
@[simp] theorem setCore_ports (c : Nat) (x : Core) : (s.setCore c x).ports = s.ports := rfl
@[simp] theorem setCore_stage (c : Nat) (x : Core) : (s.setCore c x).stage = s.stage := rfl
@[simp] theorem setCore_regionsOn (c : Nat) (x : Core) : (s.setCore c x).regionsOn = s.regionsOn := rfl
@[simp] theorem setCore_powerAt (c : Nat) (x : Core) : (s.setCore c x).powerAt = s.powerAt := rfl
@[simp] theorem setCore_collL2 (c : Nat) (x : Core) : (s.setCore c x).collL2 = s.collL2 := rfl
@[simp] theorem setCore_failBit (c : Nat) (x : Core) : (s.setCore c x).failBit = s.failBit := rfl
@[simp] theorem setCore_mgmtBit (c : Nat) (x : Core) : (s.setCore c x).mgmtBit = s.mgmtBit := rfl
@[simp] theorem setCore_failSite (c : Nat) (x : Core) : (s.setCore c x).failSite = s.failSite := rfl
@[simp] theorem setCore_fwImage (c : Nat) (x : Core) : (s.setCore c x).fwImage = s.fwImage := rfl
@[simp] theorem setCore_fwSig (c : Nat) (x : Core) : (s.setCore c x).fwSig = s.fwSig := rfl
@[simp] theorem setCore_fuseKey (c : Nat) (x : Core) : (s.setCore c x).fuseKey = s.fuseKey := rfl
@[simp] theorem setCore_fuseMin (c : Nat) (x : Core) : (s.setCore c x).fuseMin = s.fuseMin := rfl
@[simp] theorem setCore_serial (c : Nat) (x : Core) : (s.setCore c x).serial = s.serial := rfl
@[simp] theorem setCore_ctxs (c : Nat) (x : Core) : (s.setCore c x).ctxs = s.ctxs := rfl
@[simp] theorem setCore_grids (c : Nat) (x : Core) : (s.setCore c x).grids = s.grids := rfl
@[simp] theorem setCore_gidNext (c : Nat) (x : Core) : (s.setCore c x).gidNext = s.gidNext := rfl
@[simp] theorem setCore_wgs (c : Nat) (x : Core) : (s.setCore c x).wgs = s.wgs := rfl
@[simp] theorem setCore_saved (c : Nat) (x : Core) : (s.setCore c x).saved = s.saved := rfl
@[simp] theorem setCore_wideBars (c : Nat) (x : Core) : (s.setCore c x).wideBars = s.wideBars := rfl
@[simp] theorem setCore_given (c : Nat) (x : Core) : (s.setCore c x).given = s.given := rfl
@[simp] theorem setCore_waitRecs (c : Nat) (x : Core) : (s.setCore c x).waitRecs = s.waitRecs := rfl
@[simp] theorem setCore_sites (c : Nat) (x : Core) : (s.setCore c x).sites = s.sites := rfl
@[simp] theorem setCore_regions (c : Nat) (x : Core) : (s.setCore c x).regions = s.regions := rfl
@[simp] theorem setCore_quadRamp (c : Nat) (x : Core) : (s.setCore c x).quadRamp = s.quadRamp := rfl
@[simp] theorem setCore_images (c : Nat) (x : Core) : (s.setCore c x).images = s.images := rfl
@[simp] theorem setCore_pools (c : Nat) (x : Core) : (s.setCore c x).pools = s.pools := rfl

@[simp] theorem setSite_now (n : Nat) (x : Site) : (s.setSite n x).now = s.now := rfl
@[simp] theorem setSite_tick (n : Nat) (x : Site) : (s.setSite n x).tick = s.tick := rfl
@[simp] theorem setSite_agenda (n : Nat) (x : Site) : (s.setSite n x).agenda = s.agenda := rfl
@[simp] theorem setSite_arg (n : Nat) (x : Site) : (s.setSite n x).arg = s.arg := rfl
@[simp] theorem setSite_issue (n : Nat) (x : Site) : (s.setSite n x).issue = s.issue := rfl
@[simp] theorem setSite_late (n : Nat) (x : Site) : (s.setSite n x).late = s.late := rfl
@[simp] theorem setSite_missing (n : Nat) (x : Site) : (s.setSite n x).missing = s.missing := rfl
@[simp] theorem setSite_cur (n : Nat) (x : Site) : (s.setSite n x).cur = s.cur := rfl
@[simp] theorem setSite_mem (n : Nat) (x : Site) : (s.setSite n x).mem = s.mem := rfl
@[simp] theorem setSite_poison (n : Nat) (x : Site) : (s.setSite n x).poison = s.poison := rfl
@[simp] theorem setSite_lines (n : Nat) (x : Site) : (s.setSite n x).lines = s.lines := rfl
@[simp] theorem setSite_waferId (n : Nat) (x : Site) : (s.setSite n x).waferId = s.waferId := rfl
@[simp] theorem setSite_podId (n : Nat) (x : Site) : (s.setSite n x).podId = s.podId := rfl
@[simp] theorem setSite_epol (n : Nat) (x : Site) : (s.setSite n x).epol = s.epol := rfl
@[simp] theorem setSite_csl (n : Nat) (x : Site) : (s.setSite n x).csl = s.csl := rfl
@[simp] theorem setSite_toff (n : Nat) (x : Site) : (s.setSite n x).toff = s.toff := rfl
@[simp] theorem setSite_stripe (n : Nat) (x : Site) : (s.setSite n x).stripe = s.stripe := rfl
@[simp] theorem setSite_ports (n : Nat) (x : Site) : (s.setSite n x).ports = s.ports := rfl
@[simp] theorem setSite_stage (n : Nat) (x : Site) : (s.setSite n x).stage = s.stage := rfl
@[simp] theorem setSite_regionsOn (n : Nat) (x : Site) : (s.setSite n x).regionsOn = s.regionsOn := rfl
@[simp] theorem setSite_powerAt (n : Nat) (x : Site) : (s.setSite n x).powerAt = s.powerAt := rfl
@[simp] theorem setSite_collL2 (n : Nat) (x : Site) : (s.setSite n x).collL2 = s.collL2 := rfl
@[simp] theorem setSite_failBit (n : Nat) (x : Site) : (s.setSite n x).failBit = s.failBit := rfl
@[simp] theorem setSite_mgmtBit (n : Nat) (x : Site) : (s.setSite n x).mgmtBit = s.mgmtBit := rfl
@[simp] theorem setSite_failSite (n : Nat) (x : Site) : (s.setSite n x).failSite = s.failSite := rfl
@[simp] theorem setSite_fwImage (n : Nat) (x : Site) : (s.setSite n x).fwImage = s.fwImage := rfl
@[simp] theorem setSite_fwSig (n : Nat) (x : Site) : (s.setSite n x).fwSig = s.fwSig := rfl
@[simp] theorem setSite_fuseKey (n : Nat) (x : Site) : (s.setSite n x).fuseKey = s.fuseKey := rfl
@[simp] theorem setSite_fuseMin (n : Nat) (x : Site) : (s.setSite n x).fuseMin = s.fuseMin := rfl
@[simp] theorem setSite_serial (n : Nat) (x : Site) : (s.setSite n x).serial = s.serial := rfl
@[simp] theorem setSite_ctxs (n : Nat) (x : Site) : (s.setSite n x).ctxs = s.ctxs := rfl
@[simp] theorem setSite_grids (n : Nat) (x : Site) : (s.setSite n x).grids = s.grids := rfl
@[simp] theorem setSite_gidNext (n : Nat) (x : Site) : (s.setSite n x).gidNext = s.gidNext := rfl
@[simp] theorem setSite_wgs (n : Nat) (x : Site) : (s.setSite n x).wgs = s.wgs := rfl
@[simp] theorem setSite_saved (n : Nat) (x : Site) : (s.setSite n x).saved = s.saved := rfl
@[simp] theorem setSite_wideBars (n : Nat) (x : Site) : (s.setSite n x).wideBars = s.wideBars := rfl
@[simp] theorem setSite_given (n : Nat) (x : Site) : (s.setSite n x).given = s.given := rfl
@[simp] theorem setSite_waitRecs (n : Nat) (x : Site) : (s.setSite n x).waitRecs = s.waitRecs := rfl
@[simp] theorem setSite_cores (n : Nat) (x : Site) : (s.setSite n x).cores = s.cores := rfl
@[simp] theorem setSite_regions (n : Nat) (x : Site) : (s.setSite n x).regions = s.regions := rfl
@[simp] theorem setSite_quadRamp (n : Nat) (x : Site) : (s.setSite n x).quadRamp = s.quadRamp := rfl
@[simp] theorem setSite_images (n : Nat) (x : Site) : (s.setSite n x).images = s.images := rfl
@[simp] theorem setSite_pools (n : Nat) (x : Site) : (s.setSite n x).pools = s.pools := rfl

@[simp] theorem setRegion_now (n : Nat) (x : Region) : (s.setRegion n x).now = s.now := rfl
@[simp] theorem setRegion_tick (n : Nat) (x : Region) : (s.setRegion n x).tick = s.tick := rfl
@[simp] theorem setRegion_agenda (n : Nat) (x : Region) : (s.setRegion n x).agenda = s.agenda := rfl
@[simp] theorem setRegion_arg (n : Nat) (x : Region) : (s.setRegion n x).arg = s.arg := rfl
@[simp] theorem setRegion_issue (n : Nat) (x : Region) : (s.setRegion n x).issue = s.issue := rfl
@[simp] theorem setRegion_late (n : Nat) (x : Region) : (s.setRegion n x).late = s.late := rfl
@[simp] theorem setRegion_missing (n : Nat) (x : Region) : (s.setRegion n x).missing = s.missing := rfl
@[simp] theorem setRegion_cur (n : Nat) (x : Region) : (s.setRegion n x).cur = s.cur := rfl
@[simp] theorem setRegion_mem (n : Nat) (x : Region) : (s.setRegion n x).mem = s.mem := rfl
@[simp] theorem setRegion_poison (n : Nat) (x : Region) : (s.setRegion n x).poison = s.poison := rfl
@[simp] theorem setRegion_lines (n : Nat) (x : Region) : (s.setRegion n x).lines = s.lines := rfl
@[simp] theorem setRegion_waferId (n : Nat) (x : Region) : (s.setRegion n x).waferId = s.waferId := rfl
@[simp] theorem setRegion_podId (n : Nat) (x : Region) : (s.setRegion n x).podId = s.podId := rfl
@[simp] theorem setRegion_epol (n : Nat) (x : Region) : (s.setRegion n x).epol = s.epol := rfl
@[simp] theorem setRegion_csl (n : Nat) (x : Region) : (s.setRegion n x).csl = s.csl := rfl
@[simp] theorem setRegion_toff (n : Nat) (x : Region) : (s.setRegion n x).toff = s.toff := rfl
@[simp] theorem setRegion_stripe (n : Nat) (x : Region) : (s.setRegion n x).stripe = s.stripe := rfl
@[simp] theorem setRegion_ports (n : Nat) (x : Region) : (s.setRegion n x).ports = s.ports := rfl
@[simp] theorem setRegion_stage (n : Nat) (x : Region) : (s.setRegion n x).stage = s.stage := rfl
@[simp] theorem setRegion_regionsOn (n : Nat) (x : Region) : (s.setRegion n x).regionsOn = s.regionsOn := rfl
@[simp] theorem setRegion_powerAt (n : Nat) (x : Region) : (s.setRegion n x).powerAt = s.powerAt := rfl
@[simp] theorem setRegion_collL2 (n : Nat) (x : Region) : (s.setRegion n x).collL2 = s.collL2 := rfl
@[simp] theorem setRegion_failBit (n : Nat) (x : Region) : (s.setRegion n x).failBit = s.failBit := rfl
@[simp] theorem setRegion_mgmtBit (n : Nat) (x : Region) : (s.setRegion n x).mgmtBit = s.mgmtBit := rfl
@[simp] theorem setRegion_failSite (n : Nat) (x : Region) : (s.setRegion n x).failSite = s.failSite := rfl
@[simp] theorem setRegion_fwImage (n : Nat) (x : Region) : (s.setRegion n x).fwImage = s.fwImage := rfl
@[simp] theorem setRegion_fwSig (n : Nat) (x : Region) : (s.setRegion n x).fwSig = s.fwSig := rfl
@[simp] theorem setRegion_fuseKey (n : Nat) (x : Region) : (s.setRegion n x).fuseKey = s.fuseKey := rfl
@[simp] theorem setRegion_fuseMin (n : Nat) (x : Region) : (s.setRegion n x).fuseMin = s.fuseMin := rfl
@[simp] theorem setRegion_serial (n : Nat) (x : Region) : (s.setRegion n x).serial = s.serial := rfl
@[simp] theorem setRegion_ctxs (n : Nat) (x : Region) : (s.setRegion n x).ctxs = s.ctxs := rfl
@[simp] theorem setRegion_grids (n : Nat) (x : Region) : (s.setRegion n x).grids = s.grids := rfl
@[simp] theorem setRegion_gidNext (n : Nat) (x : Region) : (s.setRegion n x).gidNext = s.gidNext := rfl
@[simp] theorem setRegion_wgs (n : Nat) (x : Region) : (s.setRegion n x).wgs = s.wgs := rfl
@[simp] theorem setRegion_saved (n : Nat) (x : Region) : (s.setRegion n x).saved = s.saved := rfl
@[simp] theorem setRegion_wideBars (n : Nat) (x : Region) : (s.setRegion n x).wideBars = s.wideBars := rfl
@[simp] theorem setRegion_given (n : Nat) (x : Region) : (s.setRegion n x).given = s.given := rfl
@[simp] theorem setRegion_waitRecs (n : Nat) (x : Region) : (s.setRegion n x).waitRecs = s.waitRecs := rfl
@[simp] theorem setRegion_cores (n : Nat) (x : Region) : (s.setRegion n x).cores = s.cores := rfl
@[simp] theorem setRegion_sites (n : Nat) (x : Region) : (s.setRegion n x).sites = s.sites := rfl
@[simp] theorem setRegion_quadRamp (n : Nat) (x : Region) : (s.setRegion n x).quadRamp = s.quadRamp := rfl
@[simp] theorem setRegion_images (n : Nat) (x : Region) : (s.setRegion n x).images = s.images := rfl
@[simp] theorem setRegion_pools (n : Nat) (x : Region) : (s.setRegion n x).pools = s.pools := rfl

@[simp] theorem setContext_now (n : Nat) (x : Context) : (s.setContext n x).now = s.now := rfl
@[simp] theorem setContext_tick (n : Nat) (x : Context) : (s.setContext n x).tick = s.tick := rfl
@[simp] theorem setContext_agenda (n : Nat) (x : Context) : (s.setContext n x).agenda = s.agenda := rfl
@[simp] theorem setContext_arg (n : Nat) (x : Context) : (s.setContext n x).arg = s.arg := rfl
@[simp] theorem setContext_issue (n : Nat) (x : Context) : (s.setContext n x).issue = s.issue := rfl
@[simp] theorem setContext_late (n : Nat) (x : Context) : (s.setContext n x).late = s.late := rfl
@[simp] theorem setContext_missing (n : Nat) (x : Context) : (s.setContext n x).missing = s.missing := rfl
@[simp] theorem setContext_cur (n : Nat) (x : Context) : (s.setContext n x).cur = s.cur := rfl
@[simp] theorem setContext_mem (n : Nat) (x : Context) : (s.setContext n x).mem = s.mem := rfl
@[simp] theorem setContext_poison (n : Nat) (x : Context) : (s.setContext n x).poison = s.poison := rfl
@[simp] theorem setContext_lines (n : Nat) (x : Context) : (s.setContext n x).lines = s.lines := rfl
@[simp] theorem setContext_waferId (n : Nat) (x : Context) : (s.setContext n x).waferId = s.waferId := rfl
@[simp] theorem setContext_podId (n : Nat) (x : Context) : (s.setContext n x).podId = s.podId := rfl
@[simp] theorem setContext_epol (n : Nat) (x : Context) : (s.setContext n x).epol = s.epol := rfl
@[simp] theorem setContext_csl (n : Nat) (x : Context) : (s.setContext n x).csl = s.csl := rfl
@[simp] theorem setContext_toff (n : Nat) (x : Context) : (s.setContext n x).toff = s.toff := rfl
@[simp] theorem setContext_stripe (n : Nat) (x : Context) : (s.setContext n x).stripe = s.stripe := rfl
@[simp] theorem setContext_ports (n : Nat) (x : Context) : (s.setContext n x).ports = s.ports := rfl
@[simp] theorem setContext_stage (n : Nat) (x : Context) : (s.setContext n x).stage = s.stage := rfl
@[simp] theorem setContext_regionsOn (n : Nat) (x : Context) : (s.setContext n x).regionsOn = s.regionsOn := rfl
@[simp] theorem setContext_powerAt (n : Nat) (x : Context) : (s.setContext n x).powerAt = s.powerAt := rfl
@[simp] theorem setContext_collL2 (n : Nat) (x : Context) : (s.setContext n x).collL2 = s.collL2 := rfl
@[simp] theorem setContext_failBit (n : Nat) (x : Context) : (s.setContext n x).failBit = s.failBit := rfl
@[simp] theorem setContext_mgmtBit (n : Nat) (x : Context) : (s.setContext n x).mgmtBit = s.mgmtBit := rfl
@[simp] theorem setContext_failSite (n : Nat) (x : Context) : (s.setContext n x).failSite = s.failSite := rfl
@[simp] theorem setContext_fwImage (n : Nat) (x : Context) : (s.setContext n x).fwImage = s.fwImage := rfl
@[simp] theorem setContext_fwSig (n : Nat) (x : Context) : (s.setContext n x).fwSig = s.fwSig := rfl
@[simp] theorem setContext_fuseKey (n : Nat) (x : Context) : (s.setContext n x).fuseKey = s.fuseKey := rfl
@[simp] theorem setContext_fuseMin (n : Nat) (x : Context) : (s.setContext n x).fuseMin = s.fuseMin := rfl
@[simp] theorem setContext_serial (n : Nat) (x : Context) : (s.setContext n x).serial = s.serial := rfl
@[simp] theorem setContext_grids (n : Nat) (x : Context) : (s.setContext n x).grids = s.grids := rfl
@[simp] theorem setContext_gidNext (n : Nat) (x : Context) : (s.setContext n x).gidNext = s.gidNext := rfl
@[simp] theorem setContext_wgs (n : Nat) (x : Context) : (s.setContext n x).wgs = s.wgs := rfl
@[simp] theorem setContext_saved (n : Nat) (x : Context) : (s.setContext n x).saved = s.saved := rfl
@[simp] theorem setContext_wideBars (n : Nat) (x : Context) : (s.setContext n x).wideBars = s.wideBars := rfl
@[simp] theorem setContext_given (n : Nat) (x : Context) : (s.setContext n x).given = s.given := rfl
@[simp] theorem setContext_waitRecs (n : Nat) (x : Context) : (s.setContext n x).waitRecs = s.waitRecs := rfl
@[simp] theorem setContext_cores (n : Nat) (x : Context) : (s.setContext n x).cores = s.cores := rfl
@[simp] theorem setContext_sites (n : Nat) (x : Context) : (s.setContext n x).sites = s.sites := rfl
@[simp] theorem setContext_regions (n : Nat) (x : Context) : (s.setContext n x).regions = s.regions := rfl
@[simp] theorem setContext_quadRamp (n : Nat) (x : Context) : (s.setContext n x).quadRamp = s.quadRamp := rfl
@[simp] theorem setContext_images (n : Nat) (x : Context) : (s.setContext n x).images = s.images := rfl
@[simp] theorem setContext_pools (n : Nat) (x : Context) : (s.setContext n x).pools = s.pools := rfl

@[simp] theorem setWg_now (n : Nat) (x : Workgroup) : (s.setWg n x).now = s.now := rfl
@[simp] theorem setWg_tick (n : Nat) (x : Workgroup) : (s.setWg n x).tick = s.tick := rfl
@[simp] theorem setWg_agenda (n : Nat) (x : Workgroup) : (s.setWg n x).agenda = s.agenda := rfl
@[simp] theorem setWg_arg (n : Nat) (x : Workgroup) : (s.setWg n x).arg = s.arg := rfl
@[simp] theorem setWg_issue (n : Nat) (x : Workgroup) : (s.setWg n x).issue = s.issue := rfl
@[simp] theorem setWg_late (n : Nat) (x : Workgroup) : (s.setWg n x).late = s.late := rfl
@[simp] theorem setWg_missing (n : Nat) (x : Workgroup) : (s.setWg n x).missing = s.missing := rfl
@[simp] theorem setWg_cur (n : Nat) (x : Workgroup) : (s.setWg n x).cur = s.cur := rfl
@[simp] theorem setWg_mem (n : Nat) (x : Workgroup) : (s.setWg n x).mem = s.mem := rfl
@[simp] theorem setWg_poison (n : Nat) (x : Workgroup) : (s.setWg n x).poison = s.poison := rfl
@[simp] theorem setWg_lines (n : Nat) (x : Workgroup) : (s.setWg n x).lines = s.lines := rfl
@[simp] theorem setWg_waferId (n : Nat) (x : Workgroup) : (s.setWg n x).waferId = s.waferId := rfl
@[simp] theorem setWg_podId (n : Nat) (x : Workgroup) : (s.setWg n x).podId = s.podId := rfl
@[simp] theorem setWg_epol (n : Nat) (x : Workgroup) : (s.setWg n x).epol = s.epol := rfl
@[simp] theorem setWg_csl (n : Nat) (x : Workgroup) : (s.setWg n x).csl = s.csl := rfl
@[simp] theorem setWg_toff (n : Nat) (x : Workgroup) : (s.setWg n x).toff = s.toff := rfl
@[simp] theorem setWg_stripe (n : Nat) (x : Workgroup) : (s.setWg n x).stripe = s.stripe := rfl
@[simp] theorem setWg_ports (n : Nat) (x : Workgroup) : (s.setWg n x).ports = s.ports := rfl
@[simp] theorem setWg_stage (n : Nat) (x : Workgroup) : (s.setWg n x).stage = s.stage := rfl
@[simp] theorem setWg_regionsOn (n : Nat) (x : Workgroup) : (s.setWg n x).regionsOn = s.regionsOn := rfl
@[simp] theorem setWg_powerAt (n : Nat) (x : Workgroup) : (s.setWg n x).powerAt = s.powerAt := rfl
@[simp] theorem setWg_collL2 (n : Nat) (x : Workgroup) : (s.setWg n x).collL2 = s.collL2 := rfl
@[simp] theorem setWg_failBit (n : Nat) (x : Workgroup) : (s.setWg n x).failBit = s.failBit := rfl
@[simp] theorem setWg_mgmtBit (n : Nat) (x : Workgroup) : (s.setWg n x).mgmtBit = s.mgmtBit := rfl
@[simp] theorem setWg_failSite (n : Nat) (x : Workgroup) : (s.setWg n x).failSite = s.failSite := rfl
@[simp] theorem setWg_fwImage (n : Nat) (x : Workgroup) : (s.setWg n x).fwImage = s.fwImage := rfl
@[simp] theorem setWg_fwSig (n : Nat) (x : Workgroup) : (s.setWg n x).fwSig = s.fwSig := rfl
@[simp] theorem setWg_fuseKey (n : Nat) (x : Workgroup) : (s.setWg n x).fuseKey = s.fuseKey := rfl
@[simp] theorem setWg_fuseMin (n : Nat) (x : Workgroup) : (s.setWg n x).fuseMin = s.fuseMin := rfl
@[simp] theorem setWg_serial (n : Nat) (x : Workgroup) : (s.setWg n x).serial = s.serial := rfl
@[simp] theorem setWg_ctxs (n : Nat) (x : Workgroup) : (s.setWg n x).ctxs = s.ctxs := rfl
@[simp] theorem setWg_grids (n : Nat) (x : Workgroup) : (s.setWg n x).grids = s.grids := rfl
@[simp] theorem setWg_gidNext (n : Nat) (x : Workgroup) : (s.setWg n x).gidNext = s.gidNext := rfl
@[simp] theorem setWg_saved (n : Nat) (x : Workgroup) : (s.setWg n x).saved = s.saved := rfl
@[simp] theorem setWg_wideBars (n : Nat) (x : Workgroup) : (s.setWg n x).wideBars = s.wideBars := rfl
@[simp] theorem setWg_given (n : Nat) (x : Workgroup) : (s.setWg n x).given = s.given := rfl
@[simp] theorem setWg_waitRecs (n : Nat) (x : Workgroup) : (s.setWg n x).waitRecs = s.waitRecs := rfl
@[simp] theorem setWg_cores (n : Nat) (x : Workgroup) : (s.setWg n x).cores = s.cores := rfl
@[simp] theorem setWg_sites (n : Nat) (x : Workgroup) : (s.setWg n x).sites = s.sites := rfl
@[simp] theorem setWg_regions (n : Nat) (x : Workgroup) : (s.setWg n x).regions = s.regions := rfl
@[simp] theorem setWg_quadRamp (n : Nat) (x : Workgroup) : (s.setWg n x).quadRamp = s.quadRamp := rfl
@[simp] theorem setWg_images (n : Nat) (x : Workgroup) : (s.setWg n x).images = s.images := rfl
@[simp] theorem setWg_pools (n : Nat) (x : Workgroup) : (s.setWg n x).pools = s.pools := rfl

@[simp] theorem setGrid_now (n : Nat) (x : Grid) : (s.setGrid n x).now = s.now := rfl
@[simp] theorem setGrid_tick (n : Nat) (x : Grid) : (s.setGrid n x).tick = s.tick := rfl
@[simp] theorem setGrid_agenda (n : Nat) (x : Grid) : (s.setGrid n x).agenda = s.agenda := rfl
@[simp] theorem setGrid_arg (n : Nat) (x : Grid) : (s.setGrid n x).arg = s.arg := rfl
@[simp] theorem setGrid_issue (n : Nat) (x : Grid) : (s.setGrid n x).issue = s.issue := rfl
@[simp] theorem setGrid_late (n : Nat) (x : Grid) : (s.setGrid n x).late = s.late := rfl
@[simp] theorem setGrid_missing (n : Nat) (x : Grid) : (s.setGrid n x).missing = s.missing := rfl
@[simp] theorem setGrid_cur (n : Nat) (x : Grid) : (s.setGrid n x).cur = s.cur := rfl
@[simp] theorem setGrid_mem (n : Nat) (x : Grid) : (s.setGrid n x).mem = s.mem := rfl
@[simp] theorem setGrid_poison (n : Nat) (x : Grid) : (s.setGrid n x).poison = s.poison := rfl
@[simp] theorem setGrid_lines (n : Nat) (x : Grid) : (s.setGrid n x).lines = s.lines := rfl
@[simp] theorem setGrid_waferId (n : Nat) (x : Grid) : (s.setGrid n x).waferId = s.waferId := rfl
@[simp] theorem setGrid_podId (n : Nat) (x : Grid) : (s.setGrid n x).podId = s.podId := rfl
@[simp] theorem setGrid_epol (n : Nat) (x : Grid) : (s.setGrid n x).epol = s.epol := rfl
@[simp] theorem setGrid_csl (n : Nat) (x : Grid) : (s.setGrid n x).csl = s.csl := rfl
@[simp] theorem setGrid_toff (n : Nat) (x : Grid) : (s.setGrid n x).toff = s.toff := rfl
@[simp] theorem setGrid_stripe (n : Nat) (x : Grid) : (s.setGrid n x).stripe = s.stripe := rfl
@[simp] theorem setGrid_ports (n : Nat) (x : Grid) : (s.setGrid n x).ports = s.ports := rfl
@[simp] theorem setGrid_stage (n : Nat) (x : Grid) : (s.setGrid n x).stage = s.stage := rfl
@[simp] theorem setGrid_regionsOn (n : Nat) (x : Grid) : (s.setGrid n x).regionsOn = s.regionsOn := rfl
@[simp] theorem setGrid_powerAt (n : Nat) (x : Grid) : (s.setGrid n x).powerAt = s.powerAt := rfl
@[simp] theorem setGrid_collL2 (n : Nat) (x : Grid) : (s.setGrid n x).collL2 = s.collL2 := rfl
@[simp] theorem setGrid_failBit (n : Nat) (x : Grid) : (s.setGrid n x).failBit = s.failBit := rfl
@[simp] theorem setGrid_mgmtBit (n : Nat) (x : Grid) : (s.setGrid n x).mgmtBit = s.mgmtBit := rfl
@[simp] theorem setGrid_failSite (n : Nat) (x : Grid) : (s.setGrid n x).failSite = s.failSite := rfl
@[simp] theorem setGrid_fwImage (n : Nat) (x : Grid) : (s.setGrid n x).fwImage = s.fwImage := rfl
@[simp] theorem setGrid_fwSig (n : Nat) (x : Grid) : (s.setGrid n x).fwSig = s.fwSig := rfl
@[simp] theorem setGrid_fuseKey (n : Nat) (x : Grid) : (s.setGrid n x).fuseKey = s.fuseKey := rfl
@[simp] theorem setGrid_fuseMin (n : Nat) (x : Grid) : (s.setGrid n x).fuseMin = s.fuseMin := rfl
@[simp] theorem setGrid_serial (n : Nat) (x : Grid) : (s.setGrid n x).serial = s.serial := rfl
@[simp] theorem setGrid_ctxs (n : Nat) (x : Grid) : (s.setGrid n x).ctxs = s.ctxs := rfl
@[simp] theorem setGrid_gidNext (n : Nat) (x : Grid) : (s.setGrid n x).gidNext = s.gidNext := rfl
@[simp] theorem setGrid_wgs (n : Nat) (x : Grid) : (s.setGrid n x).wgs = s.wgs := rfl
@[simp] theorem setGrid_saved (n : Nat) (x : Grid) : (s.setGrid n x).saved = s.saved := rfl
@[simp] theorem setGrid_wideBars (n : Nat) (x : Grid) : (s.setGrid n x).wideBars = s.wideBars := rfl
@[simp] theorem setGrid_given (n : Nat) (x : Grid) : (s.setGrid n x).given = s.given := rfl
@[simp] theorem setGrid_waitRecs (n : Nat) (x : Grid) : (s.setGrid n x).waitRecs = s.waitRecs := rfl
@[simp] theorem setGrid_cores (n : Nat) (x : Grid) : (s.setGrid n x).cores = s.cores := rfl
@[simp] theorem setGrid_sites (n : Nat) (x : Grid) : (s.setGrid n x).sites = s.sites := rfl
@[simp] theorem setGrid_regions (n : Nat) (x : Grid) : (s.setGrid n x).regions = s.regions := rfl
@[simp] theorem setGrid_quadRamp (n : Nat) (x : Grid) : (s.setGrid n x).quadRamp = s.quadRamp := rfl
@[simp] theorem setGrid_images (n : Nat) (x : Grid) : (s.setGrid n x).images = s.images := rfl
@[simp] theorem setGrid_pools (n : Nat) (x : Grid) : (s.setGrid n x).pools = s.pools := rfl

@[simp] theorem setLine_now (pa : Nat) (m : LineMeta) : (s.setLine pa m).now = s.now := rfl
@[simp] theorem setLine_tick (pa : Nat) (m : LineMeta) : (s.setLine pa m).tick = s.tick := rfl
@[simp] theorem setLine_agenda (pa : Nat) (m : LineMeta) : (s.setLine pa m).agenda = s.agenda := rfl
@[simp] theorem setLine_arg (pa : Nat) (m : LineMeta) : (s.setLine pa m).arg = s.arg := rfl
@[simp] theorem setLine_issue (pa : Nat) (m : LineMeta) : (s.setLine pa m).issue = s.issue := rfl
@[simp] theorem setLine_late (pa : Nat) (m : LineMeta) : (s.setLine pa m).late = s.late := rfl
@[simp] theorem setLine_missing (pa : Nat) (m : LineMeta) : (s.setLine pa m).missing = s.missing := rfl
@[simp] theorem setLine_cur (pa : Nat) (m : LineMeta) : (s.setLine pa m).cur = s.cur := rfl
@[simp] theorem setLine_mem (pa : Nat) (m : LineMeta) : (s.setLine pa m).mem = s.mem := rfl
@[simp] theorem setLine_poison (pa : Nat) (m : LineMeta) : (s.setLine pa m).poison = s.poison := rfl
@[simp] theorem setLine_waferId (pa : Nat) (m : LineMeta) : (s.setLine pa m).waferId = s.waferId := rfl
@[simp] theorem setLine_podId (pa : Nat) (m : LineMeta) : (s.setLine pa m).podId = s.podId := rfl
@[simp] theorem setLine_epol (pa : Nat) (m : LineMeta) : (s.setLine pa m).epol = s.epol := rfl
@[simp] theorem setLine_csl (pa : Nat) (m : LineMeta) : (s.setLine pa m).csl = s.csl := rfl
@[simp] theorem setLine_toff (pa : Nat) (m : LineMeta) : (s.setLine pa m).toff = s.toff := rfl
@[simp] theorem setLine_stripe (pa : Nat) (m : LineMeta) : (s.setLine pa m).stripe = s.stripe := rfl
@[simp] theorem setLine_ports (pa : Nat) (m : LineMeta) : (s.setLine pa m).ports = s.ports := rfl
@[simp] theorem setLine_stage (pa : Nat) (m : LineMeta) : (s.setLine pa m).stage = s.stage := rfl
@[simp] theorem setLine_regionsOn (pa : Nat) (m : LineMeta) : (s.setLine pa m).regionsOn = s.regionsOn := rfl
@[simp] theorem setLine_powerAt (pa : Nat) (m : LineMeta) : (s.setLine pa m).powerAt = s.powerAt := rfl
@[simp] theorem setLine_collL2 (pa : Nat) (m : LineMeta) : (s.setLine pa m).collL2 = s.collL2 := rfl
@[simp] theorem setLine_failBit (pa : Nat) (m : LineMeta) : (s.setLine pa m).failBit = s.failBit := rfl
@[simp] theorem setLine_mgmtBit (pa : Nat) (m : LineMeta) : (s.setLine pa m).mgmtBit = s.mgmtBit := rfl
@[simp] theorem setLine_failSite (pa : Nat) (m : LineMeta) : (s.setLine pa m).failSite = s.failSite := rfl
@[simp] theorem setLine_fwImage (pa : Nat) (m : LineMeta) : (s.setLine pa m).fwImage = s.fwImage := rfl
@[simp] theorem setLine_fwSig (pa : Nat) (m : LineMeta) : (s.setLine pa m).fwSig = s.fwSig := rfl
@[simp] theorem setLine_fuseKey (pa : Nat) (m : LineMeta) : (s.setLine pa m).fuseKey = s.fuseKey := rfl
@[simp] theorem setLine_fuseMin (pa : Nat) (m : LineMeta) : (s.setLine pa m).fuseMin = s.fuseMin := rfl
@[simp] theorem setLine_serial (pa : Nat) (m : LineMeta) : (s.setLine pa m).serial = s.serial := rfl
@[simp] theorem setLine_ctxs (pa : Nat) (m : LineMeta) : (s.setLine pa m).ctxs = s.ctxs := rfl
@[simp] theorem setLine_grids (pa : Nat) (m : LineMeta) : (s.setLine pa m).grids = s.grids := rfl
@[simp] theorem setLine_gidNext (pa : Nat) (m : LineMeta) : (s.setLine pa m).gidNext = s.gidNext := rfl
@[simp] theorem setLine_wgs (pa : Nat) (m : LineMeta) : (s.setLine pa m).wgs = s.wgs := rfl
@[simp] theorem setLine_saved (pa : Nat) (m : LineMeta) : (s.setLine pa m).saved = s.saved := rfl
@[simp] theorem setLine_wideBars (pa : Nat) (m : LineMeta) : (s.setLine pa m).wideBars = s.wideBars := rfl
@[simp] theorem setLine_given (pa : Nat) (m : LineMeta) : (s.setLine pa m).given = s.given := rfl
@[simp] theorem setLine_waitRecs (pa : Nat) (m : LineMeta) : (s.setLine pa m).waitRecs = s.waitRecs := rfl
@[simp] theorem setLine_cores (pa : Nat) (m : LineMeta) : (s.setLine pa m).cores = s.cores := rfl
@[simp] theorem setLine_sites (pa : Nat) (m : LineMeta) : (s.setLine pa m).sites = s.sites := rfl
@[simp] theorem setLine_regions (pa : Nat) (m : LineMeta) : (s.setLine pa m).regions = s.regions := rfl
@[simp] theorem setLine_quadRamp (pa : Nat) (m : LineMeta) : (s.setLine pa m).quadRamp = s.quadRamp := rfl
@[simp] theorem setLine_images (pa : Nat) (m : LineMeta) : (s.setLine pa m).images = s.images := rfl
@[simp] theorem setLine_pools (pa : Nat) (m : LineMeta) : (s.setLine pa m).pools = s.pools := rfl

@[simp] theorem later_now (es : List Event) : (s.later es).now = s.now := rfl
@[simp] theorem later_tick (es : List Event) : (s.later es).tick = s.tick := rfl
@[simp] theorem later_arg (es : List Event) : (s.later es).arg = s.arg := rfl
@[simp] theorem later_issue (es : List Event) : (s.later es).issue = s.issue := rfl
@[simp] theorem later_late (es : List Event) : (s.later es).late = s.late := rfl
@[simp] theorem later_missing (es : List Event) : (s.later es).missing = s.missing := rfl
@[simp] theorem later_cur (es : List Event) : (s.later es).cur = s.cur := rfl
@[simp] theorem later_mem (es : List Event) : (s.later es).mem = s.mem := rfl
@[simp] theorem later_poison (es : List Event) : (s.later es).poison = s.poison := rfl
@[simp] theorem later_lines (es : List Event) : (s.later es).lines = s.lines := rfl
@[simp] theorem later_waferId (es : List Event) : (s.later es).waferId = s.waferId := rfl
@[simp] theorem later_podId (es : List Event) : (s.later es).podId = s.podId := rfl
@[simp] theorem later_epol (es : List Event) : (s.later es).epol = s.epol := rfl
@[simp] theorem later_csl (es : List Event) : (s.later es).csl = s.csl := rfl
@[simp] theorem later_toff (es : List Event) : (s.later es).toff = s.toff := rfl
@[simp] theorem later_stripe (es : List Event) : (s.later es).stripe = s.stripe := rfl
@[simp] theorem later_ports (es : List Event) : (s.later es).ports = s.ports := rfl
@[simp] theorem later_stage (es : List Event) : (s.later es).stage = s.stage := rfl
@[simp] theorem later_regionsOn (es : List Event) : (s.later es).regionsOn = s.regionsOn := rfl
@[simp] theorem later_powerAt (es : List Event) : (s.later es).powerAt = s.powerAt := rfl
@[simp] theorem later_collL2 (es : List Event) : (s.later es).collL2 = s.collL2 := rfl
@[simp] theorem later_failBit (es : List Event) : (s.later es).failBit = s.failBit := rfl
@[simp] theorem later_mgmtBit (es : List Event) : (s.later es).mgmtBit = s.mgmtBit := rfl
@[simp] theorem later_failSite (es : List Event) : (s.later es).failSite = s.failSite := rfl
@[simp] theorem later_fwImage (es : List Event) : (s.later es).fwImage = s.fwImage := rfl
@[simp] theorem later_fwSig (es : List Event) : (s.later es).fwSig = s.fwSig := rfl
@[simp] theorem later_fuseKey (es : List Event) : (s.later es).fuseKey = s.fuseKey := rfl
@[simp] theorem later_fuseMin (es : List Event) : (s.later es).fuseMin = s.fuseMin := rfl
@[simp] theorem later_serial (es : List Event) : (s.later es).serial = s.serial := rfl
@[simp] theorem later_ctxs (es : List Event) : (s.later es).ctxs = s.ctxs := rfl
@[simp] theorem later_grids (es : List Event) : (s.later es).grids = s.grids := rfl
@[simp] theorem later_gidNext (es : List Event) : (s.later es).gidNext = s.gidNext := rfl
@[simp] theorem later_wgs (es : List Event) : (s.later es).wgs = s.wgs := rfl
@[simp] theorem later_saved (es : List Event) : (s.later es).saved = s.saved := rfl
@[simp] theorem later_wideBars (es : List Event) : (s.later es).wideBars = s.wideBars := rfl
@[simp] theorem later_given (es : List Event) : (s.later es).given = s.given := rfl
@[simp] theorem later_waitRecs (es : List Event) : (s.later es).waitRecs = s.waitRecs := rfl
@[simp] theorem later_cores (es : List Event) : (s.later es).cores = s.cores := rfl
@[simp] theorem later_sites (es : List Event) : (s.later es).sites = s.sites := rfl
@[simp] theorem later_regions (es : List Event) : (s.later es).regions = s.regions := rfl
@[simp] theorem later_quadRamp (es : List Event) : (s.later es).quadRamp = s.quadRamp := rfl
@[simp] theorem later_images (es : List Event) : (s.later es).images = s.images := rfl
@[simp] theorem later_pools (es : List Event) : (s.later es).pools = s.pools := rfl

@[simp] theorem setWin_now (n off : Nat) (v : DWord) : (s.setWin n off v).now = s.now := rfl
@[simp] theorem setWin_tick (n off : Nat) (v : DWord) : (s.setWin n off v).tick = s.tick := rfl
@[simp] theorem setWin_agenda (n off : Nat) (v : DWord) : (s.setWin n off v).agenda = s.agenda := rfl
@[simp] theorem setWin_arg (n off : Nat) (v : DWord) : (s.setWin n off v).arg = s.arg := rfl
@[simp] theorem setWin_issue (n off : Nat) (v : DWord) : (s.setWin n off v).issue = s.issue := rfl
@[simp] theorem setWin_late (n off : Nat) (v : DWord) : (s.setWin n off v).late = s.late := rfl
@[simp] theorem setWin_missing (n off : Nat) (v : DWord) : (s.setWin n off v).missing = s.missing := rfl
@[simp] theorem setWin_cur (n off : Nat) (v : DWord) : (s.setWin n off v).cur = s.cur := rfl
@[simp] theorem setWin_mem (n off : Nat) (v : DWord) : (s.setWin n off v).mem = s.mem := rfl
@[simp] theorem setWin_poison (n off : Nat) (v : DWord) : (s.setWin n off v).poison = s.poison := rfl
@[simp] theorem setWin_lines (n off : Nat) (v : DWord) : (s.setWin n off v).lines = s.lines := rfl
@[simp] theorem setWin_waferId (n off : Nat) (v : DWord) : (s.setWin n off v).waferId = s.waferId := rfl
@[simp] theorem setWin_podId (n off : Nat) (v : DWord) : (s.setWin n off v).podId = s.podId := rfl
@[simp] theorem setWin_epol (n off : Nat) (v : DWord) : (s.setWin n off v).epol = s.epol := rfl
@[simp] theorem setWin_csl (n off : Nat) (v : DWord) : (s.setWin n off v).csl = s.csl := rfl
@[simp] theorem setWin_toff (n off : Nat) (v : DWord) : (s.setWin n off v).toff = s.toff := rfl
@[simp] theorem setWin_stripe (n off : Nat) (v : DWord) : (s.setWin n off v).stripe = s.stripe := rfl
@[simp] theorem setWin_ports (n off : Nat) (v : DWord) : (s.setWin n off v).ports = s.ports := rfl
@[simp] theorem setWin_stage (n off : Nat) (v : DWord) : (s.setWin n off v).stage = s.stage := rfl
@[simp] theorem setWin_regionsOn (n off : Nat) (v : DWord) : (s.setWin n off v).regionsOn = s.regionsOn := rfl
@[simp] theorem setWin_powerAt (n off : Nat) (v : DWord) : (s.setWin n off v).powerAt = s.powerAt := rfl
@[simp] theorem setWin_collL2 (n off : Nat) (v : DWord) : (s.setWin n off v).collL2 = s.collL2 := rfl
@[simp] theorem setWin_failBit (n off : Nat) (v : DWord) : (s.setWin n off v).failBit = s.failBit := rfl
@[simp] theorem setWin_mgmtBit (n off : Nat) (v : DWord) : (s.setWin n off v).mgmtBit = s.mgmtBit := rfl
@[simp] theorem setWin_failSite (n off : Nat) (v : DWord) : (s.setWin n off v).failSite = s.failSite := rfl
@[simp] theorem setWin_fwImage (n off : Nat) (v : DWord) : (s.setWin n off v).fwImage = s.fwImage := rfl
@[simp] theorem setWin_fwSig (n off : Nat) (v : DWord) : (s.setWin n off v).fwSig = s.fwSig := rfl
@[simp] theorem setWin_fuseKey (n off : Nat) (v : DWord) : (s.setWin n off v).fuseKey = s.fuseKey := rfl
@[simp] theorem setWin_fuseMin (n off : Nat) (v : DWord) : (s.setWin n off v).fuseMin = s.fuseMin := rfl
@[simp] theorem setWin_serial (n off : Nat) (v : DWord) : (s.setWin n off v).serial = s.serial := rfl
@[simp] theorem setWin_ctxs (n off : Nat) (v : DWord) : (s.setWin n off v).ctxs = s.ctxs := rfl
@[simp] theorem setWin_grids (n off : Nat) (v : DWord) : (s.setWin n off v).grids = s.grids := rfl
@[simp] theorem setWin_gidNext (n off : Nat) (v : DWord) : (s.setWin n off v).gidNext = s.gidNext := rfl
@[simp] theorem setWin_wgs (n off : Nat) (v : DWord) : (s.setWin n off v).wgs = s.wgs := rfl
@[simp] theorem setWin_saved (n off : Nat) (v : DWord) : (s.setWin n off v).saved = s.saved := rfl
@[simp] theorem setWin_wideBars (n off : Nat) (v : DWord) : (s.setWin n off v).wideBars = s.wideBars := rfl
@[simp] theorem setWin_given (n off : Nat) (v : DWord) : (s.setWin n off v).given = s.given := rfl
@[simp] theorem setWin_waitRecs (n off : Nat) (v : DWord) : (s.setWin n off v).waitRecs = s.waitRecs := rfl
@[simp] theorem setWin_cores (n off : Nat) (v : DWord) : (s.setWin n off v).cores = s.cores := rfl
@[simp] theorem setWin_regions (n off : Nat) (v : DWord) : (s.setWin n off v).regions = s.regions := rfl
@[simp] theorem setWin_quadRamp (n off : Nat) (v : DWord) : (s.setWin n off v).quadRamp = s.quadRamp := rfl
@[simp] theorem setWin_images (n off : Nat) (v : DWord) : (s.setWin n off v).images = s.images := rfl
@[simp] theorem setWin_pools (n off : Nat) (v : DWord) : (s.setWin n off v).pools = s.pools := rfl

@[simp] theorem addWin_now (n off d : Nat) : (s.addWin n off d).now = s.now := rfl
@[simp] theorem addWin_tick (n off d : Nat) : (s.addWin n off d).tick = s.tick := rfl
@[simp] theorem addWin_agenda (n off d : Nat) : (s.addWin n off d).agenda = s.agenda := rfl
@[simp] theorem addWin_arg (n off d : Nat) : (s.addWin n off d).arg = s.arg := rfl
@[simp] theorem addWin_issue (n off d : Nat) : (s.addWin n off d).issue = s.issue := rfl
@[simp] theorem addWin_late (n off d : Nat) : (s.addWin n off d).late = s.late := rfl
@[simp] theorem addWin_missing (n off d : Nat) : (s.addWin n off d).missing = s.missing := rfl
@[simp] theorem addWin_cur (n off d : Nat) : (s.addWin n off d).cur = s.cur := rfl
@[simp] theorem addWin_mem (n off d : Nat) : (s.addWin n off d).mem = s.mem := rfl
@[simp] theorem addWin_poison (n off d : Nat) : (s.addWin n off d).poison = s.poison := rfl
@[simp] theorem addWin_lines (n off d : Nat) : (s.addWin n off d).lines = s.lines := rfl
@[simp] theorem addWin_waferId (n off d : Nat) : (s.addWin n off d).waferId = s.waferId := rfl
@[simp] theorem addWin_podId (n off d : Nat) : (s.addWin n off d).podId = s.podId := rfl
@[simp] theorem addWin_epol (n off d : Nat) : (s.addWin n off d).epol = s.epol := rfl
@[simp] theorem addWin_csl (n off d : Nat) : (s.addWin n off d).csl = s.csl := rfl
@[simp] theorem addWin_toff (n off d : Nat) : (s.addWin n off d).toff = s.toff := rfl
@[simp] theorem addWin_stripe (n off d : Nat) : (s.addWin n off d).stripe = s.stripe := rfl
@[simp] theorem addWin_ports (n off d : Nat) : (s.addWin n off d).ports = s.ports := rfl
@[simp] theorem addWin_stage (n off d : Nat) : (s.addWin n off d).stage = s.stage := rfl
@[simp] theorem addWin_regionsOn (n off d : Nat) : (s.addWin n off d).regionsOn = s.regionsOn := rfl
@[simp] theorem addWin_powerAt (n off d : Nat) : (s.addWin n off d).powerAt = s.powerAt := rfl
@[simp] theorem addWin_collL2 (n off d : Nat) : (s.addWin n off d).collL2 = s.collL2 := rfl
@[simp] theorem addWin_failBit (n off d : Nat) : (s.addWin n off d).failBit = s.failBit := rfl
@[simp] theorem addWin_mgmtBit (n off d : Nat) : (s.addWin n off d).mgmtBit = s.mgmtBit := rfl
@[simp] theorem addWin_failSite (n off d : Nat) : (s.addWin n off d).failSite = s.failSite := rfl
@[simp] theorem addWin_fwImage (n off d : Nat) : (s.addWin n off d).fwImage = s.fwImage := rfl
@[simp] theorem addWin_fwSig (n off d : Nat) : (s.addWin n off d).fwSig = s.fwSig := rfl
@[simp] theorem addWin_fuseKey (n off d : Nat) : (s.addWin n off d).fuseKey = s.fuseKey := rfl
@[simp] theorem addWin_fuseMin (n off d : Nat) : (s.addWin n off d).fuseMin = s.fuseMin := rfl
@[simp] theorem addWin_serial (n off d : Nat) : (s.addWin n off d).serial = s.serial := rfl
@[simp] theorem addWin_ctxs (n off d : Nat) : (s.addWin n off d).ctxs = s.ctxs := rfl
@[simp] theorem addWin_grids (n off d : Nat) : (s.addWin n off d).grids = s.grids := rfl
@[simp] theorem addWin_gidNext (n off d : Nat) : (s.addWin n off d).gidNext = s.gidNext := rfl
@[simp] theorem addWin_wgs (n off d : Nat) : (s.addWin n off d).wgs = s.wgs := rfl
@[simp] theorem addWin_saved (n off d : Nat) : (s.addWin n off d).saved = s.saved := rfl
@[simp] theorem addWin_wideBars (n off d : Nat) : (s.addWin n off d).wideBars = s.wideBars := rfl
@[simp] theorem addWin_given (n off d : Nat) : (s.addWin n off d).given = s.given := rfl
@[simp] theorem addWin_waitRecs (n off d : Nat) : (s.addWin n off d).waitRecs = s.waitRecs := rfl
@[simp] theorem addWin_cores (n off d : Nat) : (s.addWin n off d).cores = s.cores := rfl
@[simp] theorem addWin_regions (n off d : Nat) : (s.addWin n off d).regions = s.regions := rfl
@[simp] theorem addWin_quadRamp (n off d : Nat) : (s.addWin n off d).quadRamp = s.quadRamp := rfl
@[simp] theorem addWin_images (n off d : Nat) : (s.addWin n off d).images = s.images := rfl
@[simp] theorem addWin_pools (n off d : Nat) : (s.addWin n off d).pools = s.pools := rfl

@[simp] theorem setCore_cores (c : Nat) (x : Core) : (s.setCore c x).cores = Table.insert s.cores c x := rfl
@[simp] theorem setSite_sites (n : Nat) (x : Site) : (s.setSite n x).sites = Table.insert s.sites n x := rfl
@[simp] theorem setRegion_regions (n : Nat) (x : Region) : (s.setRegion n x).regions = Table.insert s.regions n x := rfl
@[simp] theorem setContext_ctxs (n : Nat) (x : Context) : (s.setContext n x).ctxs = Table.insert s.ctxs n x := rfl
@[simp] theorem setWg_wgs (n : Nat) (x : Workgroup) : (s.setWg n x).wgs = Table.insert s.wgs n x := rfl
@[simp] theorem setGrid_grids (n : Nat) (x : Grid) : (s.setGrid n x).grids = Table.insert s.grids n x := rfl

/-! The registers of a coach: a write changes its own table, and nothing else of the coach. -/

variable (c : Coach)

@[simp] theorem putV_state (n t : Nat) (x : Word) : (c.putV n t x).state = c.state := rfl
@[simp] theorem putV_pc (n t : Nat) (x : Word) : (c.putV n t x).pc = c.pc := rfl
@[simp] theorem putV_clause (n t : Nat) (x : Word) : (c.putV n t x).clause = c.clause := rfl
@[simp] theorem putV_exec (n t : Nat) (x : Word) : (c.putV n t x).exec = c.exec := rfl
@[simp] theorem putV_exited (n t : Nat) (x : Word) : (c.putV n t x).exited = c.exited := rfl
@[simp] theorem putV_s (n t : Nat) (x : Word) : (c.putV n t x).s = c.s := rfl
@[simp] theorem putV_p (n t : Nat) (x : Word) : (c.putV n t x).p = c.p := rfl
@[simp] theorem putV_flags (n t : Nat) (x : Word) : (c.putV n t x).flags = c.flags := rfl
@[simp] theorem putV_div (n t : Nat) (x : Word) : (c.putV n t x).div = c.div := rfl
@[simp] theorem putV_dphase (n t : Nat) (x : Word) : (c.putV n t x).dphase = c.dphase := rfl
@[simp] theorem putV_tcause (n t : Nat) (x : Word) : (c.putV n t x).tcause = c.tcause := rfl
@[simp] theorem putV_tpc (n t : Nat) (x : Word) : (c.putV n t x).tpc = c.tpc := rfl
@[simp] theorem putV_taddr (n t : Nat) (x : Word) : (c.putV n t x).taddr = c.taddr := rfl
@[simp] theorem putV_trqn (n t : Nat) (x : Word) : (c.putV n t x).trqn = c.trqn := rfl
@[simp] theorem putV_tmask (n t : Nat) (x : Word) : (c.putV n t x).tmask = c.tmask := rfl
@[simp] theorem putV_frame (n t : Nat) (x : Word) : (c.putV n t x).frame = c.frame := rfl
@[simp] theorem putV_pendTrap (n t : Nat) (x : Word) : (c.putV n t x).pendTrap = c.pendTrap := rfl
@[simp] theorem putV_rq (n t : Nat) (x : Word) : (c.putV n t x).rq = c.rq := rfl
@[simp] theorem putV_flights (n t : Nat) (x : Word) : (c.putV n t x).flights = c.flights := rfl
@[simp] theorem putV_nextId (n t : Nat) (x : Word) : (c.putV n t x).nextId = c.nextId := rfl
@[simp] theorem putV_wait (n t : Nat) (x : Word) : (c.putV n t x).wait = c.wait := rfl
@[simp] theorem putV_deadlineRisk (n t : Nat) (x : Word) : (c.putV n t x).deadlineRisk = c.deadlineRisk := rfl
@[simp] theorem putV_preemptNotice (n t : Nat) (x : Word) : (c.putV n t x).preemptNotice = c.preemptNotice := rfl
@[simp] theorem putV_rfails (n t : Nat) (x : Word) : (c.putV n t x).rfails = c.rfails := rfl
@[simp] theorem putV_heldCauses (n t : Nat) (x : Word) : (c.putV n t x).heldCauses = c.heldCauses := rfl
@[simp] theorem putV_escalated (n t : Nat) (x : Word) : (c.putV n t x).escalated = c.escalated := rfl
@[simp] theorem putV_stepRec (n t : Nat) (x : Word) : (c.putV n t x).stepRec = c.stepRec := rfl
@[simp] theorem putV_openBatch (n t : Nat) (x : Word) : (c.putV n t x).openBatch = c.openBatch := rfl
@[simp] theorem putV_lastBatch (n t : Nat) (x : Word) : (c.putV n t x).lastBatch = c.lastBatch := rfl
@[simp] theorem putV_reports (n t : Nat) (x : Word) : (c.putV n t x).reports = c.reports := rfl
@[simp] theorem putV_batchWrap (n t : Nat) (x : Word) : (c.putV n t x).batchWrap = c.batchWrap := rfl
@[simp] theorem putV_reconv (n t : Nat) (x : Word) : (c.putV n t x).reconv = c.reconv := rfl
@[simp] theorem putV_copies (n t : Nat) (x : Word) : (c.putV n t x).copies = c.copies := rfl
@[simp] theorem putV_slice (n t : Nat) (x : Word) : (c.putV n t x).slice = c.slice := rfl
@[simp] theorem putV_octet (n t : Nat) (x : Word) : (c.putV n t x).octet = c.octet := rfl
@[simp] theorem putV_slotIx (n t : Nat) (x : Word) : (c.putV n t x).slotIx = c.slotIx := rfl
@[simp] theorem putV_stamp (n t : Nat) (x : Word) : (c.putV n t x).stamp = c.stamp := rfl
@[simp] theorem putV_holds (n t : Nat) (x : Word) : (c.putV n t x).holds = c.holds := rfl
@[simp] theorem putV_starv (n t : Nat) (x : Word) : (c.putV n t x).starv = c.starv := rfl

@[simp] theorem writeP_state (n t : Nat) (b : Bool) : (c.writeP n t b).state = c.state := by unfold Coach.writeP; split <;> rfl
@[simp] theorem writeP_pc (n t : Nat) (b : Bool) : (c.writeP n t b).pc = c.pc := by unfold Coach.writeP; split <;> rfl
@[simp] theorem writeP_clause (n t : Nat) (b : Bool) : (c.writeP n t b).clause = c.clause := by unfold Coach.writeP; split <;> rfl
@[simp] theorem writeP_exec (n t : Nat) (b : Bool) : (c.writeP n t b).exec = c.exec := by unfold Coach.writeP; split <;> rfl
@[simp] theorem writeP_exited (n t : Nat) (b : Bool) : (c.writeP n t b).exited = c.exited := by unfold Coach.writeP; split <;> rfl
@[simp] theorem writeP_v (n t : Nat) (b : Bool) : (c.writeP n t b).v = c.v := by unfold Coach.writeP; split <;> rfl
@[simp] theorem writeP_s (n t : Nat) (b : Bool) : (c.writeP n t b).s = c.s := by unfold Coach.writeP; split <;> rfl
@[simp] theorem writeP_flags (n t : Nat) (b : Bool) : (c.writeP n t b).flags = c.flags := by unfold Coach.writeP; split <;> rfl
@[simp] theorem writeP_div (n t : Nat) (b : Bool) : (c.writeP n t b).div = c.div := by unfold Coach.writeP; split <;> rfl
@[simp] theorem writeP_dphase (n t : Nat) (b : Bool) : (c.writeP n t b).dphase = c.dphase := by unfold Coach.writeP; split <;> rfl
@[simp] theorem writeP_tcause (n t : Nat) (b : Bool) : (c.writeP n t b).tcause = c.tcause := by unfold Coach.writeP; split <;> rfl
@[simp] theorem writeP_tpc (n t : Nat) (b : Bool) : (c.writeP n t b).tpc = c.tpc := by unfold Coach.writeP; split <;> rfl
@[simp] theorem writeP_taddr (n t : Nat) (b : Bool) : (c.writeP n t b).taddr = c.taddr := by unfold Coach.writeP; split <;> rfl
@[simp] theorem writeP_trqn (n t : Nat) (b : Bool) : (c.writeP n t b).trqn = c.trqn := by unfold Coach.writeP; split <;> rfl
@[simp] theorem writeP_tmask (n t : Nat) (b : Bool) : (c.writeP n t b).tmask = c.tmask := by unfold Coach.writeP; split <;> rfl
@[simp] theorem writeP_frame (n t : Nat) (b : Bool) : (c.writeP n t b).frame = c.frame := by unfold Coach.writeP; split <;> rfl
@[simp] theorem writeP_pendTrap (n t : Nat) (b : Bool) : (c.writeP n t b).pendTrap = c.pendTrap := by unfold Coach.writeP; split <;> rfl
@[simp] theorem writeP_rq (n t : Nat) (b : Bool) : (c.writeP n t b).rq = c.rq := by unfold Coach.writeP; split <;> rfl
@[simp] theorem writeP_flights (n t : Nat) (b : Bool) : (c.writeP n t b).flights = c.flights := by unfold Coach.writeP; split <;> rfl
@[simp] theorem writeP_nextId (n t : Nat) (b : Bool) : (c.writeP n t b).nextId = c.nextId := by unfold Coach.writeP; split <;> rfl
@[simp] theorem writeP_wait (n t : Nat) (b : Bool) : (c.writeP n t b).wait = c.wait := by unfold Coach.writeP; split <;> rfl
@[simp] theorem writeP_deadlineRisk (n t : Nat) (b : Bool) : (c.writeP n t b).deadlineRisk = c.deadlineRisk := by unfold Coach.writeP; split <;> rfl
@[simp] theorem writeP_preemptNotice (n t : Nat) (b : Bool) : (c.writeP n t b).preemptNotice = c.preemptNotice := by unfold Coach.writeP; split <;> rfl
@[simp] theorem writeP_rfails (n t : Nat) (b : Bool) : (c.writeP n t b).rfails = c.rfails := by unfold Coach.writeP; split <;> rfl
@[simp] theorem writeP_heldCauses (n t : Nat) (b : Bool) : (c.writeP n t b).heldCauses = c.heldCauses := by unfold Coach.writeP; split <;> rfl
@[simp] theorem writeP_escalated (n t : Nat) (b : Bool) : (c.writeP n t b).escalated = c.escalated := by unfold Coach.writeP; split <;> rfl
@[simp] theorem writeP_stepRec (n t : Nat) (b : Bool) : (c.writeP n t b).stepRec = c.stepRec := by unfold Coach.writeP; split <;> rfl
@[simp] theorem writeP_openBatch (n t : Nat) (b : Bool) : (c.writeP n t b).openBatch = c.openBatch := by unfold Coach.writeP; split <;> rfl
@[simp] theorem writeP_lastBatch (n t : Nat) (b : Bool) : (c.writeP n t b).lastBatch = c.lastBatch := by unfold Coach.writeP; split <;> rfl
@[simp] theorem writeP_reports (n t : Nat) (b : Bool) : (c.writeP n t b).reports = c.reports := by unfold Coach.writeP; split <;> rfl
@[simp] theorem writeP_batchWrap (n t : Nat) (b : Bool) : (c.writeP n t b).batchWrap = c.batchWrap := by unfold Coach.writeP; split <;> rfl
@[simp] theorem writeP_reconv (n t : Nat) (b : Bool) : (c.writeP n t b).reconv = c.reconv := by unfold Coach.writeP; split <;> rfl
@[simp] theorem writeP_copies (n t : Nat) (b : Bool) : (c.writeP n t b).copies = c.copies := by unfold Coach.writeP; split <;> rfl
@[simp] theorem writeP_slice (n t : Nat) (b : Bool) : (c.writeP n t b).slice = c.slice := by unfold Coach.writeP; split <;> rfl
@[simp] theorem writeP_octet (n t : Nat) (b : Bool) : (c.writeP n t b).octet = c.octet := by unfold Coach.writeP; split <;> rfl
@[simp] theorem writeP_slotIx (n t : Nat) (b : Bool) : (c.writeP n t b).slotIx = c.slotIx := by unfold Coach.writeP; split <;> rfl
@[simp] theorem writeP_stamp (n t : Nat) (b : Bool) : (c.writeP n t b).stamp = c.stamp := by unfold Coach.writeP; split <;> rfl
@[simp] theorem writeP_holds (n t : Nat) (b : Bool) : (c.writeP n t b).holds = c.holds := by unfold Coach.writeP; split <;> rfl
@[simp] theorem writeP_starv (n t : Nat) (b : Bool) : (c.writeP n t b).starv = c.starv := by unfold Coach.writeP; split <;> rfl

@[simp] theorem setFlag_state (f n : Nat) : (c.setFlag f n).state = c.state := rfl
@[simp] theorem setFlag_pc (f n : Nat) : (c.setFlag f n).pc = c.pc := rfl
@[simp] theorem setFlag_clause (f n : Nat) : (c.setFlag f n).clause = c.clause := rfl
@[simp] theorem setFlag_exec (f n : Nat) : (c.setFlag f n).exec = c.exec := rfl
@[simp] theorem setFlag_exited (f n : Nat) : (c.setFlag f n).exited = c.exited := rfl
@[simp] theorem setFlag_v (f n : Nat) : (c.setFlag f n).v = c.v := rfl
@[simp] theorem setFlag_s (f n : Nat) : (c.setFlag f n).s = c.s := rfl
@[simp] theorem setFlag_p (f n : Nat) : (c.setFlag f n).p = c.p := rfl
@[simp] theorem setFlag_div (f n : Nat) : (c.setFlag f n).div = c.div := rfl
@[simp] theorem setFlag_dphase (f n : Nat) : (c.setFlag f n).dphase = c.dphase := rfl
@[simp] theorem setFlag_tcause (f n : Nat) : (c.setFlag f n).tcause = c.tcause := rfl
@[simp] theorem setFlag_tpc (f n : Nat) : (c.setFlag f n).tpc = c.tpc := rfl
@[simp] theorem setFlag_taddr (f n : Nat) : (c.setFlag f n).taddr = c.taddr := rfl
@[simp] theorem setFlag_trqn (f n : Nat) : (c.setFlag f n).trqn = c.trqn := rfl
@[simp] theorem setFlag_tmask (f n : Nat) : (c.setFlag f n).tmask = c.tmask := rfl
@[simp] theorem setFlag_frame (f n : Nat) : (c.setFlag f n).frame = c.frame := rfl
@[simp] theorem setFlag_pendTrap (f n : Nat) : (c.setFlag f n).pendTrap = c.pendTrap := rfl
@[simp] theorem setFlag_rq (f n : Nat) : (c.setFlag f n).rq = c.rq := rfl
@[simp] theorem setFlag_flights (f n : Nat) : (c.setFlag f n).flights = c.flights := rfl
@[simp] theorem setFlag_nextId (f n : Nat) : (c.setFlag f n).nextId = c.nextId := rfl
@[simp] theorem setFlag_wait (f n : Nat) : (c.setFlag f n).wait = c.wait := rfl
@[simp] theorem setFlag_deadlineRisk (f n : Nat) : (c.setFlag f n).deadlineRisk = c.deadlineRisk := rfl
@[simp] theorem setFlag_preemptNotice (f n : Nat) : (c.setFlag f n).preemptNotice = c.preemptNotice := rfl
@[simp] theorem setFlag_rfails (f n : Nat) : (c.setFlag f n).rfails = c.rfails := rfl
@[simp] theorem setFlag_heldCauses (f n : Nat) : (c.setFlag f n).heldCauses = c.heldCauses := rfl
@[simp] theorem setFlag_escalated (f n : Nat) : (c.setFlag f n).escalated = c.escalated := rfl
@[simp] theorem setFlag_stepRec (f n : Nat) : (c.setFlag f n).stepRec = c.stepRec := rfl
@[simp] theorem setFlag_openBatch (f n : Nat) : (c.setFlag f n).openBatch = c.openBatch := rfl
@[simp] theorem setFlag_lastBatch (f n : Nat) : (c.setFlag f n).lastBatch = c.lastBatch := rfl
@[simp] theorem setFlag_reports (f n : Nat) : (c.setFlag f n).reports = c.reports := rfl
@[simp] theorem setFlag_batchWrap (f n : Nat) : (c.setFlag f n).batchWrap = c.batchWrap := rfl
@[simp] theorem setFlag_reconv (f n : Nat) : (c.setFlag f n).reconv = c.reconv := rfl
@[simp] theorem setFlag_copies (f n : Nat) : (c.setFlag f n).copies = c.copies := rfl
@[simp] theorem setFlag_slice (f n : Nat) : (c.setFlag f n).slice = c.slice := rfl
@[simp] theorem setFlag_octet (f n : Nat) : (c.setFlag f n).octet = c.octet := rfl
@[simp] theorem setFlag_slotIx (f n : Nat) : (c.setFlag f n).slotIx = c.slotIx := rfl
@[simp] theorem setFlag_stamp (f n : Nat) : (c.setFlag f n).stamp = c.stamp := rfl
@[simp] theorem setFlag_holds (f n : Nat) : (c.setFlag f n).holds = c.holds := rfl
@[simp] theorem setFlag_starv (f n : Nat) : (c.setFlag f n).starv = c.starv := rfl

@[simp] theorem putS_state (n : Nat) (x : Word) : (c.putS n x).state = c.state := by unfold Coach.putS; split <;> rfl
@[simp] theorem putS_pc (n : Nat) (x : Word) : (c.putS n x).pc = c.pc := by unfold Coach.putS; split <;> rfl
@[simp] theorem putS_clause (n : Nat) (x : Word) : (c.putS n x).clause = c.clause := by unfold Coach.putS; split <;> rfl
@[simp] theorem putS_exec (n : Nat) (x : Word) : (c.putS n x).exec = c.exec := by unfold Coach.putS; split <;> rfl
@[simp] theorem putS_exited (n : Nat) (x : Word) : (c.putS n x).exited = c.exited := by unfold Coach.putS; split <;> rfl
@[simp] theorem putS_v (n : Nat) (x : Word) : (c.putS n x).v = c.v := by unfold Coach.putS; split <;> rfl
@[simp] theorem putS_p (n : Nat) (x : Word) : (c.putS n x).p = c.p := by unfold Coach.putS; split <;> rfl
@[simp] theorem putS_flags (n : Nat) (x : Word) : (c.putS n x).flags = c.flags := by unfold Coach.putS; split <;> rfl
@[simp] theorem putS_div (n : Nat) (x : Word) : (c.putS n x).div = c.div := by unfold Coach.putS; split <;> rfl
@[simp] theorem putS_dphase (n : Nat) (x : Word) : (c.putS n x).dphase = c.dphase := by unfold Coach.putS; split <;> rfl
@[simp] theorem putS_tcause (n : Nat) (x : Word) : (c.putS n x).tcause = c.tcause := by unfold Coach.putS; split <;> rfl
@[simp] theorem putS_tpc (n : Nat) (x : Word) : (c.putS n x).tpc = c.tpc := by unfold Coach.putS; split <;> rfl
@[simp] theorem putS_taddr (n : Nat) (x : Word) : (c.putS n x).taddr = c.taddr := by unfold Coach.putS; split <;> rfl
@[simp] theorem putS_trqn (n : Nat) (x : Word) : (c.putS n x).trqn = c.trqn := by unfold Coach.putS; split <;> rfl
@[simp] theorem putS_tmask (n : Nat) (x : Word) : (c.putS n x).tmask = c.tmask := by unfold Coach.putS; split <;> rfl
@[simp] theorem putS_frame (n : Nat) (x : Word) : (c.putS n x).frame = c.frame := by unfold Coach.putS; split <;> rfl
@[simp] theorem putS_pendTrap (n : Nat) (x : Word) : (c.putS n x).pendTrap = c.pendTrap := by unfold Coach.putS; split <;> rfl
@[simp] theorem putS_rq (n : Nat) (x : Word) : (c.putS n x).rq = c.rq := by unfold Coach.putS; split <;> rfl
@[simp] theorem putS_flights (n : Nat) (x : Word) : (c.putS n x).flights = c.flights := by unfold Coach.putS; split <;> rfl
@[simp] theorem putS_nextId (n : Nat) (x : Word) : (c.putS n x).nextId = c.nextId := by unfold Coach.putS; split <;> rfl
@[simp] theorem putS_wait (n : Nat) (x : Word) : (c.putS n x).wait = c.wait := by unfold Coach.putS; split <;> rfl
@[simp] theorem putS_deadlineRisk (n : Nat) (x : Word) : (c.putS n x).deadlineRisk = c.deadlineRisk := by unfold Coach.putS; split <;> rfl
@[simp] theorem putS_preemptNotice (n : Nat) (x : Word) : (c.putS n x).preemptNotice = c.preemptNotice := by unfold Coach.putS; split <;> rfl
@[simp] theorem putS_rfails (n : Nat) (x : Word) : (c.putS n x).rfails = c.rfails := by unfold Coach.putS; split <;> rfl
@[simp] theorem putS_heldCauses (n : Nat) (x : Word) : (c.putS n x).heldCauses = c.heldCauses := by unfold Coach.putS; split <;> rfl
@[simp] theorem putS_escalated (n : Nat) (x : Word) : (c.putS n x).escalated = c.escalated := by unfold Coach.putS; split <;> rfl
@[simp] theorem putS_stepRec (n : Nat) (x : Word) : (c.putS n x).stepRec = c.stepRec := by unfold Coach.putS; split <;> rfl
@[simp] theorem putS_openBatch (n : Nat) (x : Word) : (c.putS n x).openBatch = c.openBatch := by unfold Coach.putS; split <;> rfl
@[simp] theorem putS_lastBatch (n : Nat) (x : Word) : (c.putS n x).lastBatch = c.lastBatch := by unfold Coach.putS; split <;> rfl
@[simp] theorem putS_reports (n : Nat) (x : Word) : (c.putS n x).reports = c.reports := by unfold Coach.putS; split <;> rfl
@[simp] theorem putS_batchWrap (n : Nat) (x : Word) : (c.putS n x).batchWrap = c.batchWrap := by unfold Coach.putS; split <;> rfl
@[simp] theorem putS_reconv (n : Nat) (x : Word) : (c.putS n x).reconv = c.reconv := by unfold Coach.putS; split <;> rfl
@[simp] theorem putS_copies (n : Nat) (x : Word) : (c.putS n x).copies = c.copies := by unfold Coach.putS; split <;> rfl
@[simp] theorem putS_slice (n : Nat) (x : Word) : (c.putS n x).slice = c.slice := by unfold Coach.putS; split <;> rfl
@[simp] theorem putS_octet (n : Nat) (x : Word) : (c.putS n x).octet = c.octet := by unfold Coach.putS; split <;> rfl
@[simp] theorem putS_slotIx (n : Nat) (x : Word) : (c.putS n x).slotIx = c.slotIx := by unfold Coach.putS; split <;> rfl
@[simp] theorem putS_stamp (n : Nat) (x : Word) : (c.putS n x).stamp = c.stamp := by unfold Coach.putS; split <;> rfl
@[simp] theorem putS_holds (n : Nat) (x : Word) : (c.putS n x).holds = c.holds := by unfold Coach.putS; split <;> rfl
@[simp] theorem putS_starv (n : Nat) (x : Word) : (c.putS n x).starv = c.starv := by unfold Coach.putS; split <;> rfl

end Sys2Proof.Machine
end

