-- ==== Sys2Proof/Laws/Table.lean ====
section
/-! SUPPORT. Reading a sparse table after writing it; memory: a read after a write, and the canonical form kept by
every write. -/

namespace Sys2Proof.Machine

variable {α : Type}

@[simp] theorem find_nil (k : Nat) : Table.find ([] : Table α) k = none := rfl

theorem find_cons (j : Nat) (a : α) (r : Table α) (k : Nat) :
    Table.find ((j, a) :: r) k = if j = k then some a else Table.find r k := rfl

@[simp] theorem find_insert_same (t : Table α) (k : Nat) (a : α) : Table.find (Table.insert t k a) k = some a := by
  induction t with
  | nil => simp [Table.insert, find_cons]
  | cons e r ih =>
    obtain ⟨j, b⟩ := e
    unfold Table.insert
    split
    · simp [find_cons]
    · split
      · simp [find_cons]
      · rename_i h
        simp [find_cons, ih, Ne.symm h]

theorem find_insert_ne (t : Table α) {k k' : Nat} (a : α) (h : k' ≠ k) :
    Table.find (Table.insert t k a) k' = Table.find t k' := by
  induction t with
  | nil => simp [Table.insert, find_cons, Ne.symm h]
  | cons e r ih =>
    obtain ⟨j, b⟩ := e
    unfold Table.insert
    split
    · simp [find_cons, Ne.symm h]
    · split
      · rename_i hk
        subst hk
        simp [find_cons, Ne.symm h]
      · simp [find_cons, ih]

@[simp] theorem find_erase_same (t : Table α) (k : Nat) : Table.find (Table.erase t k) k = none := by
  induction t with
  | nil => rfl
  | cons e r ih =>
    obtain ⟨j, b⟩ := e
    unfold Table.erase at ih ⊢
    by_cases h : j = k
    · simp [h, ih]
    · simp [h, find_cons, ih]

theorem find_erase_ne (t : Table α) {k k' : Nat} (h : k' ≠ k) : Table.find (Table.erase t k) k' = Table.find t k' := by
  induction t with
  | nil => rfl
  | cons e r ih =>
    obtain ⟨j, b⟩ := e
    unfold Table.erase at ih ⊢
    by_cases hj : j = k
    · subst hj
      simp [find_cons, Ne.symm h, ih]
    · simp [hj, find_cons, ih]

@[simp] theorem getD_put_same [DecidableEq α] (d : α) (t : Table α) (k : Nat) (a : α) :
    Table.getD (Table.put d t k a) k d = a := by
  unfold Table.put Table.getD
  split
  · simp_all
  · simp

theorem getD_put_ne [DecidableEq α] (d : α) (t : Table α) {k k' : Nat} (a : α) (h : k' ≠ k) :
    Table.getD (Table.put d t k a) k' d = Table.getD t k' d := by
  unfold Table.put Table.getD
  split
  · rw [find_erase_ne t h]
  · rw [find_insert_ne t a h]

/-! Memory (R8, R266). -/

@[simp] theorem read_write_same (m : Memory) (a : Nat) (b : Byte) : Memory.read (Memory.write m a b) a = b := by
  simp [Memory.read, Memory.write]

theorem read_write_ne (m : Memory) {a a' : Nat} (b : Byte) (h : a' ≠ a) :
    Memory.read (Memory.write m a b) a' = Memory.read m a' := getD_put_ne _ m b h

theorem read_writeN_outside (bs : List Byte) (m : Memory) (a x : Nat) (h : x < a ∨ a + bs.length ≤ x) :
    Memory.read (Memory.writeN m a bs) x = Memory.read m x := by
  induction bs generalizing m a with
  | nil => rfl
  | cons b r ih =>
    simp only [List.length_cons] at h
    rw [Memory.writeN, ih _ _ (by omega), read_write_ne m b (by omega)]

theorem read_writeN_inside (bs : List Byte) (m : Memory) (a i : Nat) (h : i < bs.length) :
    Memory.read (Memory.writeN m a bs) (a + i) = bs[i] := by
  induction bs generalizing m a i with
  | nil => simp at h
  | cons b r ih =>
    rw [Memory.writeN]
    cases i with
    | zero => simp [read_writeN_outside]
    | succ j =>
      have := ih (Memory.write m a b) (a + 1) j (by simpa using h)
      rw [show a + (j + 1) = a + 1 + j by omega, this, List.getElem_cons_succ]

/-- No entry of a well-formed memory lies below a bound that its first entry respects. -/
theorem wf_cons (e : Host.Cell) (r : Memory) :
    Memory.wf (e :: r) = true ↔ e.2 ≠ unlistedByte ∧ (∀ x ∈ r.head?, e.1 < x.1) ∧ Memory.wf r = true := by
  obtain ⟨a, b⟩ := e
  cases r with
  | nil => simp [Memory.wf]
  | cons x t => simp [Memory.wf, and_assoc]

/-- The first address of a memory after an insertion. -/
theorem head_insert (m : Memory) (k : Nat) (b : Byte) (x : Host.Cell) (h : x ∈ (Table.insert m k b).head?) :
    x.1 = k ∨ x ∈ m.head? := by
  cases m with
  | nil => simp [Table.insert] at h; simp [← h]
  | cons e r =>
    obtain ⟨j, c⟩ := e
    unfold Table.insert at h
    split at h
    · simp at h; simp [← h]
    · split at h
      · simp at h; simp [← h]
      · simp at h; simp [← h]

theorem insert_wf (m : Memory) (k : Nat) (b : Byte) (hb : b ≠ unlistedByte) (h : Memory.wf m = true) :
    Memory.wf (Table.insert m k b) = true := by
  induction m with
  | nil => simp [Table.insert, Memory.wf, hb]
  | cons e r ih =>
    have hc := (wf_cons e r).mp h
    obtain ⟨j, c⟩ := e
    unfold Table.insert
    split
    · rename_i hk
      exact (wf_cons _ _).mpr ⟨hb, by simpa using hk, h⟩
    · split
      · rename_i hk
        subst hk
        exact (wf_cons _ _).mpr ⟨hb, hc.2.1, hc.2.2⟩
      · refine (wf_cons _ _).mpr ⟨hc.1, fun x hx => ?_, ih hc.2.2⟩
        rcases head_insert r k b x hx with h1 | h1
        · show j < x.1
          omega
        · exact hc.2.1 x h1

theorem mem_above (e : Host.Cell) (r : Memory) (h : Memory.wf (e :: r) = true) : ∀ x ∈ r, e.1 < x.1 := by
  induction r generalizing e with
  | nil => simp
  | cons y t ih =>
    have hc := (wf_cons _ _).mp h
    have h1 : e.1 < y.1 := hc.2.1 y (by simp)
    intro x hx
    rcases List.mem_cons.mp hx with rfl | hx
    · exact h1
    · exact Nat.lt_trans h1 (ih y hc.2.2 x hx)

/-- Leaving out entries keeps the canonical form. -/
theorem filter_wf (p : Host.Cell → Bool) (m : Memory) (h : Memory.wf m = true) : Memory.wf (m.filter p) = true := by
  induction m with
  | nil => rfl
  | cons e r ih =>
    have hc := (wf_cons _ _).mp h
    rw [List.filter_cons]
    split
    · refine (wf_cons _ _).mpr ⟨hc.1, fun x hx => ?_, ih hc.2.2⟩
      exact mem_above e r h x (List.mem_of_mem_filter (List.mem_of_mem_head? hx))
    · exact ih hc.2.2

theorem write_wf (m : Memory) (a : Nat) (b : Byte) (h : Memory.wf m = true) : Memory.wf (Memory.write m a b) = true := by
  unfold Memory.write Table.put
  split
  · exact filter_wf _ m h
  · rename_i hb
    exact insert_wf m a b hb h

theorem writeN_wf (bs : List Byte) (m : Memory) (a : Nat) (h : Memory.wf m = true) :
    Memory.wf (Memory.writeN m a bs) = true := by
  induction bs generalizing m a with
  | nil => exact h
  | cons b r ih => exact ih _ _ (write_wf m a b h)

end Sys2Proof.Machine
end

