-- ==== Sys2Proof/Laws/Coach.lean ====
section
/-! SUPPORT. A coach in the state: what reading it after changing it gives; its registers, predicates and flags after a
write (R23, R25, R27, R77). -/

namespace Sys2Proof.Machine

theorem coach_setCoach_same {s : State} {r : CoachRef} {w : Workgroup} (h : s.wg r.slot = some w) (c : Coach) :
    (s.setCoach r c).coach r = some c := by
  have h1 : s.setCoach r c = s.setWg r.slot (w.setCoach r.k c) := by simp only [State.setCoach, h]
  simp [h1, State.coach, State.wg, Workgroup.coach, Workgroup.setCoach]

theorem wg_of_coach {s : State} {r : CoachRef} {c : Coach} (h : s.coach r = some c) :
    ∃ w, s.wg r.slot = some w ∧ w.coach r.k = some c := by
  unfold State.coach at h
  cases hw : s.wg r.slot with
  | none => simp [hw] at h
  | some w => exact ⟨w, rfl, by simpa [hw] using h⟩

theorem modCoach_of_coach {s : State} {r : CoachRef} {c : Coach} (h : s.coach r = some c) (f : Coach → Coach) :
    s.modCoach r f = s.setCoach r (f c) := by
  simp [State.modCoach, h]

/-- The environment of a coach names it, its workgroup and itself. -/
theorem env_coach {s : State} {r : CoachRef} {e : Env} (h : s.env r = some e) :
    e.ref = r ∧ s.wg r.slot = some e.wg ∧ e.wg.coach r.k = some e.c ∧ s.coach r = some e.c := by
  unfold State.env at h
  cases hw : s.wg r.slot with
  | none => simp [hw] at h
  | some w =>
    cases hc : w.coach r.k with
    | none => simp [hw, hc] at h
    | some c =>
      simp only [hw, hc, Option.some.injEq] at h
      subst h
      exact ⟨rfl, rfl, hc, by simp [State.coach, hw, hc]⟩

theorem env_tick {s : State} {r : CoachRef} {e : Env} (h : s.env r = some e) : e.tick = s.tick := by
  unfold State.env at h
  cases hw : s.wg r.slot with
  | none => simp [hw] at h
  | some w =>
    cases hc : w.coach r.k with
    | none => simp [hw, hc] at h
    | some c =>
      simp only [hw, hc, Option.some.injEq] at h
      subst h
      rfl

/-- A coach's environment depends on its workgroup, its core's cycles and the tick alone. -/
theorem coach_congr {s t : State} (h : t.wgs = s.wgs) (r : CoachRef) : t.coach r = s.coach r := by
  simp [State.coach, State.wg, h]

/-! Registers. -/

@[simp] theorem readS_zero (c : Coach) (tick : Nat) : c.readS tick 0 = 0 := rfl
@[simp] theorem rawReg_zero (c : Coach) (t : Nat) : c.rawReg true 0 t = 0 := rfl
@[simp] theorem readP_zero (c : Coach) (t : Nat) : c.readP 0 t = true := rfl

theorem vkey_inj {n n' t t' : Nat} (h : t < 256) (h' : t' < 256) (he : 256 * n + t = 256 * n' + t') : n = n' ∧ t = t' := by
  omega

theorem rawReg_putV (c : Coach) (n t : Nat) (x : Word) (sc : Bool) (n' t' : Nat) (h : t < 256) (h' : t' < 256) :
    (c.putV n t x).rawReg sc n' t' = if sc = false ∧ n' = n ∧ t' = t then x else c.rawReg sc n' t' := by
  cases sc with
  | true => simp [Coach.rawReg, Coach.putV]
  | false =>
    simp only [Coach.rawReg, Coach.putV, Bool.false_eq_true, if_false, true_and]
    split
    · rename_i he
      rw [he.1, he.2, getD_put_same]
    · rename_i he
      exact getD_put_ne _ _ _ (fun hk => he (vkey_inj h' h hk))

theorem rawReg_putS (c : Coach) (n : Nat) (x : Word) (sc : Bool) (n' t' : Nat) :
    (c.putS n x).rawReg sc n' t' = if sc = true ∧ n' = n ∧ n ≠ 0 then x else c.rawReg sc n' t' := by
  unfold Coach.putS
  by_cases h0 : n = 0
  · simp [h0]
  · cases sc with
    | false => simp [h0, Coach.rawReg]
    | true =>
      simp only [h0, if_false, Coach.rawReg, if_true, true_and, ne_eq, not_false_eq_true, and_true]
      by_cases hn : n' = n
      · subst hn
        simp [h0]
      · rw [getD_put_ne 0 c.s x hn]
        simp [hn]

/-- Without a pending write, a register reads as it is stored. -/
theorem readV_of_settled (c : Coach) (tick n t : Nat) (h : c.pendOf false n t = none) :
    c.readV tick n t = c.rawReg false n t := by
  simp [Coach.readV, Coach.rawReg, h]

theorem readS_of_settled (c : Coach) (tick n t : Nat) (h : c.pendOf true n 0 = none) :
    c.readS tick n = c.rawReg true n t := by
  simp [Coach.readS, Coach.rawReg, h]

/-- The pending write over which a register write goes, if any. -/
def RegWrite.over (w : RegWrite) (c : Coach) : Option PendReg := c.pendOf w.scalar w.reg (if w.scalar then 0 else w.thread)

theorem writeReg_settled (c : Coach) (tick : Nat) (w : RegWrite) (h : w.over c = none) :
    c.writeReg tick w = if w.scalar then c.putS w.reg w.val else c.putV w.reg w.thread w.val := by
  unfold RegWrite.over at h
  unfold Coach.writeReg
  cases hs : w.scalar with
  | true =>
    simp only [hs, if_true] at h ⊢
    unfold Coach.writeS
    split
    · rename_i h0
      simp [Coach.putS, h0]
    · simp [h]
  | false =>
    simp only [hs, Bool.false_eq_true, if_false] at h ⊢
    simp [Coach.writeV, h]

/-- A register write with nothing pending changes the two register tables and no other part of the coach. -/
theorem writeReg_shape (c : Coach) (tick : Nat) (w : RegWrite) (h : w.over c = none) :
    ∃ V S, c.writeReg tick w = { c with v := V, s := S } := by
  rw [writeReg_settled c tick w h]
  split
  · unfold Coach.putS
    split
    · exact ⟨c.v, c.s, rfl⟩
    · exact ⟨_, _, rfl⟩
  · exact ⟨_, _, rfl⟩

theorem writeReg_flights (c : Coach) (tick : Nat) (w : RegWrite) (h : w.over c = none) :
    (c.writeReg tick w).flights = c.flights := by
  obtain ⟨V, S, hv⟩ := writeReg_shape c tick w h
  rw [hv]

theorem over_writeReg {c : Coach} {tick : Nat} {w : RegWrite} {r : List RegWrite} (h : ∀ x ∈ w :: r, x.over c = none) :
    ∀ x ∈ r, x.over (c.writeReg tick w) = none := fun x hx => by
  simpa [RegWrite.over, Coach.pendOf, writeReg_flights c tick w (h w (by simp))] using h x (List.mem_cons_of_mem _ hx)

theorem writeRegs_shape (ws : List RegWrite) (c : Coach) (tick : Nat) (h : ∀ w ∈ ws, w.over c = none) :
    ∃ V S, c.writeRegs tick ws = { c with v := V, s := S } := by
  induction ws generalizing c with
  | nil => exact ⟨c.v, c.s, rfl⟩
  | cons w r ih =>
    obtain ⟨V, S, hv⟩ := writeReg_shape c tick w (h w (by simp))
    obtain ⟨V', S', hv'⟩ := ih (c.writeReg tick w) (over_writeReg h)
    refine ⟨V', S', ?_⟩
    show (c.writeReg tick w).writeRegs tick r = _
    rw [hv', hv]

/-- Which register a write of an instruction reaches. -/
def RegWrite.hits (w : RegWrite) (sc : Bool) (n t : Nat) : Prop :=
  w.scalar = sc ∧ w.reg = n ∧ (sc = true ∨ w.thread = t) ∧ (sc = true → n ≠ 0)

theorem writeReg_raw (c : Coach) (tick : Nat) (w : RegWrite) (h : w.over c = none) (ht : w.thread < 256) (sc : Bool)
    (n t : Nat) (h' : t < 256) [Decidable (w.hits sc n t)] :
    (c.writeReg tick w).rawReg sc n t = if w.hits sc n t then w.val else c.rawReg sc n t := by
  rw [writeReg_settled c tick w h]
  cases hs : w.scalar with
  | true =>
    simp only [if_true, rawReg_putS]
    by_cases hh : sc = true ∧ n = w.reg ∧ w.reg ≠ 0
    · rw [if_pos hh, if_pos]
      exact ⟨by rw [hs, hh.1], hh.2.1.symm, Or.inl hh.1, fun _ => by rw [hh.2.1]; exact hh.2.2⟩
    · rw [if_neg hh, if_neg]
      rintro ⟨a, b, _, d⟩
      rw [hs] at a
      exact hh ⟨a.symm, b.symm, by rw [b]; exact d a.symm⟩
  | false =>
    simp only [Bool.false_eq_true, if_false]
    rw [rawReg_putV _ _ _ _ _ _ _ ht h']
    by_cases hh : sc = false ∧ n = w.reg ∧ t = w.thread
    · rw [if_pos hh, if_pos]
      exact ⟨by rw [hs, hh.1], hh.2.1.symm, Or.inr hh.2.2.symm, fun hc => by simp [hh.1] at hc⟩
    · rw [if_neg hh, if_neg]
      rintro ⟨a, b, c', _⟩
      rw [hs] at a
      rcases c' with c' | c'
      · rw [← a] at c'
        cases c'
      · exact hh ⟨a.symm, b.symm, c'.symm⟩

/-- A register that no write reaches keeps its value. -/
theorem writeRegs_miss (ws : List RegWrite) (c : Coach) (tick : Nat) (hp : ∀ w ∈ ws, w.over c = none)
    (ht : ∀ w ∈ ws, w.thread < 256) (sc : Bool) (n t : Nat) (h' : t < 256) (hm : ∀ w ∈ ws, ¬ w.hits sc n t) :
    (c.writeRegs tick ws).rawReg sc n t = c.rawReg sc n t := by
  classical
  induction ws generalizing c with
  | nil => rfl
  | cons w r ih =>
    show ((c.writeReg tick w).writeRegs tick r).rawReg sc n t = _
    rw [ih _ (over_writeReg hp)
      (fun w' hw' => ht w' (List.mem_cons_of_mem _ hw')) (fun w' hw' => hm w' (List.mem_cons_of_mem _ hw')),
      writeReg_raw c tick w (hp w (by simp)) (ht w (by simp)) sc n t h', if_neg (hm w (by simp))]

/-- A register that some write reaches, each with the same value, holds that value. -/
theorem writeRegs_hit (ws : List RegWrite) (c : Coach) (tick : Nat) (hp : ∀ w ∈ ws, w.over c = none)
    (ht : ∀ w ∈ ws, w.thread < 256) (sc : Bool) (n t : Nat) (h' : t < 256) (x : Word)
    (hx : ∀ w ∈ ws, w.hits sc n t → w.val = x) (hm : ∃ w ∈ ws, w.hits sc n t) :
    (c.writeRegs tick ws).rawReg sc n t = x := by
  classical
  induction ws generalizing c with
  | nil => simp at hm
  | cons w r ih =>
    have hp' : ∀ w' ∈ r, w'.over (c.writeReg tick w) = none := over_writeReg hp
    have ht' : ∀ w' ∈ r, w'.thread < 256 := fun w' hw' => ht w' (List.mem_cons_of_mem _ hw')
    show ((c.writeReg tick w).writeRegs tick r).rawReg sc n t = _
    by_cases hr : ∃ w' ∈ r, w'.hits sc n t
    · exact ih _ hp' ht' (fun w' hw' => hx w' (List.mem_cons_of_mem _ hw')) hr
    · obtain ⟨w1, hw1, hh⟩ := hm
      rcases List.mem_cons.mp hw1 with rfl | hw1
      · rw [writeRegs_miss r _ tick hp' ht' sc n t h' (fun w' hw' hc => hr ⟨w', hw', hc⟩),
          writeReg_raw c tick w1 (hp w1 (by simp)) (ht w1 (by simp)) sc n t h', if_pos hh]
        exact hx w1 (by simp) hh
      · exact absurd ⟨w1, hw1, hh⟩ hr

end Sys2Proof.Machine
end

