-- ==== Sys2Proof/Laws/Touch.lean ====
section
/-! SUPPORT. What the operations of memory can do to the machine (R215, R229-R238, R266-R287): they change memory, what
of it is poisoned, the lines and caches of cores and sites, and what is done next; every other part of the state stays as it
was, and memory keeps its canonical form. One lemma per operation. -/

namespace Sys2Proof.Machine

/-- `t` comes from `s` by operations of memory. -/
structure Touch (s t : State) : Prop where
  shape : t = { s with mem := t.mem, poison := t.poison, lines := t.lines, agenda := t.agenda, cores := t.cores, sites := t.sites }
  wf : Memory.wf s.mem = true → Memory.wf t.mem = true

theorem Touch.refl (s : State) : Touch s s := ⟨rfl, id⟩

theorem Touch.trans {s t u : State} (h : Touch s t) (g : Touch t u) : Touch s u := by
  refine ⟨?_, fun hs => g.wf (h.wf hs)⟩
  have h1 := g.shape
  rw [h.shape] at h1
  exact h1

theorem Touch.wgs {s t : State} (h : Touch s t) : t.wgs = s.wgs := by rw [h.shape]
theorem Touch.grids {s t : State} (h : Touch s t) : t.grids = s.grids := by rw [h.shape]
theorem Touch.ctxs {s t : State} (h : Touch s t) : t.ctxs = s.ctxs := by rw [h.shape]
theorem Touch.cur {s t : State} (h : Touch s t) : t.cur = s.cur := by rw [h.shape]
theorem Touch.tick {s t : State} (h : Touch s t) : t.tick = s.tick := by rw [h.shape]
theorem Touch.coach {s t : State} (h : Touch s t) (r : CoachRef) : t.coach r = s.coach r := by
  simp [State.coach, State.wg, h.wgs]

/-- A result with its state. -/
theorem Touch.of_eq {α : Type} {s t : State} {p : α × State} {a : α} (h : Touch s p.2) (e : p = (a, t)) : Touch s t := by
  rw [e] at h
  exact h

theorem Touch.foldl {β : Type} (f : State → β → State) (hf : ∀ s b, Touch s (f s b)) (l : List β) (s : State) :
    Touch s (l.foldl f s) := by
  induction l generalizing s with
  | nil => exact Touch.refl s
  | cons b r ih => exact (hf s b).trans (ih (f s b))

theorem touch_setCore (s : State) (c : Nat) (x : Core) : Touch s (s.setCore c x) := ⟨rfl, id⟩
theorem touch_setSite (s : State) (n : Nat) (x : Site) : Touch s (s.setSite n x) := ⟨rfl, id⟩
theorem touch_setWin (s : State) (n off : Nat) (v : DWord) : Touch s (s.setWin n off v) := ⟨rfl, id⟩
theorem touch_addWin (s : State) (n off d : Nat) : Touch s (s.addWin n off d) := ⟨rfl, id⟩
theorem touch_later (s : State) (es : List Event) : Touch s (s.later es) := ⟨rfl, id⟩
theorem touch_setLine (s : State) (pa : Nat) (m : LineMeta) : Touch s (s.setLine pa m) := ⟨rfl, id⟩
theorem touch_lines (s : State) (l : Table LineMeta) : Touch s { s with lines := l } := ⟨rfl, id⟩
theorem touch_writeN (s : State) (pa : Nat) (bs : List Byte) : Touch s { s with mem := Memory.writeN s.mem pa bs } :=
  ⟨rfl, writeN_wf bs s.mem pa⟩

theorem touch_ite_setCore (s : State) (p : Prop) [Decidable p] (c : Nat) (x : Core) :
    Touch s (if p then s else s.setCore c x) := by
  split
  · exact Touch.refl s
  · exact touch_setCore s c x

theorem touch_raiseFloor (s : State) (k : Word) : Touch s (s.raiseFloor k) :=
  Touch.foldl _ (fun t n => touch_setSite t n _) _ s

theorem touch_touchLine (s : State) (pa : Nat) : Touch s (s.touchLine pa) := by
  unfold State.touchLine
  dsimp only
  split
  · exact Touch.refl s
  · split
    · exact touch_lines s _
    · split
      · exact touch_lines s _
      · split
        · exact Touch.refl s
        · refine Touch.trans ?_ (touch_lines _ _)
          split
          · exact (touch_addWin s _ _ _).trans (touch_raiseFloor _ _)
          · exact touch_addWin s _ _ _

theorem touch_homeTouch (s : State) (pa n : Nat) : Touch s (s.homeTouch pa n) := by
  unfold State.homeTouch
  split
  · exact Touch.foldl _ (fun t p => touch_touchLine t _) _ s
  · exact Touch.refl s

theorem touch_raceLines (s : State) (l : List (Nat × BitVec 8)) (kind : AccKind) (agent : BitVec 16) (k : Word) :
    Touch s (s.raceLines l kind agent k).2 := by
  unfold State.raceLines
  dsimp only
  have hm : ∀ (f : Nat × BitVec 8 → Nat) (t : State) (p : Nat × BitVec 8),
      Touch t (if f p = 0 then t else t.addWin (homeSite p.1) offMISSED (f p)) := fun f t p => by
    split
    · exact Touch.refl t
    · exact touch_addWin t _ _ _
  split
  · exact ((Touch.foldl _ (hm _) _ _).trans (touch_addWin _ _ _ _)).trans (touch_setWin _ _ _ _)
  · refine (Touch.foldl _ (hm _) _ _).trans (Touch.foldl _ (fun t p => ?_) _ _)
    split
    · exact touch_setLine t _ _
    · split
      · exact touch_setLine t _ _
      · exact (touch_setLine t _ _).trans (touch_addWin _ _ _ _)

theorem touch_raceCheck (s : State) (pa n : Nat) (kind : AccKind) (agent : BitVec 16) (k : Word) :
    Touch s (s.raceCheck pa n kind agent k).2 := by
  unfold State.raceCheck
  split
  · exact Touch.refl s
  · exact (touch_homeTouch s pa n).trans (touch_raceLines _ _ _ _ _)

theorem touch_fireMonitors (s : State) (pa n : Nat) : Touch s (s.fireMonitors pa n) :=
  Touch.foldl _ (fun t x => by
    split
    · exact (touch_setSite t _ _).trans (touch_later _ _)
    · exact Touch.refl t) _ s

theorem touch_doubtQcbs (s : State) (pa n : Nat) : Touch s (s.doubtQcbs pa n) :=
  Touch.foldl _ (fun t x => by
    split
    · exact touch_setSite t _ _
    · exact Touch.refl t) _ s

theorem touch_dropSharers (s : State) (pa n : Nat) : Touch s (s.dropSharers pa n) :=
  Touch.foldl _ (fun t line => by
    split
    · split
      · exact Touch.refl t
      · exact touch_setLine t _ _
    · exact Touch.refl t) _ s

/-- Bytes written, with the poison of the blocks written whole cleared. -/
theorem touch_writePoison (s : State) (pa : Nat) (bs : List Byte) (p : List Nat) :
    Touch s { s with mem := Memory.writeN s.mem pa bs, poison := p } := ⟨rfl, writeN_wf bs s.mem pa⟩

theorem touch_homeWrite (s : State) (pa : Nat) (bs : List Byte) (controller : Bool) : Touch s (s.homeWrite pa bs controller) := by
  have h := (touch_homeTouch s pa bs.length).trans (touch_writePoison (s.homeTouch pa bs.length) pa bs
    ((s.homeTouch pa bs.length).poison.filter (fun b => !decide (pa ≤ 16 * b ∧ 16 * b + 16 ≤ pa + bs.length))))
  unfold State.homeWrite
  refine Touch.trans (Touch.trans ?_ (touch_dropSharers _ _ _)) (touch_fireMonitors _ _ _)
  split
  · exact h
  · exact h.trans (touch_doubtQcbs _ _ _)

theorem touch_logEvent (s : State) (n kind cls unit result addr : Nat) : Touch s (s.logEvent n kind cls unit result addr) :=
  (touch_homeWrite s _ _ _).trans (touch_setWin _ _ _ _)

theorem touch_ite_homeWrite (s : State) (p : Prop) [Decidable p] (pa : Nat) (bs : List Byte) :
    Touch s (if p then s else s.homeWrite pa bs) := by
  split
  · exact Touch.refl s
  · exact touch_homeWrite s pa bs false

theorem touch_walkRead (s : State) (site ctx pa : Nat) : Touch s (s.walkRead site ctx pa).2 := by
  unfold State.walkRead
  dsimp only
  split
  · exact touch_homeTouch s pa 1
  · split
    · exact Touch.refl s
    · exact touch_homeTouch s pa 1

theorem touch_walkKeep (s : State) (site ctx pa : Nat) (e : DWord) : Touch s (s.walkKeep site ctx pa e) :=
  touch_setSite s _ _

theorem touch_walkFrom (s : State) (site ctx level table : Nat) (va : DWord) :
    Touch s (s.walkFrom site ctx level table va).2 := by
  induction level generalizing s table with
  | zero =>
    have h := touch_walkRead s site ctx (table + 8 * vaIndex 0 va)
    unfold State.walkFrom
    dsimp only
    split
    · exact h
    · split
      · exact h
      · split
        · split <;> exact h
        · exact h
  | succ l ih =>
    have h := touch_walkRead s site ctx (table + 8 * vaIndex (l + 1) va)
    unfold State.walkFrom
    dsimp only
    split
    · exact h
    · split
      · exact h
      · split
        · split <;> exact h
        · split
          · exact h
          · exact (h.trans (touch_walkKeep _ _ _ _ _)).trans (ih _ _)

theorem touch_walk (s : State) (core : Option Nat) (site ctx : Nat) (va : DWord) (need : Need) (priv : Bool) :
    Touch s (State.translate.walk s core site ctx va need priv).2 := by
  unfold State.translate.walk
  dsimp only
  split
  · exact Touch.refl s
  · have h1 := touch_walkFrom s site ctx 3 (fld (s.ctxEntry site ctx).1 12 40 * 2 ^ 12) va
    split
    · exact h1.of_eq ‹_›
    · have h2 := h1.of_eq ‹_›
      split
      · exact h2
      · dsimp only
        refine h2.trans ?_
        split
        · exact (touch_ite_homeWrite _ _ _ _).trans (touch_setSite _ _ _)
        · exact ((touch_ite_homeWrite _ _ _ _).trans (touch_setSite _ _ _)).trans (touch_setCore _ _ _)

theorem touch_translate (s : State) (core : Option Nat) (site ctx : Nat) (va : DWord) (need : Need) :
    Touch s (s.translate core site ctx va need).2 := by
  unfold State.translate
  dsimp only
  split
  · exact Touch.refl s
  · split
    · split
      · exact touch_walk s core site ctx va need _
      · dsimp only
        split
        · exact Touch.refl s
        · split <;> exact touch_ite_setCore s _ _ _
    · exact touch_walk s core site ctx va need _

theorem touch_homeCheck (s : State) (a : Acc) (x : Xl) (n : Nat) (kind : AccKind) : Touch s (s.homeCheck a x n kind).2 := by
  unfold State.homeCheck
  split
  · exact Touch.refl s
  · split
    · exact touch_raceCheck s _ _ _ _ _
    · exact Touch.refl s

theorem touch_devAddr (s : State) (site ctx : Nat) (va : DWord) (n : Nat) (need : Need) :
    Touch s (s.devAddr site ctx va n need).2 := by
  have h := touch_translate s none site ctx va need
  unfold State.devAddr
  split
  · exact h.of_eq ‹_›
  · split
    · exact h.of_eq ‹_›
    · exact (h.of_eq ‹_›).trans (touch_homeTouch _ _ _)

theorem touch_devRead (fuel : Nat) (s : State) (site ctx : Nat) (va : DWord) (n : Nat) :
    Touch s (State.devRead fuel s site ctx va n).2 := by
  induction fuel generalizing s va n with
  | zero => exact Touch.refl s
  | succ f ih =>
    unfold State.devRead
    split
    · exact Touch.refl s
    · have h := touch_devAddr s site ctx va (min n (65536 - va.toNat % 65536)) Need.read
      dsimp only
      split
      · exact h.of_eq ‹_›
      · have h1 := h.of_eq ‹_›
        split <;> exact h1.trans (Touch.of_eq (ih _ _ _) ‹_›)

theorem touch_devStore (s : State) (x : Xl) (bs : List Byte) : Touch s (s.devStore x bs) := by
  unfold State.devStore
  split
  · exact touch_later s _
  · exact touch_homeWrite s _ _ _

theorem touch_devWrite (fuel : Nat) (s : State) (site ctx : Nat) (va : DWord) (bs : List Byte) :
    Touch s (State.devWrite fuel s site ctx va bs).2 := by
  induction fuel generalizing s va bs with
  | zero => exact Touch.refl s
  | succ f ih =>
    unfold State.devWrite
    split
    · exact Touch.refl s
    · have h := touch_devAddr s site ctx va (min bs.length (65536 - va.toNat % 65536)) Need.write
      dsimp only
      split
      · exact h.of_eq ‹_›
      · exact ((h.of_eq ‹_›).trans (touch_devStore _ _ _)).trans (ih _ _ _)

/-! Queue controllers (R157-R161, R316, R317). -/

theorem touch_holdQcb (s : State) (pa : Nat) : Touch s (s.holdQcb pa) := touch_setSite s _ _
theorem touch_writeQcb (s : State) (pa : Nat) (q : Qcb) : Touch s (s.writeQcb pa q) := touch_homeWrite s _ _ _

theorem touch_queueWakeEv (s : State) (pa : Nat) (producers : Bool) : Touch s (s.queueWakeEv pa producers) := by
  unfold State.queueWakeEv
  dsimp only
  split
  · exact touch_later s _
  · exact Touch.refl s

theorem touch_queueWakeAll (s : State) (pa : Nat) : Touch s (s.queueWakeAll pa) := by
  unfold State.queueWakeAll
  dsimp only
  split
  · exact Touch.refl s
  · exact (touch_setSite s _ _).trans (touch_later _ _)

theorem touch_uncount (s : State) (w : Wait) : Touch s (s.uncount w) := by
  unfold State.uncount
  split
  · exact Touch.refl s
  · dsimp only
    split
    · exact touch_writeQcb s _ _
    · exact Touch.refl s

theorem touch_poisonQcb (s : State) (pa : Nat) (q : Qcb) : Touch s (s.poisonQcb pa q) :=
  (touch_writeQcb s _ _).trans (touch_queueWakeAll _ _)

theorem touch_ccClean (s : State) (core key : Nat) : Touch s (s.ccClean core key) := by
  unfold State.ccClean
  split
  · exact Touch.refl s
  · refine Touch.trans (Touch.foldl _ (fun t e => ?_) _ s) (touch_setCore _ _ _)
    split
    · exact touch_homeWrite t _ _ _
    · exact Touch.refl t

theorem touch_ccDrop (s : State) (core key : Nat) : Touch s (s.ccDrop core key) := by
  unfold State.ccDrop
  split
  · exact Touch.refl s
  · exact (touch_ccClean s core key).trans (touch_setCore _ _ _)

theorem touch_ccPurge (s : State) (core pa n : Nat) : Touch s (s.ccPurge core pa n) :=
  Touch.foldl _ (fun t _ => touch_ccDrop t core _) _ s

theorem touch_ownDrop (s : State) (core : Option Nat) (pa n : Nat) : Touch s (s.ownDrop core pa n) := by
  unfold State.ownDrop
  split
  · exact touch_ccPurge s _ _ _
  · exact Touch.refl s

theorem touch_reachQcb (s : State) (core : Option Nat) (site ctx : Nat) (va : DWord) (need : Need) :
    Touch s (s.reachQcb core site ctx va need).2 := by
  unfold State.reachQcb
  split
  · exact Touch.refl s
  · have h := touch_translate s core site ctx va need
    split
    · exact h.of_eq ‹_›
    · have h1 := h.of_eq ‹_›
      split
      · exact h1
      · split
        · exact h1
        · exact (h1.trans (touch_homeTouch _ _ _)).trans (touch_holdQcb _ _)

theorem touch_openQcb (s : State) (core : Option Nat) (site ctx : Nat) (va : DWord) (need : Need) :
    Touch s (s.openQcb core site ctx va need).2 := by
  have h := touch_reachQcb s core site ctx va need
  unfold State.openQcb
  split
  · exact h.of_eq ‹_›
  · have h1 := h.of_eq ‹_›
    dsimp only
    split
    · exact h1.trans (touch_poisonQcb _ _ _)
    · split <;> exact h1

theorem touch_findSlot (s : State) (core : Option Nat) (site ctx : Nat) (va : DWord) (size : Nat) (need : Need) :
    Touch s (s.findSlot core site ctx va size need).2 := by
  have h := touch_translate s core site ctx va need
  unfold State.findSlot
  dsimp only
  split
  · exact h.of_eq ‹_›
  · have h1 := h.of_eq ‹_›
    rename_i x s1 _
    split
    · exact h1
    · split
      · exact h1
      split
      · exact h1
      · have h2 := touch_translate s1 core site ctx (va + BitVec.ofNat 64 (65536 - va.toNat % 65536)) need
        split
        · exact h1.trans (h2.of_eq ‹_›)
        · split
          · exact h1.trans (h2.of_eq ‹_›)
          · split <;> exact h1.trans (h2.of_eq ‹_›)

theorem touch_findSlots (s : State) (core : Option Nat) (site ctx : Nat) (q : Qcb) (need : Need) (size : Nat) (i : Word) (n : Nat) :
    Touch s (s.findSlots core site ctx q need size i n).2 := by
  induction n generalizing s i with
  | zero => exact Touch.refl s
  | succ n ih =>
    unfold State.findSlots
    have h := touch_findSlot s core site ctx (q.slotVa i) size need
    split
    · exact h.of_eq ‹_›
    · have h1 := h.of_eq ‹_›
      split <;> exact h1.trans (Touch.of_eq (ih _ _) ‹_›)

theorem touch_checkParts (core : Option Nat) (a : Acc) (l : List Part) (s : State) : Touch s (s.checkParts core a l).2 := by
  induction l generalizing s with
  | nil => exact Touch.refl s
  | cons p r ih =>
    obtain ⟨kind, va, x, n⟩ := p
    have h := touch_homeCheck s a x n kind
    unfold State.checkParts
    split
    · exact (h.of_eq ‹_›).trans (ih _)
    · exact (((h.of_eq ‹_›).trans (touch_ownDrop _ _ _ _)).trans (touch_homeTouch _ _ _)).trans (ih _)

theorem touch_useQcb (s : State) (core : Option Nat) (a : Acc) (va : DWord) (x : Xl) (writes : Bool) (l : List Part) :
    Touch s (s.useQcb core a va x writes l).2 :=
  touch_checkParts _ _ _ _

theorem touch_enqAddrs (s : State) (core : Option Nat) (site : Nat) (a : Acc) (va : DWord) (x : Xl) (q : Qcb) (n : Nat) :
    Touch s (s.enqAddrs core site a va x q n).2 := by
  unfold State.enqAddrs
  have h := touch_findSlots s core site a.ctx q .both q.slotSize q.tail n
  split
  · exact h.of_eq ‹_›
  · have h1 := h.of_eq ‹_›
    rename_i l s1 _
    split
    · exact h1.trans (touch_poisonQcb _ _ _)
    · have h2 := touch_useQcb s1 core a va x true (enqParts q l)
      split <;> exact h1.trans (h2.of_eq ‹_›)

theorem touch_slotWrite (s : State) (l : Slot) (k : Nat) (bs : List Byte) : Touch s (s.slotWrite l k bs) := by
  unfold State.slotWrite
  split
  · exact touch_homeWrite s _ _ _
  · exact (touch_homeWrite s _ _ _).trans (touch_homeWrite _ _ _ _)

theorem touch_fillSlots (s : State) (k : Word) (slots : List Slot) (elems : List (List Byte)) :
    Touch s (s.fillSlots k slots elems) :=
  Touch.foldl _ (fun _ _ => ((touch_slotWrite _ _ _ _).trans (touch_slotWrite _ _ _ _)).trans (touch_slotWrite _ _ _ _)) _ s

theorem touch_enqCommit (s : State) (pa : Nat) (q : Qcb) (k : Word) (slots : List Slot) (elems : List (List Byte)) :
    Touch s (s.enqCommit pa q k slots elems) :=
  ((touch_fillSlots s _ _ _).trans (touch_writeQcb _ _ _)).trans (touch_queueWakeEv _ _ _)

theorem touch_deqCommit (s : State) (pa : Nat) (q : Qcb) (oclk : Word) (slots : List Slot) :
    Touch s (s.deqCommit pa q oclk slots) :=
  ((Touch.foldl _ (fun t l => touch_slotWrite t l _ _) _ s).trans (touch_writeQcb _ _ _)).trans (touch_queueWakeEv _ _ _)

/-! Trap notices and writes on a context's behalf (R244, R254, R404). -/

theorem touch_tryNotice (s : State) (site : Nat) (nt : List Byte) : Touch s (s.tryNotice site nt).2 := by
  unfold State.tryNotice
  dsimp only
  split
  · exact Touch.of_eq (touch_openQcb s _ _ _ _ _) ‹_›
  · have h1 := Touch.of_eq (touch_openQcb s _ _ _ _ _) ‹_›
    split
    · exact h1
    · split
      · exact h1.trans (Touch.of_eq (touch_enqAddrs _ _ _ _ _ _ _ _) ‹_›)
      · exact (h1.trans (Touch.of_eq (touch_enqAddrs _ _ _ _ _ _ _ _) ‹_›)).trans (touch_enqCommit _ _ _ _ _ _)

theorem touch_keepNotice (site : Nat) (nt : List Byte) (t : State) : Touch t (State.postNotice.keep site nt t) := by
  unfold State.postNotice.keep
  dsimp only
  split
  · exact touch_setSite t _ _
  · exact touch_logEvent t _ _ _ _ _ _

theorem touch_postNotice (s : State) (site : Nat) (nt : List Byte) : Touch s (s.postNotice site nt) := by
  unfold State.postNotice
  split
  · exact touch_keepNotice site nt s
  · have h := touch_tryNotice s site nt
    split
    · exact h.of_eq ‹_›
    · exact (h.of_eq ‹_›).trans (touch_keepNotice site nt _)

theorem touch_report (s : State) (site ctx : Nat) (cause : Cause) (agent : Nat) (detail : DWord) :
    Touch s (s.report site ctx cause agent detail) := touch_postNotice s _ _

theorem touch_ctxWrite (s : State) (site ctx : Nat) (va : DWord) (bs : List Byte) : Touch s (s.ctxWrite site ctx va bs).2 := by
  have h := touch_devWrite (bs.length / 65536 + 2) s site ctx va bs
  unfold State.ctxWrite
  split
  · exact h.of_eq ‹_›
  · exact (h.of_eq ‹_›).trans (touch_report _ _ _ _ _ _)

theorem touch_orStatus (s : State) (site ctx : Nat) (b : Word) : Touch s (s.orStatus site ctx b) := by
  unfold State.orStatus
  split
  · exact Touch.refl s
  · dsimp only
    split
    · exact touch_report s _ _ _ _ _
    · split
      · exact (Touch.of_eq (touch_devAddr s _ _ _ _ _) ‹_›).trans (touch_report _ _ _ _ _ _)
      · exact (Touch.of_eq (touch_devAddr s _ _ _ _ _) ‹_›).trans (touch_homeWrite _ _ _ _)

@[simp] theorem orStatus_zero (s : State) (site ctx : Nat) : s.orStatus site ctx 0 = s := by simp [State.orStatus]

theorem touch_forgetAll (s : State) (pa n : Nat) : Touch s (s.forgetAll pa n) :=
  Touch.foldl _ (fun t c => by
    unfold State.ccForget
    dsimp only
    split
    · exact touch_setCore t _ _
    · exact Touch.refl t) _ s

theorem touch_errorRecord (s : State) (site ctx : Nat) (bs : List Byte) : Touch s (s.errorRecord site ctx bs) := by
  unfold State.errorRecord
  dsimp only
  split
  · exact touch_report s _ _ _ _ _
  · split
    · exact (Touch.of_eq (touch_devAddr s _ _ _ _ _) ‹_›).trans (touch_report _ _ _ _ _ _)
    · have h0 := Touch.of_eq (touch_devAddr s _ _ _ _ _) ‹_›
      rename_i x s1 _
      have h1 := (h0.trans (touch_homeWrite s1 x.pa (bytesLE 4 (ofBytesLE (s1.homeRead x.pa 4) + 1)) false)).trans (touch_forgetAll _ x.pa 4)
      split
      · exact (h1.trans (Touch.of_eq (touch_devAddr _ _ _ _ _ _) ‹_›)).trans (touch_report _ _ _ _ _ _)
      · exact (((h1.trans (Touch.of_eq (touch_devAddr _ _ _ _ _ _) ‹_›)).trans (touch_homeWrite _ _ _ _)).trans
          (touch_forgetAll _ _ _)).trans (touch_addWin _ _ _ _)

end Sys2Proof.Machine
end

