-- ==== Sys2Proof/Laws/Ops.lean ====
section
/-! SUPPORT. What the shared operations of the instructions can do: issuing, finishing, computing in every unit,
setting predicates. A proof about an instruction cites these and unfolds none of them. -/

namespace Sys2Proof.Machine

@[simp] theorem holding_ref (e : Env) (i : Instr) : (e.holding i).ref = e.ref := rfl
@[simp] theorem holding_c (e : Env) (i : Instr) : (e.holding i).c = e.c := rfl
@[simp] theorem holding_wg (e : Env) (i : Instr) : (e.holding i).wg = e.wg := rfl
@[simp] theorem holding_tick (e : Env) (i : Instr) : (e.holding i).tick = e.tick := rfl
@[simp] theorem holding_active (e : Env) (i : Instr) : (e.holding i).active = e.active := rfl
@[simp] theorem holding_replay (e : Env) (i : Instr) : (e.holding i).replay = e.replay := rfl

theorem Runs.ref {i : Instr} {s : State} {e : Env} (h : Runs i s e) : e.ref = s.cur := by
  obtain ⟨e0, h0, rfl⟩ := h.env
  exact (env_coach h0).1
theorem Runs.coach {i : Instr} {s : State} {e : Env} (h : Runs i s e) : s.coach s.cur = some e.c := by
  obtain ⟨e0, h0, rfl⟩ := h.env
  exact (env_coach h0).2.2.2
theorem Runs.wg {i : Instr} {s : State} {e : Env} (h : Runs i s e) : s.wg s.cur.slot = some e.wg := by
  obtain ⟨e0, h0, rfl⟩ := h.env
  exact (env_coach h0).2.1

/-- An instruction that executes normally has the effect of its body. -/
theorem issue_runs {i : Instr} {s : State} {e : Env} (h : Runs i s e) (body : Env → State → State) :
    issue i s body = .next (body e s) := by
  obtain ⟨e0, h0, rfl⟩ := h.env
  have hc := h.cause
  have ha := h.active
  have hr := h.ready
  have hs := h.clear
  have hl := h.prompt
  unfold issue
  simp only [h0, hc, hr, hs, hl, if_neg ha]
  simp

/-- An instruction of a resident coach always answers a next state. -/
theorem issue_goes_on {i : Instr} {s : State} (h : (s.env s.cur).isSome) (body : Env → State → State) :
    GoesOn (issue i s body) := by
  unfold issue
  cases he : s.env s.cur with
  | none => simp [he] at h
  | some e => exact ⟨_, rfl⟩

/-! Going on to the next word. -/

/-- Going on reads no general register. -/
theorem advance_regs (c : Coach) (e : Env) (V S : Table Word) :
    ({ c with v := V, s := S } : Coach).advance e = { c.advance e with v := V, s := S } := by
  unfold Coach.advance
  split <;> rfl

theorem advance_v (c : Coach) (e : Env) : (c.advance e).v = c.v := by unfold Coach.advance; split <;> rfl
theorem advance_s (c : Coach) (e : Env) : (c.advance e).s = c.s := by unfold Coach.advance; split <;> rfl
theorem advance_p (c : Coach) (e : Env) : (c.advance e).p = c.p := by unfold Coach.advance; split <;> rfl
theorem advance_exec (c : Coach) (e : Env) : (c.advance e).exec = c.exec := by unfold Coach.advance; split <;> rfl
theorem advance_flights (c : Coach) (e : Env) : (c.advance e).flights = c.flights := by unfold Coach.advance; split <;> rfl

theorem advance_flags (c : Coach) (e : Env) : (c.advance e).flags = c.flags := by unfold Coach.advance; split <;> rfl

/-- What holding an instruction back does: nothing outside its coach changes, and of the coach no register, predicate or
EXEC; its flag counts the instruction, and one operation more is in flight. -/
theorem hold_spec {e : Env} {s : State} (h : s.coach e.ref = some e.c) (i : Instr) (k : FlightKind) (m : Mask) :
    ∃ c fl, hold e i k m s = s.setCoach e.ref c ∧ c.v = e.c.v ∧ c.s = e.c.s ∧ c.p = e.c.p ∧ c.exec = e.c.exec ∧
      c.flights = e.c.flights ++ [fl] ∧ fl.kind = k ∧ c.flags = (e.c.raiseFlag (e.flagOf i)).flags := by
  unfold hold
  simp only [modCoach_of_coach h]
  refine ⟨_, _, rfl, ?_, ?_, ?_, ?_, advance_flights _ _, rfl, ?_⟩
  · rw [advance_v]; cases e.flagOf i <;> rfl
  · rw [advance_s]; cases e.flagOf i <;> rfl
  · rw [advance_p]; cases e.flagOf i <;> rfl
  · rw [advance_exec]; cases e.flagOf i <;> rfl
  · rw [advance_flags]

theorem rawReg_advance (c : Coach) (e : Env) (sc : Bool) (n t : Nat) : (c.advance e).rawReg sc n t = c.rawReg sc n t := by
  simp [Coach.rawReg, advance_v, advance_s]

/-! Units and threads. -/

theorem threadsOf_lt {n : Nat} {m : Mask} {t : Nat} (h : t ∈ threadsOf n m) : t < 256 := by
  simp only [threadsOf, List.mem_filter] at h
  by_contra hc
  simp [BitVec.getLsbD_of_ge m t (by omega)] at h

theorem units_lt {e : Env} {u : Bool} {t : Nat} (h : t ∈ e.units u) : t < 256 := by
  cases u with
  | true => simp [Env.units] at h; omega
  | false => exact threadsOf_lt h

theorem natToWords_length (n x : Nat) : (natToWords n x).length = n := by
  induction n generalizing x with
  | zero => rfl
  | succ n ih => simp [natToWords, ih]

theorem natToWords_get (n x j : Nat) (h : j < (natToWords n x).length) :
    (natToWords n x)[j] = BitVec.ofNat 32 (x / 2 ^ (32 * j)) := by
  induction n generalizing x j with
  | zero => simp [natToWords] at h
  | succ n ih =>
    cases j with
    | zero => simp [natToWords]
    | succ j =>
      simp only [natToWords, List.getElem_cons_succ]
      rw [ih, Nat.div_div_eq_div_mul, ← Nat.pow_add]
      congr 3
      omega

/-- The write of word j of a run. -/
def runWrite (u : Bool) (d t x j : Nat) : RegWrite :=
  { scalar := u, reg := d + j, thread := if u then 0 else t, val := BitVec.ofNat 32 (x / 2 ^ (32 * j)) }

/-- The writes of a run: register d + j of the unit gets the j-th word. -/
theorem mem_putRun {u : Bool} {d n t x : Nat} {w : RegWrite} : w ∈ putRun u d n t x ↔ ∃ j < n, w = runWrite u d t x j := by
  unfold putRun
  simp only [List.mem_map]
  constructor
  · rintro ⟨⟨j, y⟩, hm, rfl⟩
    obtain ⟨i, hi, he⟩ := List.getElem_of_mem hm
    have hi' : i < n := by simpa [natToWords_length] using hi
    simp only [List.getElem_zip, List.getElem_range, Prod.mk.injEq] at he
    refine ⟨i, hi', ?_⟩
    rw [← he.1, ← he.2, natToWords_get]
    rfl
  · rintro ⟨j, hj, rfl⟩
    refine ⟨(j, BitVec.ofNat 32 (x / 2 ^ (32 * j))), ?_, rfl⟩
    have hl : j < (List.zip (List.range n) (natToWords n x)).length := by simp [natToWords_length, hj]
    have : (List.zip (List.range n) (natToWords n x))[j] = (j, BitVec.ofNat 32 (x / 2 ^ (32 * j))) := by
      simp [List.getElem_zip, natToWords_get]
    rw [← this]
    exact List.getElem_mem hl

/-- No write of a pending register is due at registers d to d + n - 1. -/
def DestSettled (e : Env) (u : Bool) (d n : Nat) : Prop :=
  ∀ j < n, ∀ t, e.c.pendOf u (d + j) (if u then 0 else t) = none

/-- Writing one value per unit and going on. -/
theorem wrote_lanes (e : Env) (u : Bool) (d n : Nat) (val : Nat → Nat) (h : DestSettled e u d n) :
    Wrote e ((e.c.writeRegs e.tick ((e.units u).flatMap (fun t => putRun u d n t (val t)))).advance e) u d n val := by
  have hmem : ∀ w ∈ (e.units u).flatMap (fun t => putRun u d n t (val t)), ∃ t ∈ e.units u, ∃ j < n,
      w = runWrite u d t (val t) j := by
    intro w hw
    obtain ⟨t, ht, hw⟩ := List.mem_flatMap.mp hw
    obtain ⟨j, hj, rfl⟩ := mem_putRun.mp hw
    exact ⟨t, ht, j, hj, rfl⟩
  have hp : ∀ w ∈ (e.units u).flatMap (fun t => putRun u d n t (val t)), w.over e.c = none := by
    intro w hw
    obtain ⟨t, _, j, hj, rfl⟩ := hmem w hw
    have := h j hj t
    cases u <;> simpa [RegWrite.over, runWrite] using this
  have hlt : ∀ w ∈ (e.units u).flatMap (fun t => putRun u d n t (val t)), w.thread < 256 := by
    intro w hw
    obtain ⟨t, ht, j, _, rfl⟩ := hmem w hw
    cases u with
    | true => simp [runWrite]
    | false => exact units_lt ht
  refine ⟨?_, ?_, ?_⟩
  · intro t ht j hj
    rw [rawReg_advance]
    by_cases h0 : u = true ∧ d + j = 0
    · rw [if_pos h0, h0.1, h0.2]
      rfl
    · rw [if_neg h0]
      refine writeRegs_hit _ _ _ hp hlt _ _ _ (units_lt ht) _ ?_ ?_
      · intro w hw hh
        obtain ⟨t', ht', j', _, rfl⟩ := hmem w hw
        obtain ⟨-, hr, hth, -⟩ := hh
        simp only [runWrite] at hr hth ⊢
        have hj' : j' = j := by omega
        subst hj'
        cases u with
        | true =>
          simp [Env.units] at ht ht'
          rw [ht, ht']
        | false =>
          simp at hth
          rw [hth]
      · refine ⟨_, List.mem_flatMap.mpr ⟨t, ht, mem_putRun.mpr ⟨j, hj, rfl⟩⟩, ?_⟩
        refine ⟨rfl, rfl, ?_, ?_⟩
        · cases u <;> simp [runWrite]
        · intro hu h1
          exact h0 ⟨hu, h1⟩
  · intro sc r t ht hn
    rw [rawReg_advance]
    refine writeRegs_miss _ _ _ hp hlt _ _ _ ht ?_
    intro w hw hh
    obtain ⟨t', ht', j, hj, rfl⟩ := hmem w hw
    obtain ⟨hs, hr, hth, -⟩ := hh
    simp only [runWrite] at hs hr hth
    refine hn ⟨hs.symm, by omega, by omega, ?_⟩
    cases u with
    | true => exact Or.inl rfl
    | false =>
      right
      rcases hth with hth | hth
      · rw [← hs] at hth
        cases hth
      · simp at hth
        subst hth
        exact ht'
  · obtain ⟨V, S, hv⟩ := writeRegs_shape _ e.c e.tick hp
    rw [hv, advance_regs]
    cases hr : e.c.advance e
    have h1 := advance_v e.c e
    have h2 := advance_s e.c e
    rw [hr] at h1 h2
    simp only at h1 h2
    simp [h1, h2]

/-- One result and its flags in each unit. -/
theorem lanewise_spec {i : Instr} {s : State} {e : Env} (h : Runs i s e) (u : Bool) (d n : Nat)
    (f : Env → Nat → Nat × Word) (hd : DestSettled e u d n) :
    ∃ c, issue i s (lanewise u d n f) =
        .next ((s.orStatus e.site e.ctx (flagsAll ((e.units u).map (fun t => (f e t).2)))).setCoach s.cur c) ∧
      Wrote e c u d n (fun t => (f e t).1) := by
  refine ⟨_, ?_, wrote_lanes e u d n (fun t => (f e t).1) hd⟩
  rw [issue_runs h]
  simp only [lanewise, finishW, finishC, State.raise, List.flatMap_map, List.map_map]
  have hc : (s.orStatus e.site e.ctx (flagsAll ((e.units u).map (fun t => (f e t).2)))).coach e.ref = some e.c := by
    rw [(touch_orStatus s _ _ _).coach, h.ref]
    exact h.coach
  have := modCoach_of_coach hc (fun c => (c.writeRegs e.tick ((e.units u).flatMap (fun t => putRun u d n t (f e t).1))).advance e)
  rw [h.ref] at this
  simpa [Function.comp_def, h.ref] using this

/-- The same where no unit raises a flag. -/
theorem lanewise_clean {i : Instr} {s : State} {e : Env} (h : Runs i s e) (u : Bool) (d n : Nat) (f : Env → Nat → Nat)
    (hd : DestSettled e u d n) :
    ∃ c, issue i s (lanewise u d n (fun e t => clean (f e t))) = .next (s.setCoach s.cur c) ∧ Wrote e c u d n (f e) := by
  obtain ⟨c, h1, h2⟩ := lanewise_spec h u d n (fun e t => clean (f e t)) hd
  refine ⟨c, ?_, h2⟩
  have hz : flagsAll ((e.units u).map (fun t => (clean (f e t)).2)) = 0 := by
    unfold flagsAll
    generalize e.units u = l
    induction l with
    | nil => rfl
    | cons a r ih => simpa [clean, flNone] using ih
  rw [h1, hz, orStatus_zero]

/-- The destination of an instruction whose operands are settled. -/
theorem destSettled_of_settled {e : Env} {i : Instr} (h : Settled e i) {u : Bool} {d n : Nat}
    (hu : ∃ x ∈ i.uses, x.file = fileOf u ∧ x.reg = d ∧ n ≤ x.n ∧ (x.rd || x.wr) = true) : DestSettled e u d n := by
  obtain ⟨x, hx, hf, hr, hn, hrw⟩ := hu
  have h1 := List.all_eq_true.mp h x hx
  intro j hj t
  unfold Coach.pendOf
  rw [List.find?_eq_none]
  intro p hp
  simp only [Coach.usePending, Bool.not_eq_true', List.any_eq_false] at h1
  have h2 := h1 p hp
  intro hc
  apply h2
  simp only [PendReg.is, Bool.and_eq_true, beq_iff_eq] at hc
  obtain ⟨⟨ha, hb⟩, -⟩ := hc
  simp only [Bool.and_eq_true, decide_eq_true_eq, beq_iff_eq]
  refine ⟨⟨?_, by omega, by omega⟩, hrw⟩
  rw [ha, hf]
  cases u <;> rfl

/-! Predicates. -/

theorem getLsbD_two_pow (n q : Nat) (hn : n ≤ 7) : (BitVec.ofNat 8 (2 ^ n)).getLsbD q = decide (q = n) := by
  rw [BitVec.getLsbD_ofNat, Nat.testBit_two_pow]
  by_cases h : q = n
  · subst h
    simp
    omega
  · simp [h, Ne.symm h]

theorem readP_writeP (c : Coach) (n t : Nat) (b : Bool) (q t' : Nat) (hn : n ≤ 7) :
    (c.writeP n t b).readP q t' = if q = n ∧ t' = t then (if n = 0 then true else b) else c.readP q t' := by
  unfold Coach.readP
  by_cases hq : q = 0
  · subst hq
    by_cases h0 : n = 0
    · simp [h0]
    · simp [Ne.symm h0]
  · simp only [hq, if_false]
    unfold Coach.writeP
    by_cases h0 : n = 0
    · subst h0
      simp [hq]
    · have h7 : ¬ (n = 0 ∨ n > 7) := by omega
      simp only [h7, if_false]
      by_cases ht : t' = t
      · subst ht
        rw [getD_put_same]
        have hb := getLsbD_two_pow n q hn
        have h8 : n < 8 := by omega
        by_cases hqn : q = n
        · subst hqn
          cases b <;> simp_all
        · cases b <;> by_cases hq8 : q < 8 <;> simp_all
      · rw [getD_put_ne _ _ _ ht]
        simp [ht]

theorem writeP_shape (c : Coach) (n t : Nat) (b : Bool) : ∃ P, c.writeP n t b = { c with p := P } := by
  unfold Coach.writeP
  split
  · exact ⟨c.p, rfl⟩
  · exact ⟨_, rfl⟩

theorem writePs_shape (n : Nat) (g : Nat → Bool) (ts : List Nat) (c : Coach) :
    ∃ P, ts.foldl (fun d t => d.writeP n t (g t)) c = { c with p := P } := by
  induction ts generalizing c with
  | nil => exact ⟨c.p, rfl⟩
  | cons t r ih =>
    obtain ⟨P, hP⟩ := writeP_shape c n t (g t)
    obtain ⟨Q, hQ⟩ := ih (c.writeP n t (g t))
    exact ⟨Q, by rw [List.foldl_cons, hQ, hP]⟩

theorem readP_writePs (n : Nat) (hn : n ≤ 7) (g : Nat → Bool) (ts : List Nat) (c : Coach) (q t' : Nat) :
    (ts.foldl (fun d t => d.writeP n t (g t)) c).readP q t' =
      if q = n ∧ t' ∈ ts then (if n = 0 then true else g t') else c.readP q t' := by
  induction ts generalizing c with
  | nil => simp
  | cons t r ih =>
    rw [List.foldl_cons, ih, readP_writeP _ _ _ _ _ _ hn]
    by_cases hq : q = n
    · by_cases hr : t' ∈ r
      · simp [hq, hr]
      · by_cases ht : t' = t
        · simp [hq, ht]
        · simp [hq, hr, ht]
    · simp [hq]

/-- Going on reads no predicate but those that the instruction itself read. -/
theorem advance_preds (c : Coach) (e : Env) (P : Table (BitVec 8)) :
    ({ c with p := P } : Coach).advance e = { c.advance e with p := P } := by
  unfold Coach.advance
  split <;> rfl

/-- A predicate written in a list of threads. -/
theorem setsPred_of {i : Instr} {s : State} {e : Env} (h : Runs i s e) (p : Nat) (hp : p ≤ 7) (g : Nat → Bool) (ts : List Nat) :
    ∃ c, s.modCoach e.ref (fun c => (ts.foldl (fun d t => d.writeP p t (g t)) c).advance e) = s.setCoach s.cur c ∧
      (∀ t ∈ ts, c.readP p t = if p = 0 then true else g t) ∧
      (∀ q t, ¬ (q = p ∧ t ∈ ts) → c.readP q t = e.c.readP q t) ∧ { c with p := e.c.p } = e.c.advance e := by
  rw [h.ref]
  refine ⟨_, modCoach_of_coach h.coach _, ?_, ?_, ?_⟩
  · intro t ht
    unfold Coach.readP
    rw [advance_p]
    have := readP_writePs p hp g ts e.c p t
    rw [if_pos ⟨rfl, ht⟩] at this
    exact this
  · intro q t hn
    unfold Coach.readP
    rw [advance_p]
    have := readP_writePs p hp g ts e.c q t
    rw [if_neg hn] at this
    exact this
  · obtain ⟨P, hP⟩ := writePs_shape p g ts e.c
    have h1 := advance_p e.c e
    rw [hP, advance_preds]
    cases hr : e.c.advance e
    rw [hr] at h1
    simp only at h1
    simp [h1]

end Sys2Proof.Machine
end

