-- ==== Sys2Proof/Laws/Access.lean ====
section
/-! SUPPORT. What the shared operations of rows 0x7 and 0x8 come to when their checks pass: one lemma for each. -/

namespace Sys2Proof.Machine

/-- A memory instruction whose units all pass orders 1 and 2 of R135 goes on with its translated accesses. -/
theorem accessAll_reaches {e : Env} {i : Instr} {u : Bool} {size : Nat} {need : Need} {ea : Nat → DWord} {s s1 : State}
    {gs : List Target} (h : Reaches e u size need ea s gs s1) (k : List Target → State → State) :
    accessAll e i u size need ea s k = k gs s1 := by
  obtain ⟨ha, ht, hw⟩ := h
  have h1 : (e.units u).filter (fun t => decide ((ea t).toNat % size ≠ 0)) = [] := by
    simpa [List.filter_eq_nil_iff] using ha
  have h2 : gs.filter (fun g => badWindow size g.x) = [] := by simpa [List.filter_eq_nil_iff] using fun g hg => (hw g hg).1
  have h3 : gs.any (fun g => s1.tested g.x.pa size) = false := by simpa [List.any_eq_false] using fun g hg => (hw g hg).2
  simp only [accessAll, h1, ht, lowestMiss, h2, h3, Bool.false_eq_true, if_false]

/-- A memory instruction none of whose accesses is refused is tracked with its results (R76, R77). -/
theorem settleMem_clean {e : Env} {i : Instr} {u : Bool} {d : Done} (h : d.misses = []) (s : State) :
    settleMem e i u d s = tracked e i d.ws (s.raise e d.fl) := by
  simp [settleMem, worstMiss, lowestMiss, h]

/-- What the checks of R142 before a format-decoded access find: each unit's descriptor and side record. -/
def qFind (e : Env) (f : FM) (need : Need) (s : State) : List QTarget × List Miss × State :=
  let q := translateEach e need ((e.units f.u).map (fun t => (t, e.ea f.u f.base f.idx t))) s
  let p := formatEach e q.1 q.2.2
  sideEach e p.1 p.2.2
/-- They find no cause, and the addresses are aligned. -/
def QFound (e : Env) (f : FM) (need : Need) (s : State) : Bool :=
  let q := translateEach e need ((e.units f.u).map (fun t => (t, e.ea f.u f.base f.idx t))) s
  q.2.1.isEmpty && (formatEach e q.1 q.2.2).2.1.isEmpty && (qFind e f need s).2.1.isEmpty &&
    (qFind e f need s).1.all (fun g => !g.d.half && decide (g.g.va.toNat % g.d.size = 0) &&
      !badWindow g.d.size g.g.x && g.side.all (fun d => !badWindow 2 d.x) && !(qFind e f need s).2.2.tested g.g.x.pa g.d.size)

/-- A format-decoded access whose units all pass those checks goes on with what they found (R142). -/
theorem formatAll_found {e : Env} {i : Instr} {f : FM} {need : Need} {s : State} (h : QFound e f need s = true)
    (k : List QTarget → State → State) : formatAll e i f need s k = k (qFind e f need s).1 (qFind e f need s).2.2 := by
  simp only [QFound, Bool.and_eq_true, List.isEmpty_iff, List.all_eq_true, Bool.not_eq_true', decide_eq_true_eq] at h
  obtain ⟨⟨⟨h1, h2⟩, h3⟩, h4⟩ := h
  have h5 : (qFind e f need s).1.any (fun g => (qFind e f need s).2.2.tested g.g.x.pa g.d.size) = false := by
    simpa [List.any_eq_false] using fun g hg => (h4 g hg).2
  simp only [qFind] at h3 h4 h5
  have hf (l : List QTarget) (hl : ∀ g ∈ l, g.d.half = false) : l.filter (fun g => g.d.half) = [] := by
    simpa [List.filter_eq_nil_iff] using hl
  simp only [formatAll, qFind, h1, h2, h3, lowestMiss, List.filter_nil, hf _ (fun g hg => (h4 g hg).1.1.1.1), List.map_nil, List.isEmpty_nil,
    Bool.not_true, Bool.false_and, Bool.false_eq_true, if_false]
  split
  · next g l hg =>
    have hm : g ∈ g :: l := List.mem_cons_self
    rw [← hg, List.mem_filter] at hm
    obtain ⟨hm, hb⟩ := hm
    obtain ⟨⟨⟨⟨_, ha⟩, hw⟩, hs⟩, _⟩ := h4 g hm
    cases hd : g.side with
    | none => simp [ha, hw, hd] at hb
    | some d => simp [hd] at hs; simp [ha, hw, hd, hs] at hb
  · simp only [h5, Bool.false_eq_true, if_false]

/-- An access that meets no uncorrectable error meets none after errors have only gone. -/
theorem bufBad_mono {c d : Core} {b : Buf} {off n : Nat} {store : Bool} (hs : d.bad ⊆ c.bad) (h : c.bufBad b off n store = false) :
    d.bufBad b off n store = false := by
  simp only [Core.bufBad, Bool.and_eq_false_iff, Bool.not_eq_false', List.isEmpty_iff, List.any_eq_false, List.contains_eq_mem,
    decide_eq_true_eq] at h ⊢
  rcases h with h | h
  · left
    rw [h] at hs
    exact List.subset_nil.mp hs
  · right
    exact fun k hk hc => h k hk (hs hc)

/-- What a step of a buffer access leaves: errors only go. -/
def KeepsBad (core : Nat) (act : Nat → Nat → State → (List RegWrite × Word) × State) : Prop :=
  ∀ t off s, ((act t off s).2.core core).bad ⊆ (s.core core).bad

/-- Buffer accesses that meet no uncorrectable error are all performed, in rising thread index (R136). -/
theorem bufEach_clean {core : Nat} {b : Buf} {size : Nat} {store : Bool} {base : Nat} {ea : Nat → DWord}
    {act : Nat → Nat → State → (List RegWrite × Word) × State} (ha : KeepsBad core act) (us : List Nat) (d : Done) (s : State)
    (h : ∀ t ∈ us, (s.core core).bufBad b (base + (ea t).toNat) size store = false) :
    bufEach core b size store base ea act us d s =
      (let r := us.foldl (fun (r : (List RegWrite × Word) × State) t =>
          let a := act t (base + (ea t).toNat) r.2
          ((r.1.1 ++ a.1.1, r.1.2 ||| a.1.2), a.2)) ((d.ws, d.fl), s)
       ({ d with ws := r.1.1, fl := r.1.2 }, r.2)) := by
  induction us generalizing d s with
  | nil => rfl
  | cons t r ih =>
    rw [bufEach]
    simp only [h t List.mem_cons_self, Bool.false_eq_true, if_false, List.foldl_cons]
    exact ih _ _ (fun x hx => bufBad_mono (ha _ _ _) (h x (List.mem_cons_of_mem _ hx)))

/-- A buffer access whose units all pass orders 1, 4 and 7 of R135 is performed in rising thread index (R136, R144). -/
theorem bufAll_reaches {e : Env} {i : Instr} {u : Bool} {b : Buf} {size : Nat} {store : Bool} {ea : Nat → DWord} {s : State}
    (h : ReachesBuf e u b size store ea s) {act : Nat → Nat → State → (List RegWrite × Word) × State} (ha : KeepsBad e.core act) :
    bufAll e i u b size store ea s act =
      (let r := (e.units u).foldl (fun (r : (List RegWrite × Word) × State) t =>
          let a := act t (((s.core e.core).window e.wg b).1 + (ea t).toNat) r.2
          ((r.1.1 ++ a.1.1, r.1.2 ||| a.1.2), a.2)) (([], 0), s)
       tracked e i r.1.1 (r.2.raise e r.1.2)) := by
  have h1 : (e.units u).filter (fun t => decide ((ea t).toNat % size ≠ 0)) = [] := by
    simpa [List.filter_eq_nil_iff] using fun t ht => (h.2 t ht).1
  have h2 : (e.units u).filterMap (fun t => (bufCause (s.core e.core) e b size (ea t)).map (fun k => { t := t, cause := k, va := ea t : Miss })) = [] := by
    simpa [List.filterMap_eq_nil_iff] using fun t ht => (h.2 t ht).2.1
  have h3 : (e.units u).any (fun t => bufStalls (s.core e.core) e b size store (ea t)) = false := by
    simpa [List.any_eq_false] using fun t ht => (h.2 t ht).2.2.1
  simp only [bufAll, h1, h2, lowestMiss, h3, h.1, Bool.or_self, Bool.false_eq_true, if_false]
  rw [bufEach_clean ha _ _ _ (fun t ht => (h.2 t ht).2.2.2), settleMem_clean rfl]
  rfl

end Sys2Proof.Machine
end

