-- ==== Sys2Proof/Laws/Encoding.lean ====
section
/-! SUPPORT. Packing a format's fields into a word and taking them out again (R79, R80). -/

namespace Sys2Proof

theorem getLsbD_append_low {n m : Nat} (x : BitVec n) (y : BitVec m) {j : Nat} (h : j < m) :
    (x ++ y).getLsbD j = y.getLsbD j := by
  simp [BitVec.getLsbD_append, h]

theorem getLsbD_append_high {n m : Nat} (x : BitVec n) (y : BitVec m) {j : Nat} (h : m ≤ j) :
    (x ++ y).getLsbD j = x.getLsbD (j - m) := by
  simp [BitVec.getLsbD_append, Nat.not_lt.mpr h]

theorem extract_append_low {n m : Nat} (x : BitVec n) (y : BitVec m) {j l : Nat} (h : j + l ≤ m) :
    (x ++ y).extractLsb' j l = y.extractLsb' j l := by
  ext i hi
  simp [BitVec.getLsbD_append, show j + i < m by omega]

theorem extract_append_high {n m : Nat} (x : BitVec n) (y : BitVec m) {j l : Nat} (h : m ≤ j) :
    (x ++ y).extractLsb' j l = x.extractLsb' (j - m) l := by
  ext i hi
  simp [BitVec.getLsbD_append, show ¬ j + i < m by omega, show j + i - m = j - m + i by omega]

theorem extract_self {n : Nat} (x : BitVec n) : x.extractLsb' 0 n = x := by
  ext i hi
  simp

theorem getLsbD_ofBool_zero (b : Bool) : (BitVec.ofBool b).getLsbD 0 = b := by cases b <;> rfl

/-- The opcode of a packed word is the one it was packed with. -/
theorem opcodeOf_append (op : BitVec 8) (r : BitVec 24) : opcodeOf (op ++ r) = op :=
  (extract_append_high op r (j := 24) (l := 8) (by omega)).trans (extract_self op)

theorem opcodeOf_packRRR (op : BitVec 8) (f : RRR) : opcodeOf (packRRR op f) = op := opcodeOf_append op _
theorem rrrOf_pack (op : BitVec 8) (f : RRR) : rrrOf (packRRR op f) = f := by
  obtain ⟨u, fb, s, m, d, a, b⟩ := f
  simp only [rrrOf, packRRR, field, bit, RRR.mk.injEq]
  refine ⟨?_, ?_, ?_, ?_, ?_, ?_, ?_⟩
  · erw [getLsbD_append_low, getLsbD_append_high]
    · exact getLsbD_ofBool_zero u
    all_goals omega
  · erw [getLsbD_append_low, getLsbD_append_low, getLsbD_append_high]
    · exact getLsbD_ofBool_zero fb
    all_goals omega
  · erw [getLsbD_append_low, getLsbD_append_low, getLsbD_append_low, getLsbD_append_high]
    · exact getLsbD_ofBool_zero s
    all_goals omega
  · erw [extract_append_low, extract_append_low, extract_append_low, extract_append_low, extract_append_high]
    · exact extract_self m
    all_goals omega
  · erw [extract_append_low, extract_append_low, extract_append_low, extract_append_low, extract_append_low, extract_append_high]
    · exact extract_self d
    all_goals omega
  · erw [extract_append_low, extract_append_low, extract_append_low, extract_append_low, extract_append_low, extract_append_low, extract_append_high]
    · exact extract_self a
    all_goals omega
  · erw [extract_append_low, extract_append_low, extract_append_low, extract_append_low, extract_append_low, extract_append_low, extract_append_low]
    · exact extract_self b
    all_goals omega
theorem opcodeOf_packRI (op : BitVec 8) (f : RI) : opcodeOf (packRI op f) = op := opcodeOf_append op _
theorem riOf_pack (op : BitVec 8) (f : RI) : riOf (packRI op f) = f := by
  obtain ⟨u, fb, d, imm⟩ := f
  simp only [riOf, packRI, field, bit, RI.mk.injEq]
  refine ⟨?_, ?_, ?_, ?_⟩
  · erw [getLsbD_append_low, getLsbD_append_high]
    · exact getLsbD_ofBool_zero u
    all_goals omega
  · erw [getLsbD_append_low, getLsbD_append_low, getLsbD_append_high]
    · exact getLsbD_ofBool_zero fb
    all_goals omega
  · erw [extract_append_low, extract_append_low, extract_append_low, extract_append_high]
    · exact extract_self d
    all_goals omega
  · erw [extract_append_low, extract_append_low, extract_append_low, extract_append_low]
    · exact extract_self imm
    all_goals omega
theorem opcodeOf_packM (op : BitVec 8) (f : FM) : opcodeOf (packM op f) = op := opcodeOf_append op _
theorem fmOf_pack (op : BitVec 8) (f : FM) : fmOf (packM op f) = f := by
  obtain ⟨u, fb, t, base, idx, scope, nt⟩ := f
  simp only [fmOf, packM, field, bit, FM.mk.injEq]
  refine ⟨?_, ?_, ?_, ?_, ?_, ?_, ?_⟩
  · erw [getLsbD_append_low, getLsbD_append_high]
    · exact getLsbD_ofBool_zero u
    all_goals omega
  · erw [getLsbD_append_low, getLsbD_append_low, getLsbD_append_high]
    · exact getLsbD_ofBool_zero fb
    all_goals omega
  · erw [extract_append_low, extract_append_low, extract_append_low, extract_append_high]
    · exact extract_self t
    all_goals omega
  · erw [extract_append_low, extract_append_low, extract_append_low, extract_append_low, extract_append_high]
    · exact extract_self base
    all_goals omega
  · erw [extract_append_low, extract_append_low, extract_append_low, extract_append_low, extract_append_low, extract_append_high]
    · exact extract_self idx
    all_goals omega
  · erw [extract_append_low, extract_append_low, extract_append_low, extract_append_low, extract_append_low, extract_append_low, extract_append_high]
    · exact extract_self scope
    all_goals omega
  · erw [getLsbD_append_low, getLsbD_append_low, getLsbD_append_low, getLsbD_append_low, getLsbD_append_low, getLsbD_append_low, getLsbD_append_low]
    · exact getLsbD_ofBool_zero nt
    all_goals omega
theorem opcodeOf_packA (op : BitVec 8) (f : FA) : opcodeOf (packA op f) = op := opcodeOf_append op _
theorem faOf_pack (op : BitVec 8) (f : FA) : faOf (packA op f) = f := by
  obtain ⟨u, fb, t, base, idx, aop⟩ := f
  simp only [faOf, packA, field, bit, FA.mk.injEq]
  refine ⟨?_, ?_, ?_, ?_, ?_, ?_⟩
  · erw [getLsbD_append_low, getLsbD_append_high]
    · exact getLsbD_ofBool_zero u
    all_goals omega
  · erw [getLsbD_append_low, getLsbD_append_low, getLsbD_append_high]
    · exact getLsbD_ofBool_zero fb
    all_goals omega
  · erw [extract_append_low, extract_append_low, extract_append_low, extract_append_high]
    · exact extract_self t
    all_goals omega
  · erw [extract_append_low, extract_append_low, extract_append_low, extract_append_low, extract_append_high]
    · exact extract_self base
    all_goals omega
  · erw [extract_append_low, extract_append_low, extract_append_low, extract_append_low, extract_append_low, extract_append_high]
    · exact extract_self idx
    all_goals omega
  · erw [extract_append_low, extract_append_low, extract_append_low, extract_append_low, extract_append_low, extract_append_low]
    · exact extract_self aop
    all_goals omega
theorem opcodeOf_packB (op : BitVec 8) (f : FB) : opcodeOf (packB op f) = op := opcodeOf_append op _
theorem fbOf_pack (op : BitVec 8) (f : FB) : fbOf (packB op f) = f := by
  obtain ⟨u, fb, cnt, gen, scope, bix⟩ := f
  simp only [fbOf, packB, field, bit, FB.mk.injEq]
  refine ⟨?_, ?_, ?_, ?_, ?_, ?_⟩
  · erw [getLsbD_append_low, getLsbD_append_high]
    · exact getLsbD_ofBool_zero u
    all_goals omega
  · erw [getLsbD_append_low, getLsbD_append_low, getLsbD_append_high]
    · exact getLsbD_ofBool_zero fb
    all_goals omega
  · erw [extract_append_low, extract_append_low, extract_append_low, extract_append_high]
    · exact extract_self cnt
    all_goals omega
  · erw [extract_append_low, extract_append_low, extract_append_low, extract_append_low, extract_append_high]
    · exact extract_self gen
    all_goals omega
  · erw [extract_append_low, extract_append_low, extract_append_low, extract_append_low, extract_append_low, extract_append_high]
    · exact extract_self scope
    all_goals omega
  · erw [extract_append_low, extract_append_low, extract_append_low, extract_append_low, extract_append_low, extract_append_low]
    · exact extract_self bix
    all_goals omega
theorem opcodeOf_packW (op : BitVec 8) (f : FW) : opcodeOf (packW op f) = op := opcodeOf_append op _
theorem fwOf_pack (op : BitVec 8) (f : FW) : fwOf (packW op f) = f := by
  obtain ⟨u, fb, t, base, z, cond⟩ := f
  simp only [fwOf, packW, field, bit, FW.mk.injEq]
  refine ⟨?_, ?_, ?_, ?_, ?_, ?_⟩
  · erw [getLsbD_append_low, getLsbD_append_high]
    · exact getLsbD_ofBool_zero u
    all_goals omega
  · erw [getLsbD_append_low, getLsbD_append_low, getLsbD_append_high]
    · exact getLsbD_ofBool_zero fb
    all_goals omega
  · erw [extract_append_low, extract_append_low, extract_append_low, extract_append_high]
    · exact extract_self t
    all_goals omega
  · erw [extract_append_low, extract_append_low, extract_append_low, extract_append_low, extract_append_high]
    · exact extract_self base
    all_goals omega
  · erw [extract_append_low, extract_append_low, extract_append_low, extract_append_low, extract_append_low, extract_append_high]
    · exact extract_self z
    all_goals omega
  · erw [extract_append_low, extract_append_low, extract_append_low, extract_append_low, extract_append_low, extract_append_low]
    · exact extract_self cond
    all_goals omega
theorem opcodeOf_packQ (op : BitVec 8) (f : FQ) : opcodeOf (packQ op f) = op := opcodeOf_append op _
theorem fqOf_pack (op : BitVec 8) (f : FQ) : fqOf (packQ op f) = f := by
  obtain ⟨u, fb, t, qcb, stat, nregM1⟩ := f
  simp only [fqOf, packQ, field, bit, FQ.mk.injEq]
  refine ⟨?_, ?_, ?_, ?_, ?_, ?_⟩
  · erw [getLsbD_append_low, getLsbD_append_high]
    · exact getLsbD_ofBool_zero u
    all_goals omega
  · erw [getLsbD_append_low, getLsbD_append_low, getLsbD_append_high]
    · exact getLsbD_ofBool_zero fb
    all_goals omega
  · erw [extract_append_low, extract_append_low, extract_append_low, extract_append_high]
    · exact extract_self t
    all_goals omega
  · erw [extract_append_low, extract_append_low, extract_append_low, extract_append_low, extract_append_high]
    · exact extract_self qcb
    all_goals omega
  · erw [extract_append_low, extract_append_low, extract_append_low, extract_append_low, extract_append_low, extract_append_high]
    · exact extract_self stat
    all_goals omega
  · erw [extract_append_low, extract_append_low, extract_append_low, extract_append_low, extract_append_low, extract_append_low]
    · exact extract_self nregM1
    all_goals omega
theorem opcodeOf_packX (op : BitVec 8) (f : FX) : opcodeOf (packX op f) = op := opcodeOf_append op _
theorem fxOf_pack (op : BitVec 8) (f : FX) : fxOf (packX op f) = f := by
  obtain ⟨u, fb, acc, adesc, bdesc, p, dpol⟩ := f
  simp only [fxOf, packX, field, bit, FX.mk.injEq]
  refine ⟨?_, ?_, ?_, ?_, ?_, ?_, ?_⟩
  · erw [getLsbD_append_low, getLsbD_append_high]
    · exact getLsbD_ofBool_zero u
    all_goals omega
  · erw [getLsbD_append_low, getLsbD_append_low, getLsbD_append_high]
    · exact getLsbD_ofBool_zero fb
    all_goals omega
  · erw [extract_append_low, extract_append_low, extract_append_low, extract_append_high]
    · exact extract_self acc
    all_goals omega
  · erw [extract_append_low, extract_append_low, extract_append_low, extract_append_low, extract_append_high]
    · exact extract_self adesc
    all_goals omega
  · erw [extract_append_low, extract_append_low, extract_append_low, extract_append_low, extract_append_low, extract_append_high]
    · exact extract_self bdesc
    all_goals omega
  · erw [extract_append_low, extract_append_low, extract_append_low, extract_append_low, extract_append_low, extract_append_low, extract_append_high]
    · exact extract_self p
    all_goals omega
  · erw [extract_append_low, extract_append_low, extract_append_low, extract_append_low, extract_append_low, extract_append_low, extract_append_low]
    · exact extract_self dpol
    all_goals omega
theorem opcodeOf_packC (op : BitVec 8) (f : FC) : opcodeOf (packC op f) = op := opcodeOf_append op _
theorem fcOf_pack (op : BitVec 8) (f : FC) : fcOf (packC op f) = f := by
  obtain ⟨u, fb, pb, tin, aux, qsel⟩ := f
  simp only [fcOf, packC, field, bit, FC.mk.injEq]
  refine ⟨?_, ?_, ?_, ?_, ?_, ?_⟩
  · erw [getLsbD_append_low, getLsbD_append_high]
    · exact getLsbD_ofBool_zero u
    all_goals omega
  · erw [getLsbD_append_low, getLsbD_append_low, getLsbD_append_high]
    · exact getLsbD_ofBool_zero fb
    all_goals omega
  · erw [extract_append_low, extract_append_low, extract_append_low, extract_append_high]
    · exact extract_self pb
    all_goals omega
  · erw [extract_append_low, extract_append_low, extract_append_low, extract_append_low, extract_append_high]
    · exact extract_self tin
    all_goals omega
  · erw [extract_append_low, extract_append_low, extract_append_low, extract_append_low, extract_append_low, extract_append_high]
    · exact extract_self aux
    all_goals omega
  · erw [extract_append_low, extract_append_low, extract_append_low, extract_append_low, extract_append_low, extract_append_low]
    · exact extract_self qsel
    all_goals omega
theorem opcodeOf_packJ (op : BitVec 8) (f : FJ) : opcodeOf (packJ op f) = op := opcodeOf_append op _
theorem fjOf_pack (op : BitVec 8) (f : FJ) : fjOf (packJ op f) = f := by
  obtain ⟨u, fb, off⟩ := f
  simp only [fjOf, packJ, field, bit, FJ.mk.injEq]
  refine ⟨?_, ?_, ?_⟩
  · erw [getLsbD_append_low, getLsbD_append_high]
    · exact getLsbD_ofBool_zero u
    all_goals omega
  · erw [getLsbD_append_low, getLsbD_append_low, getLsbD_append_high]
    · exact getLsbD_ofBool_zero fb
    all_goals omega
  · erw [extract_append_low, extract_append_low, extract_append_low]
    · exact extract_self off
    all_goals omega
theorem opcodeOf_packJC (op : BitVec 8) (f : FJC) : opcodeOf (packJC op f) = op := opcodeOf_append op _
theorem fjcOf_pack (op : BitVec 8) (f : FJC) : fjcOf (packJC op f) = f := by
  obtain ⟨u, fb, reg, cond, off⟩ := f
  simp only [fjcOf, packJC, field, bit, FJC.mk.injEq]
  refine ⟨?_, ?_, ?_, ?_, ?_⟩
  · erw [getLsbD_append_low, getLsbD_append_high]
    · exact getLsbD_ofBool_zero u
    all_goals omega
  · erw [getLsbD_append_low, getLsbD_append_low, getLsbD_append_high]
    · exact getLsbD_ofBool_zero fb
    all_goals omega
  · erw [extract_append_low, extract_append_low, extract_append_low, extract_append_high]
    · exact extract_self reg
    all_goals omega
  · erw [extract_append_low, extract_append_low, extract_append_low, extract_append_low, extract_append_high]
    · exact extract_self cond
    all_goals omega
  · erw [extract_append_low, extract_append_low, extract_append_low, extract_append_low, extract_append_low]
    · exact extract_self off
    all_goals omega
theorem opcodeOf_packS (op : BitVec 8) (f : FS) : opcodeOf (packS op f) = op := opcodeOf_append op _
theorem fsOf_pack (op : BitVec 8) (f : FS) : fsOf (packS op f) = f := by
  obtain ⟨u, fb, d, sysreg, a⟩ := f
  simp only [fsOf, packS, field, bit, FS.mk.injEq]
  refine ⟨?_, ?_, ?_, ?_, ?_⟩
  · erw [getLsbD_append_low, getLsbD_append_high]
    · exact getLsbD_ofBool_zero u
    all_goals omega
  · erw [getLsbD_append_low, getLsbD_append_low, getLsbD_append_high]
    · exact getLsbD_ofBool_zero fb
    all_goals omega
  · erw [extract_append_low, extract_append_low, extract_append_low, extract_append_high]
    · exact extract_self d
    all_goals omega
  · erw [extract_append_low, extract_append_low, extract_append_low, extract_append_low, extract_append_high]
    · exact extract_self sysreg
    all_goals omega
  · erw [extract_append_low, extract_append_low, extract_append_low, extract_append_low, extract_append_low]
    · exact extract_self a
    all_goals omega

/-- A word whose opcode is listed. -/
theorem listed_of_opcode {w w' : Word} {op : BitVec 8} (h : opcodeOf w = op) (hl : listedOpcode op = true)
    (hw : some w = some w') : listedOpcode (opcodeOf w') = true := by
  obtain rfl := Option.some.inj hw
  rw [h, hl]

end Sys2Proof
end

