-- ==== Sys2Proof/Laws/PerInstr.lean ====
section
/-! SUPPORT. Statements made per instruction, one lemma per constructor of `Instr`. Family OpcodeListed: the word that
encodes an instruction carries one of the opcodes that R87 lists, in bits [31:24] (R79); an event has no word. -/

namespace Sys2Proof.Laws.OpcodeListed

/-- Every word that encodes the instruction has an opcode that names an instruction. -/
def Statement (i : Instr) : Prop := ∀ w, encode i = some w → listedOpcode (opcodeOf w) = true

theorem nop (f : RRR) : Statement (.nop f) := fun _ h => listed_of_opcode (opcodeOf_packRRR 0x00 f) (by decide) h
theorem iadd (f : RRR) : Statement (.iadd f) := fun _ h => listed_of_opcode (opcodeOf_packRRR 0x01 f) (by decide) h
theorem isub (f : RRR) : Statement (.isub f) := fun _ h => listed_of_opcode (opcodeOf_packRRR 0x02 f) (by decide) h
theorem imul (f : RRR) : Statement (.imul f) := fun _ h => listed_of_opcode (opcodeOf_packRRR 0x03 f) (by decide) h
theorem imulh (f : RRR) : Statement (.imulh f) := fun _ h => listed_of_opcode (opcodeOf_packRRR 0x04 f) (by decide) h
theorem imad (f : RRR) : Statement (.imad f) := fun _ h => listed_of_opcode (opcodeOf_packRRR 0x05 f) (by decide) h
theorem imin (f : RRR) : Statement (.imin f) := fun _ h => listed_of_opcode (opcodeOf_packRRR 0x06 f) (by decide) h
theorem imax (f : RRR) : Statement (.imax f) := fun _ h => listed_of_opcode (opcodeOf_packRRR 0x07 f) (by decide) h
theorem iabs (f : RRR) : Statement (.iabs f) := fun _ h => listed_of_opcode (opcodeOf_packRRR 0x08 f) (by decide) h
theorem ineg (f : RRR) : Statement (.ineg f) := fun _ h => listed_of_opcode (opcodeOf_packRRR 0x09 f) (by decide) h
theorem popc (f : RRR) : Statement (.popc f) := fun _ h => listed_of_opcode (opcodeOf_packRRR 0x0A f) (by decide) h
theorem clz (f : RRR) : Statement (.clz f) := fun _ h => listed_of_opcode (opcodeOf_packRRR 0x0B f) (by decide) h
theorem brev (f : RRR) : Statement (.brev f) := fun _ h => listed_of_opcode (opcodeOf_packRRR 0x0C f) (by decide) h
theorem idot4 (f : RRR) : Statement (.idot4 f) := fun _ h => listed_of_opcode (opcodeOf_packRRR 0x0D f) (by decide) h
theorem andI (f : RRR) : Statement (.andI f) := fun _ h => listed_of_opcode (opcodeOf_packRRR 0x10 f) (by decide) h
theorem orI (f : RRR) : Statement (.orI f) := fun _ h => listed_of_opcode (opcodeOf_packRRR 0x11 f) (by decide) h
theorem xorI (f : RRR) : Statement (.xorI f) := fun _ h => listed_of_opcode (opcodeOf_packRRR 0x12 f) (by decide) h
theorem notI (f : RRR) : Statement (.notI f) := fun _ h => listed_of_opcode (opcodeOf_packRRR 0x13 f) (by decide) h
theorem shl (f : RRR) : Statement (.shl f) := fun _ h => listed_of_opcode (opcodeOf_packRRR 0x14 f) (by decide) h
theorem shr (f : RRR) : Statement (.shr f) := fun _ h => listed_of_opcode (opcodeOf_packRRR 0x15 f) (by decide) h
theorem sar (f : RRR) : Statement (.sar f) := fun _ h => listed_of_opcode (opcodeOf_packRRR 0x16 f) (by decide) h
theorem rotl (f : RRR) : Statement (.rotl f) := fun _ h => listed_of_opcode (opcodeOf_packRRR 0x17 f) (by decide) h
theorem bfx (f : RRR) : Statement (.bfx f) := fun _ h => listed_of_opcode (opcodeOf_packRRR 0x18 f) (by decide) h
theorem bfi (f : RRR) : Statement (.bfi f) := fun _ h => listed_of_opcode (opcodeOf_packRRR 0x19 f) (by decide) h
theorem icmp (f : RRR) : Statement (.icmp f) := fun _ h => listed_of_opcode (opcodeOf_packRRR 0x1A f) (by decide) h
theorem fcmp (f : RRR) : Statement (.fcmp f) := fun _ h => listed_of_opcode (opcodeOf_packRRR 0x1B f) (by decide) h
theorem sel (f : RRR) : Statement (.sel f) := fun _ h => listed_of_opcode (opcodeOf_packRRR 0x1C f) (by decide) h
theorem movI (f : RRR) : Statement (.movI f) := fun _ h => listed_of_opcode (opcodeOf_packRRR 0x1D f) (by decide) h
theorem prmt (f : RRR) : Statement (.prmt f) := fun _ h => listed_of_opcode (opcodeOf_packRRR 0x1E f) (by decide) h
theorem fadd (f : RRR) : Statement (.fadd f) := fun _ h => listed_of_opcode (opcodeOf_packRRR 0x20 f) (by decide) h
theorem fsub (f : RRR) : Statement (.fsub f) := fun _ h => listed_of_opcode (opcodeOf_packRRR 0x21 f) (by decide) h
theorem fmul (f : RRR) : Statement (.fmul f) := fun _ h => listed_of_opcode (opcodeOf_packRRR 0x22 f) (by decide) h
theorem ffma (f : RRR) : Statement (.ffma f) := fun _ h => listed_of_opcode (opcodeOf_packRRR 0x23 f) (by decide) h
theorem fmin (f : RRR) : Statement (.fmin f) := fun _ h => listed_of_opcode (opcodeOf_packRRR 0x24 f) (by decide) h
theorem fmax (f : RRR) : Statement (.fmax f) := fun _ h => listed_of_opcode (opcodeOf_packRRR 0x25 f) (by decide) h
theorem fabs (f : RRR) : Statement (.fabs f) := fun _ h => listed_of_opcode (opcodeOf_packRRR 0x26 f) (by decide) h
theorem fneg (f : RRR) : Statement (.fneg f) := fun _ h => listed_of_opcode (opcodeOf_packRRR 0x27 f) (by decide) h
theorem fdiv (f : RRR) : Statement (.fdiv f) := fun _ h => listed_of_opcode (opcodeOf_packRRR 0x28 f) (by decide) h
theorem fsqrt (f : RRR) : Statement (.fsqrt f) := fun _ h => listed_of_opcode (opcodeOf_packRRR 0x29 f) (by decide) h
theorem frcp (f : RRR) : Statement (.frcp f) := fun _ h => listed_of_opcode (opcodeOf_packRRR 0x2A f) (by decide) h
theorem frsq (f : RRR) : Statement (.frsq f) := fun _ h => listed_of_opcode (opcodeOf_packRRR 0x2B f) (by decide) h
theorem fscl (f : RRR) : Statement (.fscl f) := fun _ h => listed_of_opcode (opcodeOf_packRRR 0x2C f) (by decide) h
theorem frnd (f : RRR) : Statement (.frnd f) := fun _ h => listed_of_opcode (opcodeOf_packRRR 0x2D f) (by decide) h
theorem hadd2 (f : RRR) : Statement (.hadd2 f) := fun _ h => listed_of_opcode (opcodeOf_packRRR 0x30 f) (by decide) h
theorem hsub2 (f : RRR) : Statement (.hsub2 f) := fun _ h => listed_of_opcode (opcodeOf_packRRR 0x31 f) (by decide) h
theorem hmul2 (f : RRR) : Statement (.hmul2 f) := fun _ h => listed_of_opcode (opcodeOf_packRRR 0x32 f) (by decide) h
theorem hfma2 (f : RRR) : Statement (.hfma2 f) := fun _ h => listed_of_opcode (opcodeOf_packRRR 0x33 f) (by decide) h
theorem hmin2 (f : RRR) : Statement (.hmin2 f) := fun _ h => listed_of_opcode (opcodeOf_packRRR 0x34 f) (by decide) h
theorem hmax2 (f : RRR) : Statement (.hmax2 f) := fun _ h => listed_of_opcode (opcodeOf_packRRR 0x35 f) (by decide) h
theorem hdot2 (f : RRR) : Statement (.hdot2 f) := fun _ h => listed_of_opcode (opcodeOf_packRRR 0x36 f) (by decide) h
theorem dadd (f : RRR) : Statement (.dadd f) := fun _ h => listed_of_opcode (opcodeOf_packRRR 0x38 f) (by decide) h
theorem dsub (f : RRR) : Statement (.dsub f) := fun _ h => listed_of_opcode (opcodeOf_packRRR 0x39 f) (by decide) h
theorem dmul (f : RRR) : Statement (.dmul f) := fun _ h => listed_of_opcode (opcodeOf_packRRR 0x3A f) (by decide) h
theorem dfma (f : RRR) : Statement (.dfma f) := fun _ h => listed_of_opcode (opcodeOf_packRRR 0x3B f) (by decide) h
theorem dmin (f : RRR) : Statement (.dmin f) := fun _ h => listed_of_opcode (opcodeOf_packRRR 0x3C f) (by decide) h
theorem dmax (f : RRR) : Statement (.dmax f) := fun _ h => listed_of_opcode (opcodeOf_packRRR 0x3D f) (by decide) h
theorem ddiv (f : RRR) : Statement (.ddiv f) := fun _ h => listed_of_opcode (opcodeOf_packRRR 0x3E f) (by decide) h
theorem dsqrt (f : RRR) : Statement (.dsqrt f) := fun _ h => listed_of_opcode (opcodeOf_packRRR 0x3F f) (by decide) h
theorem cvt (f : RRR) : Statement (.cvt f) := fun _ h => listed_of_opcode (opcodeOf_packRRR 0x40 f) (by decide) h
theorem cvtsr (f : RRR) : Statement (.cvtsr f) := fun _ h => listed_of_opcode (opcodeOf_packRRR 0x41 f) (by decide) h
theorem fsin (f : RRR) : Statement (.fsin f) := fun _ h => listed_of_opcode (opcodeOf_packRRR 0x42 f) (by decide) h
theorem fcos (f : RRR) : Statement (.fcos f) := fun _ h => listed_of_opcode (opcodeOf_packRRR 0x43 f) (by decide) h
theorem fsincos (f : RRR) : Statement (.fsincos f) := fun _ h => listed_of_opcode (opcodeOf_packRRR 0x44 f) (by decide) h
theorem fexp2 (f : RRR) : Statement (.fexp2 f) := fun _ h => listed_of_opcode (opcodeOf_packRRR 0x45 f) (by decide) h
theorem flog2 (f : RRR) : Statement (.flog2 f) := fun _ h => listed_of_opcode (opcodeOf_packRRR 0x46 f) (by decide) h
theorem fexp (f : RRR) : Statement (.fexp f) := fun _ h => listed_of_opcode (opcodeOf_packRRR 0x47 f) (by decide) h
theorem fln (f : RRR) : Statement (.fln f) := fun _ h => listed_of_opcode (opcodeOf_packRRR 0x48 f) (by decide) h
theorem ftanh (f : RRR) : Statement (.ftanh f) := fun _ h => listed_of_opcode (opcodeOf_packRRR 0x49 f) (by decide) h
theorem fsigm (f : RRR) : Statement (.fsigm f) := fun _ h => listed_of_opcode (opcodeOf_packRRR 0x4A f) (by decide) h
theorem bscale (f : RRR) : Statement (.bscale f) := fun _ h => listed_of_opcode (opcodeOf_packRRR 0x4B f) (by decide) h
theorem benc (f : RRR) : Statement (.benc f) := fun _ h => listed_of_opcode (opcodeOf_packRRR 0x4C f) (by decide) h
theorem bdec (f : RRR) : Statement (.bdec f) := fun _ h => listed_of_opcode (opcodeOf_packRRR 0x4D f) (by decide) h
theorem lxch (f : RRR) : Statement (.lxch f) := fun _ h => listed_of_opcode (opcodeOf_packRRR 0x50 f) (by decide) h
theorem lshfl (f : RRR) : Statement (.lshfl f) := fun _ h => listed_of_opcode (opcodeOf_packRRR 0x51 f) (by decide) h
theorem lbcast (f : RRR) : Statement (.lbcast f) := fun _ h => listed_of_opcode (opcodeOf_packRRR 0x52 f) (by decide) h
theorem lrot (f : RRR) : Statement (.lrot f) := fun _ h => listed_of_opcode (opcodeOf_packRRR 0x53 f) (by decide) h
theorem cred (f : RRR) : Statement (.cred f) := fun _ h => listed_of_opcode (opcodeOf_packRRR 0x54 f) (by decide) h
theorem cscan (f : RRR) : Statement (.cscan f) := fun _ h => listed_of_opcode (opcodeOf_packRRR 0x55 f) (by decide) h
theorem pand (f : RRR) : Statement (.pand f) := fun _ h => listed_of_opcode (opcodeOf_packRRR 0x56 f) (by decide) h
theorem por (f : RRR) : Statement (.por f) := fun _ h => listed_of_opcode (opcodeOf_packRRR 0x57 f) (by decide) h
theorem pxor (f : RRR) : Statement (.pxor f) := fun _ h => listed_of_opcode (opcodeOf_packRRR 0x58 f) (by decide) h
theorem pnot (f : RRR) : Statement (.pnot f) := fun _ h => listed_of_opcode (opcodeOf_packRRR 0x59 f) (by decide) h
theorem pmask (f : RRR) : Statement (.pmask f) := fun _ h => listed_of_opcode (opcodeOf_packRRR 0x5A f) (by decide) h
theorem psets (f : RRR) : Statement (.psets f) := fun _ h => listed_of_opcode (opcodeOf_packRRR 0x5B f) (by decide) h
theorem vote (f : RRR) : Statement (.vote f) := fun _ h => listed_of_opcode (opcodeOf_packRRR 0x5C f) (by decide) h
theorem elect (f : RRR) : Statement (.elect f) := fun _ h => listed_of_opcode (opcodeOf_packRRR 0x5D f) (by decide) h
theorem vget (f : RRR) : Statement (.vget f) := fun _ h => listed_of_opcode (opcodeOf_packRRR 0x5E f) (by decide) h
theorem vput (f : RRR) : Statement (.vput f) := fun _ h => listed_of_opcode (opcodeOf_packRRR 0x5F f) (by decide) h
theorem movi (f : RI) : Statement (.movi f) := fun _ h => listed_of_opcode (opcodeOf_packRI 0x60 f) (by decide) h
theorem movih (f : RI) : Statement (.movih f) := fun _ h => listed_of_opcode (opcodeOf_packRI 0x61 f) (by decide) h
theorem iaddi (f : RI) : Statement (.iaddi f) := fun _ h => listed_of_opcode (opcodeOf_packRI 0x62 f) (by decide) h
theorem imuli (f : RI) : Statement (.imuli f) := fun _ h => listed_of_opcode (opcodeOf_packRI 0x63 f) (by decide) h
theorem andi (f : RI) : Statement (.andi f) := fun _ h => listed_of_opcode (opcodeOf_packRI 0x64 f) (by decide) h
theorem ori (f : RI) : Statement (.ori f) := fun _ h => listed_of_opcode (opcodeOf_packRI 0x65 f) (by decide) h
theorem xori (f : RI) : Statement (.xori f) := fun _ h => listed_of_opcode (opcodeOf_packRI 0x66 f) (by decide) h
theorem shli (f : RI) : Statement (.shli f) := fun _ h => listed_of_opcode (opcodeOf_packRI 0x67 f) (by decide) h
theorem shri (f : RI) : Statement (.shri f) := fun _ h => listed_of_opcode (opcodeOf_packRI 0x68 f) (by decide) h
theorem fmovi (f : RI) : Statement (.fmovi f) := fun _ h => listed_of_opcode (opcodeOf_packRI 0x69 f) (by decide) h
theorem faddi (f : RI) : Statement (.faddi f) := fun _ h => listed_of_opcode (opcodeOf_packRI 0x6A f) (by decide) h
theorem fmuli (f : RI) : Statement (.fmuli f) := fun _ h => listed_of_opcode (opcodeOf_packRI 0x6B f) (by decide) h
theorem haddi2h (f : RI) : Statement (.haddi2h f) := fun _ h => listed_of_opcode (opcodeOf_packRI 0x6C f) (by decide) h
theorem haddi2b (f : RI) : Statement (.haddi2b f) := fun _ h => listed_of_opcode (opcodeOf_packRI 0x6D f) (by decide) h
theorem hmuli2h (f : RI) : Statement (.hmuli2h f) := fun _ h => listed_of_opcode (opcodeOf_packRI 0x6E f) (by decide) h
theorem hmuli2b (f : RI) : Statement (.hmuli2b f) := fun _ h => listed_of_opcode (opcodeOf_packRI 0x6F f) (by decide) h
theorem f8muli (f : RI) : Statement (.f8muli f) := fun _ h => listed_of_opcode (opcodeOf_packRI 0xE0 f) (by decide) h
theorem f8addi (f : RI) : Statement (.f8addi f) := fun _ h => listed_of_opcode (opcodeOf_packRI 0xE1 f) (by decide) h
theorem ld8 (f : FM) : Statement (.ld8 f) := fun _ h => listed_of_opcode (opcodeOf_packM 0x70 f) (by decide) h
theorem ld16 (f : FM) : Statement (.ld16 f) := fun _ h => listed_of_opcode (opcodeOf_packM 0x71 f) (by decide) h
theorem ld32 (f : FM) : Statement (.ld32 f) := fun _ h => listed_of_opcode (opcodeOf_packM 0x72 f) (by decide) h
theorem ld64 (f : FM) : Statement (.ld64 f) := fun _ h => listed_of_opcode (opcodeOf_packM 0x73 f) (by decide) h
theorem ld128 (f : FM) : Statement (.ld128 f) := fun _ h => listed_of_opcode (opcodeOf_packM 0x74 f) (by decide) h
theorem st8 (f : FM) : Statement (.st8 f) := fun _ h => listed_of_opcode (opcodeOf_packM 0x75 f) (by decide) h
theorem st16 (f : FM) : Statement (.st16 f) := fun _ h => listed_of_opcode (opcodeOf_packM 0x76 f) (by decide) h
theorem st32 (f : FM) : Statement (.st32 f) := fun _ h => listed_of_opcode (opcodeOf_packM 0x77 f) (by decide) h
theorem st64 (f : FM) : Statement (.st64 f) := fun _ h => listed_of_opcode (opcodeOf_packM 0x78 f) (by decide) h
theorem st128 (f : FM) : Statement (.st128 f) := fun _ h => listed_of_opcode (opcodeOf_packM 0x79 f) (by decide) h
theorem ldacq (f : FM) : Statement (.ldacq f) := fun _ h => listed_of_opcode (opcodeOf_packM 0x7A f) (by decide) h
theorem strel (f : FM) : Statement (.strel f) := fun _ h => listed_of_opcode (opcodeOf_packM 0x7B f) (by decide) h
theorem fence (f : FM) : Statement (.fence f) := fun _ h => listed_of_opcode (opcodeOf_packM 0x7C f) (by decide) h
theorem ldq (f : FM) : Statement (.ldq f) := fun _ h => listed_of_opcode (opcodeOf_packM 0x7D f) (by decide) h
theorem stq (f : FM) : Statement (.stq f) := fun _ h => listed_of_opcode (opcodeOf_packM 0x7E f) (by decide) h
theorem pref (f : FM) : Statement (.pref f) := fun _ h => listed_of_opcode (opcodeOf_packM 0x7F f) (by decide) h
theorem lds (f : FM) : Statement (.lds f) := fun _ h => listed_of_opcode (opcodeOf_packM 0x80 f) (by decide) h
theorem sts (f : FM) : Statement (.sts f) := fun _ h => listed_of_opcode (opcodeOf_packM 0x81 f) (by decide) h
theorem lds128 (f : FM) : Statement (.lds128 f) := fun _ h => listed_of_opcode (opcodeOf_packM 0x82 f) (by decide) h
theorem sts128 (f : FM) : Statement (.sts128 f) := fun _ h => listed_of_opcode (opcodeOf_packM 0x83 f) (by decide) h
theorem ldx (f : FM) : Statement (.ldx f) := fun _ h => listed_of_opcode (opcodeOf_packM 0x84 f) (by decide) h
theorem stx (f : FM) : Statement (.stx f) := fun _ h => listed_of_opcode (opcodeOf_packM 0x85 f) (by decide) h
theorem ldw (f : FM) : Statement (.ldw f) := fun _ h => listed_of_opcode (opcodeOf_packM 0x86 f) (by decide) h
theorem stw (f : FM) : Statement (.stw f) := fun _ h => listed_of_opcode (opcodeOf_packM 0x87 f) (by decide) h
theorem ldac (f : FM) : Statement (.ldac f) := fun _ h => listed_of_opcode (opcodeOf_packM 0x88 f) (by decide) h
theorem stac (f : FM) : Statement (.stac f) := fun _ h => listed_of_opcode (opcodeOf_packM 0x89 f) (by decide) h
theorem atom (f : FA) : Statement (.atom f) := fun _ h => listed_of_opcode (opcodeOf_packA 0x8A f) (by decide) h
theorem atomar (f : FA) : Statement (.atomar f) := fun _ h => listed_of_opcode (opcodeOf_packA 0x8B f) (by decide) h
theorem acas (f : FA) : Statement (.acas f) := fun _ h => listed_of_opcode (opcodeOf_packA 0x8C f) (by decide) h
theorem acasar (f : FA) : Statement (.acasar f) := fun _ h => listed_of_opcode (opcodeOf_packA 0x8D f) (by decide) h
theorem atoms (f : FA) : Statement (.atoms f) := fun _ h => listed_of_opcode (opcodeOf_packA 0x8E f) (by decide) h
theorem aredg (f : FA) : Statement (.aredg f) := fun _ h => listed_of_opcode (opcodeOf_packA 0x8F f) (by decide) h
theorem bara (f : FB) : Statement (.bara f) := fun _ h => listed_of_opcode (opcodeOf_packB 0x90 f) (by decide) h
theorem barw (f : FB) : Statement (.barw f) := fun _ h => listed_of_opcode (opcodeOf_packB 0x91 f) (by decide) h
theorem baraw (f : FB) : Statement (.baraw f) := fun _ h => listed_of_opcode (opcodeOf_packB 0x92 f) (by decide) h
theorem barinit (f : FB) : Statement (.barinit f) := fun _ h => listed_of_opcode (opcodeOf_packB 0x93 f) (by decide) h
theorem waitc (f : FW) : Statement (.waitc f) := fun _ h => listed_of_opcode (opcodeOf_packW 0x94 f) (by decide) h
theorem waitct (f : FW) : Statement (.waitct f) := fun _ h => listed_of_opcode (opcodeOf_packW 0x95 f) (by decide) h
theorem enq (f : FQ) : Statement (.enq f) := fun _ h => listed_of_opcode (opcodeOf_packQ 0x96 f) (by decide) h
theorem deq (f : FQ) : Statement (.deq f) := fun _ h => listed_of_opcode (opcodeOf_packQ 0x97 f) (by decide) h
theorem enqnb (f : FQ) : Statement (.enqnb f) := fun _ h => listed_of_opcode (opcodeOf_packQ 0x98 f) (by decide) h
theorem deqnb (f : FQ) : Statement (.deqnb f) := fun _ h => listed_of_opcode (opcodeOf_packQ 0x99 f) (by decide) h
theorem qinit (f : FQ) : Statement (.qinit f) := fun _ h => listed_of_opcode (opcodeOf_packQ 0x9A f) (by decide) h
theorem qclose (f : FQ) : Statement (.qclose f) := fun _ h => listed_of_opcode (opcodeOf_packQ 0x9B f) (by decide) h
theorem qstat (f : FQ) : Statement (.qstat f) := fun _ h => listed_of_opcode (opcodeOf_packQ 0x9C f) (by decide) h
theorem ocrd (f : RRR) : Statement (.ocrd f) := fun _ h => listed_of_opcode (opcodeOf_packRRR 0x9D f) (by decide) h
theorem yield (f : RRR) : Statement (.yield f) := fun _ h => listed_of_opcode (opcodeOf_packRRR 0x9E f) (by decide) h
theorem sleep (f : RRR) : Statement (.sleep f) := fun _ h => listed_of_opcode (opcodeOf_packRRR 0x9F f) (by decide) h
theorem mmaBf16 (f : FX) : Statement (.mmaBf16 f) := fun _ h => listed_of_opcode (opcodeOf_packX 0xA0 f) (by decide) h
theorem mmaF16 (f : FX) : Statement (.mmaF16 f) := fun _ h => listed_of_opcode (opcodeOf_packX 0xA1 f) (by decide) h
theorem mmaE4m3 (f : FX) : Statement (.mmaE4m3 f) := fun _ h => listed_of_opcode (opcodeOf_packX 0xA2 f) (by decide) h
theorem mmaE5m2 (f : FX) : Statement (.mmaE5m2 f) := fun _ h => listed_of_opcode (opcodeOf_packX 0xA3 f) (by decide) h
theorem mmaE2m1 (f : FX) : Statement (.mmaE2m1 f) := fun _ h => listed_of_opcode (opcodeOf_packX 0xA4 f) (by decide) h
theorem mmaE2m1x (f : FX) : Statement (.mmaE2m1x f) := fun _ h => listed_of_opcode (opcodeOf_packX 0xA5 f) (by decide) h
theorem mmaI8 (f : FX) : Statement (.mmaI8 f) := fun _ h => listed_of_opcode (opcodeOf_packX 0xA6 f) (by decide) h
theorem mmaF32 (f : FX) : Statement (.mmaF32 f) := fun _ h => listed_of_opcode (opcodeOf_packX 0xA7 f) (by decide) h
theorem mmaF64 (f : FX) : Statement (.mmaF64 f) := fun _ h => listed_of_opcode (opcodeOf_packX 0xA8 f) (by decide) h
theorem bfence (f : RRR) : Statement (.bfence f) := fun _ h => listed_of_opcode (opcodeOf_packRRR 0xA9 f) (by decide) h
theorem bwait (f : RRR) : Statement (.bwait f) := fun _ h => listed_of_opcode (opcodeOf_packRRR 0xAA f) (by decide) h
theorem aczero (f : RRR) : Statement (.aczero f) := fun _ h => listed_of_opcode (opcodeOf_packRRR 0xAB f) (by decide) h
theorem acscl (f : RRR) : Statement (.acscl f) := fun _ h => listed_of_opcode (opcodeOf_packRRR 0xAC f) (by decide) h
theorem mrep (f : RRR) : Statement (.mrep f) := fun _ h => listed_of_opcode (opcodeOf_packRRR 0xAD f) (by decide) h
theorem mqry (f : RRR) : Statement (.mqry f) := fun _ h => listed_of_opcode (opcodeOf_packRRR 0xAE f) (by decide) h
theorem cpy (f : FC) : Statement (.cpy f) := fun _ h => listed_of_opcode (opcodeOf_packC 0xB0 f) (by decide) h
theorem cpym (f : FC) : Statement (.cpym f) := fun _ h => listed_of_opcode (opcodeOf_packC 0xB1 f) (by decide) h
theorem cpyt (f : FC) : Statement (.cpyt f) := fun _ h => listed_of_opcode (opcodeOf_packC 0xB2 f) (by decide) h
theorem tininit (f : FC) : Statement (.tininit f) := fun _ h => listed_of_opcode (opcodeOf_packC 0xB3 f) (by decide) h
theorem tinwait (f : FC) : Statement (.tinwait f) := fun _ h => listed_of_opcode (opcodeOf_packC 0xB4 f) (by decide) h
theorem tinrel (f : FC) : Statement (.tinrel f) := fun _ h => listed_of_opcode (opcodeOf_packC 0xB5 f) (by decide) h
theorem tinkill (f : FC) : Statement (.tinkill f) := fun _ h => listed_of_opcode (opcodeOf_packC 0xB6 f) (by decide) h
theorem tinq (f : FC) : Statement (.tinq f) := fun _ h => listed_of_opcode (opcodeOf_packC 0xB7 f) (by decide) h
theorem qfence (f : FC) : Statement (.qfence f) := fun _ h => listed_of_opcode (opcodeOf_packC 0xB8 f) (by decide) h
theorem coll (f : FC) : Statement (.coll f) := fun _ h => listed_of_opcode (opcodeOf_packC 0xB9 f) (by decide) h
theorem rput (f : FC) : Statement (.rput f) := fun _ h => listed_of_opcode (opcodeOf_packC 0xBA f) (by decide) h
theorem rget (f : FC) : Statement (.rget f) := fun _ h => listed_of_opcode (opcodeOf_packC 0xBB f) (by decide) h
theorem ratom (f : FC) : Statement (.ratom f) := fun _ h => listed_of_opcode (opcodeOf_packC 0xBC f) (by decide) h
theorem rflush (f : FC) : Statement (.rflush f) := fun _ h => listed_of_opcode (opcodeOf_packC 0xBD f) (by decide) h
theorem launchI (f : FC) : Statement (.launchI f) := fun _ h => listed_of_opcode (opcodeOf_packC 0xBE f) (by decide) h
theorem bra (f : FJ) : Statement (.bra f) := fun _ h => listed_of_opcode (opcodeOf_packJ 0xC0 f) (by decide) h
theorem brs (f : FJC) : Statement (.brs f) := fun _ h => listed_of_opcode (opcodeOf_packJC 0xC1 f) (by decide) h
theorem brp (f : FJC) : Statement (.brp f) := fun _ h => listed_of_opcode (opcodeOf_packJC 0xC2 f) (by decide) h
theorem callI (f : FJ) : Statement (.callI f) := fun _ h => listed_of_opcode (opcodeOf_packJ 0xC3 f) (by decide) h
theorem retI (f : FJ) : Statement (.retI f) := fun _ h => listed_of_opcode (opcodeOf_packJ 0xC4 f) (by decide) h
theorem jmpr (f : FJC) : Statement (.jmpr f) := fun _ h => listed_of_opcode (opcodeOf_packJC 0xC5 f) (by decide) h
theorem ifI (f : FJC) : Statement (.ifI f) := fun _ h => listed_of_opcode (opcodeOf_packJC 0xC6 f) (by decide) h
theorem elseI (f : FJ) : Statement (.elseI f) := fun _ h => listed_of_opcode (opcodeOf_packJ 0xC7 f) (by decide) h
theorem endifI (f : FJ) : Statement (.endifI f) := fun _ h => listed_of_opcode (opcodeOf_packJ 0xC8 f) (by decide) h
theorem loopI (f : FJ) : Statement (.loopI f) := fun _ h => listed_of_opcode (opcodeOf_packJ 0xC9 f) (by decide) h
theorem endloopI (f : FJ) : Statement (.endloopI f) := fun _ h => listed_of_opcode (opcodeOf_packJ 0xCA f) (by decide) h
theorem breakI (f : FJC) : Statement (.breakI f) := fun _ h => listed_of_opcode (opcodeOf_packJC 0xCB f) (by decide) h
theorem contI (f : FJC) : Statement (.contI f) := fun _ h => listed_of_opcode (opcodeOf_packJC 0xCC f) (by decide) h
theorem exitI (f : FJ) : Statement (.exitI f) := fun _ h => listed_of_opcode (opcodeOf_packJ 0xCD f) (by decide) h
theorem srd (f : FS) : Statement (.srd f) := fun _ h => listed_of_opcode (opcodeOf_packS 0xD0 f) (by decide) h
theorem swr (f : FS) : Statement (.swr f) := fun _ h => listed_of_opcode (opcodeOf_packS 0xD1 f) (by decide) h
theorem trapI (f : FS) : Statement (.trapI f) := fun _ h => listed_of_opcode (opcodeOf_packS 0xD2 f) (by decide) h
theorem tret (f : FS) : Statement (.tret f) := fun _ h => listed_of_opcode (opcodeOf_packS 0xD3 f) (by decide) h
theorem lrd (f : FS) : Statement (.lrd f) := fun _ h => listed_of_opcode (opcodeOf_packS 0xD4 f) (by decide) h
theorem lwr (f : FS) : Statement (.lwr f) := fun _ h => listed_of_opcode (opcodeOf_packS 0xD5 f) (by decide) h
theorem rqrd (f : FS) : Statement (.rqrd f) := fun _ h => listed_of_opcode (opcodeOf_packS 0xD6 f) (by decide) h
theorem rqwr (f : FS) : Statement (.rqwr f) := fun _ h => listed_of_opcode (opcodeOf_packS 0xD7 f) (by decide) h
theorem stepo (f : FS) : Statement (.stepo f) := fun _ h => listed_of_opcode (opcodeOf_packS 0xD8 f) (by decide) h
theorem stepm (f : FS) : Statement (.stepm f) := fun _ h => listed_of_opcode (opcodeOf_packS 0xD9 f) (by decide) h
theorem stepc (f : FS) : Statement (.stepc f) := fun _ h => listed_of_opcode (opcodeOf_packS 0xDA f) (by decide) h
theorem timeI (f : FS) : Statement (.timeI f) := fun _ h => listed_of_opcode (opcodeOf_packS 0xDB f) (by decide) h
theorem eres (f : FS) : Statement (.eres f) := fun _ h => listed_of_opcode (opcodeOf_packS 0xDC f) (by decide) h
theorem msave (f : FS) : Statement (.msave f) := fun _ h => listed_of_opcode (opcodeOf_packS 0xDD f) (by decide) h
theorem mrest (f : FS) : Statement (.mrest f) := fun _ h => listed_of_opcode (opcodeOf_packS 0xDE f) (by decide) h
theorem brk (f : FS) : Statement (.brk f) := fun _ h => listed_of_opcode (opcodeOf_packS 0xDF f) (by decide) h
theorem powerOnReset : Statement .powerOnReset := fun _ h => nomatch h
theorem bringupStage : Statement .bringupStage := fun _ h => nomatch h
theorem firmwareUpdate : Statement .firmwareUpdate := fun _ h => nomatch h
theorem thermalTrip : Statement .thermalTrip := fun _ h => nomatch h
theorem toffUpdate : Statement .toffUpdate := fun _ h => nomatch h
theorem ozrikLinkTrain : Statement .ozrikLinkTrain := fun _ h => nomatch h
theorem clauseFetch : Statement .clauseFetch := fun _ h => nomatch h
theorem clauseWaitEnd : Statement .clauseWaitEnd := fun _ h => nomatch h
theorem sliceIssueCycle : Statement .sliceIssueCycle := fun _ h => nomatch h
theorem operationComplete : Statement .operationComplete := fun _ h => nomatch h
theorem trapTake : Statement .trapTake := fun _ h => nomatch h
theorem asyncTrapTake : Statement .asyncTrapTake := fun _ h => nomatch h
theorem resume : Statement .resume := fun _ h => nomatch h
theorem reflect : Statement .reflect := fun _ h => nomatch h
theorem kill : Statement .kill := fun _ h => nomatch h
theorem coachSlotFree : Statement .coachSlotFree := fun _ h => nomatch h
theorem gridCompletion : Statement .gridCompletion := fun _ h => nomatch h
theorem preemptRequest : Statement .preemptRequest := fun _ h => nomatch h
theorem noticeIntervalExpiry : Statement .noticeIntervalExpiry := fun _ h => nomatch h
theorem workgroupSave : Statement .workgroupSave := fun _ h => nomatch h
theorem workgroupRestore : Statement .workgroupRestore := fun _ h => nomatch h
theorem migration : Statement .migration := fun _ h => nomatch h
theorem launchRecordTake : Statement .launchRecordTake := fun _ h => nomatch h
theorem workgroupStart : Statement .workgroupStart := fun _ h => nomatch h
theorem staggerRegionStart : Statement .staggerRegionStart := fun _ h => nomatch h
theorem stealRequest : Statement .stealRequest := fun _ h => nomatch h
theorem stealRetryWait : Statement .stealRetryWait := fun _ h => nomatch h
theorem priorityPreempt : Statement .priorityPreempt := fun _ h => nomatch h
theorem quantumExpiry : Statement .quantumExpiry := fun _ h => nomatch h
theorem barrierPark : Statement .barrierPark := fun _ h => nomatch h
theorem waitPark : Statement .waitPark := fun _ h => nomatch h
theorem sbufLend : Statement .sbufLend := fun _ h => nomatch h
theorem sbufReclaim : Statement .sbufReclaim := fun _ h => nomatch h
theorem barrierRelease : Statement .barrierRelease := fun _ h => nomatch h
theorem monitorWake : Statement .monitorWake := fun _ h => nomatch h
theorem monitorPoll : Statement .monitorPoll := fun _ h => nomatch h
theorem waitctDeadline : Statement .waitctDeadline := fun _ h => nomatch h
theorem queueWake : Statement .queueWake := fun _ h => nomatch h
theorem queuePoll : Statement .queuePoll := fun _ h => nomatch h
theorem sleepExpiry : Statement .sleepExpiry := fun _ h => nomatch h
theorem horizonReport : Statement .horizonReport := fun _ h => nomatch h
theorem ageSweep : Statement .ageSweep := fun _ h => nomatch h
theorem pageWalk : Statement .pageWalk := fun _ h => nomatch h
theorem rexDeadline : Statement .rexDeadline := fun _ h => nomatch h
theorem arm : Statement .arm := fun _ h => nomatch h
theorem disarm : Statement .disarm := fun _ h => nomatch h
theorem tlbinvPage : Statement .tlbinvPage := fun _ h => nomatch h
theorem tlbinvContext : Statement .tlbinvContext := fun _ h => nomatch h
theorem tlbinvFrd : Statement .tlbinvFrd := fun _ h => nomatch h
theorem tlbinvAll : Statement .tlbinvAll := fun _ h => nomatch h
theorem hostAccess : Statement .hostAccess := fun _ h => nomatch h
theorem hqenq : Statement .hqenq := fun _ h => nomatch h
theorem attcmd : Statement .attcmd := fun _ h => nomatch h
theorem checkpoint : Statement .checkpoint := fun _ h => nomatch h
theorem checkpointRestore : Statement .checkpointRestore := fun _ h => nomatch h
theorem registerWrite : Statement .registerWrite := fun _ h => nomatch h
theorem dstatWrite : Statement .dstatWrite := fun _ h => nomatch h
theorem eccSelfTest : Statement .eccSelfTest := fun _ h => nomatch h
theorem dramEvacuate : Statement .dramEvacuate := fun _ h => nomatch h
theorem back : Statement .back := fun _ h => nomatch h
theorem mmaGateStart : Statement .mmaGateStart := fun _ h => nomatch h
theorem mmaComplete : Statement .mmaComplete := fun _ h => nomatch h
theorem matrixPass : Statement .matrixPass := fun _ h => nomatch h
theorem batchComplete : Statement .batchComplete := fun _ h => nomatch h
theorem matrixRuntimeError : Statement .matrixRuntimeError := fun _ h => nomatch h
theorem rampStart : Statement .rampStart := fun _ h => nomatch h
theorem rampStep : Statement .rampStep := fun _ h => nomatch h
theorem ballastStep : Statement .ballastStep := fun _ h => nomatch h
theorem currentStep : Statement .currentStep := fun _ h => nomatch h
theorem droopAlarm : Statement .droopAlarm := fun _ h => nomatch h
theorem throttleEnd : Statement .throttleEnd := fun _ h => nomatch h
theorem deckThermal : Statement .deckThermal := fun _ h => nomatch h
theorem governorSample : Statement .governorSample := fun _ h => nomatch h
theorem islandTarget : Statement .islandTarget := fun _ h => nomatch h
theorem clockSwitch : Statement .clockSwitch := fun _ h => nomatch h
theorem islandMoveComplete : Statement .islandMoveComplete := fun _ h => nomatch h
theorem thermalControl : Statement .thermalControl := fun _ h => nomatch h
theorem sliceAutoIdle : Statement .sliceAutoIdle := fun _ h => nomatch h
theorem bandedLatencyMeasure : Statement .bandedLatencyMeasure := fun _ h => nomatch h
theorem copyStart : Statement .copyStart := fun _ h => nomatch h
theorem copyChunk : Statement .copyChunk := fun _ h => nomatch h
theorem copyRuntimeError : Statement .copyRuntimeError := fun _ h => nomatch h
theorem cpymDeliver : Statement .cpymDeliver := fun _ h => nomatch h
theorem cpymAck : Statement .cpymAck := fun _ h => nomatch h
theorem collHeaderExchange : Statement .collHeaderExchange := fun _ h => nomatch h
theorem collChunk : Statement .collChunk := fun _ h => nomatch h
theorem collComplete : Statement .collComplete := fun _ h => nomatch h
theorem remoteAck : Statement .remoteAck := fun _ h => nomatch h
theorem rmtTimeout : Statement .rmtTimeout := fun _ h => nomatch h
theorem packetReceive : Statement .packetReceive := fun _ h => nomatch h
theorem ackReceive : Statement .ackReceive := fun _ h => nomatch h
theorem retransmitTimer : Statement .retransmitTimer := fun _ h => nomatch h
theorem occupancyReport : Statement .occupancyReport := fun _ h => nomatch h
theorem ohealthUpdate : Statement .ohealthUpdate := fun _ h => nomatch h
theorem linkNarrow : Statement .linkNarrow := fun _ h => nomatch h
theorem linkWiden : Statement .linkWiden := fun _ h => nomatch h
theorem onewayEnter : Statement .onewayEnter := fun _ h => nomatch h
theorem onewayHoldExpiry : Statement .onewayHoldExpiry := fun _ h => nomatch h
theorem powerStateAnnounce : Statement .powerStateAnnounce := fun _ h => nomatch h
theorem linkWake : Statement .linkWake := fun _ h => nomatch h
theorem relightLockTimeout : Statement .relightLockTimeout := fun _ h => nomatch h
theorem arbiterRound : Statement .arbiterRound := fun _ h => nomatch h
theorem slotStart : Statement .slotStart := fun _ h => nomatch h
theorem slotEnd : Statement .slotEnd := fun _ h => nomatch h
theorem hotMarkChange : Statement .hotMarkChange := fun _ h => nomatch h
theorem laserStateReached : Statement .laserStateReached := fun _ h => nomatch h
theorem targetedSelfTestEnd : Statement .targetedSelfTestEnd := fun _ h => nomatch h
theorem linkAcknowledgement : Statement .linkAcknowledgement := fun _ h => nomatch h

end Sys2Proof.Laws.OpcodeListed
end

