-- ==== Sys2Proof/Tests/Slice0.lean ====
section
/-! SUPPORT. The modeller's own tests: words written out from the encoding tables, ill-formed instructions that the check
refuses, the worked examples of spec/, single steps, and for each statement with hypotheses a state that meets them. -/

namespace Sys2Proof.Tests

open Sys2Proof.Machine
set_option Elab.async false

/-! Small states. -/

def here : CoachRef := { slot := 0, k := 0 }
/-- A coach of W = 8, D = 1 in context 0 about to execute a word. -/
def testState (w : Word) : State := { State.reset.place w with cur := here, stage := 6, regionsOn := 16 }
/-- The same with its coach changed. -/
def testWith (w : Word) (f : Coach → Coach) : State := (testState w).modCoach here f
/-- The same in context 1, which is not privileged. -/
def userState (w : Word) : State :=
  let s := testState w
  match s.wg 0 with
  | some g => (s.setWg 0 { g with ctx := 1 }).setWin 0 (offCTX 1) (s.win 0 (offCTX 0) &&& ~~~2)
  | none => s
def setS (n : Nat) (x : Word) (c : Coach) : Coach := { c with s := Table.put 0 c.s n x }
def setV (n t : Nat) (x : Word) (c : Coach) : Coach := { c with v := Table.put 0 c.v (256 * n + t) x }
def setP (n t : Nat) (c : Coach) : Coach := c.writeP n t true
/-- v[n] holds f t in thread t. -/
def fillV (n : Nat) (f : Nat → Word) (c : Coach) : Coach := (List.range 8).foldl (fun c t => setV n t (f t) c) c
def inTrap (cause : Cause) (c : Coach) : Coach :=
  { c with state := .trapped, tcause := cause, tpc := placeVa, frame := some { exec := c.exec, depth := 0, clause := none, resume := placeVa } }

/-- The environment in which the current coach executes an instruction normally and settled, if it does. -/
def runEnv (s : State) (i : Instr) : Option Env :=
  match s.env s.cur with
  | none => none
  | some e0 =>
    let e := e0.holding i
    if (wordCause e (s.grid e.wg.gid) (s.privileged e.site e.ctx) i).isNone && decide (e.active ≠ 0) && !issueStalls e i s &&
      !heldBack e i s && !issuesLate e i s &&
      i.uses.all (fun x => !e.c.usePending x) then some e else none
/-- It executes normally and settled, and the environment meets a condition. -/
def meets (s : State) (i : Instr) (f : Env → Bool) : Bool := match runEnv s i with | some e => f e | none => false
/-- The same of a word in a state made for it. -/
def meetsWord (mk : Word → State) (w : Word) : Bool := match parse w with | some i => meets (mk w) i (fun _ => true) | none => false

/-- What `meets` says, in the words of the statements. -/
theorem meets_runs {s : State} {i : Instr} {f : Env → Bool} (h : meets s i f = true) :
    ∃ e, Runs i s e ∧ Settled e i ∧ f e = true := by
  unfold meets at h
  split at h
  · next e he =>
    unfold runEnv at he
    split at he
    · exact absurd he (by simp)
    · next e0 h0 =>
      simp only [Option.ite_none_right_eq_some, Option.some.injEq, Bool.and_eq_true, Option.isNone_iff_eq_none,
        decide_eq_true_eq, Bool.not_eq_true'] at he
      obtain ⟨⟨⟨⟨⟨⟨h1, h2⟩, h3⟩, h5⟩, h6⟩, h4⟩, rfl⟩ := he
      exact ⟨_, ⟨⟨e0, h0, rfl⟩, h1, h2, h3, h5, h6⟩, h4, h⟩
  · exact absurd h (by simp)

/-- A hypothesis of the form `x = (a, b)` is met by the parts of x. -/
theorem with_parts {α β : Type} (x : α × β) {P : α → β → Prop} (h : P x.1 x.2) : ∃ a b, x = (a, b) ∧ P a b := ⟨_, _, rfl, h⟩

/-! Decoding: words written out from the formats (R79-R88), at least one of every row of the opcode table. -/

/-- R101, R103-R105, R111, R116, R118, R123, R124, R147, R196: the words of the spec's examples. -/
theorem test_decode_examples :
    parse 0x05148083 = some (.imad { u := false, fb := false, s := false, m := 0b101, d := 8, a := 2, b := 3 }) ∧
    parse 0x1A113105 = some (.icmp { u := false, fb := false, s := false, m := 0b100, d := 19, a := 4, b := 5 }) ∧
    parse 0x20006105 = some (.fadd { u := false, fb := false, s := false, m := 0, d := 6, a := 4, b := 5 }) ∧
    parse 0x400C3102 = some (.cvt { u := false, fb := false, s := false, m := 3, d := 3, a := 4, b := 2 }) ∧
    parse 0x4D0081C6 = some (.bdec { u := false, fb := false, s := false, m := 0, d := 8, a := 7, b := 6 }) ∧
    parse 0x50005101 = some (.lxch { u := false, fb := false, s := false, m := 0, d := 5, a := 4, b := 1 }) ∧
    parse 0x61033F80 = some (.movih { u := false, fb := false, d := 3, imm := 0x3F80 }) ∧
    parse 0x6289FFFF = some (.iaddi { u := true, fb := false, d := 9, imm := 0xFFFF }) ∧
    parse 0xE003303C = some (.f8muli { u := false, fb := false, d := 3, imm := 0x303C }) ∧
    parse 0x72042020 = some (.ld32 { u := false, fb := false, t := 4, base := 8, idx := 2, scope := 0, nt := false }) ∧
    parse 0x8A093030 = some (.atom { u := false, fb := false, t := 9, base := 12, idx := 3, aop := 0 }) ∧
    parse 0xB38A1471 = some (.tininit { u := true, fb := false, pb := 10, tin := 5, aux := 7, qsel := 1 }) ∧
    parse 0xC1093FF8 = some (.brs { u := false, fb := false, reg := 9, cond := 1, off := 0x1FF8 }) ∧
    parse 0xD0840440 = some (.srd { u := true, fb := false, d := 4, sysreg := 0x011, a := 0 }) := by decide
/-- R79, R80: bits written out for the rows without an example: 0x3, 0x5, 0x9, 0xA, 0xC and 0xD. -/
theorem test_decode_bits :
    parse 0b00111000_0_0_1_011_000100_000110_001010 =
      some (.dadd { u := false, fb := false, s := true, m := 3, d := 4, a := 6, b := 10 }) ∧
    parse 0b01011100_1_0_0_010_001001_000011_000000 =
      some (.vote { u := true, fb := false, s := false, m := 2, d := 9, a := 3, b := 0 }) ∧
    parse 0b10010011_1_1_000111_001000_101_0000010 =
      some (.barinit { u := true, fb := true, cnt := 7, gen := 8, scope := 5, bix := 2 }) ∧
    parse 0b10100000_1_1_000001_000100_001000_10_01 =
      some (.mmaBf16 { u := true, fb := true, acc := 1, adesc := 4, bdesc := 8, p := 2, dpol := 1 }) ∧
    parse 0b11000100_0_0_000000_000_0000000000000 = some (.retI { u := false, fb := false, off := 0 }) ∧
    parse 0b11010010_0_0_000000_0000000101_000000 = some (.trapI { u := false, fb := false, d := 0, sysreg := 5, a := 0 }) := by decide
/-- R89: opcodes that stand for no instruction, and a listed one whose fields are not accepted. -/
theorem test_decode_refuses :
    decode 0x0E000000 = .error .illegalOpcode ∧ decode 0x37000000 = .error .illegalOpcode ∧
    decode 0xE2000000 = .error .illegalOpcode ∧ decode 0xFF000000 = .error .illegalOpcode ∧
    decode 0x00000001 = .error .illegalField ∧ decode 0x7C000000 = .error .illegalField := by decide

/-! Well-formedness: one instruction for each kind of check, which the check refuses (R25, R82, R100-R131). -/

def badOnes : List Instr :=
  let r : RRR := { u := false, fb := false, s := false, m := 0, d := 8, a := 2, b := 4 }
  let i : RI := { u := false, fb := false, d := 4, imm := 0 }
  let m : FM := { u := false, fb := false, t := 4, base := 2, idx := 0, scope := 0, nt := false }
  let a : FA := { u := false, fb := false, t := 4, base := 2, idx := 0, aop := 0 }
  let b : FB := { u := true, fb := false, cnt := 0, gen := 4, scope := 1, bix := 1 }
  let w : FW := { u := true, fb := false, t := 4, base := 2, z := 0, cond := 0 }
  let q : FQ := { u := false, fb := false, t := 4, qcb := 2, stat := 1, nregM1 := 0 }
  let x : FX := { u := true, fb := false, acc := 1, adesc := 4, bdesc := 8, p := 0, dpol := 0 }
  let c : FC := { u := true, fb := false, pb := 2, tin := 1, aux := 3, qsel := 0 }
  let j : FJ := { u := false, fb := false, off := 1 }
  let jc : FJC := { u := false, fb := false, reg := 3, cond := 0, off := 0 }
  let s : FS := { u := false, fb := false, d := 4, sysreg := 0x011, a := 0 }
  [.nop { r with d := 1 }, .iadd { r with fb := true }, .imul { r with s := true, u := true }, .imulh { r with m := 1 },
   .iabs { r with b := 1 }, .iadd { r with m := 2, d := 9 }, .icmp { r with d := 48 }, .fcmp { r with m := 5 }, .sel { r with u := true },
   .movI { r with a := 1 }, .dadd { r with m := 4 }, .dadd { r with a := 3 }, .cvt { r with b := 0x1D }, .cvt { r with b := 4, m := 1 },
   .cvtsr { r with b := 4 }, .fsin { r with m := 1 }, .bscale { r with m := 5 }, .lxch { r with s := true }, .cred { r with u := true },
   .pand { r with d := 8 }, .pmask { r with a := 8 }, .psets { r with a := 1, d := 1 }, .vote { r with m := 4 }, .elect { r with a := 1 },
   .vget { r with m := 1 }, .movi { i with fb := true }, .shli { i with imm := 32 }, .ld8 { m with scope := 2 }, .ld32 { m with scope := 1 },
   .ld64 { m with t := 5 }, .ld32 { m with base := 3 }, .ld32 { m with u := true, idx := 5 }, .ldacq { m with nt := true },
   .fence { m with t := 0, base := 0 }, .pref { m with t := 2 }, .lds { m with nt := true }, .acas { a with aop := 2 },
   .bara { b with u := false }, .barinit { b with bix := 0 }, .barw { b with cnt := 1 }, .waitc { w with u := false },
   .waitc { w with cond := 15 }, .enq { q with qcb := 3 }, .qinit { q with u := false }, .mmaBf16 { x with u := false },
   .mmaF64 { x with adesc := 5 }, .cpy { c with u := false }, .qfence { c with qsel := 3 }, .retI { j with off := 1 }, .brs { jc with cond := 6 },
   .brp { jc with reg := 8 }, .srd { s with sysreg := 0x3FF }, .srd { s with fb := true }, .trapI { s with d := 1 }, .tret { s with a := 1 },
   .lrd { s with u := false, sysreg := 0x3FF }, .stepo { s with u := false }]

theorem test_ill_formed_refused : badOnes.all (fun i => !i.fieldsOk) = true := by decide
/-- R403: the words of the example in chapter "Instruction Encoding" and of the rows above are well formed. -/
theorem test_well_formed_accepted : ([0x05148083, 0x1A113105, 0x20006105, 0x400C3102, 0x4D0081C6, 0x50005101, 0x61033F80, 0x6289FFFF,
    0xE003303C, 0x72042020, 0x8A093030, 0xB38A1471, 0xC1093FF8, 0xD0840440, 0xD0010000] : List Word).all
    (fun w => match parse w with | some i => i.fieldsOk | none => false) = true := by decide

/-! The spec's worked examples, as one step of a coach of W = 8, D = 1. -/

def afterWord (w : Word) (f : Coach → Coach) : Option Coach :=
  match parse w with
  | some i => match exec i (testWith w f) with | .next t => t.coach here | _ => none
  | none => none
def vAfter (w : Word) (f : Coach → Coach) (n t : Nat) : Option Word := (afterWord w f).map (fun c => c.rawReg false n t)
def vsAfter (w : Word) (f : Coach → Coach) (n : Nat) : Option (List Word) :=
  (afterWord w f).map (fun c => (List.range 8).map (c.rawReg false n))

/-- R101: the example of IMAD.sat.uns, and without .sat. -/
theorem test_imad : vAfter 0x05148083 (setV 2 0 0xFFFF0000 ∘ setV 3 0 2 ∘ setV 8 0 0x30000) 8 0 = some 0xFFFFFFFF ∧
    vAfter 0x05108083 (setV 2 0 0xFFFF0000 ∘ setV 3 0 2 ∘ setV 8 0 0x30000) 8 0 = some 0x00010000 := by decide
/-- R103: the examples of BFX, BFX.uns and BFI. -/
theorem test_fields : vAfter 0x18005081 (setV 2 0 0xF5A0 ∘ setV 1 0 0x0808) 5 0 = some 0xFFFFFFF5 ∧
    vAfter 0x18105081 (setV 2 0 0xF5A0 ∘ setV 1 0 0x0808) 5 0 = some 0x000000F5 ∧
    vAfter 0x18005081 (setV 2 0 0xF5A0 ∘ setV 1 0 0x0804) 5 0 = some 0x0000005A ∧
    vAfter 0x19005081 (setV 2 0 0xF5A0 ∘ setV 1 0 0x0804 ∘ setV 5 0 0x12345678) 5 0 = some 0x12345A08 := by decide
/-- R104: ICMP.lt.uns p3, v4, v5, and without .uns. -/
theorem test_icmp : (afterWord 0x1A113105 (setV 4 0 0xFFFFFFFF ∘ setV 5 0 1)).map (fun c => c.readP 3 0) = some false ∧
    (afterWord 0x1A013105 (setV 4 0 0xFFFFFFFF ∘ setV 5 0 1)).map (fun c => c.readP 3 0) = some true := by decide
/-- R105: the example of PRMT. -/
theorem test_prmt : vAfter 0x1E005081 (setV 2 0 0x44332211 ∘ setV 1 0 0x88776655 ∘ setV 5 0 0xF741) 5 0 = some 0xFF885522 := by decide
/-- R106: FRND.rne(2.5) is 2.0 and FRND.rup(-0.5) is -0. -/
theorem test_frnd : vAfter 0x2D005080 (setV 2 0 0x40200000) 5 0 = some 0x40000000 ∧
    vAfter 0x2D0C5080 (setV 2 0 0xBF000000) 5 0 = some 0x80000000 := by decide
/-- R109: the example of HDOT2 on BF16 halves. -/
theorem test_hdot2 : vAfter 0x36045081 (setV 2 0 0xC0003FC0 ∘ setV 1 0 0x3E804000 ∘ setV 5 0 0x3E000000) 5 0 = some 0x40280000 := by decide
/-- R111: the example of CVT f32x2_bf16x2, to nearest and upwards. -/
theorem test_cvt : vAfter 0x40003102 (setV 4 0 0x3F808000 ∘ setV 5 0 0xC0300000) 3 0 = some 0xC0303F80 ∧
    vAfter 0x400C3102 (setV 4 0 0x3F808000 ∘ setV 5 0 0xC0300000) 3 0 = some 0xC0303F81 := by decide
/-- R114-R116: the block of R50, scaled, encoded and decoded. -/
theorem test_block : vAfter 0x4B006100 (fillV 4 (fun t => [0x406CCCCD, 0xBF99999A, 0x3ECCCCCD, 0x40A00000].getD t 0)) 6 7 = some 0x00004A7F ∧
    vAfter 0x4C007106 (fillV 4 (fun t => [0x406CCCCD, 0xBF99999A, 0x3ECCCCCD, 0x40A00000].getD t 0) ∘ fillV 6 (fun _ => 0x4A7F)) 7 7 =
      some 0x000081A6 ∧
    vsAfter 0x4D0081C6 (fillV 7 (fun _ => 0x81A6) ∘ fillV 6 (fun _ => 0x4A7F)) 8 =
      some [0x40800000, 0xBF800000, 0x3F000000, 0x40A00000, 0, 0, 0, 0] := by decide +kernel
/-- R118: the example of LXCH, with thread 3 inactive as well. -/
theorem test_lxch : vsAfter 0x50005101 (fillV 4 (fun t => 10 * BitVec.ofNat 32 t)) 5 = some [10, 0, 30, 20, 50, 40, 70, 60] ∧
    vsAfter 0x50005101 (fun c => { fillV 4 (fun t => 10 * BitVec.ofNat 32 t) c with exec := 0xF7 }) 5 = some [10, 0, 30, 0, 50, 40, 70, 60] := by decide
/-- R123: MOVI v3, 0x8000 and then MOVIH v3, 0x3F80. -/
theorem test_movi : vAfter 0x60038000 id 3 0 = some 0xFFFF8000 ∧ vAfter 0x61033F80 (setV 3 0 0xFFFF8000) 3 0 = some 0x3F808000 := by decide
/-- R124: the example of F8MULI. -/
theorem test_f8muli : vAfter 0xE003303C (setV 3 0 0x4A3C4A3C) 3 0 = some 0x42414241 := by decide
/-- R25: a register pair carries across its words; R23: p0 stays set. -/
theorem test_wide_add : (afterWord 0x01088102 (setV 4 0 0xFFFFFFFF ∘ setV 2 0 1)).map (fun c => (c.rawReg false 8 0, c.rawReg false 9 0)) = some (0, 1) := by decide
/-- R147: the example of ATOM.add, whose threads 0, 2 and 5 name one word of a page that holds 100. -/
theorem test_atom :
    let s := testWith 0x8A093030 (setS 12 0x10100 ∘ fillV 3 (fun t => if t = 0 ∨ t = 2 ∨ t = 5 then 0 else 4 * BitVec.ofNat 32 t) ∘
      fillV 9 (fun t => if t = 0 then 1 else if t = 2 then 2 else if t = 5 then 3 else 0))
    (match parse 0x8A093030 with
      | some i => match exec i { s with mem := Memory.writeN s.mem 0x10100 (bytesLE 4 100) } with
        | .next t => (t.coach here).map (fun c => (c.rawReg false 9 0, c.rawReg false 9 2, c.rawReg false 9 5, ofBytesLE (t.homeRead 0x10100 4)))
        | _ => none
      | none => none) = some (100, 101, 103, 106) := by decide +kernel
/-- R74, R206, R246: TRAP 5 leaves its coach TRAPPED or killed for want of a handler, with the code saved; BRK likewise. -/
theorem test_trap : (match parse 0xD2000140 with
      | some i => match exec i (testState 0xD2000140) with | .next _ => true | _ => false
      | none => false) = true := by decide +kernel

/-! A step runs the word that lies at the PC (R21, R69), and an illegal one traps. -/

def stepGoesOn (w : Word) : Bool := match step (State.reset.withFetchWord 32 w.toNat) with | .next _ => true | _ => false
theorem test_step_runs : (match step (State.reset.withFetchWord 32 0x60030005) with
      | .next t => (t.coach here).map (fun c => (c.rawReg false 3 0, c.rawReg false 3 7, c.pc.toNat))
      | _ => none) = some (5, 5, 0x10008) := by decide +kernel
theorem test_step_illegal : stepGoesOn 0x0E000000 = true ∧ stepGoesOn 0x00000001 = true := by decide +kernel

/-! Each statement with hypotheses, and a state that meets them. First: every instruction executes normally, with its
operands settled, in some state (`Runs`, `Settled`), all of its row in one theorem. -/


def trapState (w : Word) : State := testWith w (inTrap cSW_TRAP)
def barState (w : Word) : State := (testState w).setGrid 0 { placeGrid with bwg := 4, bwafer := 2 }
/-- Row 0x0, integer arithmetic: the words run. -/
theorem test_runs_row_0 : ([0x00000000, 0x01000000, 0x02000000, 0x03000000, 0x04000000, 0x05000000, 0x06000000, 0x07000000, 0x08000000,
    0x09000000, 0x0A000000, 0x0B000000, 0x0C000000, 0x0D000000] : List Word).all (meetsWord testState) = true := by decide +kernel
/-- Row 0x1, bits, fields, compares and selects: the words run. -/
theorem test_runs_row_1 : ([0x10000000, 0x11000000, 0x12000000, 0x13000000, 0x14000000, 0x15000000, 0x16000000, 0x17000000, 0x18000000,
    0x19000000, 0x1A000000, 0x1B000000, 0x1C000000, 0x1D000000, 0x1E000000] : List Word).all (meetsWord testState) = true := by decide +kernel
/-- Row 0x2, FP32: the words run. -/
theorem test_runs_row_2 : ([0x20000000, 0x21000000, 0x22000000, 0x23000000, 0x24000000, 0x25000000, 0x26000000, 0x27000000, 0x28000000,
    0x29000000, 0x2A000000, 0x2B000000, 0x2C000000, 0x2D000000] : List Word).all (meetsWord testState) = true := by decide +kernel
/-- Row 0x3, packed and FP64: the words run. -/
theorem test_runs_row_3 : ([0x30000000, 0x31000000, 0x32000000, 0x33000000, 0x34000000, 0x35000000, 0x36000000, 0x38000000, 0x39000000,
    0x3A000000, 0x3B000000, 0x3C000000, 0x3D000000, 0x3E000000, 0x3F000000] : List Word).all (meetsWord testState) = true := by decide +kernel
/-- Row 0x4, conversions, transcendentals and blocks: the words run. -/
theorem test_runs_row_4 : ([0x40000000, 0x41000000, 0x42000000, 0x43000000, 0x44000000, 0x45000000, 0x46000000, 0x47000000, 0x48000000,
    0x49000000, 0x4A000000, 0x4B000000, 0x4C000000, 0x4D000000] : List Word).all (meetsWord testState) = true := by decide +kernel
/-- Row 0x5, lanes, reductions and predicates: the words run. -/
theorem test_runs_row_5 : ([0x50000000, 0x51000000, 0x52000000, 0x53000000, 0x54000000, 0x55000000, 0x56000000, 0x57000000, 0x58000000,
    0x59000000, 0x5A000000, 0x5B000000, 0x5C000000, 0x5D000000, 0x5E000000, 0x5F000000] : List Word).all (meetsWord testState) = true := by decide +kernel
/-- Row 0x6, immediates: the words run. -/
theorem test_runs_row_6 : ([0x60000000, 0x61000000, 0x62000000, 0x63000000, 0x64000000, 0x65000000, 0x66000000, 0x67000000, 0x68000000,
    0x69000000, 0x6A000000, 0x6B000000, 0x6C000000, 0x6D000000, 0x6E000000, 0x6F000000] : List Word).all (meetsWord testState) = true := by decide +kernel
/-- Row 0x7, memory: the words run. -/
theorem test_runs_row_7 : ([0x70000000, 0x71000000, 0x72000000, 0x73000000, 0x74000000, 0x75000000, 0x76000000, 0x77000000, 0x78000000,
    0x79000000, 0x7A000000, 0x7B000000, 0x7C010000, 0x7D000000, 0x7E000000, 0x7F000000] : List Word).all (meetsWord testState) = true := by decide +kernel
/-- Row 0x8, buffers and atomics: the words run. -/
theorem test_runs_row_8 : ([0x80000000, 0x81000000, 0x82000000, 0x83000000, 0x84000000, 0x85000000, 0x86000000, 0x87000000, 0x88000000,
    0x89000000, 0x8A000000, 0x8B000000, 0x8C000000, 0x8D000000, 0x8E000000, 0x8F000000] : List Word).all (meetsWord testState) = true := by decide +kernel
/-- Row 0x9, barriers, monitors and queues: the words run. -/
theorem test_runs_row_9 : ([0x90800080, 0x91800080, 0x92800080, 0x94800000, 0x95800000, 0x96000000, 0x97000000, 0x98000000, 0x99000000,
    0x9A808083, 0x9B800000, 0x9C800000, 0x9D800000, 0x9E800000, 0x9F800000] : List Word).all (meetsWord testState) = true := by decide +kernel
/-- Row 0xA, matrix: the words run. -/
theorem test_runs_row_a : ([0xA0800000, 0xA1800000, 0xA2800000, 0xA3800000, 0xA4800000, 0xA5800000, 0xA6800000, 0xA7800000, 0xA8800000,
    0xA9800000, 0xAA800000, 0xAB800000, 0xAC800000, 0xAD800000, 0xAE800000] : List Word).all (meetsWord testState) = true := by decide +kernel
/-- Row 0xB, engines: the words run. -/
theorem test_runs_row_b : ([0xB0800000, 0xB1800000, 0xB2800000, 0xB3808083, 0xB4800000, 0xB5800000, 0xB6800000, 0xB7800000, 0xB8800000,
    0xB9800000, 0xBA800000, 0xBB800000, 0xBC800000, 0xBD800000, 0xBE800000] : List Word).all (meetsWord testState) = true := by decide +kernel
/-- Row 0xC, control: the words run. -/
theorem test_runs_row_c : ([0xC0000000, 0xC1000000, 0xC2000000, 0xC3000000, 0xC4000000, 0xC5000000, 0xC6000000, 0xC7000000, 0xC8000000,
    0xC9000000, 0xCA000000, 0xCB000000, 0xCC000000, 0xCD000000] : List Word).all (meetsWord testState) = true := by decide +kernel
/-- Row 0xD, system: the words run. -/
theorem test_runs_row_d : ([0xD0000000, 0xD1001000, 0xD2000000, 0xD6800000, 0xD7800400, 0xD8800000, 0xD9800000, 0xDA800000, 0xDB800000,
    0xDC800000, 0xDD800000, 0xDE800000, 0xDF000000] : List Word).all (meetsWord testState) = true := by decide +kernel
/-- Row 0xE, FP8 immediates: the words run. -/
theorem test_runs_row_e : ([0xE0000000, 0xE1000000] : List Word).all (meetsWord testState) = true := by decide +kernel
/-- BARINIT of a declared slot, and TRET, LRD and LWR in a handler. -/
theorem test_runs_others : meetsWord barState 0b10010011_1_0_000000_000100_001_0000001 = true ∧
    ([0xD3800000, 0xD4810040, 0xD5810040] : List Word).all (meetsWord trapState) = true := by decide +kernel


/-! For each statement with more hypotheses: small states that meet each of its clauses. `ok i f cond` says that
instruction i is well formed and executes normally and settled in a coach changed by f, whose environment meets cond. -/

def codeOf (i : Instr) : Word := (encode i).getD 0
def ok (i : Instr) (f : Coach → Coach) (cond : Env → Bool) : Bool := i.fieldsOk && meets (testWith (codeOf i) f) i cond
def okIn (s : State) (i : Instr) (cond : Env → Bool) : Bool := i.fieldsOk && meets s i cond

def fj (off : BitVec 22) : FJ := { u := false, fb := false, off := off }
def fjc (reg : RegNo) (cond : BitVec 3) : FJC := { u := false, fb := false, reg := reg, cond := cond, off := 3 }
def fs (d : RegNo) (sysreg : BitVec 10) (a : RegNo) : FS := { u := true, fb := false, d := d, sysreg := sysreg, a := a }
def rr (u : Bool) (m : BitVec 3) (d a b : RegNo) : RRR := { u := u, fb := false, s := false, m := m, d := d, a := a, b := b }
def entry (k : DivKind) (m : Mask) : DivEntry := { mask := m, kind := k, resume := 0x10010 }
def stack (l : List DivEntry) (c : Coach) : Coach := { c with div := l }
/-- The coach at the last word below the addresses that are not canonical. -/
def atEdge (c : Coach) : Coach := { c with pc := 0x7FFFFFFFFFFC }
/-- The coach's clause guarded by p2, which threads 0 to 3 have set. -/
def guarded (c : Coach) : Coach :=
  { setP 2 0 (setP 2 1 (setP 2 2 (setP 2 3 c))) with clause := c.clause.map (fun cl => { cl with header := cl.header ||| 0x40000000 }) }

/-- BranchResults: BRA and JMPR to a good target and to a bad one, and BRS and BRP of every condition, taken and not. -/
theorem meets_BranchResults : [
    ok (.bra (fj 0x3FFFFF)) id (fun e => targetOk (e.nextHdr + (0x3FFFFF : BitVec 22).signExtend 64 * 4)),
    ok (.bra (fj 0)) atEdge (fun e => e.nextHdr.toNat % 4 == 0 && !canonical e.nextHdr),
    ok (.jmpr { fjc 4 0 with off := 0 }) (setS 4 0x10040) (fun e => targetOk (e.c.readS e.tick 5 ++ e.c.readS e.tick 4)),
    ok (.jmpr { fjc 4 0 with off := 0 }) (setS 4 0x10042) (fun e => !targetOk (e.c.readS e.tick 5 ++ e.c.readS e.tick 4)),
    ok (.brs (fjc 3 0)) id (fun e => decide ((e.c.readS e.tick 3).toInt = 0)), ok (.brs (fjc 3 0)) (setS 3 1) (fun e => decide ((e.c.readS e.tick 3).toInt ≠ 0)),
    ok (.brs (fjc 3 1)) (setS 3 1) (fun e => decide ((e.c.readS e.tick 3).toInt ≠ 0)),
    ok (.brs (fjc 3 2)) (setS 3 0x80000000) (fun e => decide ((e.c.readS e.tick 3).toInt < 0)),
    ok (.brs (fjc 3 3)) id (fun e => decide (0 ≤ (e.c.readS e.tick 3).toInt)),
    ok (.brs (fjc 3 4)) (setS 3 1) (fun e => decide (0 < (e.c.readS e.tick 3).toInt)),
    ok (.brs (fjc 3 5)) id (fun e => decide ((e.c.readS e.tick 3).toInt ≤ 0)),
    ok (.brp (fjc 2 0)) (setP 2 7) (fun e => e.threads.any (e.c.readP 2)), ok (.brp (fjc 2 0)) id (fun e => !e.threads.any (e.c.readP 2)),
    ok (.brp (fjc 0 1)) id (fun e => e.threads.all (e.c.readP 0)), ok (.brp (fjc 2 2)) id (fun e => e.threads.all (fun t => !e.c.readP 2 t)),
    ok (.brp (fjc 2 3)) (setP 2 7) (fun e => e.threads.any (fun t => !e.c.readP 2 t)),
    ok (.brs (fjc 3 0)) atEdge (fun e => decide ((e.c.readS e.tick 3).toInt = 0) && !canonical (e.nextHdr + 12)),
    ok (.brp (fjc 0 1)) atEdge (fun e => e.threads.all (e.c.readP 0) && !canonical (e.nextHdr + 12))].all id = true := by decide +kernel

/-- CallAndReturn: a CALL with room and without, a RET to an entry of CALL, to none, and to another kind. -/
theorem meets_CallAndReturn : [
    ok (.callI (fj 5)) (stack (List.replicate 31 (entry .callK 0))) (fun e => targetOk (e.nextHdr + 20) && decide (e.c.div.length < 32)),
    ok (.callI (fj 5)) (stack (List.replicate 32 (entry .callK 0))) (fun e => targetOk (e.nextHdr + 20) && decide (32 ≤ e.c.div.length)),
    ok (.retI (fj 0)) (stack [entry .callK 0]) (fun e => e.c.div == [entry .callK 0] && targetOk 0x10010),
    ok (.retI (fj 0)) id (fun e => e.c.div.head?.all (fun d => d.kind != .callK)),
    ok (.retI (fj 0)) (stack [entry .ifK 0]) (fun e => e.c.div.head?.all (fun d => d.kind != .callK))].all id = true := by decide +kernel

/-- StructuredControl: each action with threads left and with none, below IF and ELSE entries too, and each of its traps. -/
theorem meets_StructuredControl : [
    ok (.ifI (fjc 2 0)) (setP 2 1 ∘ stack (List.replicate 31 (entry .callK 0)))
      (fun e => decide (e.c.div.length < 32) && e.c.exec &&& maskOf e.wg.threads (fun t => e.c.readP 2 t == true) != 0),
    ok (.elseI (fj 2)) (stack [entry .ifK 1]) (fun e => targetOk (e.nextHdr + 8)),
    ok (.endifI (fj 0)) (stack [entry .elseK 0]) (fun e => e.c.exec ||| 0 != 0),
    ok (.loopI (fj 2)) (stack (List.replicate 30 (entry .callK 0))) (fun e => targetOk (e.nextHdr + 8) && decide (e.c.div.length < 31)),
    ok (.loopI (fj 2)) (stack (List.replicate 31 (entry .callK 0))) (fun e => targetOk (e.nextHdr + 8) && decide (31 ≤ e.c.div.length)),
    ok (.endloopI (fj 2)) (stack [entry .loopK 0, entry .loopK 1]) (fun e => targetOk (e.nextHdr + 8) && e.c.exec ||| 0 != 0),
    ok (.breakI { fjc 2 0 with off := 0 }) (setP 2 1 ∘ stack [entry .loopK 0, entry .loopK 1])
      (fun e => e.c.exec &&& ~~~(e.c.exec &&& maskOf e.wg.threads (fun t => e.c.readP 2 t == true)) != 0),
    ok (.contI { fjc 2 0 with off := 0 }) (setP 2 1 ∘ stack [entry .loopK 0, entry .loopK 1])
      (fun e => e.c.exec &&& ~~~(e.c.exec &&& maskOf e.wg.threads (fun t => e.c.readP 2 t == true)) != 0),
    (let c : Coach := { stack [entry .loopK 0, entry .loopK 1] (Coach.start 0 0 8) with exec := 0, exited := 2 }
     (c.exec ||| 0) &&& ~~~c.exited == 0 && targetOk 0x10010 && c.div == [entry .loopK 0, entry .loopK 1]),
    ok (.elseI (fj 2)) (stack [entry .elseK 1]) (fun _ => true), ok (.endifI (fj 0)) (stack [entry .loopK 0]) (fun _ => true),
    ok (.endloopI (fj 0)) id (fun e => e.c.div.isEmpty), ok (.breakI { fjc 2 0 with off := 0 }) (stack [entry .callK 0]) (fun _ => true),
    ok (.contI { fjc 2 0 with off := 0 }) id (fun e => e.c.div.isEmpty),
    ([.breakI { fjc 0 0 with off := 0 }, .contI { fjc 0 0 with off := 0 }] : List Instr).all (fun i =>
      ok i (stack [entry .ifK 0, entry .elseK 0, entry .loopK 0, entry .loopK 0])
        (fun e => e.c.exec &&& ~~~(e.c.exec &&& maskOf e.wg.threads (fun t => e.c.readP 0 t == true)) == 0)),
    ok (.ifI (fjc 2 0)) (stack []) (fun e => e.c.exec &&& maskOf e.wg.threads (fun t => e.c.readP 2 t == true) == 0),
    ok (.elseI (fj 2)) (stack [entry .ifK 0]) (fun e => targetOk (e.nextHdr + 8)),
    ok (.endloopI (fj 2)) (stack [entry .loopK 0, entry .callK 0]) (fun _ => true),
    ([.breakI { fjc 2 0 with off := 0 }, .contI { fjc 2 0 with off := 0 }] : List Instr).all (fun i =>
      ok i (stack [entry .elseK 0, entry .callK 0]) (fun _ => true)),
    ok (.ifI (fjc 2 0)) (stack (List.replicate 32 (entry .callK 0))) (fun e => targetOk (e.nextHdr + 12) && decide (32 ≤ e.c.div.length)),
    ok (.ifI (fjc 2 0)) atEdge (fun e => !targetOk (e.nextHdr + 12)), ok (.loopI (fj 2)) atEdge (fun e => !targetOk (e.nextHdr + 8)),
    ok (.elseI (fj 2)) (stack [entry .ifK 1] ∘ atEdge) (fun e => !targetOk (e.nextHdr + 8)),
    ok (.endloopI (fj 2)) (stack [entry .loopK 0, entry .loopK 1] ∘ atEdge) (fun e => !targetOk (e.nextHdr + 8))].all id = true := by decide +kernel

/-- ExitResults: an EXIT of four of eight threads, of the four in EXEC, and of all. -/
theorem meets_ExitResults : [
    ok (.exitI (fj 0)) guarded (fun e => e.c.exited ||| e.active != maskAll e.wg.threads && e.c.exec &&& ~~~e.active != 0),
    ok (.exitI (fj 0)) (fun c => { c with exec := 15 }) (fun e => e.c.exited ||| e.active != maskAll e.wg.threads && e.c.exec &&& ~~~e.active == 0),
    ok (.exitI (fj 0)) id (fun e => e.c.exited ||| e.active == maskAll e.wg.threads),
    (testState (codeOf (.exitI (fj 0)))).findStep here == none].all id = true := by decide +kernel

/-- SystemRegisterReads and SystemRegisterWrites: a read of every kind named, and a write. -/
theorem meets_SystemRegisters : [
    ([0x000, 0x001, 0x002, 0x00C, 0x00D, 0x011, 0x013, 0x014, 0x020, 0x021, 0x022, 0x023, 0x028, 0x02F, 0x030, 0x040, 0x041, 0x010]
      : List (BitVec 10)).all (fun n => ok (.srd { fs 4 n 0 with u := decide (3 ≤ n.toNat) }) id (fun _ => true)),
    ([0x00C, 0x00D, 0x014, 0x020, 0x022, 0x040, 0x041, 0x050, 0x05F] : List (BitVec 10)).all
      (fun n => ok (.swr (fs 4 n 0)) id (fun _ => true))].all id = true := by decide +kernel

/-- WordTraps: the cause that a word meets in a state, none if it is executed there. -/
def wordIs (s : State) (i : Instr) (c : Option Cause) : Bool :=
  match s.env s.cur with
  | some e0 =>
    let e := e0.holding i
    wordCause e (s.grid e.wg.gid) (s.privileged e.site e.ctx) i == c && (decide (e.active = 0) || !issueStalls e i s)
  | none => false
/-- A load's v4 is pending, and its grid asks for the check of R77. -/
def hazardous (i : Instr) : State :=
  let p : PendReg := { scalar := false, reg := 4, thread := 0, old := 7 }
  let s := testWith (codeOf i) (fun c => { c with
    flights := [{ id := 0, word := 0, pc := 0, flag := none, entry := true, kind := .performed, pend := [p], rep := none }] })
  match s.wg 0 with | some g => s.setWg 0 { g with haz := true } | none => s
/-- WordTraps: in context 1, a register that only privileged code may reach, MSAVE, MREST, and ERES of context 2; a load in a compute
clause; a field refused by the encoding, and TRET, LXCH of 8 and BREAK where they may not be; v64 of 64 declared; a pending write; no thread. -/
theorem meets_WordTraps :
    ([.srd (fs 4 0x040 0), .swr (fs 4 0x05F 0), .msave (fs 4 0 0), .mrest (fs 4 0 0), .eres (fs 4 0 6)] : List Instr).all
      (fun i => wordIs ((userState (codeOf i)).modCoach here (setS 6 0x20000)) i (some cPRIV)) = true ∧
    (let a : Instr := .iadd (rr false 0 4 5 6)
     let l : Instr := .ld32 { u := false, fb := false, t := 4, base := 2, idx := 0, scope := 0, nt := false }
     wordIs (testState (codeOf a)) l (some cCLAUSE_CLASS) && wordIs (testState (codeOf l)) l none) = true ∧
    ([.nop (rr false 0 1 0 0), .tret { fs 0 0 0 with u := false }, .lxch (rr false 0 4 5 8), .swr (fs 4 0x000 0)] : List Instr).all
      (fun i => wordIs (testState (codeOf i)) i (some cILLEGAL_FIELD)) = true ∧
    (let b : Instr := .breakI { fjc 2 0 with off := 0 }
     wordIs (testWith (codeOf b) guarded) b (some cILLEGAL_FIELD)) = true ∧
    (let i : Instr := .iadd (rr false 0 4 5 63)
     let s := testState (codeOf i)
     wordIs s i none && (match s.wg 0 with | some g => wordIs (s.setWg 0 { g with vregs := 63 }) i (some cREG_RANGE) | none => false)) = true ∧
    (let i : Instr := .iadd (rr false 0 4 4 6)
     wordIs (hazardous i) i (some cHAZARD) && wordIs (testWith (codeOf i) (fun c => { c with exec := 0 })) i none) = true := by
  refine ⟨?_, ?_, ?_, ?_, ?_, ?_⟩ <;> decide +kernel

/-! Row 0x7: the placed page is readable and writable, so the state right after placing a word will do. -/

def fm (u : Bool) (t base idx : RegNo) (scope : BitVec 3) : FM := { u := u, fb := false, t := t, base := base, idx := idx, scope := scope, nt := false }
/-- s4:s5 names a byte of the placed page. -/
def based (c : Coach) : Coach := setS 4 0x10100 c
def reachOk (e : Env) (u : Bool) (size : Nat) (need : Need) (ea : Nat → DWord) (s : State) : Bool :=
  let q := translateEach e need ((e.units u).map (fun t => (t, ea t))) s
  (e.units u).all (fun t => decide ((ea t).toNat % size = 0)) && q.2.1.isEmpty && q.1.all (fun g => !badWindow size g.x && !q.2.2.tested g.x.pa size)
theorem reaches_of {e : Env} {u : Bool} {size : Nat} {need : Need} {ea : Nat → DWord} {s : State} (h : reachOk e u size need ea s = true) :
    ∃ gs s1, Reaches e u size need ea s gs s1 := by
  simp only [reachOk, Bool.and_eq_true, List.all_eq_true, decide_eq_true_eq, List.isEmpty_iff, Bool.not_eq_true'] at h
  exact ⟨_, _, h.1.1, Prod.ext rfl (Prod.ext h.1.2 rfl), h.2⟩
/-- The translated accesses of a memory instruction, and the state after the walks. -/
def reached (e : Env) (u : Bool) (need : Need) (ea : Nat → DWord) (s : State) : List Target × State :=
  let q := translateEach e need ((e.units u).map (fun t => (t, ea t))) s
  (q.1, q.2.2)

/-- PlainLoadsAndStores: each width, vector and scalar, with no access refused. -/
theorem meets_PlainLoadsAndStores :
    ([(1, fun f => .ld8 f), (2, fun f => .ld16 f), (4, fun f => .ld32 f), (8, fun f => .ld64 f), (16, fun f => .ld128 f)]
        : List (Nat × (FM → Instr))).all (fun p => [true, false].all (fun u =>
      let f := fm u 8 4 0 0
      let s := testWith (codeOf (p.2 f)) based
      okIn s (p.2 f) (fun e =>
        let q := reached e u .read (e.ea u 4 0) s
        reachOk e u p.1 .read (e.ea u 4 0) s && (performEach (checkLoad e p.1) (fun g s =>
          ((putWords u 8 g.t (loadWords p.1 false (s.loadBytes e.acc g.x p.1 false).1), none, 0),
            (s.loadBytes e.acc g.x p.1 false).2)) q.1 .none q.2).1.misses.isEmpty))) = true ∧
    ([(1, fun f => .st8 f), (2, fun f => .st16 f), (4, fun f => .st32 f), (8, fun f => .st64 f), (16, fun f => .st128 f)]
        : List (Nat × (FM → Instr))).all (fun p => [true, false].all (fun u =>
      let f := fm u 8 4 0 0
      let s := testWith (codeOf (p.2 f)) based
      okIn s (p.2 f) (fun e =>
        let q := reached e u .write (e.ea u 4 0) s
        reachOk e u p.1 .write (e.ea u 4 0) s && (performEach (checkStore e p.1 false) (fun g s =>
          (([], none, 0), s.storeBytes e.acc g.x (e.storeData f p.1 g.t) false)) q.1 .none q.2).1.misses.isEmpty))) = true := by
  constructor <;> decide +kernel

/-- The accesses that order 3 and those behind it meet, as AccessFaults names them. -/
def missed (e : Env) (need : Need) (ea : Nat → DWord) (s : State) : List Miss := (translateEach e need ((e.units false).map (fun t => (t, ea t))) s).2.1
/-- A leaf of the core's TLB for the placed page, with its bits 2 to 4. -/
def inTlb (leaf : DWord) : State :=
  let s := testState 0
  s.setCore 0 { s.core 0 with tlb := [{ ctx := 0, vpn := 1, level := 0, leaf := leaf }] }
/-- The line of 0x10100 was written by agent 3 at clock 5, and its second granule read by agent 4. -/
def raced : State :=
  let n : RaceEntry := { agent := 0, clk := 0, gmask := 0 }
  let m : LineMeta := { rclk := 0, dclk := 0, drop := false, w0 := { agent := 3, clk := 5, gmask := 1 }, w1 := n,
                        r0 := { agent := 4, clk := 5, gmask := 2 }, r1 := n, sharers := 0 }
  ((testState 0).homeTouch 0x10100).setLine 0x10100 m
/-- AccessFaults: thread 1 alone misaligned, of every kind; a page that is not present; addresses, contexts, leaves and table entries that
are refused and ones that are not; races of each kind and none. -/
theorem meets_AccessFaults :
    ([(2, fun f => .ld16 f), (4, fun f => .ld32 f), (8, fun f => .ld64 f), (16, fun f => .ld128 f), (2, fun f => .st16 f), (4, fun f => .st32 f),
      (8, fun f => .st64 f), (16, fun f => .st128 f), (4, fun f => .ldacq f), (4, fun f => .strel f)] : List (Nat × (FM → Instr))).all (fun p =>
      let i := p.2 (fm false 8 4 3 0)
      ok i (based ∘ setV 3 1 1) (fun e => (e.units false).filter (fun t => decide ((e.ea false 4 3 t).toNat % p.1 ≠ 0)) == [1])) = true ∧
    ([(Need.read, fun f => .ld8 f), (.read, fun f => .ld128 f), (.write, fun f => .st8 f), (.write, fun f => .st128 f)] : List (Need × (FM → Instr))).all (fun p =>
      let i := p.2 (fm false 8 4 3 0)
      let s := testWith (codeOf i) (setS 4 0x200000)
      okIn s i (fun e => (e.units false).all (fun t => decide ((e.ea false 4 3 t).toNat % 16 = 0)) && !(missed e p.1 (e.ea false 4 3) s).isEmpty)) = true ∧
    (!canonical 0x800000000000 && canonical 0x10000 && !(testState 0).ctxValid 0 5 && (tlbFind ((testState 0).core 0).tlb 5 0x10000).isNone &&
      (tlbFind ((testState 0).site 0).tlb 5 0x10000).isNone) = true ∧
    (([0x10C00007, 0x10C0001F, 0x10C00003] : List DWord).all (fun l => (tlbFind ((inTlb l).core 0).tlb 0 0x10100).isSome && (inTlb l).paOk (leafFRAME l + 0x100)) &&
      leafD 0x10C0001F && !leafR 0x10C00003 && leafR 0x10C0001F && !(testState 0).paOk (leafFRAME (2 ^ 63))) = true ∧
    ([(0, 0x10001), (3, 3), (2, 5), (0, 0x1000003), (1, 0x10000003)] : List (Nat × Nat)).all (fun p =>
      let t := { testState 0 with mem := Memory.writeN [] 0x7000 (bytesLE 8 p.2) }
      let e := (t.walkRead 0 0 (0x7000 + 8 * vaIndex p.1 0)).1
      !t.poisoned (0x7000 + 8 * vaIndex p.1 0) 8 && e.toNat == p.2) = true ∧
    ([(AccKind.read, 0, some cRACE_RAW), (.write, 0, some cRACE_WAW), (.write, 16, some cRACE_WAR), (.read, 16, none), (.read, 32, none)] :
      List (AccKind × Nat × Option Cause)).all (fun p => (raced.raceCheck (0x10100 + p.2.1) 16 p.1 7 5).1 == p.2.2) = true := by
  refine ⟨?_, ?_, ?_, ?_, ?_, ?_⟩ <;> decide +kernel

/-- StoredBytes: a store past the column cache (NT), and one into a line that the cache holds. -/
theorem meets_StoredBytes :
    let s := testState 0
    let x : Xl := { pa := 0x10100, leaf := 1 * 2 ^ 28 + 0xC0001F, level := 0 }
    let held := s.setCore 0 { s.core 0 with cc := [(0x202, { bytes := [], owner := 1, way := 0, next := false })] }
    [decide (paSpace x.pa ≤ 1), !(cacheable x true && !leafRDC x.leaf), cacheable x false && !leafRDC x.leaf,
     (Table.find (held.core 0).cc (x.pa / 128)).isSome, decide (x.pa % 128 + [(1 : Byte), 2].length ≤ 128)].all id = true := by decide +kernel

/-- SynchronisingAccesses: LDACQ, STREL and every kind of FENCE, with nothing busy. -/
theorem meets_SynchronisingAccesses : [
    (let f := fm true 8 4 0 5
     let s := testWith (codeOf (.ldacq f)) based
     okIn s (.ldacq f) (fun e =>
       let q := reached e true .read (e.ea true 4 0) s
       reachOk e true 4 .read (e.ea true 4 0) s && (performEach (checkHome e 4 (.sync true false)) (fun g s =>
         let h := (s.ccDrop e.core (g.x.pa / 128)).homeTouch g.x.pa
         ((putWords true 8 g.t [BitVec.ofNat 32 (ofBytesLE (h.homeLoad g.x 4))], some (h.lineClock g.x.pa), 0), h)) q.1 .none q.2).1.misses.isEmpty)),
    (let f := fm true 8 4 0 5
     let s := testWith (codeOf (.strel f)) based
     okIn s (.strel f) (fun e =>
       let q := reached e true .write (e.ea true 4 0) s
       reachOk e true 4 .write (e.ea true 4 0) s && !q.2.engineBusy e.ref 5 && (performEach (checkHome e 4 (.sync false true)) (fun g s =>
         (([], none, 0), ((((s.ccDrop e.core (g.x.pa / 128)).homeTouch g.x.pa).homeStore g.x
           (bytesLE 4 (wordsToNat [e.data true 8 0 g.t]))).raiseLine g.x.pa (q.2.release e.ref.slot 5).1))) q.1 .none
         (q.2.release e.ref.slot 5).2).1.misses.isEmpty)),
    ([1, 2, 3] : List RegNo).all (fun t =>
      let i : Instr := .fence (fm false t 0 0 5)
      ok i id (fun e => !(testState (codeOf i)).engineBusy e.ref 5)),
    ((testState 0).wg 0).isSome].all id = true := by decide +kernel

/-- A page with format decoding enabled, whose descriptor is plain FP32. -/
def formatState (i : Instr) : State :=
  let s := (testWith (codeOf i) based).setWin 0 (offCTX 0 + 8) 0x5000
  let m := Memory.writeN s.mem 0x4008 (bytesLE 8 (1 * 2 ^ 28 + 0xC2001F))
  { s with mem := Memory.writeN m 0x5000 (bytesLE 8 0x10000 ++ bytesLE 8 0x10000 ++ bytesLE 8 0 ++ [0, 32]) }
/-- FormatDecodedAccesses: LDQ, STQ and STQ with the dither of such a page, by the coach; PREF. -/
theorem meets_FormatDecodedAccesses : [
    (let f := fm true 8 4 0 0
     let s := formatState (.ldq f)
     okIn s (.ldq f) (fun e => QFound e f .read s && (performQ e false false (fun q x z s =>
       let w := ldqWords q.d x z (s.loadBytes e.acc q.g.x q.d.size false).1
       ((putWords true 8 q.g.t w.1, w.2), (s.loadBytes e.acc q.g.x q.d.size false).2)) (qFind e f .read s).1 .none
       (qFind e f .read s).2.2).1.misses.isEmpty)),
    ([0, 1] : List (BitVec 3)).all (fun sr =>
     let f := fm true 8 4 0 sr
     let s := formatState (.stq f)
     okIn s (.stq f) (fun e => QFound e f .write s && (performQ e false true (fun q x z s =>
       (([], (stqBytes e f q.d q.off x z q.g.t).2), s.storeBytes e.acc q.g.x (stqBytes e f q.d q.off x z q.g.t).1 false))
       (qFind e f .write s).1 .none (qFind e f .write s).2.2).1.misses.isEmpty)),
    ok (.pref (fm false 0 4 0 0)) based (fun _ => true)].all id = true := by decide +kernel

/-! Rows 0x8 and 0xD: buffers, atomics, handlers, steps. -/

/-- The workgroup with windows of 32 KiB in every buffer, and tins. -/
def windowed (s : State) : State :=
  let s1 := match s.wg 0 with | some w => s.setWg 0 { w with sbufSize := 32768, tins := 8 } | none => s
  s1.setCore 0 { s1.core 0 with
    resv := [{ gid := 0, xbase := 0, xsize := 32768, wbase := 0, wsize := 32768, abase := 0, asize := 32768 }] }
/-- BufferAccesses: every buffer, by the threads and by the coach, at the last bytes of its window. -/
theorem meets_BufferAccesses :
    ([(.sbuf, 4, false, fun f => .lds f), (.sbuf, 16, false, fun f => .lds128 f), (.xbuf, 16, false, fun f => .ldx f),
      (.wbuf, 16, false, fun f => .ldw f), (.abuf, 16, false, fun f => .ldac f), (.sbuf, 4, true, fun f => .sts f),
      (.sbuf, 16, true, fun f => .sts128 f), (.xbuf, 16, true, fun f => .stx f), (.wbuf, 16, true, fun f => .stw f),
      (.abuf, 16, true, fun f => .stac f)] : List (Buf × Nat × Bool × (FM → Instr))).all (fun p => [true, false].all (fun u =>
      let i := p.2.2.2 (fm u 8 4 0 0)
      let s := windowed (testWith (codeOf i) (setS 4 (BitVec.ofNat 32 (32768 - p.2.1))))
      okIn s i (fun e => (e.units u).all (fun t => decide ((e.ea u 4 0 t).toNat % p.2.1 = 0) &&
        (bufCause (s.core e.core) e p.1 p.2.1 (e.ea u 4 0 t)).isNone &&
        !s.bufTested e.core p.1 && !bufStalls (s.core e.core) e p.1 p.2.1 p.2.2.1 (e.ea u 4 0 t) &&
        !(s.core e.core).bufBad p.1 (((s.core e.core).window e.wg p.1).1 + (e.ea u 4 0 t).toNat) p.2.1 p.2.2.1)))) = true := by decide +kernel

/-- Atomics: each of them on a word of the placed page, or of SBUF. -/
theorem meets_Atomics :
    let act (e : Env) (size : Nat) (step : AtomStep) (g : Target) (s : State) : (List RegWrite × Option Word × Word) × State :=
      let h := (s.ccDrop e.core (g.x.pa / 128)).homeTouch g.x.pa
      let a := step g.t (h.homeLoad g.x size)
      ((putWords false 8 g.t a.1, none, a.2.2), match a.2.1 with | some bs => h.homeStore g.x bs | none => h)
    ([(4, fun f => .atom f), (4, fun f => .aredg f), (4, fun f => .atomar f), (4, fun f => .acas f), (4, fun f => .acasar f)]
      : List (Nat × (FA → Instr))).all (fun p =>
      let f : FA := { u := false, fb := false, t := 8, base := 4, idx := 0, aop := 0 }
      let s := testWith (codeOf (p.2 f)) based
      okIn s (p.2 f) (fun e =>
        let q := reached e false .both (e.ea false 4 0) s
        reachOk e false p.1 .both (e.ea false 4 0) s && !q.2.engineBusy e.ref 5 &&
          (performEach (checkHome e p.1 (.sync true true)) (act e p.1 (atomStep f e)) q.1 .none q.2).1.misses.isEmpty)) = true ∧
    (let f : FA := { u := false, fb := false, t := 8, base := 4, idx := 0, aop := 2 }
     let s := windowed (testState (codeOf (.atoms f)))
     okIn s (.atoms f) (fun e => (e.units false).all (fun t => decide ((e.ea false 4 0 t).toNat % 4 = 0) &&
       (bufCause (s.core e.core) e .sbuf 4 (e.ea false 4 0 t)).isNone && !s.bufTested e.core .sbuf && !bufStalls (s.core e.core) e .sbuf 4 true (e.ea false 4 0 t) &&
       !(s.core e.core).bufBad .sbuf (((s.core e.core).window e.wg .sbuf).1 + (e.ea false 4 0 t).toNat) 4 true))) = true := by
  constructor <;> decide +kernel

/-- A state whose context 0 has a table of handlers at 0x18000 of the placed page, with one for UNALIGNED. -/
def handled (s : State) : State :=
  let s1 := s.setContext 0 { s.context 0 with thbase := 0x18000 }
  { s1 with mem := Memory.writeN s1.mem (0x18000 + 8 * cUNALIGNED.toNat) (bytesLE 8 0x10040) }
/-- TrapEntry: a misaligned access in a coach outside its handler, with a handler for it. -/
theorem meets_TrapEntry :
    let s := handled (testState 0)
    (match s.wg 0, s.coach here with
      | some w, some c => c.frame.isNone && !c.flights.any Flight.entry && !causeSystem cUNALIGNED &&
          ((s.setCoach here { c with state := .trapped, tcause := cUNALIGNED }).handler 0 w.ctx cUNALIGNED).1 == some 0x10040
      | _, _ => false) = true := by decide +kernel
/-- A load that has met a cause, and a store held behind it. -/
def shadowing (c : Coach) : Coach :=
  let en (w : Word) : ReplayEntry :=
    { word := w, pc := placeVa, flag := none, status := 0, mask := 255, sops := [0, 0], vops := [], faddr := 0, cause := 0, wait := Wait.none }
  { c with nextId := 2, flights := [
      { id := 0, word := 0x72080000, pc := placeVa, flag := none, entry := true, kind := .raised cRACE_RAW 4 8, pend := [], rep := some (en 0x72080000) },
      { id := 1, word := 0x77080000, pc := placeVa, flag := none, entry := true, kind := .held, pend := [], rep := some (en 0x77080000) }] }
/-- TrapEntry, R246: behind the load each of the named instructions can issue, one can issue late, and its cause finds the coach as the statement has it. -/
theorem meets_TrapEntry_shadow :
    ([.ld32 (fm false 8 4 0 0), .st32 (fm false 8 4 0 0), .ldq (fm false 8 4 0 0), .stq (fm false 8 4 0 0), .strel (fm false 8 4 0 2),
      .atom { u := false, fb := false, t := 8, base := 4, idx := 0, aop := 0 },
      .bara { u := true, fb := false, scope := 1, bix := 0, gen := 5, cnt := 0 },
      .enqnb { u := true, fb := false, t := 8, qcb := 4, stat := 6, nregM1 := 0 }] : List Instr).all (fun i =>
      let s := testWith (codeOf i) shadowing
      match s.env s.cur with
      | some e0 =>
        let e := e0.holding i
        e.replay.isNone && (wordCause e (s.grid e.wg.gid) (s.privileged e.site e.ctx) i).isNone && decide (e.active ≠ 0) &&
          !issueStalls e i s && heldBack e i s
      | none => false) = true ∧
    (let i : Instr := .ld32 (fm false 8 4 0 0)
     let s := { testState (codeOf i) with late := true }
     match s.env s.cur with
      | some e0 =>
        let e := e0.holding i
        e.replay.isNone && (wordCause e (s.grid e.wg.gid) (s.privileged e.site e.ctx) i).isNone && decide (e.active ≠ 0) &&
          !issueStalls e i s && !heldBack e i s && issuesLate e i s
      | none => false) = true ∧
    (match (testWith 0 shadowing).coach here with
      | some c => c.state == .runnable && c.pendTrap.isNone && c.frame.isNone &&
          (match c.flights with | f :: rest => f.id == 0 && f.rep.isSome && c.rq.isEmpty && rest.all (fun g => decide (f.id < g.id) && g.back && g.rep.isSome) | [] => false)
      | none => false) = true := by
  refine ⟨?_, ?_, ?_⟩ <;> decide +kernel
/-- R246, R247: a load that meets a cause goes into flight; a younger store is held; the cause's arrival makes them the entries
FAULTED and PENDING of a frame. -/
theorem test_shadow :
    (match exec .operationComplete { testWith 0 shadowing with arg := { EvArgs.zero with slot := 0, k := 0, id := 0 } } with
      | .next t => (t.coach here).map (fun c => (c.trqn, c.tcause, c.taddr, c.rq.map (fun x => x.status)))
      | _ => none) = some (2, cRACE_RAW, 4, [1, 0]) ∧
    (match exec (.st32 (fm false 8 4 0 0)) (testWith 0x77080100 shadowing) with
      | .next t => (t.coach here).map (fun c => (c.flights.length, c.trqn))
      | _ => none) = some (3, 0) := by constructor <;> decide +kernel
/-- R136, R246: a late load of 0x10100 is passed by a load of other bytes, not by one of the same, nor by a store. -/
theorem test_late :
    let c0 : Coach → Coach := setS 4 0x10100 ∘ setS 6 0x10200
    let s := { testWith 0x72081000 c0 with late := true }
    (match exec (.ld32 (fm true 8 4 0 0)) s with
      | .next t =>
        let u := { t with late := false }
        match u.env u.cur with
        | some e => [.ld32 (fm true 9 6 0 0), .ld32 (fm true 9 4 0 0), .st32 (fm true 9 6 0 0)].map (fun i => heldBack e i u)
        | none => []
      | _ => []) = [false, true, true] := by decide +kernel
/-- A coach with an operation in flight that writes v4 of thread 1 and s6. -/
def pending : Coach :=
  let ps : List PendReg := [{ scalar := false, reg := 4, thread := 1, old := 7 }, { scalar := true, reg := 6, thread := 0, old := 9 }]
  { Coach.start 0 0 8 with
    flights := [{ id := 0, word := 0, pc := 0, flag := none, entry := true, kind := .performed, pend := ps, rep := none }] }
/-- A coach in its handler with one faulted load to replay. -/
def replayed (c : Coach) : Coach :=
  let en : ReplayEntry :=
    { word := 0x72080000, pc := placeVa, flag := none, status := 1, mask := 2, sops := [0, 0], vops := [], faddr := 1,
      cause := cUNALIGNED, wait := Wait.none }
  { inTrap cUNALIGNED c with trqn := 1, rq := [en] }
/-- TrapReturn, SoftwareTraps and HandlerAccess: TRET, TRAP and BRK, and each access of a handler. -/
theorem meets_Handlers : [
    ok (.tret (fs 0 0 0)) (inTrap cSW_TRAP) (fun e => e.c.frame.isSome && !e.c.flights.any Flight.entry && targetOk e.c.tpc &&
      e.c.tcause != cPREEMPT_NOTICE),
    ok (.tret (fs 0 0 0)) (inTrap cPREEMPT_NOTICE) (fun e => e.c.frame.isSome && !e.c.flights.any Flight.entry && targetOk e.c.tpc && e.c.tcause == cPREEMPT_NOTICE),
    ok (.tret (fs 0 0 0)) (fun c => { inTrap cSW_TRAP c with tpc := 0x10002 }) (fun e => !e.c.flights.any Flight.entry && !targetOk e.c.tpc),
    ok (.tret (fs 0 0 0)) (fun c => { inTrap cSW_TRAP c with flights := pending.flights }) (fun e => e.c.flights.any Flight.entry),
    ok (.lwr (fs 0 0x83 4)) (replayed ∘ setS 3 7) (fun _ => true),
    ok (.rqwr (fs 4 3 6)) (replayed ∘ setS 4 2) (fun e => e.c.frame.isSome && decide ((e.c.readS e.tick 4).toNat % 4 ≠ 3)),
    ok (.rqwr (fs 4 3 6)) (setS 4 3) (fun e => e.c.frame.isNone),
    ([.trapI { fs 0 5 0 with u := false }, .brk { fs 0 0x3FF 0 with u := false }] : List Instr).all (fun i => ok i id (fun e => e.c.frame.isNone && !e.c.flights.any Flight.entry)),
    ([0x003, 0x043, 0x083] : List (BitVec 10)).all (fun n => ok (.lrd (fs 4 n 0)) (replayed ∘ setS 3 7) (fun _ => true)),
    ok (.lwr (fs 5 3 4)) (replayed ∘ setS 3 7) (fun e => (e.c.pendOf false 5 7).isNone),
    ok (.lwr (fs 0 0x43 4)) (replayed ∘ setS 3 7) (fun _ => true),
    ok (.rqrd (fs 4 31 6)) replayed (fun e => e.c.frame.isSome && (e.c.rq[(e.sop 0 6).toNat]?).isSome),
    ok (.rqrd (fs 4 0 6)) (setS 6 9) (fun e => (e.c.rq[(e.sop 0 6).toNat]?).isNone),
    ok (.rqwr (fs 4 3 6)) (replayed ∘ setS 4 3) (fun e => e.c.frame.isSome && e.replay.isNone && (e.c.rq[(e.c.readS e.tick 6).toNat]?).isSome &&
      decide ((e.c.readS e.tick 4).toNat % 4 = 3)),
    ok (.rqwr (fs 4 8 6)) replayed (fun e => e.c.frame.isSome && e.replay.isNone && (e.c.rq[(e.c.readS e.tick 6).toNat]?).isSome)].all id = true := by
  decide +kernel

def stepping (s : State) : State :=
  let st : OpenStep :=
    { slot := 0, k := 0, ctx := 0, va := 0x10100, deadline := 5, work := 9, sites := 0, post := false, progress := 0, risk := false,
      riskCnt := 0, opened := 0, openClk := 0, energy0 := 0, choose := none, sampled := none }
  s.setSite 0 { s.site 0 with steps := [st] }
/-- StepsAndTime: STEPO of an aligned block, STEPM and STEPC with a step and without, TIME, and each behind an operation in flight. -/
theorem meets_StepsAndTime : [
    (let i : Instr := .stepo (fs 4 0 0)
     let s := testWith (codeOf i) based
     okIn s i (fun e => decide ((e.sop64 0 4).toNat % 64 = 0) && (s.translate (some e.core) e.site e.ctx (e.sop64 0 4) .both).1.toOption.isSome)),
    (let i : Instr := .stepm (fs 0 0 6)
     let s := stepping (testState (codeOf i))
     okIn s i (fun _ => (s.findStep s.cur).isSome)),
    okIn (testState (codeOf (.stepm (fs 0 0 6)))) (.stepm (fs 0 0 6)) (fun _ => ((testState 0).findStep here).isNone),
    okIn (stepping (testState (codeOf (.stepc (fs 0 0 0))))) (.stepc (fs 0 0 0)) (fun _ => true),
    ok (.timeI (fs 4 0 0)) id (fun e => e.c.flights.isEmpty),
    ([.stepo (fs 4 0 0), .stepm (fs 0 0 6), .stepc (fs 0 0 0), .timeI (fs 4 0 0)] : List Instr).all (fun i =>
      ok i (fun c => { c with flights := pending.flights.map (fun f => { f with pend := [] }) }) (fun e => !e.c.flights.isEmpty))].all id = true := by decide +kernel

/-! Row 0x9: barriers, monitors, queues. -/

def fb (cnt gen : RegNo) (bix : BitVec 7) : FB := { u := true, fb := false, cnt := cnt, gen := gen, scope := 1, bix := bix }
/-- The word in a workgroup with two declared barriers, the second with a count of 8 and 3 arrivals in generation 1. -/
def atBarrier (i : Instr) (f : Coach → Coach) : State :=
  (((testWith (codeOf i) f).setGrid 0 { placeGrid with bwg := 2, bwafer := 1 }).setBar 0 1 1 { e := 8, a := 3, g := 1, rclk := 0, m := 0 })
/-- BarrierInstructions: an arrival that fits and one that does not, a wait that is over and one that is not, a BARINIT of a count above the
arrivals, at them and below them, all of them at POD scope with no link UP, and at WAFER scope where none is declared. -/
theorem meets_BarrierInstructions : [
    (let f : FB := { fb 0 7 0 with scope := 6 }
     ([.bara f, .baraw f, .barinit { f with bix := 1 }, .barw f] : List Instr).all (fun i =>
       let s := (testState (codeOf i)).setGrid 0 { placeGrid with bpod := 2 }
       okIn s i (fun e => !undeclared e f s && !s.barCarried 6 && e.kept.joined.isNone))),
    (let i : Instr := .bara (fb 6 7 1)
     let s := atBarrier i (setS 6 5)
     okIn s i (fun e => !undeclared e (fb 6 7 1) s && !s.engineBusy e.ref 1 &&
       decide (((s.release 0 1).2.bar 0 1 1).a.toNat + (e.sop 0 6).toNat ≤ ((s.release 0 1).2.bar 0 1 1).e.toNat))),
    (let i : Instr := .bara (fb 6 7 1)
     let s := atBarrier i (setS 6 6)
     okIn s i (fun e => !undeclared e (fb 6 7 1) s && !s.engineBusy e.ref 1 &&
       decide (((s.release 0 1).2.bar 0 1 1).e.toNat < ((s.release 0 1).2.bar 0 1 1).a.toNat + (e.sop 0 6).toNat))),
    (let i : Instr := .baraw (fb 0 7 0)
     let s := atBarrier i id
     okIn s i (fun e => e.kept.joined.isNone && !s.engineBusy e.ref 1 &&
       decide (((s.release 0 1).2.bar 0 1 0).a.toNat + (threadsOf e.wg.threads e.active).length ≤ ((s.release 0 1).2.bar 0 1 0).e.toNat))),
    (let i : Instr := .barw (fb 0 7 1)
     let s := atBarrier i id
     okIn s i (fun e => decide (1 ≤ ((s.bar 0 1 1).g - e.sop 1 7).toNat ∧ ((s.bar 0 1 1).g - e.sop 1 7).toNat ≤ 2 ^ 31))),
    (let i : Instr := .barw (fb 0 7 1)
     let s := atBarrier i (setS 7 1)
     okIn s i (fun e => decide (¬ (1 ≤ ((s.bar 0 1 1).g - e.sop 1 7).toNat ∧ ((s.bar 0 1 1).g - e.sop 1 7).toNat ≤ 2 ^ 31)))),
    (let i : Instr := .barinit (fb 6 7 1)
     let s := atBarrier i (setS 6 4)
     okIn s i (fun e => decide ((s.bar 0 1 1).a.toNat ≤ (e.sop 0 6).toNat) && (s.bar 0 1 1).a != e.sop 0 6)),
    (let i : Instr := .baraw (fb 6 7 1)
     let s := atBarrier i (setS 6 6)
     okIn s i (fun e => e.kept.joined.isNone && !s.engineBusy e.ref 1 &&
       decide (((s.release 0 1).2.bar 0 1 1).e.toNat < ((s.release 0 1).2.bar 0 1 1).a.toNat + (e.sop 0 6).toNat))),
    (let i : Instr := .barinit (fb 6 7 1)
     let s := atBarrier i (setS 6 3)
     okIn s i (fun e => (s.bar 0 1 1).a != 0 && (s.bar 0 1 1).a == e.sop 0 6)),
    (let i : Instr := .barinit (fb 0 7 1)
     let s := atBarrier i id
     okIn s i (fun e => decide ((0 : Word).toNat < (s.bar 0 1 1).a.toNat) && !undeclared e (fb 0 7 1) s)),
    (let f : FB := { fb 0 7 0 with scope := 5 }
     ([.bara f, .baraw f, .barinit { f with bix := 1 }, .barw f] : List Instr).all (fun i =>
       let s := (testState (codeOf i)).setGrid 0 { placeGrid with bwafer := 0 }
       okIn s i (fun e => undeclared e f s && e.kept.joined.isNone)))].all id = true := by decide +kernel

def fw (t base : RegNo) (cond : BitVec 4) : FW := { u := true, fb := false, t := t, base := base, z := 0, cond := cond }
def waits (i : Instr) (f : Coach → Coach) (cond : Env → State → Word → Bool) : Bool :=
  let s := testWith (codeOf i) (based ∘ f)
  okIn s i (fun e =>
    match (s.dropWaiter e.ref).translate (some e.core) e.site e.ctx (e.sop64 0 4) .read with
    | (.ok x, s1) =>
      let s2 := (s1.ccDrop e.core (x.pa / 128)).homeTouch x.pa
      !s1.tested x.pa 4 && decide ((e.sop64 0 4).toNat % 4 = 0) && decide (paSpace x.pa ≤ 1) && (s2.homeCheck e.acc x 4 (.sync true false)).1.isNone &&
        cond e s2 (BitVec.ofNat 32 (ofBytesLE (s2.homeLoad x 4)))
    | _ => false)
/-- MonitorWaits: a satisfied WAITC, a satisfied WAITCT and one whose deadline has come; SLEEP of 1 and of 0; YIELD; OCRD. -/
theorem meets_MonitorWaits : [
    waits (.waitc (fw 8 4 0)) id (fun e _ w => waitCompare 0 w (e.data true 8 0 0)),
    waits (.waitct (fw 8 4 0)) (setS 9 5) (fun e _ w => waitCompare 0 w (e.data true 8 0 0)),
    waits (.waitct (fw 8 4 1)) id (fun e s _ => e.kept.deadline.isNone &&
      decide ((s.waferTime 0).toNat + (e.data true 8 1 0).toNat ≤ (s.waferTime 0).toNat) && (s.dropWaiter e.ref).waferTime 0 == s.waferTime 0),
    ok (.sleep (rr true 0 0 6 0)) (setS 6 1) (fun e => e.kept.deadline.isNone && e.sop 0 6 != 0),
    ok (.sleep (rr true 0 0 6 0)) id (fun e => e.kept.deadline.isNone && e.sop 0 6 == 0),
    ok (.ocrd (rr true 0 8 0 0)) id (fun e => !e.c.flights.any (fun x => isSyncOp (opcodeOf x.word).toNat))].all id = true := by decide +kernel

def fq (u : Bool) (t : RegNo) (nregM1 : BitVec 4) : FQ := { u := u, fb := false, t := t, qcb := 4, stat := 3, nregM1 := nregM1 }
/-- A queue of 8 slots of 4 bytes at s4:s5, with some elements ready. -/
def queued (i : Instr) (tail : Word) : State :=
  let q : Qcb :=
    { magic := qcbMagic, ctl := 0x40340, head := 0, tail := tail, free := 8 - tail, dbase := 0x10400, pclk := 0, cclk := 0, cwait := 0,
      pwait := 0, check := 0, crc := 0 }
  let s := testWith (codeOf i) (setS 4 0x10200)
  let m := (List.range tail.toNat).foldl (fun m j => Memory.writeN m (0x10400 + 16 * j) (bytesLE 4 2)) (Memory.writeN s.mem 0x10200 q.toBytes)
  { s with mem := m }
def opens (i : Instr) (f : FQ) (tail : Word) (cond : Env → State → Xl → Qcb → Bool) : Bool :=
  let s := queued i tail
  okIn s i (fun e =>
    match s.openQcb (some e.core) e.site e.ctx (e.qcbVa f) .both with
    | (.ok (x, q), s1) => !s.registered e.ref && q.esize == 4 * nregOf f && decide ((e.units f.u).length ≤ 2 ^ q.logn) &&
        decide (0 < (e.units f.u).length) && cond e s1 x q
    | _ => false)
/-- QueueTransfers: elements that fit and that are ready, of all threads and of the coach, and a full queue. -/
theorem meets_QueueTransfers : [
    ([.enq (fq false 8 0), .enqnb (fq false 8 0)] : List Instr).all (fun i => opens i (fq false 8 0) 0 (fun e s x q =>
      q.state != 1 && decide ((e.units false).length ≤ q.free.toNat) &&
        (match s.enqAddrs (some e.core) e.site e.acc 0x10200 x q (e.units false).length with | (.ok _, s2) => !s2.engineBusy e.ref q.scope | _ => false))),
    opens (.enqnb (fq true 8 0)) (fq true 8 0) 8 (fun e s x q => q.state != 1 && decide (q.free.toNat < (e.units true).length) &&
      (s.useQcb (some e.core) e.acc 0x10200 x true []).1.isNone),
    ([.deq (fq false 8 0), .deqnb (fq false 8 0)] : List Instr).all (fun i => opens i (fq false 8 0) 8 (fun e s x q =>
      decide (¬ (q.state = 1 ∧ q.head + 8 = q.tail)) &&
        (match s.readySlots (some e.core) e.site e.ctx x.pa q (e.units false).length with
          | (.ok l, s2) => l.length == (e.units false).length && (s2.useQcb (some e.core) e.acc 0x10200 x true (deqParts q l)).1.isNone
          | _ => false)))].all id = true := by decide +kernel
/-- QueueControl: QINIT with the parameters of such a queue, QCLOSE and QSTAT of it. -/
theorem meets_QueueControl : [
    (let i : Instr := .qinit (fq true 8 3)
     let s := testWith (codeOf i) (setS 4 0x10200 ∘ setS 8 0x40304 ∘ setS 10 0x10400)
     okIn s i (fun e =>
       let d (j : Nat) : Word := e.data true 8 j 0
       (match s.reachQcb (some e.core) e.site e.ctx (e.qcbVa (fq true 8 3)) .both with
        | (.ok x, s1) => (Qcb.ofBytes (s1.homeRead x.pa 64)).magic != qcbMagic
        | _ => false) && d 0 &&& 0xFFF8E000 == 0 && qShapeOk ((d 0).toNat % 256) ((d 0).toNat / 256 % 32) && qScopeOk ((d 0).toNat / 2 ^ 16 % 8) &&
         d 1 == 0 && decide ((d 3 ++ d 2).toNat % 64 = 0) &&
       (let q : Qcb := { magic := qcbMagic, ctl := 0x40300, head := 0, tail := 0, free := 8, dbase := 0x10400, pclk := 1, cclk := 1, cwait := 0,
                         pwait := 0, check := 0, crc := 0 }
        match s.reachQcb (some e.core) e.site e.ctx (e.qcbVa (fq true 8 3)) .both with
        | (.ok x, s1) =>
          (match s1.findSlots (some e.core) e.site e.ctx q .write 8 0 8 with
           | (.ok l, s2) => (s2.useQcb (some e.core) e.acc 0x10200 x true (l.flatMap (fun y => y.part (.sync false true) 0 4))).1.isNone
           | _ => false)
        | _ => false))),
    (let i : Instr := .qclose (fq true 0 0)
     let s := queued i 0
     okIn s i (fun e =>
       match s.openQcb (some e.core) e.site e.ctx (e.qcbVa (fq true 0 0)) .both with
       | (.ok (x, q), s1) => q.state == 0 && (s1.useQcb (some e.core) e.acc 0x10200 x true []).1.isNone &&
         !(s1.useQcb (some e.core) e.acc 0x10200 x true []).2.engineBusy e.ref q.scope
       | _ => false)),
    (let i : Instr := .qstat (fq true 8 3)
     let s := queued i 0
     okIn s i (fun e =>
       match s.openQcb (some e.core) e.site e.ctx (e.qcbVa (fq true 8 3)) .read with
       | (.ok (x, _), s1) => (s1.useQcb (some e.core) e.acc 0x10200 x false []).1.isNone
       | _ => false))].all id = true := by decide +kernel

/-! Row 0xA: the matrix instructions, and their recovery. -/

/-- MatrixAcceptance: an MMA of every type, both operands in the core's buffers. s4 to s7 and s8 to s11 describe them. -/
theorem meets_MatrixAcceptance :
    ([(0, fun f => .mmaBf16 f), (1, fun f => .mmaF16 f), (2, fun f => .mmaE4m3 f), (3, fun f => .mmaE5m2 f), (4, fun f => .mmaE2m1 f),
      (5, fun f => .mmaE2m1x f), (6, fun f => .mmaI8 f), (7, fun f => .mmaF32 f), (8, fun f => .mmaF64 f)] : List (Nat × (FX → Instr))).all (fun p =>
      let f : FX := { u := true, fb := false, acc := 1, adesc := 4, bdesc := 8, p := 0, dpol := 1 }
      let i := p.2 f
      let s := windowed (testWith (codeOf i) (setS 6 128 ∘ setS 10 128))
      okIn s i (fun e =>
        let c := s.core e.core
        let r := c.resvOf e.wg.gid
        let a := operandOf e.wg (e.quad 1 4 0) (e.quad 1 4 1) (e.quad 1 4 2) (e.quad 1 4 3)
        let b := operandOf e.wg (e.quad 5 8 0) (e.quad 5 8 1) (e.quad 5 8 2) (e.quad 5 8 3)
        let pa := probeOp e p.1 a s
        let pb := probeOp e p.1 b pa.2
        let ca := captureOp e p.1 .xbuf a [] pb.2
        let cb := captureOp e p.1 .wbuf b [] ca.2.2
        e.active == maskAll e.wg.threads && (Table.find c.halted e.ctx).isNone && e.sop 0 1 == 0 && c.mq.isEmpty &&
          !(openBatchOf e c).fixed && pb.2.decksAvail e.core == 15 &&
          descOk c e.wg p.1 (e.quad 1 4 0) (e.quad 1 4 1) (e.quad 1 4 2) (e.quad 1 4 3) &&
          descOk c e.wg p.1 (e.quad 5 8 0) (e.quad 5 8 1) (e.quad 5 8 2) (e.quad 5 8 3) && pa.1.toOption.isSome && pb.1.toOption.isSome &&
          (a.outside p.1 r.xsize).isNone && (b.outside p.1 r.wsize).isNone &&
          (tilesOf p.1 0).all (fun t => tileIn r.asize t && !c.invalidTile e.wg.gid t) &&
          decide (ca.1.lines + cb.1.lines ≤ 1024))) = true := by decide +kernel

/-- AccumulatorInstructions: ACZERO of no tile and of two, ACSCL of every kind. -/
theorem meets_AccumulatorInstructions : [
    ok (.aczero (rr true 0 0 6 0)) id (fun e => e.sop 0 6 == 0),
    (let i : Instr := .aczero (rr true 0 0 6 0)
     let s := windowed (testWith (codeOf i) (setS 6 3))
     okIn s i (fun e => e.sop 0 6 != 0 && (MOp.aczero (e.sop 0 6)).tiles.all (fun t => tileIn ((s.core 0).resvOf 0).asize t) && (s.core 0).mq.isEmpty)),
    [0, 1, 2].all (fun kind =>
     let i : Instr := .acscl (rr true 0 0 6 7)
     let s := windowed (testWith (codeOf i) (setS 6 (BitVec.ofNat 32 (kind * 256))))
     okIn s i (fun e => (e.sop 0 6).toNat == kind * 256 && (MOp.acscl kind 0 (e.sop 1 7)).tiles.all (fun t =>
       tileIn ((s.core 0).resvOf 0).asize t && !(s.core 0).invalidTile 0 t)))].all id = true := by decide +kernel

/-- A coach whose first batch is closed and whose second is open, with a report of the first. -/
def reported (complete : Bool) (c : Coach) : Coach :=
  { c with openBatch := 2, lastBatch := 1,
           reports := [{ batch := 1, err := false, decks := 15, passes := 1, promos := 0, ballast := 0, clock := 1, complete := complete }] }
/-- MatrixBatches: BFENCE with room; BWAIT of a complete batch; MREP of a complete, a closed and an unknown batch; MQRY. -/
theorem meets_MatrixBatches : [
    ok (.bfence (rr true 0 6 0 0)) id (fun _ => ((testState 0).core 0).mq.isEmpty),
    ok (.bwait (rr true 0 0 6 0)) (reported true ∘ setS 6 1) (fun e => e.c.hasClosed 1 && (((testState 0).core 0).awaited 0 0 1).isEmpty),
    [true, false].all (fun b => ok (.mrep (rr true 0 8 6 0)) (reported b ∘ setS 6 1) (fun e => decide ((e.sop 0 6).toNat % 2 ^ 16 ≠ e.c.openBatch) &&
      (e.c.reports.find? (fun r => r.batch == 1)).any (fun r => r.complete == b))),
    ok (.mrep (rr true 0 8 6 0)) (setS 6 5) (fun e => decide ((e.sop 0 6).toNat % 2 ^ 16 ≠ e.c.openBatch) && e.c.reports.isEmpty),
    ([0, 1, 2, 3, 4] : List Word).all (fun v => ok (.mqry (rr true 0 8 6 0)) (setS 6 v) (fun e => e.sop 0 6 == v))].all id = true := by
  decide +kernel

/-- A state whose VA 0x200000 lies in a page of 2 MiB of host memory. -/
def bigPage (s : State) : State :=
  { s with ports := [(0, { up := true, gen3 := true, lanes := 16, mgmt := false })], mem := Memory.writeN s.mem 0x3008 (bytesLE 8 ((2 ^ 35 + 0x20) * 2 ^ 28 + 0xC0001F)) }
/-- With an empty column cache the version of an image is read from where its first part lies. -/
theorem clean_none {s : State} {c : Nat} (h : (s.core c).cc = []) (l : List (Target × Nat)) : cleanParts c l s = s := by
  have one (ps : List (Nat × Nat)) : ps.foldl (fun u q => u.ccClean c (q.1 / 128)) s = s := by
    induction ps with
    | nil => rfl
    | cons p r ih => rw [List.foldl_cons, show s.ccClean c (p.1 / 128) = s by unfold State.ccClean; rw [h]; rfl, ih]
  induction l with
  | nil => rfl
  | cons p r ih => unfold cleanParts at ih ⊢; rw [List.foldl_cons, one, ih]
theorem take_upFrom (k n a : Nat) (h : k ≤ n) : (upFrom a n).take k = upFrom a k := by
  induction k generalizing n a with
  | zero => simp [upFrom]
  | succ k ih => cases n with
    | zero => omega
    | succ n => simp [upFrom, ih n (a + 1) (by omega)]
theorem length_upFrom (n a : Nat) : (upFrom a n).length = n := by
  induction n generalizing a with
  | zero => rfl
  | succ n ih => simp [upFrom, ih]
theorem image_version {s : State} {c : Nat} (h : (s.core c).cc = []) (p : Target × Nat) (r : List (Target × Nat)) (hp : 4 ≤ p.2) :
    (readParts (cleanParts c (p :: r) s) (p :: r)).take 4 = s.homeRead p.1.x.pa 4 := by
  rw [clean_none h, readParts, List.flatMap_cons, List.take_append_of_le_length]
  · simp [State.homeRead, Memory.readN, ← List.map_take, take_upFrom 4 p.2 _ hp]
  · simp [State.homeRead, Memory.readN, length_upFrom, hp]
/-- EngineRecovery: ERES of the matrix queue, of the first and the last copy queue, and of none; MSAVE; MREST of this
version and of another. -/
theorem meets_EngineRecovery : [
    ([0, 1, 16, 17, 31, 0xFFFF0100] : List Word).all (fun v => ok (.eres (fs 8 0 6)) (setS 6 v) (fun e =>
      decide ((e.sop 0 6).toNat / 2 ^ 9 % 2 ^ 7 = 0 ∧ (e.sop 0 6).toNat / 32 % 8 = 0) &&
        decide ((if (e.sop 0 6).toNat / 2 ^ 16 = 0xFFFF then e.ctx else (e.sop 0 6).toNat / 2 ^ 16) < 256))),
    (let i : Instr := .msave (fs 4 0 0)
     let s := bigPage (testWith (codeOf i) (setS 4 0x200000))
     okIn s i (fun e => match probeImage e (e.sop64 0 4) .write s with | (.ok l, s1) => (checkParts e.acc .write l s1).1.isNone | _ => false)),
    ([1, 2] : List Nat).all (fun v =>
     let i : Instr := .mrest (fs 4 0 0)
     let s := bigPage (testWith (codeOf i) (setS 4 0x200000))
     let s := { s with mem := Memory.writeN s.mem (2 ^ 51 + 0x200000) (bytesLE 4 v) }
     okIn s i (fun e =>
       match probeImage e (e.sop64 0 4) .read s with
       | (.ok (p :: r), s1) =>
         let k := checkParts e.acc .read (p :: r) s1
         k.1.isNone && (k.2.core e.core).cc.isEmpty && decide (4 ≤ p.2) && ofBytesLE (k.2.homeRead p.1.x.pa 4) == v
       | _ => false))].all id = true := by decide +kernel

/-! Row 0xB: the engines. -/

def fc (pb tin aux : RegNo) (qsel : BitVec 4) : FC := { u := true, fb := false, pb := pb, tin := tin, aux := aux, qsel := qsel }
/-- A state with bytes at a place of the placed page. -/
def withBytes (pa : Nat) (bs : List Byte) (s : State) : State := { s with mem := Memory.writeN s.mem pa bs }
/-- The parameter block of a copy of one row of 128 bytes at 0x10200. -/
def copyBlock (ctl : Nat) (cmask : Nat) : List Byte :=
  bytesLE 8 0x11000 ++ bytesLE 8 (if ctl = 0 then 0x12000 else 0) ++ bytesLE 4 1 ++ bytesLE 4 128 ++ bytesLE 8 0 ++ bytesLE 4 ctl ++
    bytesLE 4 cmask ++ bytesLE 24 0
/-- s4:s5 names the block, s6 and s7 no tin, s8 tin 3. -/
def copyRegs (c : Coach) : Coach := setS 4 0x10200 (setS 6 0x80000000 (setS 7 0x80000000 (setS 8 3 c)))
/-- The checks of an accepted copy; `m` is the copy that it joins, if any. -/
def copyOk (i : Instr) (kind : CopyKind) (f : FC) (m : Option CopyEntry) (s : State) : Bool :=
  okIn s i (fun e =>
    match copyParams e m (e.sop64 0 f.pb) s with
    | (.ok params, s1) =>
      let cp := CopyParams.ofBytes params
      let dtin := tinNamed (e.sop 2 f.tin)
      let dt := if kind = .cpym then none else dtin
      let st := tinNamed (e.sop 3 f.aux)
      let rows := if kind = .cpym then List.range cp.rows else rowsOf cp.rows e.wg.ncoach e.ref.k
      (m == if kind = .cpym then none else ((s.site e.site).copyq.flatMap Prod.snd).find? (fun c =>
        c.slot == e.ref.slot && c.seq == e.c.copies && (c.kind == .cpy || c.kind == .cpyt))) &&
      cp.ok && cp.okFor kind && tinRegOk (e.sop 2 f.tin) && tinRegOk (e.sop 3 f.aux) && (kind != .cpym || dtin.isSome) &&
      (dt.isNone || cp.dkind != 0) && cp.skind != 2 && tinFits (s1.core e.core) e.wg dt 1 cp.dkind cp.daddr (spanOf cp.rows cp.dstride cp.rowBytes) &&
      tinFits (s1.core e.core) e.wg st 2 cp.skind cp.saddr (spanOf cp.rows cp.sstride cp.rowBytes) && (windowStop e kind cp s1).isNone &&
      (tinStop e dt).isNone && (tinStop e st).isNone && (abufStop e kind cp s1).isNone && !(s.site e.site).copyHalted 0 e.ctx &&
      (match probeCopy e kind cp rows (match m with | some c => c.fmt | none => none) s1 with
        | (.ok _, s2) => !s2.engineBusy e.ref 5 && decide (((s.site e.site).queue 0).length < 32)
        | _ => false)
    | _ => false)
/-- CopyAcceptance: CPY, CPYM to tin 3 of core 0, CPYT to a page of a format, and a CPY that joins the one at the queue's head. -/
theorem meets_CopyAcceptance : [
    copyOk (.cpy (fc 4 6 7 0)) .cpy (fc 4 6 7 0) none (windowed (withBytes 0x10200 (copyBlock 0 0) (testWith (codeOf (.cpy (fc 4 6 7 0))) copyRegs))),
    copyOk (.cpym (fc 4 8 7 0)) .cpym (fc 4 8 7 0) none
      (windowed (withBytes 0x10200 (copyBlock 16 1) (testWith (codeOf (.cpym (fc 4 8 7 0))) copyRegs))),
    copyOk (.cpyt (fc 4 6 7 0)) .cpyt (fc 4 6 7 0) none
      (windowed (withBytes 0x10200 (copyBlock 0 0) ((formatState (.cpyt (fc 4 6 7 0))).modCoach here copyRegs))),
    (let s := windowed (withBytes 0x10200 (copyBlock 0 0) (testWith (codeOf (.cpy (fc 4 6 7 0))) copyRegs))
     let c : CopyEntry :=
       { id := 7, kind := .cpy, slot := 0, k := 1, ctx := 0, gid := 0, seq := 0, pb := 0x10200, params := copyBlock 0 0, dtin := none, stin := none,
         clock := 1, arrivals := [{ k := 1, flight := 0 }], fmt := none, started := false, done := 0, flying := [], after := [], paused := false,
         treg := 0x80000000, areg := 0x80000000, away := [], err := none }
     copyOk (.cpy (fc 4 6 7 0)) .cpy (fc 4 6 7 0) (some c) (s.setSite 0 { s.site 0 with copyq := [(0, [c])] }))].all id = true := by decide +kernel

/-- A tin in a state, of a workgroup with tins. -/
def tinned (state : BitVec 2) (i : Instr) (f : Coach → Coach) : State :=
  let s := windowed (testWith (codeOf i) f)
  s.putTin 0 3 { Tin.free with state := state, kind := 1, total := 64, off := 0, len := 64 }
/-- TinInstructions: each of them on a tin of each state that it acts on, and on an index of no tin. -/
theorem meets_TinInstructions : [
    ([.tininit (fc 10 6 7 1), .tinwait (fc 0 6 0 0), .tinrel (fc 0 6 0 0), .tinkill (fc 0 6 0 0), .tinq (fc 4 6 0 0)] : List Instr).all (fun i =>
      ([64, 8, 0xFFFFFFFF] : List Word).all (fun v => okIn (tinned 0 i (setS 6 v)) i (fun e => decide (¬ ((e.sop 2 6).toNat < 64 ∧ (e.sop 2 6).toNat < e.wg.tins))))),
    ([0, 64] : List Word).all (fun total =>
      let i : Instr := .tininit (fc 10 6 7 1)
      let s := tinned 0 i (setS 6 3 ∘ setS 10 (32768 - 64) ∘ setS 11 64 ∘ setS 7 total)
      okIn s i (fun e => decide ((e.sop 2 6).toNat < e.wg.tins) && ((s.core e.core).tin 3).state == 0 && e.sopAt 0 10 1 != 0 &&
        decide ((e.sopAt 0 10 0).toNat + (e.sopAt 0 10 1).toNat ≤ ((s.core e.core).window e.wg .sbuf).2))),
    ([1, 2, 3] : List (BitVec 2)).all (fun st =>
      let i : Instr := .tinwait (fc 0 6 0 0)
      let s := tinned st i (setS 6 3)
      okIn s i (fun e => !((s.core e.core).tin 3).err && ((s.core e.core).tin 3).state == st && (e.flagOf i).isNone && !e.c.unsettled)),
    (let i : Instr := .tinwait (fc 0 6 0 0)
     let s := tinned 1 i (fun c => { setS 6 3 c with clause := c.clause.map (fun cl => { cl with header := cl.header ||| 0x800000 }) })
     okIn s i (fun e => !((s.core e.core).tin 3).err && ((s.core e.core).tin 3).state == 1 && (e.flagOf i).isSome)),
    (let i : Instr := .tinrel (fc 0 6 0 0)
     okIn (tinned 2 i (setS 6 3)) i (fun e => (e.sop 2 6) == 3)),
    ([0, 1, 2, 3] : List (BitVec 2)).all (fun st =>
      let i : Instr := .tinkill (fc 0 6 0 0)
      okIn (tinned st i (setS 6 3)) i (fun e => (e.sop 2 6) == 3)),
    (let i : Instr := .tinq (fc 4 6 0 0)
     okIn (tinned 1 i (setS 6 3)) i (fun e => (e.sop 2 6) == 3))].all id = true := by decide +kernel

/-- A remote operation's block: LADDR in the placed page, LEN 4, peer 5. -/
def remoteBlock : List Byte := bytesLE 8 0x11000 ++ bytesLE 8 0x40 ++ bytesLE 4 4 ++ bytesLE 2 5 ++ bytesLE 10 0
/-- A remote operation of coach (slot, k). -/
def remoteOp (slot k : Nat) (kind : Nat) : RemoteOp :=
  { id := 3, slot := slot, k := k, ctx := 0, kind := kind, ord := false, aop := 0, flight := 0, clock := 1, pb := 0x10200, laddr := 0x11000,
    raddr := 0x40, len := 4, peer := 5, psite := 0, ep := 0, operand := 0, since := 0, heard := false, rerouted := false }
def launching (qsel : BitVec 4) (esize : Nat) (free : Word) : State :=
  let q : Qcb :=
    { magic := qcbMagic, ctl := BitVec.ofNat 32 (esize * 65536 + 0x340), head := 0, tail := 8 - free, free := free, dbase := 0x10400, pclk := 0,
      cclk := 0, cwait := 0, pwait := 0, check := 0, crc := 0 }
  withBytes 0x10200 q.toBytes (withBytes 0x10300 (bytesLE 8 0x10200) (testWith (codeOf (.launchI (fc 4 8 0 qsel))) (setS 4 0x10300)))
def launchTries (s : State) (i : Instr) (p : LaunchTry → Bool) : Bool :=
  okIn s i (fun e => match readBlock e (e.sop64 0 4) 64 64 s with | (.ok bs, s1) => p (tryLaunch e.core e.site e.acc e.ref bs s1) | _ => false)
/-- EngineTransfers: QFENCE of no queue and of the first and the last, each remote operation, RFLUSH with nothing queued and with
something, LAUNCH enqueued, and on a full queue with and without a wait. -/
theorem meets_EngineTransfers : [
    ([0, 0x8001] : List Word).all (fun v => ok (.qfence (fc 0 0 6 0)) (setS 6 v) (fun e => e.sop 3 6 == v && decide (v.toNat < 2 ^ 16) &&
      (List.range 16).all (fun q => (((testState 0).site 0).queue q).isEmpty))),
    ([(0, .rput (fc 4 0 0 0)), (1, .rget (fc 4 0 0 1)), (2, .ratom (fc 4 0 0 0))] : List (Nat × Instr)).all (fun p =>
      let s := withBytes 0x10200 remoteBlock (testWith (codeOf p.2) (setS 4 0x10200))
      okIn s p.2 (fun e =>
        match readBlock e (e.sop64 0 4) 32 32 s with
        | (.ok bs, s1) => remoteOk p.1 bs && (xlateParts (some e.core) e.site e.ctx (if p.1 = 0 then .read else .write)
            (pageParts (fieldLE bs 16 4 / 65536 + 2) (dword64 bs 0) (fieldLE bs 16 4)) s1).1.toOption.isSome
        | _ => false)),
    ok (.rflush (fc 0 0 0 0)) id (fun _ => ((testState 0).site 0).remotes.isEmpty),
    (let s := testState (codeOf (.rflush (fc 0 0 0 0)))
     okIn (s.setSite 0 { s.site 0 with remotes := [remoteOp 0 0 0] }) (.rflush (fc 0 0 0 0)) (fun e => (remoteOp 0 0 0).slot == e.ref.slot && e.ref.k == 0)),
    launchTries (launching 0 64 1) (.launchI (fc 4 8 0 0)) (fun r => match r with | .done _ _ => true | _ => false),
    (let i : Instr := .launchI (fc 4 8 0 0)
     let s := launching 0 64 1
     launchTries (s.setSite 0 { s.site 0 with remotes := [remoteOp 0 0 1] }) i
       (fun r => match r with | .busy => true | _ => false)),
    launchTries (launching 1 64 0) (.launchI (fc 4 8 0 1)) (fun r => match r with | .full _ => true | _ => false),
    launchTries (launching 0 64 0) (.launchI (fc 4 8 0 0)) (fun r => match r with | .full _ => true | _ => false)].all id = true := by decide +kernel

/-- The block of an all-reduce of two elements between this site and site 1. -/
def collBytes : List Byte :=
  bytesLE 8 0x11000 ++ bytesLE 8 0x12000 ++ bytesLE 4 2 ++ bytesLE 4 0x10000 ++ bytesLE 8 0x10300 ++ bytesLE 8 0x10400 ++ bytesLE 24 0
/-- CollectiveAcceptance: that block, its group at 0x10300. -/
theorem meets_CollectiveAcceptance :
    (let i : Instr := .coll (fc 4 0 0 0)
     let s := withBytes 0x10304 (bytesLE 4 0x10000) (withBytes 0x10200 collBytes (testWith (codeOf i) (setS 4 0x10200)))
     okIn s i (fun e =>
       match readBlock e (e.sop64 0 4) 64 64 s with
       | (.ok bs, s1) =>
         let b := CollBlock.ofBytes bs
         let gp := probeRange e .read b.group (4 * b.n) s1
         let z := xferCheck gp.2.1 (cleanParts e.core gp.2.1 gp.2.2)
         let s3 := z.2
         let g := groupWords (readParts s3 gp.2.1) b.n
         let me := memberWord s e.site
         let sp := probeRange e .read b.saddr (b.srcLen (g.idxOf me)) s3
         let dp := probeRange e .write b.daddr (b.dstLen (g.idxOf me)) sp.2.2
         let rp := probeRange e .write b.record (8 + b.n) dp.2.2
         b.ok && gp.1.isNone && z.1.isNone && g.all (fun w => decide (w.toNat < 2 ^ 22)) && (g.filter (fun w => w == me)).length == 1 &&
           (s3.site e.site).colls.isEmpty && sp.1.isNone && dp.1.isNone &&
           dp.2.1.all (fun p => paSpace p.1.x.pa == 0 && homeSite p.1.x.pa == e.site) && rp.1.isNone
       | _ => false)) = true := by decide +kernel

/-! Events of coaches, waits and scheduling. `at_ s a` is s with an event's operands. -/

def at_ (s : State) (a : EvArgs) : State := { s with arg := a }
def coachIs (s : State) (p : Coach → Bool) : Bool := match s.coach here with | some c => p c | none => false
def envIs (s : State) (p : Env → Bool) : Bool := match s.env here with | some e => p e | none => false
/-- The coach of a placed NOP, changed. -/
def with_ (f : Coach → Coach) : State := testWith 0 f
/-- At its header. -/
def atHdr (c : Coach) : Coach := { c with pc := placeVa, clause := none }
/-- In its handler with an escalated cause and no record (its pool had no room). -/
def escalated (c : Coach) : Coach := { inTrap cUNALIGNED c with escalated := some 0 }
def fetches (s : State) (p : Word → State → Bool) : Bool :=
  envIs s (fun e => e.atHeader && (match s.fetchWord here e.ctx e.c.pc with | (.ok h, s1) => p h s1 | _ => false))
/-- The words of the clause there can be fetched, and satisfy a test. -/
def words (s : State) (h : Word) (p : Bool → Bool) : Bool :=
  match (s.clauseWords here 0 placeVa (hdrCNT h)).1 with | .ok b => p b | .error _ => false
/-- CoachEvents: a good header and a bad one, the end of a flag wait, a trap pending, an asynchronous cause, an escalated coach that is
resumed, reflected with a handler and without, and killed, a retired coach, a slice's cycle, an operation performed, and a late one. -/
theorem meets_CoachEvents : [
    fetches (with_ atHdr) (fun h s1 => !headerBad h && words s1 h (fun b => !b)),
    fetches (withBytes placePa (bytesLE 4 0) (with_ atHdr)) (fun h _ => headerBad h),
    fetches (withBytes placePa (bytesLE 4 0xC2 ++ bytesLE 8 0xC0000000) (with_ atHdr)) (fun h s1 => !headerBad h && words s1 h id),
    coachIs (with_ (fun c => { c with state := .waitFlags })) (fun c => c.state == .waitFlags && c.clause.any (fun cl => !c.waiting cl.header)),
    coachIs (with_ (fun c => { c with pendTrap := some { cause := cSW_TRAP, addr := 5, mask := 1, entries := [], tpc := placeVa, clause := none } }))
      (fun c => c.pendTrap.isSome && !c.flights.any Flight.entry),
    envIs (with_ (fun c => { c with deadlineRisk := true })) (fun e => !e.c.inHandler && e.c.pendTrap.isNone && e.c.escalated.isNone &&
      e.wg.saving.isNone && !e.c.woken && e.c.state != .retired && e.c.nextAsync.isSome),
    envIs (with_ escalated) (fun e => e.c.escalated == some 0 && e.wg.saving.isNone && !e.c.flights.any Flight.entry &&
      (match ((with_ escalated).reload e 0).1 with | some c => targetOk c.tpc && c.tcause != cPREEMPT_NOTICE | none => false)),
    (let s := with_ (fun c => { escalated c with tpc := 0x10002 })
     envIs s (fun e => e.c.escalated == some 0 && (match (s.reload e 0).1 with | some c => !targetOk c.tpc | none => false))),
    envIs (handled (with_ escalated)) (fun e =>
      match (handled (with_ escalated)).reload e 0 with
      | (some c, s1) => ((s1.setCoach here c).handler e.site e.ctx c.tcause).1.isSome
      | _ => false),
    envIs (with_ escalated) (fun e =>
      match (with_ escalated).reload e 0 with | (some c, s1) => ((s1.setCoach here c).handler e.site e.ctx c.tcause).1.isNone | _ => false),
    coachIs (with_ (fun c => { c with state := .retired })) (fun c => c.state == .retired && c.flags.isEmpty),
    (let s := (testState 0).setCore 0 { (testState 0).core 0 with cycles := [(8, 16)] }
     Table.getD (s.core 0).cycles 0 0 != s.clk 0 + 1 && Table.getD (s.core 0).cycles 8 0 / 16 != s.clk 0 / 8 && decide (0 < s.sliceRate 0 0)),
    coachIs (with_ (fun c => { c with flights := [{ id := 0, word := 0, pc := 0, flag := none, entry := false, kind := .performed, pend := [], rep := none }] }))
      (fun c => (c.flights.find? (fun f => f.id == 0)).any (fun f => f.kind == .performed)),
    coachIs (with_ (fun c => { shadowing c with flights := [{ id := 0, word := 0, pc := 0, flag := none, entry := true, kind := .late, pend := [], rep := some ReplayEntry.empty }] }))
      (fun c => c.rq.isEmpty && c.state == .runnable && c.flights.all (fun f => f.id == 0 && f.kind == .late && f.rep.isSome))].all id = true := by decide +kernel

/-- A coach in a state with a wait. -/
def waiting (st : CoachState) (w : Wait) (c : Coach) : Coach := { c with state := st, wait := w }
/-- The placed state with a monitor entry at site 0. -/
def monitored (kind : MonKind) (f : Coach → Coach) : State :=
  let s := with_ f
  let m : MonEntry :=
    { slice := 0, pa := 0x10100, va := 0x10100, ctx := 0, slot := 0, k := 0, gid := 0, index := 0, kind := kind, deadline := 0, fired := false,
      absent := false }
  s.setSite 0 { s.site 0 with mon := [m] }
/-- WakeEvents: a barrier's release, a compare, a poll of each kind, the deadline of a WAITCT, a queue's waiter, the end of a sleep. -/
theorem meets_WakeEvents : [
    coachIs ((with_ (waiting .waitBar { Wait.none with joined := some 0, bar := some (1, 1) })).setBar 0 1 1 { e := 8, a := 0, g := 1, rclk := 0, m := 0 })
      (fun c => c.state == .waitBar &&
        ((with_ (waiting .waitBar { Wait.none with joined := some 0, bar := some (1, 1) })).setBar 0 1 1 { e := 8, a := 0, g := 1, rclk := 0, m := 0 }).barReady here c && c.wait.bar == some (1, 1)) && (with_ id).barCarried 1,
    coachIs (with_ (waiting .parkedMon { Wait.none with poll := some 0 })) (fun c => c.state == .parkedMon && c.wait.poll == some 0),
    (let s := monitored (.cmp 0 5 false) (waiting .parkedMon Wait.none)
     let s := s.setSite 0 { s.site 0 with mon := (s.site 0).mon.map (fun m => { m with fired := true }) }
     coachIs s (fun c => c.state == .parkedMon) && s.sites.any (fun x => x.2.mon.any (fun m => m.slot == 0 && m.k == 0 && !m.absent && m.fired))),
    (let s := monitored (.cmp 0 5 true) (waiting .parkedMon Wait.none)
     coachIs s (fun c => c.state == .parkedMon) && ((s.site 0).mon.find? (fun m => m.slot == 0 && m.k == 0 && !m.absent)).any
       (fun m => m.kind == .cmp 0 5 true && decide (m.deadline ≤ (s.waferTime 0).toNat))),
    (let s := monitored (.queue true) (waiting .parkedQueue Wait.none)
     ((s.site (homeSite 0x10100)).mon.filter (fun m => m.pa == 0x10100 && m.kind == .queue true)).head?.any (fun m => !m.absent)),
    coachIs (with_ (waiting .parkedQueue { Wait.none with poll := some 63 })) (fun c => c.state == .parkedQueue && c.wait.poll.isSome),
    (let s := with_ (waiting .parkedMon { Wait.none with deadline := some 0 })
     coachIs s (fun c => c.wait.deadline == some 0 && c.wait.poll.isNone) && !s.sites.any (fun x => !x.2.mon.isEmpty) &&
       decide (0 ≤ (s.time 0).toNat))].all id = true := by decide +kernel

/-- The placed state with its grid, and its workgroup, changed. -/
def withGrid (f : Grid → Grid) (s : State) : State := s.setGrid 0 (f placeGrid)
def withWg (f : Workgroup → Workgroup) (s : State) : State := match s.wg 0 with | some w => s.setWg 0 (f w) | none => s
def gridIs (s : State) (p : Grid → Bool) : Bool := match s.grid 0 with | some g => p g | none => false
/-- A grid of site 0 alone, with two workgroups of which one has started. -/
def twoWgs (g : Grid) : Grid := { g with sites := 1, xe := 2 }
/-- The same, its second workgroup wanting all of a core's SBUF, with no other core of the site that could give it: their typed buffers
are reserved. -/
def crowded (f : Grid → Grid) : State :=
  let s := withGrid (fun g => f { twoWgs g with sbuf := sbufBytes, xbuf := 4096 }) (testState 0)
  let full (n : Nat) : Core := { s.core n with resv := [{ gid := 9, xbase := 0, xsize := xbufBytes, wbase := 0, wsize := 0, abase := 0, asize := 0 }] }
  let s1 := (upFrom 1 31).foldl (fun t n => t.setCore n (full n)) s
  withWg (fun w => { w with gid := 5, ctx := 1, sbufSize := 128 }) (s1.setGrid 5 { placeGrid with ctx := 1, prio := 0 })
/-- The same, its first workgroup the grid's own and waiting. -/
def parkedIn (st : CoachState) (w : Wait) : State := withWg (fun g => { g with gid := 0, ctx := 0 }) ((crowded id).modCoach here (waiting st w))
def savedOne : SavedWg :=
  { gid := 0, index := 1, va := 0, size := 0, inPark := false, parked := false, oldCore := 0, oldSlot := 0, tinBase := 0, tins := 0, tinVa := 0, bars := [],
    coaches := [], mq := [], batches := [], halted := none, copies := [], copyHalt := [], colls := [], recs := [], typed := none, typedWord := 0, image := none, savedAt := 0, moveTo := none }
/-- A launch queue of context 0 at site 0 with one record, whose descriptor lies at 0x10600; `magic` makes it good or bad. -/
def launchQueue (magic : Nat) : State :=
  let s := testState 0
  let q : Qcb :=
    { magic := qcbMagic, ctl := 0x400340, head := 0, tail := 1, free := 7, dbase := 0x10400, pclk := 0, cclk := 0, cwait := 0, pwait := 0,
      check := 0, crc := 0 }
  let r := bytesLE 8 0x10200 ++ bytesLE 8 0x10600 ++ bytesLE 8 0 ++ bytesLE 8 0 ++ bytesLE 8 1 ++ bytesLE 8 0 ++ bytesLE 8 0x10700 ++ bytesLE 8 0
  let d := bytesLE 4 magic ++ bytesLE 4 8 ++ bytesLE 8 0x10000 ++ bytesLE 4 0x808 ++ bytesLE 44 0
  withBytes 0x10600 d (withBytes 0x10400 (bytesLE 8 2 ++ r) (withBytes 0x10200 q.toBytes (s.setWin 0 (offLAUNCH 0 0) 0x10200)))
def takes (s : State) (p : Grid × Option Nat × State → Bool) : Bool :=
  let me := (s.readyQueues 0).find? (fun q => q.1 == 0 && q.2.1 == 0)
  s.waitRecs.isEmpty && me.isSome && nextQueue (s.site 0).served (s.readyQueues 0) == me &&
    (match s.admission 0 with
      | some s0 =>
        match s0.openQcb none 0 0 (s0.win 0 (offLAUNCH 0 0)) .both with
        | (.ok (x, q), s1) =>
          match s1.deqAddrs none 0 (Acc.device 0 0) (s0.win 0 (offLAUNCH 0 0)) x q 1 with
          | (.ok [a], s2) => p ((s2.deqCommit x.pa q (s2.site 0).h [a]).checkRecord 0 0 0x10200 (s2.slotElem a 64) (s2.slotClock a))
          | _ => false
        | _ => false
      | none => false)
/-- SchedulingEvents, launches: a record that passes and one that is refused, the start of a workgroup in both placements, of a region. -/
theorem meets_SchedulingEvents_launch : [
    takes (launchQueue 0x4B445301) (fun k => k.2.1.isNone && k.2.2.waferFree k.1), takes (launchQueue 0) (fun k => k.2.1 == some 3),
    { testState 0 with waitRecs := [(queueKey 0 0 0, 7, placeGrid)] }.waferFree placeGrid,
    (let s := withGrid twoWgs (testState 0)
     gridIs s (fun g => g.status.isNone && s.firstInOrder 0 g && !s.returnWaits 0 g && s.admission g.ctx == some s && !g.tree && (s.heldReady 0 g).isNone &&
       decide (g.nextIndex < g.count) && g.cyclic.find? (s.siteRoom 0 g) == some 0 && g.siteStarted 0 &&
       (match s.bestCore (s.roomy 0 0 g) with | some best => (s.roomOn best 0 g).isSome && !s.departing best | none => false))),
    (let s := withGrid (fun g => { twoWgs g with stagger := true }) (testState 0)
     gridIs s (fun g => g.status.isNone && s.firstInOrder 0 g && !s.returnWaits 0 g && (s.heldReady 0 g).isNone && decide (g.nextIndex < g.count) &&
       g.cyclic.find? (s.siteRoom 0 g) == some 0 && !g.siteStarted 0)),
    (let s := withGrid (fun g => { twoWgs g with nextIndex := 2, held := [(1, 0)] }) (testState 0)
     gridIs s (fun g => g.status.isNone && s.firstInOrder 0 g && !s.returnWaits 0 g && s.heldReady 0 g == some (1, 0) &&
       (match s.bestCore (s.roomy 0 0 g) with | some best => (s.roomOn best 0 g).isSome && !s.departing best | none => false))),
    (let s := withGrid (fun g => { twoWgs g with tree := true }) (testState 0)
     let s := s.setCore 3 { s.core 3 with ranges := [{ gid := 0, lo := 1, hi := 2 }] }
     gridIs s (fun g => g.status.isNone && s.firstInOrder 0 g && !s.returnWaits 0 g && s.admission g.ctx == some s && g.tree && (s.rangeHead 3 0).isSome &&
       (s.roomOn 3 0 g).isSome && g.siteStarted 0 && g.siteSet.contains 0 && !s.departing 3)),
    (let s := withGrid (fun g => { twoWgs g with stagger := true }) (testState 0)
     gridIs s (fun g => g.stagger && !g.regions.contains 0 && g.regionList.contains 0 &&
       decide (g.t0 + 200 * (g.regionList.takeWhile (fun r => decide (r ≠ 0))).length ≤ (s.time g.site).toNat)))].all id = true := by decide +kernel
/-- SchedulingEvents, the rest: the end of a grid, preemption asked for, its notice over, saves and returns, migration, steals, priority,
quanta, parking, SBUF lent and wanted back. -/
theorem meets_SchedulingEvents_moves : [
    gridIs (withGrid (fun g => { g with retired := 1 }) (testState 0)) (fun g => decide (g.count ≤ g.retired)),
    ((testState 0).wg 0).any (fun w => !w.leaving),
    ((withWg (fun w => { w with noticeEnd := some 0, noticeLeft := [0] }) (testState 0)).wg 0).any (fun w => w.noticeEnd == some 0 && decide (0 ≤ (testState 0).now)),
    (let s := withWg (fun w => { w with saving := some 0 }) (testState 0)
     let t := (s.coachRefs 0).foldl (State.stopCoach false) ((s.coachRefs 0).foldl State.settleTrap s)
     !t.saveBusy 0 && !t.retiring 0 && (match t.wg 0 with | some w => w.saving.isSome && (t.grid w.gid).isSome | none => false) &&
       (((t.coachRefs 0).foldl State.restCoach t).wg 0).isSome),
    (let s := withWg (fun w => { w with saving := some 0 }) (testState 0)
     let s := s.setSite 0 { s.site 0 with remotes := [remoteOp 0 0 0] }
     ((s.coachRefs 0).foldl (State.stopCoach false) ((s.coachRefs 0).foldl State.settleTrap s)).saveBusy 0),
    (let s := { withGrid twoWgs (testState 0) with saved := [savedOne] }
     gridIs s (fun g => (s.canReturn savedOne 1).isSome && (s.admission g.ctx).isSome && s.firstInOrder 0 g && (s.nextReturn 0 g).map SavedWg.index == some 1 &&
       !s.departing 1 &&
       s.bestCore ((coresOf 0).filter (fun c => (s.canReturn savedOne c).isSome)) == some 1)),
    gridIs (testState 0) (fun g => g.siteSet.contains (siteOfCore 5) && ((testState 0).site 0).powered && (testState 0).coreMates 0 0 g == [0]),
    (let s := withGrid (fun g => { twoWgs g with tree := true }) (testState 0)
     let v := (lfsrStep (s.core 0).lfsr).toNat % 31
     (s.core 0).ranges.isEmpty && !(s.core 0).stealWait && decide ((s.core 0).misses < 31) &&
       s.grids.any (fun g => g.2.tree && g.2.status.isNone && (s.roomOn 0 g.1 g.2).isSome) && decide ((s.startHead (v + 1)).unstartedOf 0 [v + 1] ≤ 1) && v + 1 != 0 &&
       (let t := s.setCore (v + 1) { s.core (v + 1) with ranges := [{ gid := 0, lo := 2, hi := 9 }] }
        decide (1 < (t.startHead (v + 1)).unstartedOf 0 [v + 1]))),
    (let s := crowded (fun g => { g with prio := 1 })
     gridIs s (fun g => s.starved 0 g && (s.preemptPlan 0 g).isSome)),
    (let s := { (crowded id).setWin 0 offPLACE 0x10000 with now := 5000 }
     gridIs s (fun g => s.starved 0 g && (s.preemptPlan 0 g).isNone && (s.wg 0).any (fun w => s.sliceOver g (0, w)) &&
       (s.sliceVictims g).head?.map Prod.fst == some 0)),
    (let s := parkedIn .waitBar { Wait.none with joined := some 0, bar := some (5, 0) }
     gridIs s (fun g => s.unstarted 0 g && s.starved 0 g && !s.parkingNow 0 && s.lowestWg 0 Workgroup.parkable == some 0)),
    (let s := parkedIn .parkedMon Wait.none
     gridIs s (fun g => s.unstarted 0 g && s.starved 0 g && !s.parkingNow 0 && (s.lowestWg 0 Workgroup.parkable).isNone &&
       s.lowestWg 0 Workgroup.waitParkable == some 0)),
    (((testState 0).freeUnits 0).getLast?).any (fun u => !(testState 0).tinsIn 0 u),
    (let s := withGrid (fun g => { twoWgs g with sbuf := sbufBytes }) (testState 0)
     (List.range 64).any (s.needsUnit 1))].all id = true := by decide +kernel

/-! Events of upkeep, the host, the engines, power and the links. -/

/-- A register of site 0 set. -/
def win0 (l : List (Nat × DWord)) (s : State) : State := l.foldl (fun t p => t.setWin 0 p.1 p.2) s
/-- UpkeepEvents: a site with a workgroup, a walk, the deadline of a region and its commands, the four invalidations, writes, tests,
a hot bank and its return. -/
theorem meets_UpkeepEvents : [
    ((testState 0).siteClock 0).isSome,
    (let s := win0 [(offREX 3, 0x10000), (offREX 3 + 8, 0x10000)] State.reset
     let s := s.setSite 0 { s.site 0 with armed := 8 }
     s.rexPast 0 3 && !(s.site 0).expired.getLsbD 3),
    (let s := win0 [(offREX 3, 0x10000), (offREX 3 + 8, 0x10000), (offREX 5, 0x20000), (offREX 5 + 8, 0x10000), (offREXCMD, 0xD0)] State.reset
     let s := s.setSite 0 { s.site 0 with armed := 32 }
     (s.startCmd 0 offREXCMD 0xD0 2 []).rexRuns 0 3 1 && decide (s.rexBase 0 3 % 65536 = 0) && decide (s.rexLen 0 3 % 65536 = 0) && !s.rexPast 0 3 &&
       (List.range 16).all (fun j => j == 3 || !(s.site 0).armed.getLsbD j || !rangesMeet (s.rexBase 0 3) (s.rexLen 0 3) (s.rexBase 0 j) (s.rexLen 0 j))),
    (State.reset.startCmd 0 offREXCMD 0xE0 2 []).rexRuns 0 3 2 && !(State.reset.startCmd 0 offREXCMD 0xE0 2 []).rexPast 0 3,
    (List.range 4).all (fun kind => (State.reset.startCmd 0 offTLBINV (BitVec.ofNat 64 (4 * kind)) 2 []).invRuns 0 kind == some (BitVec.ofNat 64 (4 * kind))),
    !State.reset.pinned (some 0) (fun _ => true) && !State.reset.pinned none (fun _ => true) && !State.reset.pinnedCoded 0,
    (let s := testState 0
     s.fetching 0 0 (placeVa + 4) && (tlbFind (s.core 0).tlb 0 (placeVa + 4)).isNone && (tlbFind (s.site 0).tlb 0 (placeVa + 4)).isNone),
    ([0, 1, 16] : List Nat).all (fun n => decide (n * 8 % 8 = 0)),
    decide (paSpace 0x10000 ≤ 1) && (Buf.ofKind 1).isSome,
    (let s := State.reset.setSite 0 { State.reset.site 0 with testing := [(4, 7), (0, 7)] }
     (s.site 0).testing.contains (0, 7) && (s.site 0).testing.contains (4, 7) && !(s.core 1).deckOpen 3),
    decide (State.reset.tDram 0 ≤ 255) && (State.reset.site 0).spare.isEmpty && !State.reset.bankExempt 0 127 &&
      (State.reset.site 0).evac.isNone && (State.reset.win 0 offEVACCTL).getLsbD 1 && (coolestLayer [(1, 9)] [50, 40, 45, 45] == some 4) &&
      { State.reset with epol := 63 }.epol.getLsbD 3,
    (State.reset.startCmd 0 offEVACCTL 0x20 2 []).cmd 0 offEVACCTL == some 0x20].all id = true := by decide +kernel

/-- A state with port 0 up. -/
def hosted (s : State) : State := { s with ports := [(0, { up := true, gen3 := true, lanes := 16, mgmt := false })] }
/-- Every site's endpoint in service with device 7 as its peer, a command of CKPTCTL, and an empty checkpoint of pool 7. -/
def pooled (v : DWord) : State :=
  { (((List.range 64).foldl (fun (t : State) n => (t.setWin n offEPCFG 3).setWin n (offPEER 0) 0x400007) State.reset).startCmd 0 offCKPTCTL v 2 []) with
    pools := [(7, { mem := [], poison := [], saved := [], grids := [], ctxs := [], wideBars := [], given := [] })] }
/-- HostEvents: bring-up's stages and its failures, a trip, training, an access to each kind of memory, the host's queue, attestation,
both directions of a checkpoint. -/
theorem meets_HostEvents : [
    (let s := { State.reset with stage := 1 }
     !s.failBit && decide (s.stage < 6 ∧ s.powerAt ≤ s.now)),
    (let s := hosted { State.reset with stage := 5 }
     !s.failBit && s.ports.any (fun p => p.2.up) && decide (5 ≤ s.stage)),
    (let s := { State.reset with regionsOn := 1 }
     decide (s.tTrip 0 ≤ 255) && s.powered 0 && s.wgs.isEmpty),
    (let s := { State.reset with stage := 3, failBit := true }
     s.failBit && decide (s.stage < 6)),
    ([0x10000, 2 ^ 50 + 64] : List Nat).all (fun pa =>
      let s := { hosted (testState 0) with stripe := 2 ^ 26 }
      s.portCarries 0 pa && decide (pa < 2 ^ 52) && decide (paSpace pa ≤ 1) && s.paOk pa),
    (hosted State.reset).portCarries 0 (2 ^ 51) && paSpace (2 ^ 51) == 2,
    (State.reset.startCmd 0 offHQENQ 0x1000 0 []).cmd 0 offHQENQ == some 0x1000,
    (let s := win0 [(offATTCMD, 0x10000)] (testState 0)
     !(s.win 0 offATTCMD).getLsbD 0 && decide (0x10000 % 512 = 0) && decide ((s.win 0 offATTCMD).toNat % 2 ^ 52 = 0x10000) &&
       decide (paSpace 0x10000 ≤ 1) && s.paOk 0x10000),
    (let s := pooled 0x70000
     s.ckptRuns false && s.wgs.isEmpty && s.poolReached s.ckptPool),
    (let s := pooled 0x70004
     s.ckptRuns true && s.wgs.isEmpty && (Table.find s.pools s.ckptPool).isSome && s.poolReached s.ckptPool),
    (State.reset.startCmd 0 offCKPTCTL 0x70004 2 []).ckptRuns true && !State.reset.poolReached 7].all id = true := by decide +kernel

/-- The image that a module leaves reset with passes its check, and an image of three bytes that its key has signed. The vectors were made
with an independent program. -/
theorem meets_HostEvents_image : State.reset.imageOk State.reset.fwImage State.reset.fwSig = true ∧
    State.reset.imageOk [1, 2, 3] (numBytes 96 0x9E7E7B7ADB37F63E45659412C5637D82035472FB7B9F6EC430D72C55D18493446A3B8643943AD8431A007CF52A2F22BBA18258829EE89CC03DA7DFA7695667422F3E3BBB719D7BD167563EE9AC6341E8828012CDED26D7E80DF2343D61D57B7C ++ numBytes 96 0x594AAA36DC6BF0C3A570927F0493FABFC1493912A39BAECDA11D5FB0B782E305A4C5D1F6E62F72E8252C4DBDDB56BA71B7A864D452F38ECB2137A641C459F5D8D8FBF9A94C9EA99DA9C48ACA21A95FF8441E2AD80A08EB72BD9A9C0C2EA5D35A) = true := by
  refine ⟨?_, ?_⟩ <;> unfold State.imageOk <;>
    rw [show State.reset.fuseMin.toNat = 0 from rfl, decide_eq_true (Nat.zero_le _), Bool.and_true] <;> decide +kernel
/-- A byte more, and the signature is another image's. -/
theorem meets_HostEvents_badImage : ({ State.reset with stage := 0 }.imageOk [0] State.reset.fwSig) = false := by
  unfold State.imageOk
  rw [show (sha384 (State.reset.fwSig.take 96) == State.reset.fuseKey && ecdsaOk (State.reset.fwSig.take 96) (sha384 [0]) (State.reset.fwSig.drop 96)) = false from by decide +kernel, Bool.false_and]

/-- An operand in a core's buffers, and one that waits for tin 3. -/
def operand0 (gate : Option Nat) : MOperand :=
  { addr := 0, stride := 128, global := false, trans := false, gate := gate, rows := if gate.isSome then none else some [], side := [], lines := 0,
    pages := [], coded := false }
def mEntry (op : MOp) (consumed : Bool) : MEntry :=
  { id := 3, slot := 0, k := 0, ctx := 0, gid := 0, batch := 0, flight := 0, clock := 1, pc := 0, op := op, err := none, after := [], blocks := 0,
    consumed := consumed }
def queuedM (m : MEntry) : State :=
  let s := testState 0
  s.setCore 0 { s.core 0 with mq := [m] }
/-- EngineEvents, the array: a turn, the end of an MMA, an error, the end of a batch, a gate with its tin FREE. -/
theorem meets_EngineEvents_array : [
    (let s := queuedM (mEntry (.aczero 1) false)
     !(s.core 0).frozen && (s.nextEntry 0 (s.core 0).mq []).isSome),
    ((queuedM (mEntry (.mma 0 0 false 0 (operand0 none) (operand0 none)) true)).entryById 0 3).any (fun m => m.consumed),
    (let s := queuedM { mEntry (.mma 0 0 false 0 (operand0 none) (operand0 none)) false with err := some (7, 0x33, 0x10100) }
     (s.entryById 0 3).any (fun m => s.entryFault 0 m == some (7, 0x33, 0x10100))),
    ((queuedM (mEntry .close true)).entryById 0 3).any (fun m => m.op == .close && m.consumed),
    (let m := mEntry (.mma 0 0 false 0 (operand0 (some 3)) (operand0 none)) false
     let s := queuedM m
     (s.entryById 0 3).any (fun m => m.err.isNone) && (gateOperand s 0 m 0 .xbuf (operand0 (some 3))).2.1.isNone &&
       (gateOperand s 0 m 0 .wbuf (operand0 none)).2.1.isNone)].all id = true := by decide +kernel

/-- A copy of site 0's queue 0 of one row of 128 bytes; ctl 0x44 takes it from XBUF to WBUF. -/
def copyEntry (kind : CopyKind) (ctl : Nat) (started : Bool) (done : Nat) : CopyEntry :=
  { id := 3, kind := kind, slot := 0, k := 0, ctx := 0, gid := 0, seq := 0, pb := 0x10200,
    params := bytesLE 8 0 ++ bytesLE 8 0 ++ bytesLE 4 1 ++ bytesLE 4 128 ++ bytesLE 8 0 ++ bytesLE 4 ctl ++ bytesLE 4 1 ++ bytesLE 24 0,
    dtin := none, stin := none, clock := 1, arrivals := [{ k := 0, flight := 0 }], fmt := none, started := started, done := done, flying := [],
    after := [], paused := false, treg := 0x80000000, areg := 0x80000000, away := [], err := none }
def copying (c : CopyEntry) : State :=
  let s := testState 0
  s.setSite 0 { s.site 0 with copyq := [(0, [c])] }
/-- EngineEvents, copies: a start, a joint start, a chunk between two buffers, a packet delivered, an acknowledgement, an error. -/
theorem meets_EngineEvents_copies : [
    (let s := copying (copyEntry .cpy 0 false 0)
     ((s.site 0).headOf 0).any (fun c => (s.wg c.slot).any (fun w => decide (c.arrivals.length = w.ncoach)) && !c.started && !c.paused)),
    (let s := copying (copyEntry .cpym 0 false 0)
     ((s.site 0).headOf 0).any (fun c => (s.wg c.slot).isSome && !c.started && !c.paused)),
    (let s := copying (copyEntry (.join 5 1) 0 false 0)
     ((s.site 0).headOf 0).isSome && joinReady (s.site 0) 5 1),
    (let s := copying (copyEntry .cpy 0x32 true 0)
     ((s.site 0).headOf 0).any (fun c =>
       let len := min 4096 (c.total - c.done)
       let c1 := { c with done := c.done + len }
       let u := s.setSite 0 { s.site 0 with turn := [(0, 0)] }
       s.engineTurn 0 0 == some 0 && (c.abufPieces (c.chunkAt c.done)).isEmpty && (u.chunkSite 0 c c.done).isNone && c.dtin.isNone &&
         (match c1.movePieces 0 (c1.chunkAt c.done) u with | (.ok _, _) => true | _ => false))),
    (let s := copying { copyEntry .cpy 0x32 true 128 with away := [0] }
     (((s.site 0).queue 0).find? (fun c => c.away.contains 0 && c.err.isNone && !c.paused)).isSome &&
       (List.range 64).all (fun e => !s.carries e (.chunk 0 3 0))),
    (let s := copying (copyEntry .cpym 0 true 128)
     ((s.site 0).headOf 0).any (fun c => c.started && c.err.isNone && decide (c.total ≤ c.done) && c.flying.isEmpty)),
    (((copying { copyEntry .cpy 0 true 0 with err := some (0, 5, 0x10, 0x11000) }).site 0).queue 0).find? (fun c => c.id == 3) |>.any (fun c => c.err.isSome),
    (let s := copying { copyEntry .cpym 0 true 128 with flying := [{ seq := 0, core := 1, parts := [(0, [1, 2])] }] }
     !(s.inFlight 0 0 (fun p => p.core == 1)).isEmpty)].all id = true := by decide +kernel

/-- An all-reduce of site 0 with a second participant, site 1 of this device or site 0 of device 9. -/
def collOf (other : Word) (me : Nat) (headers : List Nat) (shares : Table (List Byte)) : Coll :=
  { slot := 0, k := 0, ctx := 0, gid := 0, flight := 0, clock := 1, pb := 0x10200, block := collBytes, group := [0, other], index := me,
    headers := headers, mismatch := false, order := headers, shares := shares, sent := [(0, 8), (1, 8), (257, 4)], failed := none }
def colls (a b : List Coll) (s : State) : State := (s.setSite 0 { s.site 0 with colls := a }).setSite 1 { s.site 1 with colls := b }
/-- EngineEvents, collectives and remote operations: the exchange with another device and with a site of this one, a chunk, a mismatch, an
end; an operation acknowledged and refused, and one that has waited long enough. -/
theorem meets_EngineEvents_remote : [
    (let s := colls [collOf 9 0 [0] []] [] (testState 0)
     (s.collAt 0 0).any (fun k => !k.headers.contains 1 && decide (1 < k.group.length) && (k.localSite s 1).isNone)),
    (let s := colls [collOf 0x10000 0 [0] []] [collOf 0x10000 1 [1] []] (testState 0)
     (s.collAt 0 0).any (fun k => !k.headers.contains 1 && decide (1 < k.group.length) && k.localSite s 1 == some 1 && (s.collAt 1 0).isSome)),
    (let s := colls [collOf 0x10000 0 [0, 1] []] [collOf 0x10000 1 [1, 0] []] (testState 0)
     (s.collAt 0 0).any (fun k => s.allReady k && k.failed.isNone && k.localSite s 1 == some 1)),
    ((colls [{ collOf 9 0 [0] [] with mismatch := true }] [] (testState 0)).collAt 0 0).any (fun k => k.mismatch),
    (let k := collOf 9 0 [0, 1] [(0, List.replicate 8 0), (1, List.replicate 8 0), (257, List.replicate 4 0)]
     let s := colls [k] [] (testState 0)
     (s.collAt 0 0).any (fun k => !k.mismatch && k.failed.isNone && k.ready && k.whole && k.spent && !s.collLost 0 k &&
       (writeGlob 0 k.acc (granuleParts (k.result.length + 1) k.blk.daddr k.result.length) k.result (s.orStatus 0 k.ctx k.flags)).1.isNone)),
    (let o := remoteOp 0 0 1
     let s := { win0 [(offEPCFG, 3), (offPEER 0, 0x400005)] (testState 0) with epol := 1 }
     let r := { o with kind := 0 }
     let s := s.setSite 0 { s.site 0 with remotes := [o] }
     s.failRoom o && !o.ord && !o.heard && s.sentWhole 0 o && !s.timedOut 0 o && (s.win 0 offEPCFG).getLsbD 0 && s.connRoom 0 o.conn && s.transport 0 o.peer 0 == some 1 && o.kind != 0 &&
       (match readGlob 0 r.acc (granuleParts (r.len + 1) r.laddr r.len) s with | (.ok _, _) => true | _ => false) &&
       (writeGlob 0 o.acc (granuleParts (o.len + 1) o.laddr o.len) (padTo o.len [1, 2, 3, 4]) s).1.isNone &&
       { s with now := 10 ^ 9 }.timedOut 0 o)].all id = true := by decide +kernel

/-- A core of region 0 that waits for a ramp from level 0. -/
def ramping : State := { State.reset.setCore 0 { State.reset.core 0 with rampWait := true, cycles := [] } with now := 10 }
/-- A site's register that says a compute island moves, from point 3 to 5. -/
def moving : State := win0 [(offISLPT, 0x40053755)] State.reset
/-- PowerEvents: a ramp granted and denied, the levels of a ramp and of ballast, a step, a throttle's end, a deck throttled and back, a write of
DSTAT, a sample, an island told, switched and arrived, a hot stack, an idle slice, a record of the crossings, a hot core. -/
theorem meets_PowerEvents : [
    (let asks (s : State) : Bool := decide ((s.region 0).step = s.regionStep 0) && s.asksNow 0 && (s.region 0).throttleEnd.isNone &&
       !s.cores.any (fun x => regionOf (siteOfCore x.1) == 0 && x.1 != 0 && s.asksNow x.1 && (s.region 0).before x.1 0)
     let s := ramping
     let t := s.setRegion 0 { s.region 0 with granted := 125 }
     asks s && decide (8 - (s.core 0).level ≤ (s.region 0).csl.toNat % 2 ^ 16) && asks t &&
       decide (¬ (t.region 0).granted + (8 - (t.core 0).level) ≤ (t.region 0).csl.toNat % 2 ^ 16)),
    (let s := { State.reset with now := 500 }
     decide ((s.region 0).step ≠ s.regionStep 0) && decide ((s.region 15).step ≠ s.regionStep 15)),
    (let s := (({ State.reset with now := 5000 } : State)).setRegion 0 { State.reset.region 0 with throttleEnd := some 2000 }
     (s.region 0).throttleEnd.any (fun d => decide (d ≤ s.regionTime 0))),
    decide (State.reset.tDeck 0 ≤ 255) && { State.reset with epol := 63 }.epol.getLsbD 2 && State.reset.deck 0 3 == 0,
    (let s := win0 [(offDSTAT 0, 1)] State.reset
     s.deck 0 0 == 1 && decide (6 < s.tDeck 0) &&
       ([0, 1] : List Nat).all (fun v => (List.range 4).all (fun d => decide ((v / 2 ^ (2 * d) % 4 = 0 ∧ s.deck 0 d ≠ 0) ∨
         (v / 2 ^ (2 * d) % 4 = 1 ∧ (s.core 0).deckOpen d = false) ∨ v / 2 ^ (2 * d) % 4 = s.deck 0 d)))),
    (let st : OpenStep :=
       { slot := 0, k := 0, ctx := 0, va := 0x10200, deadline := 0, work := 0, sites := 0, post := false, progress := 0, risk := false, riskCnt := 0,
         opened := 0, openClk := 0, energy0 := 0, choose := none, sampled := none }
     let s := State.reset.setSite 0 { State.reset.site 0 with steps := [st] }
     (s.findStep { slot := 0, k := 0 }).any (fun x => decide ((s.time x.1).toNat % 1000 = 0) && x.2.sampled != some (s.time x.1))),
    (State.reset.findStep { slot := 0, k := 0 }).isNone && decide ((State.reset.time 0).toNat % 1000 = 0),
    (let s := { moving with now := 10 }
     let s := s.setSite 0 { s.site 0 with mail := [(12, 0, 0)] }
     islMOVING (s.win 0 offISLPT) && decide (0 < s.clk 0)),
    (let s := { State.reset.setSite 0 { State.reset.site 0 with mail := [(12, 0, 0)] } with now := 10 }
     !islMOVING (s.win 0 offISLPT) && islCUR (s.win 0 offISLPT) != 12 && decide (0 < s.clk 0)),
    ([2, 14] : List Nat).all (fun p =>
      let s := moving.setWin 0 offISLPT (setFld (moving.win 0 offISLPT) 16 4 p)
      islMOVING (s.win 0 offISLPT) && !(s.site 0).switched && decide ((s.site 0).moveAt ≤ s.now) &&
        decide (rampNs p (islCUR (s.win 0 offISLPT)) = 0) == decide (p = 14)),
    !State.reset.granting 0,
    !(moving.site 0).switched && decide ((moving.site 0).moveAt ≤ moving.now) && decide ((State.reset.core 0).slewAt ≤ State.reset.clk 0),
    (let s := moving.setSite 0 { moving.site 0 with switched := true }
     islMOVING (s.win 0 offISLPT) && (s.site 0).switched && decide ((s.site 0).moveAt ≤ s.now) && !(s.win 0 offISLPT).getLsbD 29),
    { State.reset with epol := 63 }.epol.getLsbD 5 && decide ((State.reset.site 0).thermAt ≤ State.reset.now) && decide (State.reset.tStack 0 ≤ 255),
    (let s := { win0 [(offSLRATIO 0, 0x40000)] State.reset with now := 10 ^ 6 }
     (s.win 0 (offSLRATIO 0)).getLsbD 18 && s.wgs.isEmpty && decide (Table.getD (s.core 0).cycles 24 0 + 1000 ≤ s.now)),
    (let s := win0 [(offBLTADDR, 0x10000)] State.reset
     let pa := (s.win 0 offBLTADDR).toNat % 2 ^ 52
     paSpace pa == 0 && homeSite pa == 0 && decide (pa % 128 = 0) && s.paOk pa),
    (let s := win0 [(offPLACE, 90)] State.reset
     decide (s.tHot 0 ≤ 95) && decide (80 + 6 < s.tHot 0))].all id = true := by decide +kernel

/-- Site 0 with its link 0 changed, and registers set. -/
def linked (f : Link → Link) (l : List (Nat × DWord)) : State :=
  let s := win0 l State.reset
  s.setLink 0 0 (f (s.link 0 0))
def upAll : DWord := 0xFF000002
/-- LinkEvents: a packet and an acknowledgement, the narrowing of a direction in both outcomes, its widening, one-way light and its end, the
laser's states, a lock that stays away, a slot that opens on a wrong identity and ends, a link's acknowledgement. -/
theorem meets_LinkEvents : [
    (let s := win0 [(offEPCFG, 1)] State.reset
     (s.win 0 offEPCFG).getLsbD 0 && s.connRoom 0 9 && s.connRoom 0 8 && decide ((255 - (s.conn 0 9).rxCum : Word).toNat < 256) &&
       !(s.conn 0 9).rxMap.getLsbD 255 && decide (256 ≤ (256 - (s.conn 0 9).rxCum : Word).toNat)),
    (let s := State.reset.setConn 0 9 { Conn.fresh with nextPsn := 4 }
     (Table.find (s.site 0).conns 9).any (fun c => decide ((2 - c.cumAck : Word).toNat ≤ (c.nextPsn - c.cumAck).toNat))),
    (let s := { linked (fun l => { l with unhealthy := 0x10 }) [(offLSTAT 0 1, upAll)] with epol := 63 }
     (s.link 0 0).newLanes.isEmpty && lsSTATE (s.lstat 0 0 1) == 2 && lsLANES (s.lstat 0 0 1) &&& (s.link 0 0).unhealthy.toNat != 0 && s.epol.getLsbD 1 &&
       (healthyGroup (s.link 0 0).unhealthy.toNat).isSome),
    (let s := linked (fun l => { l with unhealthy := 0xFF }) [(offLSTAT 0 1, upAll)]
     lsSTATE (s.lstat 0 0 1) == 2 && lsLANES (s.lstat 0 0 1) &&& (s.link 0 0).unhealthy.toNat != 0 && (healthyGroup (s.link 0 0).unhealthy.toNat).isNone),
    (let s := linked id [(offLSTAT 0 0, 0x0F000002), (offLSTAT 0 1, 0x03000002)]
     lsSTATE (s.lstat 0 0 0) == 2 && lsLANES (s.lstat 0 0 0) &&& 255 == lsLANES (s.lstat 0 0 0) && lsSTATE (s.lstat 0 0 1) == 2 &&
       lsLANES (s.lstat 0 0 1) &&& 15 == lsLANES (s.lstat 0 0 1) && 15 &&& (s.link 0 0).unhealthy.toNat == 0),
    (let s := linked id [(offLSTAT 0 1, upAll), (offOHEALTH 0 2, 1)]
     lsSTATE (s.lstat 0 0 1) == 2 && (s.link 0 0).peerLp == 0 && bitN (lsLANES (s.lstat 0 0 1)) 2 && decide (s.lockOf 0 0 2 < 2)),
    (let s := linked (fun l => { l with newLanes := [(0, (15, true)), (1, (255, false))] }) [(offLSTAT 0 0, 0xFF000003), (offLSTAT 0 1, 0x0F000003)]
     Table.find (s.link 0 0).newLanes 0 == some (15, true) && Table.find (s.link 0 0).newLanes 1 == some (255, false) &&
       lsSTATE (s.lstat 0 0 0) == 3 && lsSTATE (s.lstat 0 0 1) == 3),
    ((linked (fun l => { l with peerLp := 1 }) []).link 0 0).peerLp != 0,
    (let s := linked (fun l => { l with onewayEnd := some 0, relightEnd := some 0 }) [(offLSTAT 0 1, 0xFF000004), (offOHEALTH 0 2, 1)]
     (s.link 0 0).onewayEnd.any (fun d => decide (d ≤ s.now)) && lsSTATE (s.lstat 0 0 1) == 4 &&
       (s.link 0 0).relightEnd.any (fun d => decide (d ≤ s.now)) && decide (s.lockOf 0 0 2 < 2)),
    (let s := linked id [(offLPCTL 0, 2)]
     s.lpCur 0 0 != 3 && decide ((s.win 0 (offLPCTL 0)).toNat % 4 < 3) && decide (s.lpCur 0 0 ≠ (s.win 0 (offLPCTL 0)).toNat % 4)),
    (let s := (linked id [(offLPCTL 0, 0x112)]).setConn 0 9 { Conn.fresh with unsent := [(.piece 0 1, 256)] }
     s.lpCur 0 0 == 1 && (s.win 0 (offLPCTL 0)).getLsbD 8 && (s.site 0).conns.any (fun c => !c.2.unsent.isEmpty)),
    (linked id [(offLPCTL 0, 0x30)]).lpCur 0 0 == 3,
    (let s := linked (fun l => { l with granted := [(7, 1, 0)] }) []
     (s.link 0 0).slotNo.isNone && (s.link 0 0).granted.any (fun g => g.1 == 7 && decide (g.2.2 ≤ s.now)) && !s.identityOk 0 7 1 0 0 []),
    ((linked (fun l => { l with slotNo := some 7, unlocked := true }) []).link 0 0).slotNo.isSome,
    (let s := linked (fun l => { l with seq := 20, acked := 4, unlocked := true }) [(offLSTAT 0 1, upAll)]
     s.acksHeard 0 0 && (s.link 0 0).unlocked && decide ((20 - (s.link 0 0).acked : BitVec 16).toNat ≤ ((s.link 0 0).seq - (s.link 0 0).acked).toNat))
    ].all id = true := by decide +kernel
/-- The identity that the slot's entry expects, under any link key. -/
theorem meets_LinkEvents_identity :
    let s := linked (fun l => { l with granted := [(7, 1, 0)] }) [(offEXPECT 7, 0x55), (offEXPECT 7 + 8, 0x8000000000000203)]
    (s.link 0 0).slotNo = none ∧ (∃ g ∈ (s.link 0 0).granted, g.1 = 7 ∧ g.2.2 ≤ s.now) ∧ s.identityOk 0 7 0x55 3 2 (s.identityTag 0 0x55 3 2 7) = true := by
  refine ⟨by decide +kernel, ⟨(7, 1, 0), by decide +kernel⟩, ?_⟩
  unfold State.identityOk
  rw [beq_self_eq_true, Bool.and_true]
  decide +kernel


/-! Encoding, registers and the step. -/

/-- EncodingRoundTrip and DecodingIsExact: a word of a well-formed instruction, one of an ill-formed one, and one of none. -/
theorem meets_Encoding : encode (.iadd (rr false 0 3 4 5)) = some 0x01003105 ∧ (Instr.iadd (rr false 0 3 4 5)).fieldsOk = true ∧
    (Instr.nop (rr false 0 3 0 0)).fieldsOk = false ∧ (encode (.nop (rr false 0 3 0 0))).isSome = true ∧ parse 0x0E000000 = none ∧
    parse 0xE2000000 = none := by decide
/-- RegistersAndHazards: registers with a pending write and without. -/
theorem meets_RegistersAndHazards : (pending.pendOf false 4 1).isSome = true ∧ (pending.pendOf true 6 0).isSome = true ∧
    (pending.pendOf false 4 2).isNone = true ∧ (pending.pendOf true 7 0).isNone = true := by decide
/-- StepRunsDecoded: a coach about to execute a word, and one of no instruction. -/
def stepsWord (w : Word) (known : Bool) : Bool :=
  let t := testState w
  { testState w with issue := [here] }.agenda.isEmpty && (match t.env here with
    | some e => e.c.escalated.isNone && e.wg.saving.isNone && e.c.pendTrap.isNone && e.c.state == .runnable && e.c.nextAsync.isNone && !e.c.reconv &&
        e.replay.isNone && !e.c.woken && e.c.openClause.isSome && t.octetsFree e.ref e.wg e.c && (match t.fetchWord here e.ctx e.c.pc with | (.ok x, _) => x == w && (parse x).isSome == known | _ => false)
    | none => false)
theorem meets_StepRunsDecoded : stepsWord 0x01003105 true = true ∧ stepsWord 0x0E000000 false = true ∧
    (envIs (testWith 0xC0000000 (fun c => { c with clause := some { header := 2, next := 0, guard := 0 } })) (fun e => !e.last && e.c.openClause.isSome)) = true ∧
    envIs (with_ (fun c => { c with wait := { Wait.none with word := some 0x54000000 } })) (fun e => e.replay.isNone && e.c.woken && e.c.nextAsync.isNone &&
      (e.c.wait.word.bind parse).isSome) = true ∧
    envIs (with_ (fun c => { c with rq := [{ ReplayEntry.empty with word := 0x72080000, mask := 2 }] })) (fun e =>
      e.replay.any (fun en => (parse en.word).isSome) && e.c.nextAsync.isNone) = true ∧
    (State.reset.untilDue.isNone && State.reset.autoCores.isEmpty) = true ∧
    (let s := { State.reset.setSite 0 { State.reset.site 0 with stale := true } with now := 400 }
     s.untilDue == some 600 && s.autoCores.isEmpty) = true := by
  refine ⟨?_, ?_, ?_, ?_, ?_, ?_, ?_⟩ <;> decide +kernel
/-- StepNeverStops and StepKeepsInvariant: the states that a word was placed in, and one with an event to come, whose step goes on. -/
theorem meets_StepInvariant : Memory.wf State.reset.mem = true ∧ (State.reset.withFetchWord 32 0x01003105).agenda = [] ∧
    Memory.wf (State.reset.withFetchWord 32 0x01003105).mem = true ∧ stepGoesOn 0x01003105 = true ∧
    (Event.mk .kill EvArgs.zero).op.isEvent = true := by decide +kernel
/-- NanAndFlagRules: a format named, a value above the largest finite one, a status word that can be written, one that cannot, and none. -/
theorem meets_NanAndFlagRules : fp16 ∈ [fp32, fp64, fp16, bf16] ∧ lead fp16.maxM fp16.maxE < lead 1 20 ∧
    (let s := testState 0
     let at_ (va : DWord) : State := s.setContext 0 { s.context 0 with ctxsave := va }
     ((at_ 0).context 0).ctxsave = 0 ∧
     (match (at_ 0x1000).devAddr 0 0 0x11000 4 Need.both with | (.ok x, _) => x.pa == 0x11000 | _ => false) = true ∧
     (match (at_ 0x100000).devAddr 0 0 0x110000 4 Need.both with | (.error c, _) => c == cXLATE_NOTPRESENT | _ => false) = true) := by
  refine ⟨?_, ?_, ?_⟩ <;> decide +kernel
end Sys2Proof.Tests
end

section
namespace Sys2Proof.Machine

/-! The invariant (R8, R266) and how it passes through folds, matches, conditionals and the agenda. -/

/-- Memory is canonical and the agenda holds only events. -/
structure State.Sound (s : State) : Prop where
  canonical : s.Canonical
  agenda : s.AgendaOk

/-- The invariant holds of the state in which an instruction leaves the machine. -/
def SoundNext (o : Host.Outcome State Fault Refusal) : Prop := ∀ t, o = .next t → t.Sound

/-- The invariant holds of the state in which a turn goes on. -/
def Turn.Sound : Turn → Prop
  | .run _ s => s.Sound
  | .done s => s.Sound

/-- The invariant holds of the state that an attempt to launch has reached. -/
def LaunchTry.Sound : LaunchTry → Prop
  | .done _ s | .stop _ s | .full s => s.Sound
  | .busy => True

variable {s t : State} {α β : Type}

/-- A change of other fields keeps the invariant. -/
theorem State.Sound.frame (h : s.Sound) (hm : t.mem = s.mem) (ha : t.agenda = s.agenda) : t.Sound :=
  ⟨by rw [State.Canonical, hm]; exact h.canonical, by rw [State.AgendaOk, ha]; exact h.agenda⟩

/-- So does a store. -/
theorem State.Sound.store {pa : Nat} {bs : List Byte} (h : s.Sound) (hm : t.mem = Memory.writeN s.mem pa bs)
    (ha : t.agenda = s.agenda) : t.Sound :=
  ⟨by rw [State.Canonical, hm]; exact writeN_wf bs s.mem pa h.canonical, by rw [State.AgendaOk, ha]; exact h.agenda⟩

theorem State.Sound.frameMem (h : s.Sound) (hm : Memory.wf t.mem = true) (ha : t.agenda = s.agenda) : t.Sound :=
  ⟨hm, by rw [State.AgendaOk, ha]; exact h.agenda⟩

theorem wf_foldl {l : List α} {f : Memory → α → Memory} {m : Memory} (h : Memory.wf m = true)
    (hf : ∀ m a, Memory.wf m = true → Memory.wf (f m a) = true) : Memory.wf (l.foldl f m) = true :=
  List.foldlRecOn l f (motive := fun m => Memory.wf m = true) h (fun m hm a _ => hf m a hm)

/-- The state of a result that a match has named. -/
theorem State.Sound.of_eq {p : α × State} {a : α} (h : p.2.Sound) (e : p = (a, t)) : t.Sound := by
  rw [e] at h
  exact h

theorem State.Sound.of_eq₂ {p : α × β × State} {a : α} {b : β} (h : p.2.2.Sound) (e : p = (a, b, t)) : t.Sound := by
  rw [e] at h
  exact h

theorem LaunchTry.Sound.of_done {o : LaunchTry} {x : Word} (h : o.Sound) (e : o = .done x t) : t.Sound := by
  rw [e] at h
  exact h

theorem LaunchTry.Sound.of_stop {o : LaunchTry} {q : QStop} (h : o.Sound) (e : o = .stop q t) : t.Sound := by
  rw [e] at h
  exact h

theorem LaunchTry.Sound.of_full {o : LaunchTry} (h : o.Sound) (e : o = .full t) : t.Sound := by
  rw [e] at h
  exact h

theorem State.Sound.foldl {l : List α} {f : State → α → State} (h : s.Sound) (hf : ∀ t a, t.Sound → (f t a).Sound) :
    (l.foldl f s).Sound :=
  List.foldlRecOn l f h (fun t ht a _ => hf t a ht)

theorem State.Sound.foldlSnd {l : List α} {f : β × State → α → β × State} {p : β × State} (h : p.2.Sound)
    (hf : ∀ q a, q.2.Sound → (f q a).2.Sound) : (l.foldl f p).2.Sound :=
  List.foldlRecOn l f (motive := fun q => q.2.Sound) h (fun q hq a _ => hf q a hq)

/-- New events must be operations of the device. -/
theorem State.Sound.later {es : List Event} (h : s.Sound) (he : ∀ ev ∈ es, ev.op.isEvent = true) : (s.later es).Sound :=
  ⟨h.canonical, fun ev hev => (List.mem_append.mp hev).elim (h.agenda ev) (he ev)⟩

theorem State.Sound.laterOne {op : Instr} {a : EvArgs} (h : s.Sound) (ho : op.isEvent = true) : (s.later [⟨op, a⟩]).Sound :=
  h.later (by simp [ho])

theorem State.Sound.laterMap {op : Instr} {l : List α} {f : α → EvArgs} (h : s.Sound) (ho : op.isEvent = true) :
    (s.later (l.map (fun x => ⟨op, f x⟩))).Sound :=
  h.later (by simp [ho])

theorem State.Sound.reset : State.reset.Sound := ⟨rfl, fun _ h => (List.not_mem_nil h).elim⟩

theorem State.Sound.startCmd {n off : Nat} {v done : DWord} {es : List Event} (h : s.Sound)
    (he : ∀ ev ∈ es, ev.op.isEvent = true) : (s.startCmd n off v done es).Sound :=
  State.Sound.later (h.frame rfl rfl) he

theorem State.Sound.startOne {n off : Nat} {v done : DWord} {op : Instr} {a : EvArgs} (h : s.Sound)
    (ho : op.isEvent = true) : (s.startCmd n off v done [⟨op, a⟩]).Sound :=
  h.startCmd (by simp [ho])

theorem State.Sound.laterGate {c tin : Nat} (h : s.Sound) : (s.later (t.gateEvents c tin)).Sound :=
  h.laterMap rfl

theorem State.Sound.ofSome (h : s.Sound) : ∀ t, Option.some s = Option.some t → t.Sound := by
  rintro _ ⟨⟩
  exact h

theorem State.Sound.ofSomeSnd {p : α × State} (h : p.2.Sound) : ∀ q, Option.some p = Option.some q → q.2.Sound := by
  rintro _ ⟨⟩
  exact h

theorem State.Sound.ite {c : Prop} [Decidable c] (hs : s.Sound) (ht : t.Sound) : (if c then s else t).Sound := by
  split <;> assumption

theorem State.Sound.iteSnd {c : Prop} [Decidable c] {p q : α × State} (hp : p.2.Sound) (hq : q.2.Sound) :
    (if c then p else q).2.Sound := by
  split <;> assumption

/-- Updates of single fields, where a proof names the new state and not the field. -/
theorem State.Sound.withLines {l : Table LineMeta} (h : s.Sound) : { s with lines := l }.Sound := h.frame rfl rfl

theorem State.Sound.withSaved {l : List SavedWg} (h : s.Sound) : { s with saved := l }.Sound := h.frame rfl rfl

theorem State.Sound.withSites {l : Table Site} (h : s.Sound) : { s with sites := l }.Sound := h.frame rfl rfl

theorem State.Sound.withQuadRamp {l : Table Nat} (h : s.Sound) : { s with quadRamp := l }.Sound := h.frame rfl rfl

theorem State.Sound.withGiven {l : List (Nat × Nat × Nat × Nat)} (h : s.Sound) : { s with given := l }.Sound := h.frame rfl rfl

theorem State.Sound.withWgs {l : Table Workgroup} (h : s.Sound) : { s with wgs := l }.Sound := h.frame rfl rfl

theorem State.Sound.withWaitRecs {l : List (Nat × Nat × Grid)} (h : s.Sound) : { s with waitRecs := l }.Sound := h.frame rfl rfl

theorem State.Sound.withoutGrid {g : Table Grid} {l : List (Nat × Nat × Nat × Nat)} {b : List WideBar} (h : s.Sound) :
    { s with grids := g, given := l, wideBars := b }.Sound := h.frame rfl rfl

theorem State.Sound.next (h : s.Sound) : SoundNext (.next s) := by
  rintro _ ⟨⟩
  exact h

end Sys2Proof.Machine
end

section
namespace Sys2Proof.Machine

/-! O60. One lemma a function of the model, in the model's order: a function keeps `State.Sound` because it sets other fields
(`State.Sound.frame`), writes memory by `Memory.writeN` (`State.Sound.store`), adds events (`State.Sound.later`, `State.Sound.laterOne`,
`State.Sound.laterMap`), or is made of functions that keep it. -/

/-! Sites, cores and their registers (Machine/Units.lean). -/

theorem State.Sound.setCore {s : State} {c : Nat} {x : Core} (h : s.Sound) : (s.setCore c x).Sound :=
  h.frame rfl rfl

theorem State.Sound.setSite {s : State} {n : Nat} {x : Site} (h : s.Sound) : (s.setSite n x).Sound :=
  h.frame rfl rfl

theorem State.Sound.setRegion {s : State} {n : Nat} {x : Region} (h : s.Sound) : (s.setRegion n x).Sound :=
  h.frame rfl rfl

theorem State.Sound.setContext {s : State} {n : Nat} {x : Context} (h : s.Sound) : (s.setContext n x).Sound :=
  h.frame rfl rfl

theorem State.Sound.setWg {s : State} {slot : Nat} {x : Workgroup} (h : s.Sound) : (s.setWg slot x).Sound :=
  h.frame rfl rfl

theorem State.Sound.setGrid {s : State} {g : Nat} {x : Grid} (h : s.Sound) : (s.setGrid g x).Sound :=
  h.frame rfl rfl

theorem State.Sound.setLink {s : State} {n f : Nat} {x : Link} (h : s.Sound) : (s.setLink n f x).Sound :=
  h.setSite

theorem State.Sound.setWin {s : State} {n off : Nat} {v : DWord} (h : s.Sound) : (s.setWin n off v).Sound :=
  h.setSite

theorem State.Sound.addWin {s : State} {n off d : Nat} (h : s.Sound) : (s.addWin n off d).Sound :=
  h.setWin

theorem State.Sound.endCmd {s : State} {n off : Nat} {done : DWord} (h : s.Sound) : (s.endCmd n off done).Sound :=
  h.setWin.setSite

theorem State.Sound.syncClk {s : State} {n : Nat} (h : s.Sound) : (s.syncClk n).Sound :=
  .ite h h.setSite

theorem State.Sound.enterStep {s : State} {r : Nat} (h : s.Sound) : (s.enterStep r).Sound :=
  .ite h h.setRegion

theorem State.Sound.postTarget {s : State} {n : Nat} (h : s.Sound) : (s.postTarget n).Sound :=
  .ite h h.setSite

theorem State.Sound.sendTargets {s : State} {sites : List Nat} (h : s.Sound) : (s.sendTargets sites).Sound :=
  h.foldl fun _ _ ht => ht.postTarget

/-! The home of a line (Machine/Home.lean). -/

theorem State.Sound.raiseFloor {s : State} {k : Word} (h : s.Sound) : (s.raiseFloor k).Sound :=
  h.foldl fun _ _ ht => ht.setSite

theorem State.Sound.touchLine {s : State} {pa : Nat} (h : s.Sound) : (s.touchLine pa).Sound := by
  unfold State.touchLine
  dsimp only
  refine .ite h ?_
  refine .ite (h.frame rfl rfl) ?_
  refine .ite (h.frame rfl rfl) ?_
  split
  · exact h
  · exact State.Sound.withLines (.ite h.addWin.raiseFloor h.addWin)

theorem State.Sound.setLine {s : State} {pa : Nat} {m : LineMeta} (h : s.Sound) : (s.setLine pa m).Sound :=
  h.frame rfl rfl

theorem State.Sound.homeTouch {s : State} {pa n : Nat} (h : s.Sound) : (s.homeTouch pa n).Sound :=
  .ite (h.foldl fun _ _ ht => ht.touchLine) h

theorem State.Sound.raceLines {s : State} {l : List (Nat × BitVec 8)} {kind : AccKind} {agent : BitVec 16} {k : Word}
    (h : s.Sound) :
    (s.raceLines l kind agent k).2.Sound := by
  unfold State.raceLines
  dsimp only
  split
  · exact State.Sound.setWin (State.Sound.addWin (h.foldl fun _ _ ht => .ite ht ht.addWin))
  · refine State.Sound.foldl (h.foldl fun _ _ ht => .ite ht ht.addWin) fun t a ht => ?_
    split
    · exact ht.setLine
    · exact .ite ht.setLine ht.setLine.addWin

theorem State.Sound.raceCheck {s : State} {pa n : Nat} {kind : AccKind} {agent : BitVec 16} {k : Word} (h : s.Sound) :
    (s.raceCheck pa n kind agent k).2.Sound :=
  .iteSnd h h.homeTouch.raceLines

theorem State.Sound.fireMonitors {s : State} {pa n : Nat} (h : s.Sound) : (s.fireMonitors pa n).Sound :=
  h.foldl fun _ _ ht => .ite (ht.setSite.laterMap rfl) ht

theorem State.Sound.doubtQcbs {s : State} {pa n : Nat} (h : s.Sound) : (s.doubtQcbs pa n).Sound :=
  h.foldl fun _ _ ht => .ite ht.setSite ht

theorem State.Sound.dropSharers {s : State} {pa n : Nat} (h : s.Sound) : (s.dropSharers pa n).Sound := by
  unfold State.dropSharers
  refine h.foldl fun t a ht => ?_
  split
  · exact .ite ht ht.setLine
  · exact ht

/-- A write at the home stores bytes, which keeps memory canonical; the events that it adds wake monitors. -/
theorem State.Sound.homeWrite {s : State} {pa : Nat} {bs : List Byte} {controller : Bool} (h : s.Sound) :
    (s.homeWrite pa bs controller).Sound :=
  State.Sound.fireMonitors (State.Sound.dropSharers (.ite (h.homeTouch.store rfl rfl) (State.Sound.doubtQcbs
      (h.homeTouch.store rfl rfl))))

theorem State.Sound.logEvent {s : State} {n kind cls unit result addr : Nat} (h : s.Sound) :
    (s.logEvent n kind cls unit result addr).Sound :=
  h.homeWrite.setWin

/-! The windows of the site service controllers (Machine/Ssc.lean). -/

theorem State.Sound.setDeck {s : State} {c d v : Nat} (h : s.Sound) : (s.setDeck c d v).Sound :=
  h.setWin

theorem Ssc.merge_sound {s : State} {n off : Nat} {mask v : DWord} (h : s.Sound) :
    (Ssc.merge s n off mask v).Sound :=
  h.setWin

theorem State.Sound.setRatio {s : State} {n off : Nat} {v : DWord} (h : s.Sound) : (s.setRatio n off v).Sound :=
  h.setWin.setCore

/-- One branch a register: a register that starts a command adds the event that does it. -/
theorem Ssc.write_sound {s : State} {n off : Nat} {v : DWord} (h : s.Sound) : (Ssc.write s n off v).Sound := by
  unfold Ssc.write
  dsimp only
  refine .ite (h.setWin.laterOne rfl) ?_
  refine .ite (.ite (.ite ((Ssc.merge_sound h).startOne rfl) (Ssc.merge_sound h)) h) ?_
  refine .ite (.ite h.setWin h) ?_
  refine .ite h.setWin ?_
  refine .ite h.setWin ?_
  refine .ite (.ite h.setWin h.logEvent) ?_
  refine .ite (.ite ((Ssc.merge_sound h).startOne rfl) (Ssc.merge_sound h)) ?_
  refine .ite h.setWin ?_
  refine .ite (Ssc.merge_sound h) ?_
  refine .ite ?_ ?_
  · refine .ite ?_ (Ssc.merge_sound h)
    refine (Ssc.merge_sound h).startCmd fun ev hev => ?_
    rw [List.mem_singleton.mp hev]
    split <;> rfl
  · refine .ite ?_ ?_
    · exact .ite ((Ssc.merge_sound h).startOne rfl) (.ite ((Ssc.merge_sound h).startOne rfl) (Ssc.merge_sound h))
    · refine .ite h.setWin ?_
      refine .ite h.setWin ?_
      refine .ite (.ite (h.setWin.laterOne rfl) h) ?_
      refine .ite ?_ ?_
      · refine .ite ?_ h
        refine .ite ?_ (Ssc.merge_sound h)
        exact (Ssc.merge_sound h).setWin.startOne (by split <;> rfl)
      · refine .ite h.setWin.postTarget ?_
        refine .ite h ?_
        refine .ite h.setWin ?_
        refine .ite h.setWin ?_
        refine .ite (h.laterOne rfl) ?_
        refine .ite h.setRatio ?_
        refine .ite h.setWin ?_
        refine .ite h.setWin ?_
        refine .ite h.setWin ?_
        refine .ite (Ssc.merge_sound h) ?_
        refine .ite (.ite ((Ssc.merge_sound h).laterOne rfl) (Ssc.merge_sound h)) ?_
        refine .ite h.setWin ?_
        refine .ite h.setWin ?_
        refine .ite h.setWin ?_
        exact .ite h.setWin (.ite h.setWin (.ite h.setWin (.ite (.ite h.setWin.setSite h.setWin) (.ite h.setWin h))))

/-! Translation, the column cache and the accesses of a device (Machine/Mem.lean). -/

theorem State.Sound.walkRead {s : State} {site ctx pa : Nat} (h : s.Sound) :
    (s.walkRead site ctx pa).2.Sound := by
  unfold State.walkRead
  dsimp only
  refine .iteSnd h.homeTouch ?_
  split
  · exact h
  · exact h.homeTouch

theorem State.Sound.walkKeep {s : State} {site ctx pa : Nat} {e : DWord} (h : s.Sound) :
    (s.walkKeep site ctx pa e).Sound :=
  h.setSite

theorem State.Sound.walkFrom {s : State} {site ctx level table : Nat} {va : DWord} (h : s.Sound) :
    (s.walkFrom site ctx level table va).2.Sound := by
  induction level generalizing s table with
  | zero =>
    exact .iteSnd h.walkRead (.iteSnd h.walkRead (.iteSnd (.iteSnd h.walkRead h.walkRead) h.walkRead))
  | succ n ih =>
    unfold State.walkFrom
    dsimp only
    refine .iteSnd h.walkRead ?_
    exact .iteSnd h.walkRead (.iteSnd (.iteSnd h.walkRead h.walkRead) (.iteSnd h.walkRead (ih h.walkRead.walkKeep)))

theorem State.Sound.translateWalk {s : State} {core : Option Nat} {site ctx : Nat} {va : DWord} {need : Need}
    {priv : Bool} (h : s.Sound) :
    (State.translate.walk s core site ctx va need priv).2.Sound := by
  unfold State.translate.walk
  dsimp only
  refine .iteSnd h ?_
  split
  · next hs1 => exact h.walkFrom.of_eq hs1
  · next hs1 =>
    have h1 := h.walkFrom.of_eq hs1
    split
    · exact h1
    · split
      · split
        · exact State.Sound.setSite (.ite h1 h1.homeWrite)
        · exact State.Sound.setCore (State.Sound.setSite (.ite h1 h1.homeWrite))
      · split
        · exact State.Sound.setSite (.ite h1 h1.homeWrite)
        · exact State.Sound.setCore (State.Sound.setSite (.ite h1 h1.homeWrite))

theorem State.Sound.translate {s : State} {core : Option Nat} {site ctx : Nat} {va : DWord} {need : Need}
    (h : s.Sound) :
    (s.translate core site ctx va need).2.Sound := by
  unfold State.translate
  dsimp only
  refine .iteSnd h ?_
  split
  · refine .iteSnd h.translateWalk ?_
    split
    · exact h
    · exact .ite h h.setCore
  · exact h.translateWalk

theorem State.Sound.homeCheck {s : State} {a : Acc} {x : Xl} {n : Nat} {kind : AccKind} (h : s.Sound) :
    (s.homeCheck a x n kind).2.Sound := by
  unfold State.homeCheck
  split
  · exact h
  · exact .iteSnd h.raceCheck h

theorem State.Sound.ccClean {s : State} {core key : Nat} (h : s.Sound) : (s.ccClean core key).Sound := by
  unfold State.ccClean
  dsimp only
  split
  · exact h
  · exact State.Sound.setCore (h.foldl fun _ _ ht => .ite ht.homeWrite ht)

theorem State.Sound.ccDrop {s : State} {core key : Nat} (h : s.Sound) : (s.ccDrop core key).Sound := by
  unfold State.ccDrop
  dsimp only
  split
  · exact h
  · exact h.ccClean.setCore

theorem State.Sound.ccAlloc {s : State} {core key : Nat} {stream : Bool} (h : s.Sound) :
    (s.ccAlloc core key stream).Sound := by
  unfold State.ccAlloc
  dsimp only
  refine .ite h ?_
  split
  · exact h.setCore
  · split
    · exact h
    · exact h.ccDrop.setCore

theorem State.Sound.ccFill {s : State} {core key : Nat} (h : s.Sound) : (s.ccFill core key).Sound := by
  unfold State.ccFill
  dsimp only
  split
  · exact h
  · exact h.setCore

theorem State.Sound.ccForget {s : State} {core pa n : Nat} (h : s.Sound) : (s.ccForget core pa n).Sound :=
  .ite h.setCore h

theorem State.Sound.ccPurge {s : State} {core pa n : Nat} (h : s.Sound) : (s.ccPurge core pa n).Sound :=
  h.foldl fun _ _ ht => ht.ccDrop

theorem State.Sound.ccPut {s : State} {core pa : Nat} {bs : List Byte} {dirty : Bool} {owner : BitVec 16}
    (h : s.Sound) :
    (s.ccPut core pa bs dirty owner).Sound := by
  unfold State.ccPut
  dsimp only
  split
  · exact h
  · exact h.setCore

theorem State.Sound.loadBytes {s : State} {a : Acc} {x : Xl} {n : Nat} {nt : Bool} (h : s.Sound) :
    (s.loadBytes a x n nt).2.Sound := by
  unfold State.loadBytes
  dsimp only
  split
  · exact h
  · exact h
  · exact .iteSnd h (.ite h.homeTouch.ccAlloc.ccFill h.homeTouch.ccForget)

theorem State.Sound.storeBytes {s : State} {a : Acc} {x : Xl} {bs : List Byte} {nt : Bool} (h : s.Sound) :
    (s.storeBytes a x bs nt).Sound := by
  unfold State.storeBytes
  split
  · exact Ssc.write_sound h
  · exact h.homeWrite
  · exact .ite h.ccAlloc.ccPut h.ccPut.homeWrite

theorem State.Sound.homeStore {s : State} {x : Xl} {bs : List Byte} (h : s.Sound) : (s.homeStore x bs).Sound :=
  .ite (Ssc.write_sound h) h.homeWrite

theorem State.Sound.raiseLine {s : State} {pa : Nat} {k : Word} (h : s.Sound) : (s.raiseLine pa k).Sound :=
  .ite h.setLine h

theorem State.Sound.ccRelease {s : State} {core w : Nat} (h : s.Sound) : (s.ccRelease core w).Sound :=
  h.foldl fun _ _ ht => .ite ht.ccClean ht

theorem State.Sound.ccAcquire {s : State} {core : Nat} (h : s.Sound) : (s.ccAcquire core).Sound :=
  .ite h h.setCore

theorem State.Sound.devAddr {s : State} {site ctx : Nat} {va : DWord} {n : Nat} {need : Need} (h : s.Sound) :
    (s.devAddr site ctx va n need).2.Sound := by
  unfold State.devAddr
  split
  · next hs1 => exact h.translate.of_eq hs1
  · next hs1 =>
    have h1 := h.translate.of_eq hs1
    split
    · exact h1
    · exact h1.homeTouch

theorem State.Sound.devRead {fuel : Nat} {s : State} {site ctx : Nat} {va : DWord} {n : Nat} (h : s.Sound) :
    (State.devRead fuel s site ctx va n).2.Sound := by
  induction fuel generalizing s va n with
  | zero =>
    exact h
  | succ n ih =>
    unfold State.devRead
    dsimp only
    refine .iteSnd h ?_
    split
    · next hs1 => exact h.devAddr.of_eq hs1
    · next hs1 =>
      have h1 := h.devAddr.of_eq hs1
      split
      · next hs2 => exact (ih h1).of_eq hs2
      · next hs2 => exact (ih h1).of_eq hs2

theorem State.Sound.devStore {s : State} {x : Xl} {bs : List Byte} (h : s.Sound) : (s.devStore x bs).Sound :=
  .ite (h.laterOne rfl) h.homeWrite

theorem State.Sound.devWrite {fuel : Nat} {s : State} {site ctx : Nat} {va : DWord} {bs : List Byte} (h : s.Sound) :
    (State.devWrite fuel s site ctx va bs).2.Sound := by
  induction fuel generalizing s va bs with
  | zero =>
    exact h
  | succ n ih =>
    unfold State.devWrite
    dsimp only
    refine .iteSnd h ?_
    split
    · next hs1 => exact h.devAddr.of_eq hs1
    · next hs1 => exact ih (h.devAddr.of_eq hs1).devStore

theorem State.Sound.frdOf {s : State} {site ctx n : Nat} (h : s.Sound) : (s.frdOf site ctx n).2.Sound := by
  unfold State.frdOf
  dsimp only
  split
  · exact .iteSnd h (.iteSnd h h.homeTouch.setSite)
  · exact .iteSnd h h.homeTouch.setSite

/-! Queue control blocks (Machine/Qcb.lean). -/

theorem State.Sound.holdQcb {s : State} {pa : Nat} (h : s.Sound) : (s.holdQcb pa).Sound :=
  h.setSite

theorem State.Sound.writeQcb {s : State} {pa : Nat} {q : Qcb} (h : s.Sound) : (s.writeQcb pa q).Sound :=
  h.homeWrite

theorem State.Sound.queueWakeEv {s : State} {pa : Nat} {producers : Bool} (h : s.Sound) :
    (s.queueWakeEv pa producers).Sound :=
  .ite (h.laterOne rfl) h

theorem State.Sound.queueWakeAll {s : State} {pa : Nat} (h : s.Sound) : (s.queueWakeAll pa).Sound :=
  .ite h (h.setSite.laterMap rfl)

theorem State.Sound.uncount {s : State} {w : Wait} (h : s.Sound) : (s.uncount w).Sound := by
  unfold State.uncount
  dsimp only
  split
  · exact h
  · exact .ite h.writeQcb h

theorem State.Sound.poisonQcb {s : State} {pa : Nat} {q : Qcb} (h : s.Sound) : (s.poisonQcb pa q).Sound :=
  h.writeQcb.queueWakeAll

theorem State.Sound.ownDrop {s : State} {core : Option Nat} {pa n : Nat} (h : s.Sound) :
    (s.ownDrop core pa n).Sound := by
  unfold State.ownDrop
  split
  · exact h.ccPurge
  · exact h

theorem State.Sound.reachQcb {s : State} {core : Option Nat} {site ctx : Nat} {va : DWord} {need : Need} (h : s.Sound) :
    (s.reachQcb core site ctx va need).2.Sound := by
  unfold State.reachQcb
  refine .iteSnd h ?_
  split
  · next hs1 => exact h.translate.of_eq hs1
  · next hs1 =>
    exact .iteSnd (h.translate.of_eq hs1) (.iteSnd (h.translate.of_eq hs1) (h.translate.of_eq hs1).homeTouch.holdQcb)

theorem State.Sound.openQcb {s : State} {core : Option Nat} {site ctx : Nat} {va : DWord} {need : Need} (h : s.Sound) :
    (s.openQcb core site ctx va need).2.Sound := by
  unfold State.openQcb
  dsimp only
  split
  · next hs1 => exact h.reachQcb.of_eq hs1
  · next hs1 => exact .iteSnd (h.reachQcb.of_eq hs1).poisonQcb (.iteSnd (h.reachQcb.of_eq hs1) (h.reachQcb.of_eq hs1))

theorem State.Sound.findSlot {s : State} {core : Option Nat} {site ctx : Nat} {va : DWord} {size : Nat} {need : Need}
    (h : s.Sound) :
    (s.findSlot core site ctx va size need).2.Sound := by
  unfold State.findSlot
  dsimp only
  split
  · next hs1 => exact h.translate.of_eq hs1
  · next hs1 =>
    have h1 := h.translate.of_eq hs1
    refine .iteSnd h1 ?_
    refine .iteSnd h1 ?_
    refine .iteSnd h1 ?_
    split
    · next hs2 => exact h1.translate.of_eq hs2
    · next hs2 => exact .iteSnd (h1.translate.of_eq hs2) (.iteSnd (h1.translate.of_eq hs2) (h1.translate.of_eq hs2))

theorem State.Sound.findSlots {s : State} {core : Option Nat} {site ctx : Nat} {q : Qcb} {need : Need} {size : Nat}
    {i : Word} {n : Nat} (h : s.Sound) :
    (s.findSlots core site ctx q need size i n).2.Sound := by
  induction n generalizing s i with
  | zero =>
    exact h
  | succ n ih =>
    unfold State.findSlots
    split
    · next hs1 => exact h.findSlot.of_eq hs1
    · next hs1 =>
      have h1 := h.findSlot.of_eq hs1
      split
      · next hs2 => exact (ih h1).of_eq hs2
      · next hs2 => exact (ih h1).of_eq hs2

theorem State.Sound.checkParts {s : State} {core : Option Nat} {a : Acc} {l : List Part} (h : s.Sound) :
    (s.checkParts core a l).2.Sound := by
  induction l generalizing s with
  | nil =>
    exact h
  | cons a r ih =>
    unfold State.checkParts
    dsimp only
    split
    · next hs1 => exact ih (h.homeCheck.of_eq hs1)
    · next hs1 => exact ih (h.homeCheck.of_eq hs1).ownDrop.homeTouch

theorem State.Sound.useQcb {s : State} {core : Option Nat} {a : Acc} {va : DWord} {x : Xl} {writes : Bool}
    {l : List Part} (h : s.Sound) :
    (s.useQcb core a va x writes l).2.Sound :=
  h.checkParts

theorem State.Sound.slotWrite {s : State} {l : Slot} {k : Nat} {bs : List Byte} (h : s.Sound) :
    (s.slotWrite l k bs).Sound :=
  .ite h.homeWrite h.homeWrite.homeWrite

theorem State.Sound.slotEmpty {s : State} {l : Slot} (h : s.Sound) : (s.slotEmpty l).Sound :=
  h.slotWrite

theorem State.Sound.enqAddrs {s : State} {core : Option Nat} {site : Nat} {a : Acc} {va : DWord} {x : Xl} {q : Qcb}
    {n : Nat} (h : s.Sound) :
    (s.enqAddrs core site a va x q n).2.Sound := by
  unfold State.enqAddrs
  split
  · next hs1 => exact h.findSlots.of_eq hs1
  · next hs1 =>
    have h1 := h.findSlots.of_eq hs1
    refine .iteSnd h1.poisonQcb ?_
    split
    · next hs2 => exact h1.useQcb.of_eq hs2
    · next hs2 => exact h1.useQcb.of_eq hs2

theorem State.Sound.readySlots {s : State} {core : Option Nat} {site ctx pa : Nat} {q : Qcb} {n : Nat} (h : s.Sound) :
    (s.readySlots core site ctx pa q n).2.Sound := by
  unfold State.readySlots
  split
  · next hs1 => exact h.findSlots.of_eq hs1
  · next hs1 =>
    have h1 := h.findSlots.of_eq hs1
    split
    · exact h1
    · exact h1.poisonQcb

theorem State.Sound.deqAddrs {s : State} {core : Option Nat} {site : Nat} {a : Acc} {va : DWord} {x : Xl} {q : Qcb}
    {n : Nat} (h : s.Sound) :
    (s.deqAddrs core site a va x q n).2.Sound := by
  unfold State.deqAddrs
  split
  · next hs1 => exact h.readySlots.of_eq hs1
  · next hs1 =>
    have h1 := h.readySlots.of_eq hs1
    split
    · next hs2 => exact h1.useQcb.of_eq hs2
    · next hs2 => exact h1.useQcb.of_eq hs2

theorem State.Sound.fillSlots {s : State} {k : Word} {slots : List Slot} {elems : List (List Byte)} (h : s.Sound) :
    (s.fillSlots k slots elems).Sound :=
  h.foldl fun _ _ ht => ht.slotWrite.slotWrite.slotWrite

theorem State.Sound.enqCommit {s : State} {pa : Nat} {q : Qcb} {k : Word} {slots : List Slot}
    {elems : List (List Byte)} (h : s.Sound) :
    (s.enqCommit pa q k slots elems).Sound :=
  h.fillSlots.writeQcb.queueWakeEv

theorem State.Sound.deqCommit {s : State} {pa : Nat} {q : Qcb} {oclk : Word} {slots : List Slot} (h : s.Sound) :
    (s.deqCommit pa q oclk slots).Sound :=
  ((h.foldl fun _ _ ht => ht.slotEmpty).writeQcb).queueWakeEv

theorem State.Sound.tryNotice {s : State} {site : Nat} {nt : List Byte} (h : s.Sound) :
    (s.tryNotice site nt).2.Sound := by
  unfold State.tryNotice
  dsimp only
  split
  · next hs1 => exact h.openQcb.of_eq hs1
  · next hs1 =>
    have h1 := h.openQcb.of_eq hs1
    refine .iteSnd h1 ?_
    split
    · next hs2 => exact h1.enqAddrs.of_eq hs2
    · next hs2 => exact (h1.enqAddrs.of_eq hs2).enqCommit

theorem State.Sound.postNoticeKeep {site : Nat} {nt : List Byte} {t : State} (h : t.Sound) :
    (State.postNotice.keep site nt t).Sound :=
  .ite h.setSite h.logEvent

theorem State.Sound.postNotice {s : State} {site : Nat} {nt : List Byte} (h : s.Sound) :
    (s.postNotice site nt).Sound := by
  unfold State.postNotice
  refine .ite h.postNoticeKeep ?_
  split
  · next hs1 => exact h.tryNotice.of_eq hs1
  · next hs1 => exact (h.tryNotice.of_eq hs1).postNoticeKeep

theorem State.Sound.flushNotices {n : Nat} {s : State} {site : Nat} (h : s.Sound) :
    (State.flushNotices n s site).Sound := by
  induction n generalizing s with
  | zero =>
    exact h
  | succ n ih =>
    unfold State.flushNotices
    dsimp only
    split
    · exact h
    · split
      · next hs1 => exact ih (h.tryNotice.of_eq hs1).setSite
      · next hs1 => exact h.tryNotice.of_eq hs1

theorem State.Sound.flushAll {s : State} (h : s.Sound) : s.flushAll.Sound :=
  h.foldl fun _ _ ht => .ite ht ht.flushNotices

theorem State.Sound.report {s : State} {site ctx : Nat} {cause : Cause} {agent : Nat} {detail : DWord} (h : s.Sound) :
    (s.report site ctx cause agent detail).Sound :=
  h.postNotice

theorem State.Sound.orStatus {s : State} {site ctx : Nat} {b : Word} (h : s.Sound) : (s.orStatus site ctx b).Sound := by
  unfold State.orStatus
  dsimp only
  refine .ite h ?_
  refine .ite h.report ?_
  split
  · next hs1 => exact (h.devAddr.of_eq hs1).report
  · next hs1 => exact (h.devAddr.of_eq hs1).homeWrite

theorem State.Sound.forgetAll {s : State} {pa n : Nat} (h : s.Sound) : (s.forgetAll pa n).Sound :=
  h.foldl fun _ _ ht => ht.ccForget

theorem State.Sound.errorRecord {s : State} {site ctx : Nat} {bs : List Byte} (h : s.Sound) :
    (s.errorRecord site ctx bs).Sound := by
  unfold State.errorRecord
  dsimp only
  refine .ite h.report ?_
  split
  · next hs1 => exact (h.devAddr.of_eq hs1).report
  · next hs1 =>
    have h1 := h.devAddr.of_eq hs1
    split
    · next hs2 => exact (h1.homeWrite.forgetAll.devAddr.of_eq hs2).report
    · next hs2 => exact (h1.homeWrite.forgetAll.devAddr.of_eq hs2).homeWrite.forgetAll.addWin

/-! The endpoints (Machine/Endpoint.lean). -/

theorem State.Sound.setLstat {s : State} {n f d : Nat} {v : DWord} (h : s.Sound) :
    (s.setLstat n f d v).Sound :=
  h.setWin

theorem State.Sound.setConn {s : State} {n key : Nat} {c : Conn} (h : s.Sound) : (s.setConn n key c).Sound :=
  h.setSite

theorem State.Sound.sendFlits {s : State} {e f n : Nat} {fresh : Bool} (h : s.Sound) :
    (s.sendFlits e f n fresh).Sound :=
  h.setLink

theorem State.Sound.sendPacket {s : State} {e key : Nat} (h : s.Sound) : (s.sendPacket e key).Sound := by
  unfold State.sendPacket
  dsimp only
  refine .ite h ?_
  split
  · exact h
  · split
    · exact h
    · exact h.sendFlits.setConn

theorem State.Sound.pump {s : State} {n key : Nat} (h : s.Sound) : (s.pump n key).Sound :=
  h.foldl fun _ _ ht => ht.sendPacket

theorem State.Sound.pumpAll {s : State} {n : Nat} (h : s.Sound) : (s.pumpAll n).Sound :=
  h.foldl fun _ _ ht => ht.pump

theorem State.Sound.queuePackets {s : State} {e key : Nat} {what : Carried} {bytes : Nat} (h : s.Sound) :
    (s.queuePackets e key what bytes).Sound :=
  .ite h h.setConn.pump

theorem State.Sound.unqueue {s : State} {e : Nat} {what : Carried} (h : s.Sound) : (s.unqueue e what).Sound :=
  h.setSite

theorem State.Sound.hear {s : State} {w : Carried} (h : s.Sound) : (s.hear w).Sound := by
  unfold State.hear
  dsimp only
  split
  · exact h.setSite
  · exact h.setSite
  · exact h

theorem execAckReceive_sound {s : State} (h : s.Sound) : SoundNext (execAckReceive s) := by
  unfold execAckReceive
  dsimp only
  refine State.Sound.next ?_
  split
  · exact h
  · exact .ite h ((h.setConn.foldl fun _ _ ht => ht.hear).pump)

theorem execRetransmitTimer_sound {s : State} (h : s.Sound) : SoundNext (execRetransmitTimer s) := by
  unfold execRetransmitTimer
  dsimp only
  refine State.Sound.next ?_
  split
  · exact h
  · exact h.setConn.pump

theorem execOccupancyReport_sound {s : State} (h : s.Sound) : SoundNext (execOccupancyReport s) :=
  State.Sound.next (.ite h.setSite h)

/-! Registers of a coach (Machine/Coach.lean). -/

theorem State.Sound.setCoach {s : State} {r : CoachRef} {c : Coach} (h : s.Sound) : (s.setCoach r c).Sound := by
  unfold State.setCoach
  split
  · exact h
  · exact h.setWg

theorem State.Sound.modCoach {s : State} {r : CoachRef} {f : Coach → Coach} (h : s.Sound) : (s.modCoach r f).Sound := by
  unfold State.modCoach
  split
  · exact h
  · exact h.setCoach

theorem State.Sound.modWg {s : State} {slot : Nat} {f : Workgroup → Workgroup} (h : s.Sound) :
    (s.modWg slot f).Sound := by
  unfold State.modWg
  split
  · exact h
  · exact h.setWg

/-! Records of the save area (Machine/SaveRec.lean). -/

theorem State.Sound.saveHeader {s : State} {site ctx : Nat} (h : s.Sound) : (s.saveHeader site ctx).2.Sound := by
  unfold State.saveHeader
  dsimp only
  refine .iteSnd h ?_
  split
  · next hs1 => exact h.devRead.of_eq hs1
  · next hs1 => exact h.devRead.of_eq hs1

theorem State.Sound.saveField {s : State} {site ctx off n v : Nat} (h : s.Sound) :
    (s.saveField site ctx off n v).2.Sound :=
  h.devWrite

theorem State.Sound.poolAlloc {s : State} {site ctx n : Nat} (h : s.Sound) :
    (s.poolAlloc site ctx n).2.Sound := by
  unfold State.poolAlloc
  dsimp only
  split
  · next hs1 => exact h.saveHeader.of_eq hs1
  · next hs1 =>
    have h1 := h.saveHeader.of_eq hs1
    refine .iteSnd h1 ?_
    split
    · next hs2 => exact h1.saveField.of_eq hs2
    · next hs2 => exact h1.saveField.of_eq hs2

theorem State.Sound.poolReset {s : State} {site ctx : Nat} (h : s.Sound) : (s.poolReset site ctx).Sound := by
  unfold State.poolReset
  split
  · next hs1 => exact h.saveHeader.of_eq hs1
  · next hs1 => exact .ite (h.saveHeader.of_eq hs1).saveField (h.saveHeader.of_eq hs1)

/-! The shared operations of the instructions (Machine/Ops.lean). -/

theorem finish_sound {e : Env} {s : State} (h : s.Sound) : (finish e s).Sound :=
  h.modCoach

theorem finishC_sound {e : Env} {f : Coach → Coach} {s : State} (h : s.Sound) : (finishC e f s).Sound :=
  h.modCoach

theorem finishW_sound {e : Env} {ws : List RegWrite} {s : State} (h : s.Sound) : (finishW e ws s).Sound :=
  finishC_sound h

theorem stall_sound {s : State} (h : s.Sound) : (stall s).Sound :=
  h

theorem waitIn_sound {e : Env} {i : Instr} {st : CoachState} {w : Wait} {s : State} (h : s.Sound) :
    (waitIn e i st w s).Sound :=
  h.modCoach

theorem track_sound {e : Env} {i : Instr} {kind : FlightKind} {entry : Bool} {rep : Option ReplayEntry}
    {ws0 : List RegWrite} {s : State} (h : s.Sound) :
    (track e i kind entry rep ws0 s).Sound :=
  h.modCoach

theorem tracked_sound {e : Env} {i : Instr} {ws : List RegWrite} {s : State} (h : s.Sound) : (tracked e i ws s).Sound :=
  track_sound h

theorem accepted_sound {e : Env} {i : Instr} {kind : FlightKind} {s : State} (h : s.Sound) :
    (accepted e i kind s).Sound :=
  track_sound h

theorem State.Sound.completeFlight {s : State} {r : CoachRef} {id : Nat} (h : s.Sound) : (s.completeFlight r id).Sound :=
  h.modCoach

theorem State.Sound.completeWith {s : State} {r : CoachRef} {id : Nat} {ws : List RegWrite} (h : s.Sound) :
    (s.completeWith r id ws).Sound :=
  h.modCoach.completeFlight

theorem State.Sound.release {s : State} {slot scope : Nat} (h : s.Sound) : (s.release slot scope).2.Sound := by
  unfold State.release
  dsimp only
  split
  · exact .ite h.ccRelease h
  · exact State.Sound.setWg (.ite h.ccRelease h)

theorem State.Sound.acquire {s : State} {slot scope : Nat} {k : Word} (h : s.Sound) :
    (s.acquire slot scope k).Sound :=
  .ite h.modWg.ccAcquire h.modWg

theorem State.Sound.handler {s : State} {site ctx : Nat} {cause : Cause} (h : s.Sound) :
    (s.handler site ctx cause).2.Sound := by
  unfold State.handler
  dsimp only
  split
  · next hs1 => exact h.devRead.of_eq hs1
  · next hs1 => exact .iteSnd (h.devRead.of_eq hs1) (h.devRead.of_eq hs1)

theorem State.Sound.escalate {s : State} {r : CoachRef} {cause : Cause} {addr : DWord} {noHandler inHandler : Bool}
    (h : s.Sound) :
    (s.escalate r cause addr noHandler inHandler).Sound := by
  unfold State.escalate
  dsimp only
  split
  · refine .ite h.setCoach ?_
    refine State.Sound.postNotice ?_
    refine State.Sound.modCoach ?_
    split
    · next hs1 => exact h.setCoach.poolAlloc.of_eq hs1
    · next hs1 =>
      have h1 := h.setCoach.poolAlloc.of_eq hs1
      split
      · next hs2 => exact (h1.devWrite.of_eq hs2).setContext
      · next hs2 => exact h1.devWrite.of_eq hs2
  · exact h

theorem State.Sound.formFrame {s : State} {r : CoachRef} {cause : Cause} {addr : DWord} {tmask : Mask}
    {entries : List ReplayEntry} {tpc : DWord} {clause : Option Clause} {async : Bool} (h : s.Sound) :
    (s.formFrame r cause addr tmask entries tpc clause async).Sound := by
  unfold State.formFrame
  dsimp only
  split
  · refine .ite h.setCoach.escalate ?_
    split
    · next hs1 => exact (h.setCoach.handler.of_eq hs1).modCoach
    · next hs1 => exact (h.setCoach.handler.of_eq hs1).escalate
  · exact h

theorem State.Sound.takeTrap {s : State} {r : CoachRef} {cause : Cause} {addr : DWord} {tmask : Mask}
    {entries : List ReplayEntry} {tpc : DWord} {clause : Option Clause} (h : s.Sound) :
    (s.takeTrap r cause addr tmask entries tpc clause).Sound := by
  unfold State.takeTrap
  split
  · exact h
  · exact .ite h.escalate (.ite h (.ite h.setCoach h.formFrame))

theorem keepCause_sound {e : Env} {i : Instr} {id : Nat} {cause : Cause} {addr : DWord} {tmask mask : Mask}
    {s : State} (h : s.Sound) :
    (keepCause e i id cause addr tmask mask s).Sound :=
  h.modCoach

theorem trapWith_sound {e : Env} {i : Instr} {cause : Cause} {addr : DWord} {tmask mask : Mask} {s : State}
    (h : s.Sound) :
    (trapWith e i cause addr tmask mask s).Sound := by
  unfold trapWith
  dsimp only
  refine .ite h.takeTrap ?_
  refine .ite ?_ (.ite (stall_sound h) h.modCoach.takeTrap)
  split
  · exact keepCause_sound h
  · exact h.modCoach.takeTrap

theorem trapAll_sound {e : Env} {i : Instr} {cause : Cause} {addr : DWord} {s : State} (h : s.Sound) :
    (trapAll e i cause addr s).Sound :=
  trapWith_sound h

theorem hold_sound {e : Env} {i : Instr} {kind : FlightKind} {mask : Mask} {s : State} (h : s.Sound) :
    (hold e i kind mask s).Sound :=
  h.modCoach

theorem raiseCause_sound {e : Env} {i : Instr} {cause : Cause} {addr : DWord} {tmask mask : Mask} {s : State}
    (h : s.Sound) :
    (raiseCause e i cause addr tmask mask s).Sound :=
  .ite (trapWith_sound h) (hold_sound h)

theorem State.Sound.dropWaiter {s : State} {r : CoachRef} (h : s.Sound) : (s.dropWaiter r).Sound :=
  h.foldl fun _ _ ht => .ite ht.setSite ht

theorem State.Sound.cancelWait {s : State} {r : CoachRef} (h : s.Sound) : (s.cancelWait r).Sound := by
  unfold State.cancelWait
  dsimp only
  split
  · exact h
  · refine .ite h.modCoach ?_
    refine .ite ?_ h
    refine .ite h.dropWaiter.uncount.modCoach ?_
    split <;> exact h.dropWaiter.uncount.modCoach

theorem State.Sound.asyncTrap {s : State} {r : CoachRef} {cause : Cause} {addr : DWord} (h : s.Sound) :
    (s.asyncTrap r cause addr).Sound := by
  unfold State.asyncTrap
  dsimp only
  split
  · exact h.cancelWait
  · exact h.cancelWait.setCoach.formFrame

/-- An instruction that issues keeps the invariant when its action does: the one rule behind every instruction below. -/
theorem issue_sound {i : Instr} {s : State} {body : Env → State → State} (h : s.Sound)
    (hbody : ∀ e t, t.Sound → (body e t).Sound) : SoundNext (issue i s body) := by
  unfold issue
  split
  · exact nofun
  · refine State.Sound.next ?_
    split
    · exact .ite (stall_sound h) (trapAll_sound h)
    · exact .ite (finish_sound h) (.ite (stall_sound h) (.ite (hold_sound h) (.ite (hold_sound h) (hbody _ _ h))))

/-! Barriers (Machine/Barriers.lean). -/

theorem State.Sound.setBar {s : State} {slot scope bix : Nat} {x : Bar} (h : s.Sound) :
    (s.setBar slot scope bix x).Sound := by
  unfold State.setBar
  dsimp only
  split
  · exact h
  · exact .ite h.setWg (h.frame rfl rfl)

theorem State.Sound.completePhase {s : State} {slot scope bix : Nat} {b : Bar} (h : s.Sound) :
    (s.completePhase slot scope bix b).Sound :=
  h.setBar.laterMap rfl

theorem State.Sound.arrive {s : State} {slot scope bix n : Nat} {k : Word} (h : s.Sound) :
    (s.arrive slot scope bix n k).2.Sound :=
  .iteSnd h (.ite h.completePhase h.setBar)

theorem barWait_sound {e : Env} {i : Instr} {f : FB} {h : Word} {ws : List RegWrite} {s : State} (hs : s.Sound) :
    (barWait e i f h ws s).Sound :=
  .ite (finishW_sound hs.acquire) (waitIn_sound hs.modCoach)

theorem barArrive_sound {e : Env} {i : Instr} {f : FB} {s : State} {k : Word → State → State} (h : s.Sound)
    (hk : ∀ w t, State.Sound t → (k w t).Sound) :
    (barArrive e i f s k).Sound := by
  unfold barArrive
  dsimp only
  refine .ite (trapAll_sound h) ?_
  refine .ite (stall_sound h) ?_
  split
  · next hs1 => exact raiseCause_sound (h.release.arrive.of_eq hs1)
  · next hs1 => exact hk _ _ (h.release.arrive.of_eq hs1)

theorem execBara_sound {f : FB} {s : State} (h : s.Sound) : SoundNext (execBara f s) :=
  issue_sound h fun _ _ ht => barArrive_sound ht fun _ _ hu => tracked_sound hu

theorem execBarw_sound {f : FB} {s : State} (h : s.Sound) : SoundNext (execBarw f s) :=
  issue_sound h fun _ _ ht => .ite (trapAll_sound ht) (barWait_sound ht)

theorem execBaraw_sound {f : FB} {s : State} (h : s.Sound) : SoundNext (execBaraw f s) := by
  unfold execBaraw
  refine issue_sound h fun e t ht => ?_
  split
  · exact barWait_sound ht
  · exact barArrive_sound ht fun _ _ ht => barWait_sound ht

theorem execBarinit_sound {f : FB} {s : State} (h : s.Sound) : SoundNext (execBarinit f s) := by
  unfold execBarinit
  dsimp only
  refine issue_sound h fun e t ht => ?_
  refine .ite (trapAll_sound ht) ?_
  exact .ite (stall_sound ht) (.ite (raiseCause_sound ht) (tracked_sound (.ite ht.completePhase ht.setBar)))

theorem execBarrierRelease_sound {s : State} (h : s.Sound) : SoundNext (execBarrierRelease s) := by
  unfold execBarrierRelease
  dsimp only
  refine State.Sound.next ?_
  split
  · split
    · exact .ite (finish_sound h.acquire) h
    · exact h
  · exact h

/-! Arithmetic flags (Machine/Flags.lean). -/

theorem State.Sound.raise {s : State} {e : Env} {fs : Word} (h : s.Sound) : (s.raise e fs).Sound :=
  h.orStatus

/-! Results of the formats RRR and RI (Machine/Operands.lean). -/

theorem lanewise_sound {u : Bool} {d n : Nat} {f : Env → Nat → Nat × Word} {e : Env} {s : State} (h : s.Sound) :
    (lanewise u d n f e s).Sound :=
  finishW_sound h.raise

theorem opDAB_sound {f : RRR} {n : Nat} {g : Nat → Nat → Nat × Word} {e : Env} {s : State} (h : s.Sound) :
    (opDAB f n g e s).Sound :=
  lanewise_sound h

theorem opDA_sound {f : RRR} {n : Nat} {g : Nat → Nat × Word} {e : Env} {s : State} (h : s.Sound) :
    (opDA f n g e s).Sound :=
  lanewise_sound h

theorem opDABD_sound {f : RRR} {n : Nat} {g : Nat → Nat → Nat → Nat × Word} {e : Env} {s : State} (h : s.Sound) :
    (opDABD f n g e s).Sound :=
  lanewise_sound h

theorem opDB_sound {f : RRR} {n : Nat} {g : Nat → Nat × Word} {e : Env} {s : State} (h : s.Sound) :
    (opDB f n g e s).Sound :=
  lanewise_sound h

theorem opRI_sound {f : RI} {g : Nat → Nat × Word} {e : Env} {s : State} (h : s.Sound) : (opRI f g e s).Sound :=
  lanewise_sound h

theorem setPreds_sound {p : Nat} {g : Nat → Bool} {e : Env} {s : State} (h : s.Sound) : (setPreds p g e s).Sound :=
  finishC_sound h

/-! Loads, stores and atomics of row 0x7 (Machine/MemOps.lean). -/

theorem trapUnits_sound {e : Env} {i : Instr} {u : Bool} {c : Cause} {addr : DWord} {ts : List Nat} {s : State}
    (h : s.Sound) :
    (trapUnits e i u c addr ts s).Sound :=
  trapWith_sound h

theorem raiseUnits_sound {e : Env} {i : Instr} {u : Bool} {c : Cause} {addr : DWord} {ts : List Nat} {s : State}
    (h : s.Sound) :
    (raiseUnits e i u c addr ts s).Sound :=
  raiseCause_sound h

theorem translateEach_sound {e : Env} {need : Need} {l : List (Nat × DWord)} {s : State} (h : s.Sound) :
    (translateEach e need l s).2.2.Sound := by
  induction l generalizing s with
  | nil =>
    exact h
  | cons a r ih =>
    unfold translateEach
    dsimp only
    split
    · next hs1 => exact ih (h.translate.of_eq hs1)
    · next hs1 => exact ih (h.translate.of_eq hs1)

theorem accessAll_sound {e : Env} {i : Instr} {u : Bool} {size : Nat} {need : Need} {ea : Nat → DWord} {s : State}
    {k : List Target → State → State} (h : s.Sound)
    (hk : ∀ gs t, State.Sound t → (k gs t).Sound) :
    (accessAll e i u size need ea s k).Sound := by
  unfold accessAll
  dsimp only
  split
  · exact trapUnits_sound h
  · split
    · exact raiseUnits_sound (translateEach_sound h)
    · split
      · exact trapUnits_sound (translateEach_sound h)
      · exact .ite (stall_sound (translateEach_sound h)) (hk _ _ (translateEach_sound h))

theorem performEach_sound {check : Target → State → Option (Cause × DWord) × State}
    {act : Target → State → (List RegWrite × Option Word × Word) × State} {l : List Target} {d : Done} {s : State}
    (hcheck : ∀ g t, State.Sound t → (check g t).2.Sound)
    (hact : ∀ g t, State.Sound t → (act g t).2.Sound) (h : s.Sound) :
    (performEach check act l d s).2.Sound := by
  induction l generalizing d s with
  | nil =>
    exact h
  | cons a r ih =>
    unfold performEach
    dsimp only
    split
    · next hs1 => exact ih ((hcheck _ _ h).of_eq hs1)
    · next hs1 => exact ih (hact _ _ ((hcheck _ _ h).of_eq hs1))

theorem settleMem_sound {e : Env} {i : Instr} {u : Bool} {d : Done} {s : State} (h : s.Sound) :
    (settleMem e i u d s).Sound := by
  unfold settleMem
  dsimp only
  split
  · exact tracked_sound h.raise
  · exact raiseCause_sound h.raise.modCoach

theorem checkHome_sound {e : Env} {size : Nat} {kind : AccKind} {g : Target} {s : State} (h : s.Sound) :
    (checkHome e size kind g s).2.Sound := by
  unfold checkHome
  split
  · next hs1 => exact h.homeCheck.of_eq hs1
  · next hs1 => exact h.homeCheck.of_eq hs1

theorem checkLoad_sound {e : Env} {size : Nat} {g : Target} {s : State} (h : s.Sound) : (checkLoad e size g s).2.Sound :=
  .iteSnd (checkHome_sound h) h

theorem checkStore_sound {e : Env} {size : Nat} {nt : Bool} {g : Target} {s : State} (h : s.Sound) :
    (checkStore e size nt g s).2.Sound :=
  .iteSnd (checkHome_sound h) h

theorem loadM_sound {i : Instr} {f : FM} {size : Nat} {e : Env} {s : State} (h : s.Sound) : (loadM i f size e s).Sound :=
  accessAll_sound h fun _ _ ht => settleMem_sound (performEach_sound (fun _ _ hu => checkLoad_sound hu)
      (fun _ _ hu => hu.loadBytes) ht)

theorem storeM_sound {i : Instr} {f : FM} {size : Nat} {e : Env} {s : State} (h : s.Sound) :
    (storeM i f size e s).Sound :=
  accessAll_sound h fun _ _ ht => settleMem_sound (performEach_sound (fun _ _ hu => checkStore_sound hu)
      (fun _ _ hu => hu.storeBytes) ht)

theorem execLd8_sound {f : FM} {s : State} (h : s.Sound) : SoundNext (execLd8 f s) :=
  issue_sound h fun _ _ ht => loadM_sound ht

theorem execLd16_sound {f : FM} {s : State} (h : s.Sound) : SoundNext (execLd16 f s) :=
  issue_sound h fun _ _ ht => loadM_sound ht

theorem execLd32_sound {f : FM} {s : State} (h : s.Sound) : SoundNext (execLd32 f s) :=
  issue_sound h fun _ _ ht => loadM_sound ht

theorem execLd64_sound {f : FM} {s : State} (h : s.Sound) : SoundNext (execLd64 f s) :=
  issue_sound h fun _ _ ht => loadM_sound ht

theorem execLd128_sound {f : FM} {s : State} (h : s.Sound) : SoundNext (execLd128 f s) :=
  issue_sound h fun _ _ ht => loadM_sound ht

theorem execSt8_sound {f : FM} {s : State} (h : s.Sound) : SoundNext (execSt8 f s) :=
  issue_sound h fun _ _ ht => storeM_sound ht

theorem execSt16_sound {f : FM} {s : State} (h : s.Sound) : SoundNext (execSt16 f s) :=
  issue_sound h fun _ _ ht => storeM_sound ht

theorem execSt32_sound {f : FM} {s : State} (h : s.Sound) : SoundNext (execSt32 f s) :=
  issue_sound h fun _ _ ht => storeM_sound ht

theorem execSt64_sound {f : FM} {s : State} (h : s.Sound) : SoundNext (execSt64 f s) :=
  issue_sound h fun _ _ ht => storeM_sound ht

theorem execSt128_sound {f : FM} {s : State} (h : s.Sound) : SoundNext (execSt128 f s) :=
  issue_sound h fun _ _ ht => storeM_sound ht

theorem State.Sound.acquireOpt {s : State} {slot scope : Nat} {k : Option Word} (h : s.Sound) :
    (s.acquireOpt slot scope k).Sound := by
  unfold State.acquireOpt
  split
  · exact h
  · exact h.acquire

theorem execLdacq_sound {f : FM} {s : State} (h : s.Sound) : SoundNext (execLdacq f s) :=
  issue_sound h fun _ _ ht => accessAll_sound ht fun _ _ hu => settleMem_sound ((performEach_sound
      (fun _ _ hv => checkHome_sound hv) (fun _ _ hv => hv.ccDrop.homeTouch) hu).acquireOpt)

theorem execStrel_sound {f : FM} {s : State} (h : s.Sound) : SoundNext (execStrel f s) := by
  unfold execStrel
  dsimp only
  refine issue_sound h fun g t ht => ?_
  refine accessAll_sound ht fun _ _ hu => ?_
  exact .ite (stall_sound hu) (settleMem_sound (performEach_sound (fun _ _ ht => checkHome_sound ht)
      (fun _ _ ht => ht.ccDrop.homeTouch.homeStore.raiseLine) hu.release))

theorem execFence_sound {f : FM} {s : State} (h : s.Sound) : SoundNext (execFence f s) := by
  unfold execFence
  dsimp only
  refine issue_sound h fun e t ht => ?_
  exact .ite (stall_sound ht) (finish_sound (.ite (State.Sound.acquire (.ite ht.release ht)) (.ite ht.release ht)))

theorem prefOne_sound {e : Env} {cc : Bool} {s : State} {va : DWord} (h : s.Sound) : (prefOne e cc s va).Sound := by
  unfold prefOne
  dsimp only
  split
  · next hs1 => exact h.translate.of_eq hs1
  · next hs1 =>
    exact .ite (h.translate.of_eq hs1) (.ite (h.translate.of_eq hs1).homeTouch.ccAlloc.ccFill
        (h.translate.of_eq hs1).homeTouch)

theorem execPref_sound {f : FM} {s : State} (h : s.Sound) : SoundNext (execPref f s) :=
  issue_sound h fun _ _ ht => finish_sound (ht.foldl fun _ _ hu => prefOne_sound hu)

theorem State.Sound.formatAt {s : State} {site ctx : Nat} {va : DWord} {x : Xl} (h : s.Sound) :
    (s.formatAt site ctx va x).2.Sound := by
  unfold State.formatAt
  refine .iteSnd h ?_
  split
  · next hs1 => exact h.frdOf.of_eq hs1
  · next hs1 =>
    have h1 := h.frdOf.of_eq hs1
    refine .iteSnd h1 ?_
    split
    · exact h1
    · exact .iteSnd h1 h1

theorem formatEach_sound {e : Env} {l : List Target} {s : State} (h : s.Sound) : (formatEach e l s).2.2.Sound := by
  induction l generalizing s with
  | nil =>
    exact h
  | cons a r ih =>
    unfold formatEach
    dsimp only
    split
    · next hs1 => exact ih (h.formatAt.of_eq hs1)
    · next hs1 => exact ih (h.formatAt.of_eq hs1)

theorem sideEach_sound {e : Env} {l : List QTarget} {s : State} (h : s.Sound) : (sideEach e l s).2.2.Sound := by
  induction l generalizing s with
  | nil =>
    exact h
  | cons a r ih =>
    unfold sideEach
    dsimp only
    split
    · exact ih h
    · split
      · next hs1 => exact ih (h.translate.of_eq hs1)
      · next hs1 => exact ih (h.translate.of_eq hs1)

theorem formatAll_sound {e : Env} {i : Instr} {f : FM} {need : Need} {s : State} {k : List QTarget → State → State}
    (h : s.Sound) (hk : ∀ qs t, State.Sound t → (k qs t).Sound) :
    (formatAll e i f need s k).Sound := by
  unfold formatAll
  dsimp only
  split
  · exact raiseUnits_sound (translateEach_sound h)
  · split
    · exact raiseUnits_sound (formatEach_sound (translateEach_sound h))
    · split
      · exact raiseUnits_sound (sideEach_sound (formatEach_sound (translateEach_sound h)))
      · refine .ite (trapUnits_sound (sideEach_sound (formatEach_sound (translateEach_sound h)))) ?_
        refine .ite (trapUnits_sound (sideEach_sound (formatEach_sound (translateEach_sound h)))) ?_
        split
        · exact trapUnits_sound (sideEach_sound (formatEach_sound (translateEach_sound h)))
        · exact .ite (stall_sound (sideEach_sound (formatEach_sound (translateEach_sound h)))) (hk _ _
              (sideEach_sound (formatEach_sound (translateEach_sound h))))

theorem performQ_sound {e : Env} {nt wr : Bool} {act : QTarget → Nat → Nat → State → (List RegWrite × Word) × State}
    {l : List QTarget} {d : Done} {s : State}
    (hact : ∀ q n m t, State.Sound t → (act q n m t).2.Sound) (h : s.Sound) :
    (performQ e nt wr act l d s).2.Sound := by
  induction l generalizing d s with
  | nil => exact h
  | cons q r ih =>
    unfold performQ
    extract_lets el sd rec_ a
    have hel : el.2.Sound := by
      dsimp only [el]
      split
      · exact h
      · exact .iteSnd (checkStore_sound h) (checkLoad_sound h)
    have hsd : sd.2.Sound := by
      dsimp only [sd]
      split
      · exact checkLoad_sound hel
      · exact hel
    have hrec : rec_.2.Sound := by
      dsimp only [rec_]
      split
      · exact hsd
      · exact hsd.loadBytes
    split
    · exact ih hsd
    · exact ih (hact _ _ _ _ hrec)

theorem execLdq_sound {f : FM} {s : State} (h : s.Sound) : SoundNext (execLdq f s) :=
  issue_sound h fun _ _ ht => formatAll_sound ht fun _ _ hu => settleMem_sound (performQ_sound
      (fun _ _ _ _ hv => hv.loadBytes) hu)

theorem execStq_sound {f : FM} {s : State} (h : s.Sound) : SoundNext (execStq f s) :=
  issue_sound h fun _ _ ht => formatAll_sound ht fun _ _ hu => settleMem_sound (performQ_sound
      (fun _ _ _ _ hv => hv.storeBytes) hu)

/-! Buffer accesses of row 0x8 (Machine/Buffers.lean). -/

theorem bufEach_sound {core : Nat} {b : Buf} {size : Nat} {store : Bool} {base : Nat} {ea : Nat → DWord}
    {act : Nat → Nat → State → (List RegWrite × Word) × State} {us : List Nat} {d : Done} {s : State}
    (hact : ∀ n m t, State.Sound t → (act n m t).2.Sound) (h : s.Sound) :
    (bufEach core b size store base ea act us d s).2.Sound := by
  induction us generalizing d s with
  | nil =>
    exact h
  | cons a r ih =>
    exact .iteSnd (ih h) (ih (hact _ _ _ h))

theorem bufAll_sound {e : Env} {i : Instr} {u : Bool} {b : Buf} {size : Nat} {store : Bool} {ea : Nat → DWord}
    {s : State} {act : Nat → Nat → State → (List RegWrite × Word) × State} (h : s.Sound)
    (hact : ∀ n m t, State.Sound t → (act n m t).2.Sound) :
    (bufAll e i u b size store ea s act).Sound := by
  unfold bufAll
  dsimp only
  split
  · exact trapUnits_sound h
  · split
    · exact trapUnits_sound h
    · exact .ite (stall_sound h) (settleMem_sound (bufEach_sound hact h))

theorem loadB_sound {i : Instr} {f : FM} {b : Buf} {size : Nat} {e : Env} {s : State} (h : s.Sound) :
    (loadB i f b size e s).Sound :=
  bufAll_sound h fun _ _ _ ht => ht

theorem storeB_sound {i : Instr} {f : FM} {b : Buf} {size : Nat} {e : Env} {s : State} (h : s.Sound) :
    (storeB i f b size e s).Sound :=
  bufAll_sound h fun _ _ _ ht => ht.setCore

theorem execLds_sound {f : FM} {s : State} (h : s.Sound) : SoundNext (execLds f s) :=
  issue_sound h fun _ _ ht => loadB_sound ht

theorem execSts_sound {f : FM} {s : State} (h : s.Sound) : SoundNext (execSts f s) :=
  issue_sound h fun _ _ ht => storeB_sound ht

theorem execLds128_sound {f : FM} {s : State} (h : s.Sound) : SoundNext (execLds128 f s) :=
  issue_sound h fun _ _ ht => loadB_sound ht

theorem execSts128_sound {f : FM} {s : State} (h : s.Sound) : SoundNext (execSts128 f s) :=
  issue_sound h fun _ _ ht => storeB_sound ht

theorem execLdx_sound {f : FM} {s : State} (h : s.Sound) : SoundNext (execLdx f s) :=
  issue_sound h fun _ _ ht => loadB_sound ht

theorem execStx_sound {f : FM} {s : State} (h : s.Sound) : SoundNext (execStx f s) :=
  issue_sound h fun _ _ ht => storeB_sound ht

theorem execLdw_sound {f : FM} {s : State} (h : s.Sound) : SoundNext (execLdw f s) :=
  issue_sound h fun _ _ ht => loadB_sound ht

theorem execStw_sound {f : FM} {s : State} (h : s.Sound) : SoundNext (execStw f s) :=
  issue_sound h fun _ _ ht => storeB_sound ht

theorem execLdac_sound {f : FM} {s : State} (h : s.Sound) : SoundNext (execLdac f s) :=
  issue_sound h fun _ _ ht => loadB_sound ht

theorem execStac_sound {f : FM} {s : State} (h : s.Sound) : SoundNext (execStac f s) :=
  issue_sound h fun _ _ ht => storeB_sound ht

theorem atomM_sound {i : Instr} {f : FA} {size : Nat} {order ret : Bool} {step : Env → AtomStep} {e : Env} {s : State}
    (h : s.Sound) :
    (atomM i f size order ret step e s).Sound := by
  unfold atomM
  dsimp only
  refine accessAll_sound h fun g t ht => ?_
  refine .ite (stall_sound ht) ?_
  refine settleMem_sound ?_
  refine State.Sound.acquireOpt ?_
  refine performEach_sound (fun _ _ ht => checkHome_sound ht) ?_ (.iteSnd ht.release ht)
  intro _ _ hu
  refine .ite ?_ ?_
  · refine State.Sound.raiseLine ?_
    split
    · exact hu.ccDrop.homeTouch.homeStore
    · exact hu.ccDrop.homeTouch
  · split
    · exact hu.ccDrop.homeTouch.homeStore
    · exact hu.ccDrop.homeTouch

theorem execAtom_sound {f : FA} {s : State} (h : s.Sound) : SoundNext (execAtom f s) :=
  issue_sound h fun _ _ ht => atomM_sound ht

theorem execAtomar_sound {f : FA} {s : State} (h : s.Sound) : SoundNext (execAtomar f s) :=
  issue_sound h fun _ _ ht => atomM_sound ht

theorem execAredg_sound {f : FA} {s : State} (h : s.Sound) : SoundNext (execAredg f s) :=
  issue_sound h fun _ _ ht => atomM_sound ht

theorem execAcas_sound {f : FA} {s : State} (h : s.Sound) : SoundNext (execAcas f s) :=
  issue_sound h fun _ _ ht => atomM_sound ht

theorem execAcasar_sound {f : FA} {s : State} (h : s.Sound) : SoundNext (execAcasar f s) :=
  issue_sound h fun _ _ ht => atomM_sound ht

theorem execAtoms_sound {f : FA} {s : State} (h : s.Sound) : SoundNext (execAtoms f s) :=
  issue_sound h fun _ _ ht => bufAll_sound ht fun _ _ _ hu => hu.setCore

/-! Monitors and waits (Machine/Monitors.lean). -/

theorem State.Sound.spillEntry {s : State} {site : Nat} {m : MonEntry} (h : s.Sound) : (s.spillEntry site m).2.Sound := by
  unfold State.spillEntry
  dsimp only
  split
  · next hs1 => exact h.saveHeader.of_eq hs1
  · next hs1 =>
    have h1 := h.saveHeader.of_eq hs1
    refine .iteSnd h1 ?_
    split
    · next hs2 => exact h1.devWrite.of_eq hs2
    · next hs2 =>
      have h2 := h1.devWrite.of_eq hs2
      split
      · next hs3 => exact h2.saveField.of_eq hs3
      · next hs3 => exact (h2.saveField.of_eq hs3).addWin.setSite

theorem State.Sound.register {s : State} {m : MonEntry} (h : s.Sound) : (s.register m).2.Sound := by
  unfold State.register
  dsimp only
  refine .iteSnd h.setSite ?_
  split
  · exact h
  · exact .iteSnd h.spillEntry.setSite h.spillEntry

theorem parkWith_sound {e : Env} {i : Instr} {st : CoachState} {m : MonEntry} {w : Wait} {s : State} (h : s.Sound) :
    (parkWith e i st m w s).Sound :=
  waitIn_sound h.register

theorem monitorWait_sound {i : Instr} {f : FW} {timed : Bool} {e0 : Env} {s0 : State} (h : s0.Sound) :
    (monitorWait i f timed e0 s0).Sound := by
  unfold monitorWait
  dsimp only
  refine .ite (trapAll_sound h.dropWaiter) ?_
  split
  · next hs1 => exact trapAll_sound (h.dropWaiter.translate.of_eq hs1)
  · next hs1 =>
    have h1 := h.dropWaiter.translate.of_eq hs1
    refine .ite (trapAll_sound h1) ?_
    refine .ite (trapAll_sound h1) ?_
    refine .ite (stall_sound h1) ?_
    split
    · next hs2 => exact trapAll_sound (h1.ccDrop.homeTouch.homeCheck.of_eq hs2)
    · next hs2 =>
      exact .ite (finishW_sound (h1.ccDrop.homeTouch.homeCheck.of_eq hs2).acquire) (parkWith_sound
          (h1.ccDrop.homeTouch.homeCheck.of_eq hs2))

theorem execWaitc_sound {f : FW} {s : State} (h : s.Sound) : SoundNext (execWaitc f s) :=
  issue_sound h fun _ _ ht => monitorWait_sound ht

theorem execWaitct_sound {f : FW} {s : State} (h : s.Sound) : SoundNext (execWaitct f s) :=
  issue_sound h fun _ _ ht => monitorWait_sound ht

theorem State.Sound.wakeFrom {s : State} {r : CoachRef} {st : CoachState} (h : s.Sound) : (s.wakeFrom r st).Sound := by
  unfold State.wakeFrom
  split
  · exact .ite h.setCoach h
  · exact h

theorem execMonitorWake_sound {s : State} (h : s.Sound) : SoundNext (execMonitorWake s) :=
  State.Sound.next (.ite h.wakeFrom h)

theorem execMonitorPoll_sound {s : State} (h : s.Sound) : SoundNext (execMonitorPoll s) := by
  unfold execMonitorPoll
  refine State.Sound.next ?_
  split
  · split
    · exact h.addWin.wakeFrom
    · exact h
  · exact h

theorem execWaitctDeadline_sound {s : State} (h : s.Sound) : SoundNext (execWaitctDeadline s) := by
  unfold execWaitctDeadline
  dsimp only
  refine State.Sound.next ?_
  split
  · split
    · exact .ite h.wakeFrom h
    · exact h
  · exact h

theorem execOcrd_sound {f : RRR} {s : State} (h : s.Sound) : SoundNext (execOcrd f s) :=
  issue_sound h fun _ _ ht => .ite (stall_sound ht) (finishW_sound ht)

theorem yield_sound {e : Env} {s : State} (h : s.Sound) : (yield e s).Sound :=
  (finish_sound h).modCoach

theorem execYield_sound {f : RRR} {s : State} (h : s.Sound) : SoundNext (execYield f s) :=
  issue_sound h fun _ _ ht => yield_sound ht

theorem execSleep_sound {f : RRR} {s : State} (h : s.Sound) : SoundNext (execSleep f s) := by
  unfold execSleep
  dsimp only
  refine issue_sound h fun e t ht => ?_
  split
  · exact .ite (finish_sound ht) (waitIn_sound ht)
  · exact .ite (yield_sound ht) (waitIn_sound ht)

theorem execSleepExpiry_sound {s : State} (h : s.Sound) : SoundNext (execSleepExpiry s) := by
  unfold execSleepExpiry
  dsimp only
  refine State.Sound.next ?_
  split
  · split
    · exact .ite h.wakeFrom h
    · exact h
  · exact h

/-! Queue instructions (Machine/Queues.lean). -/

theorem trapOwn_sound {e : Env} {i : Instr} {c : Cause} {a : DWord} {s : State} (h : s.Sound) :
    (trapOwn e i c a s).Sound :=
  raiseCause_sound h.dropWaiter

theorem trapQ_sound {e : Env} {i : Instr} {va : DWord} {q : QStop} {s : State} (h : s.Sound) :
    (trapQ e i va q s).Sound := by
  unfold trapQ
  split
  · exact trapOwn_sound h
  · exact trapOwn_sound h
  · exact stall_sound h

theorem endQ_sound {e : Env} {i : Instr} {blocking : Bool} {ws : List RegWrite} {s : State} (h : s.Sound) :
    (endQ e i blocking ws s).Sound :=
  .ite (finishW_sound h) (tracked_sound h)

theorem settleQ_sound {e : Env} {waiter : Bool} {pa : Nat} {producer : Bool} {s : State} (h : s.Sound) :
    (settleQ e waiter pa producer s).Sound :=
  .ite h (.ite h.dropWaiter.queueWakeEv h.dropWaiter)

theorem parkQ_sound {e : Env} {i : Instr} {va : DWord} {pa : Nat} {q : Qcb} {producer : Bool} {s : State}
    (h : s.Sound) :
    (parkQ e i va pa q producer s).Sound :=
  .ite (waitIn_sound h.writeQcb) (parkWith_sound h.writeQcb)

theorem enqueue_sound {i : Instr} {f : FQ} {blocking : Bool} {e : Env} {s : State} (h : s.Sound) :
    (enqueue i f blocking e s).Sound := by
  unfold enqueue
  dsimp only
  split
  · next hs1 => exact trapQ_sound (h.openQcb.of_eq hs1)
  · next hs1 =>
    have h1 := h.openQcb.of_eq hs1
    refine .ite (trapOwn_sound h1) ?_
    refine .ite (trapOwn_sound h1) ?_
    refine .ite ?_ ?_
    · split
      · next hs2 => exact trapOwn_sound (h1.useQcb.of_eq hs2)
      · next hs2 => exact .ite (parkQ_sound (h1.useQcb.of_eq hs2)) (tracked_sound (h1.useQcb.of_eq hs2))
    · split
      · next hs2 => exact trapQ_sound (h1.enqAddrs.of_eq hs2)
      · next hs2 => exact .ite (stall_sound h) (endQ_sound (settleQ_sound (h1.enqAddrs.of_eq hs2).release.enqCommit))

theorem execEnq_sound {f : FQ} {s : State} (h : s.Sound) : SoundNext (execEnq f s) :=
  issue_sound h fun _ _ ht => enqueue_sound ht

theorem execEnqnb_sound {f : FQ} {s : State} (h : s.Sound) : SoundNext (execEnqnb f s) :=
  issue_sound h fun _ _ ht => enqueue_sound ht

theorem dequeue_sound {i : Instr} {f : FQ} {blocking : Bool} {e : Env} {s : State} (h : s.Sound) :
    (dequeue i f blocking e s).Sound := by
  unfold dequeue
  dsimp only
  split
  · next hs1 => exact trapQ_sound (h.openQcb.of_eq hs1)
  · next hs1 =>
    have h1 := h.openQcb.of_eq hs1
    refine .ite (trapOwn_sound h1) ?_
    split
    · next hs2 => exact trapQ_sound (h1.readySlots.of_eq hs2)
    · next hs2 =>
      have h2 := h1.readySlots.of_eq hs2
      split
      · next hs3 => exact trapOwn_sound (h2.useQcb.of_eq hs3)
      · next hs3 =>
        have h3 := h2.useQcb.of_eq hs3
        refine .ite (parkQ_sound h3) ?_
        exact .ite (endQ_sound (settleQ_sound (.ite h3.acquire h3))) (endQ_sound (settleQ_sound h3.acquire.deqCommit))

theorem execDeq_sound {f : FQ} {s : State} (h : s.Sound) : SoundNext (execDeq f s) :=
  issue_sound h fun _ _ ht => dequeue_sound ht

theorem execDeqnb_sound {f : FQ} {s : State} (h : s.Sound) : SoundNext (execDeqnb f s) :=
  issue_sound h fun _ _ ht => dequeue_sound ht

theorem execQinit_sound {f : FQ} {s : State} (h : s.Sound) : SoundNext (execQinit f s) := by
  unfold execQinit
  dsimp only
  refine issue_sound h fun e t ht => ?_
  split
  · next hs1 => exact trapQ_sound (ht.reachQcb.of_eq hs1)
  · next hs1 =>
    have h1 := ht.reachQcb.of_eq hs1
    refine .ite ?_ ?_
    · split
      · next hs2 => exact trapOwn_sound (h1.useQcb.of_eq hs2)
      · next hs2 => exact tracked_sound (h1.useQcb.of_eq hs2)
    · refine .ite ?_ ?_
      · split
        · next hs2 => exact trapOwn_sound (h1.useQcb.of_eq hs2)
        · next hs2 => exact tracked_sound (h1.useQcb.of_eq hs2)
      · split
        · next hs2 => exact trapQ_sound (h1.findSlots.of_eq hs2)
        · next hs2 =>
          have h2 := h1.findSlots.of_eq hs2
          split
          · next hs3 => exact trapOwn_sound (h2.useQcb.of_eq hs3)
          · next hs3 =>
            exact tracked_sound ((((h2.useQcb.of_eq hs3).foldl fun _ _ ht => ht.slotEmpty).writeQcb).queueWakeEv)

theorem execQclose_sound {f : FQ} {s : State} (h : s.Sound) : SoundNext (execQclose f s) := by
  unfold execQclose
  dsimp only
  refine issue_sound h fun e t ht => ?_
  split
  · next hs1 => exact trapQ_sound (ht.openQcb.of_eq hs1)
  · next hs1 =>
    have h1 := ht.openQcb.of_eq hs1
    split
    · next hs2 => exact trapOwn_sound (h1.useQcb.of_eq hs2)
    · next hs2 =>
      exact .ite (stall_sound ht) (tracked_sound (.ite (h1.useQcb.of_eq hs2).release
          (h1.useQcb.of_eq hs2).release.writeQcb.queueWakeAll))

theorem execQstat_sound {f : FQ} {s : State} (h : s.Sound) : SoundNext (execQstat f s) := by
  unfold execQstat
  dsimp only
  refine issue_sound h fun e t ht => ?_
  split
  · next hs1 => exact trapQ_sound (ht.openQcb.of_eq hs1)
  · next hs1 =>
    have h1 := ht.openQcb.of_eq hs1
    split
    · next hs2 => exact trapOwn_sound (h1.useQcb.of_eq hs2)
    · next hs2 => exact tracked_sound (h1.useQcb.of_eq hs2)

theorem State.Sound.wakeQueue {s : State} {r : CoachRef} (h : s.Sound) : (s.wakeQueue r).Sound := by
  unfold State.wakeQueue
  dsimp only
  split
  · exact .ite h.uncount.modCoach h
  · exact h

theorem wakeEarliest_sound {n : Nat} {producer : Bool} {ms : List MonEntry} {s : State} (h : s.Sound) :
    (wakeEarliest n producer ms s).Sound := by
  induction ms generalizing s with
  | nil =>
    exact h
  | cons a r ih =>
    exact .ite (ih h.setSite) (.ite h.wakeQueue h)

theorem execQueueWake_sound {s : State} (h : s.Sound) : SoundNext (execQueueWake s) :=
  State.Sound.next (.ite ((wakeEarliest_sound h).flushAll) (wakeEarliest_sound h))

theorem execQueuePoll_sound {s : State} (h : s.Sound) : SoundNext (execQueuePoll s) := by
  unfold execQueuePoll
  dsimp only
  refine State.Sound.next ?_
  split
  · refine .ite h ?_
    split
    · exact h.addWin.wakeQueue
    · exact .ite h.wakeQueue h
  · exact h

/-! Matrix instructions at issue (Machine/Matrix.lean). -/

theorem xlateParts_sound {core : Option Nat} {site ctx : Nat} {need : Need} {l : List (DWord × Nat)} {s : State}
    (h : s.Sound) :
    (xlateParts core site ctx need l s).2.Sound := by
  induction l generalizing s with
  | nil =>
    exact h
  | cons a r ih =>
    unfold xlateParts
    split
    · next hs1 => exact h.translate.of_eq hs1
    · next hs1 =>
      have h1 := h.translate.of_eq hs1
      split
      · next hs2 => exact (ih h1).of_eq hs2
      · next hs2 => exact (ih h1).of_eq hs2

theorem partForm_sound {core : Option Nat} {site ctx op : Nat} {m : MOperand} {va : DWord} {lo : Nat}
    {p : Target × Nat} {s : State} (h : s.Sound) :
    (partForm core site ctx op m va lo p s).2.Sound := by
  unfold partForm
  dsimp only
  refine .iteSnd (.iteSnd h h) ?_
  split
  · next hs1 => exact h.frdOf.of_eq hs1
  · next hs1 =>
    have h1 := h.frdOf.of_eq hs1
    refine .iteSnd (.iteSnd h1 h1) ?_
    refine .iteSnd h1 ?_
    refine .iteSnd h1 ?_
    split
    · refine .iteSnd h1 ?_
      refine .iteSnd h1 ?_
      split
      · next hs2 => exact (xlateParts_sound h1).of_eq hs2
      · next hs2 => exact (xlateParts_sound h1).of_eq hs2
    · exact h1

theorem partForms_sound {core : Option Nat} {site ctx op : Nat} {m : MOperand} {va : DWord} {lo : Nat}
    {ps : List (Target × Nat)} {s : State} (h : s.Sound) :
    (partForms core site ctx op m va lo ps s).2.Sound := by
  induction ps generalizing lo s with
  | nil =>
    exact h
  | cons a r ih =>
    unfold partForms
    split
    · next hs1 => exact (partForm_sound h).of_eq hs1
    · next hs1 =>
      have h1 := (partForm_sound h).of_eq hs1
      split
      · next hs2 => exact (ih h1).of_eq hs2
      · next hs2 => exact (ih h1).of_eq hs2

theorem globalRow_sound {core : Option Nat} {site ctx op : Nat} {m : MOperand} {r : Nat} {s : State} (h : s.Sound) :
    (globalRow core site ctx op m r s).2.Sound := by
  unfold globalRow
  dsimp only
  split
  · next hs1 => exact (xlateParts_sound h).of_eq hs1
  · next hs1 =>
    have h1 := (xlateParts_sound h).of_eq hs1
    split
    · next hs2 => exact (partForms_sound h1).of_eq hs2
    · next hs2 => exact (partForms_sound h1).of_eq hs2

theorem globalRows_sound {core : Option Nat} {site ctx op : Nat} {m : MOperand} {rs : List Nat} {s : State}
    (h : s.Sound) :
    (globalRows core site ctx op m rs s).2.Sound := by
  induction rs generalizing s with
  | nil =>
    exact h
  | cons a r ih =>
    unfold globalRows
    dsimp only
    split <;> exact ih (globalRow_sound h)

theorem State.Sound.pinRace {s : State} {a : Acc} {l : List (Target × Nat)} (h : s.Sound) : (s.pinRace a l).2.Sound := by
  unfold State.pinRace
  split
  · exact h
  · exact .iteSnd h h.raceLines

theorem State.Sound.pinLine {s : State} {a : Acc} {l : List (Target × Nat)} (h : s.Sound) : (s.pinLine a l).2.Sound := by
  unfold State.pinLine
  dsimp only
  split
  · exact h.foldl fun _ _ ht => ht.homeTouch
  · split
    · next hs1 => exact ((h.foldl fun _ _ ht => ht.homeTouch).pinRace).of_eq hs1
    · next hs1 => exact ((h.foldl fun _ _ ht => ht.homeTouch).pinRace).of_eq hs1

theorem pinCheck_sound {a : Acc} {l : List (Target × Nat)} {s : State} (h : s.Sound) : (pinCheck a l s).2.Sound := by
  unfold pinCheck
  dsimp only
  refine h.foldlSnd fun q _ ht => ?_
  split
  · exact ht
  · exact ht.pinLine

theorem cleanParts_sound {core : Nat} {l : List (Target × Nat)} {s : State} (h : s.Sound) : (cleanParts core l s).Sound :=
  h.foldl fun _ _ ht => ht.foldl fun _ _ hu => hu.ccClean

theorem dropParts_sound {core : Nat} {l : List (Target × Nat)} {s : State} (h : s.Sound) : (dropParts core l s).Sound :=
  h.foldl fun _ _ ht => ht.ccPurge

theorem readGlobal_sound {core : Nat} {a : Acc} {op : Nat} {m : MOperand} {rows : List GRow} {s : State} (h : s.Sound) :
    (readGlobal core a op m rows s).2.2.Sound :=
  pinCheck_sound (cleanParts_sound h)

theorem acceptM_sound {e : Env} {op : MOp} {flight : Nat} {err : Option (Nat × Nat × DWord)} {b : Batch} {s : State}
    (h : s.Sound) :
    (acceptM e op flight err b s).Sound :=
  h.setCore

theorem captureOp_sound {e : Env} {op : Nat} {buf : Buf} {m : MOperand} {rows : List GRow} {s : State} (h : s.Sound) :
    (captureOp e op buf m rows s).2.2.Sound := by
  unfold captureOp
  dsimp only
  split
  · split
    · exact cleanParts_sound h
    · exact h
  · split
    · exact readGlobal_sound h
    · exact h

theorem probeOp_sound {e : Env} {op : Nat} {m : MOperand} {s : State} (h : s.Sound) : (probeOp e op m s).2.Sound :=
  .iteSnd (globalRows_sound h) h

theorem mmaIssue_sound {i : Instr} {op : Nat} {f : FX} {e : Env} {s : State} (h : s.Sound) :
    (mmaIssue i op f e s).Sound := by
  unfold mmaIssue
  extract_lets c acc tile a b regNo pa pb s1 r
  refine .ite (trapAll_sound h) (.ite (trapAll_sound h) (.ite (trapAll_sound h) (.ite (trapAll_sound h) (.ite
      (trapAll_sound h) ?_))))
  have h1 : s1.Sound := probeOp_sound (probeOp_sound h)
  clear_value s1 pa pb
  split
  · exact trapAll_sound h1
  · exact trapAll_sound h1
  · split
    · exact trapAll_sound h1
    · exact trapAll_sound h1
    · exact trapAll_sound h1
    · obtain ⟨(_ | _) | ga, -⟩ := pa
      · exact trapAll_sound h1
      · exact h1
      · obtain ⟨(_ | _) | gb, -⟩ := pb
        · exact trapAll_sound h1
        · exact h1
        · refine .ite (trapAll_sound h1) (.ite (trapAll_sound h1) (.ite (stall_sound h) ?_))
          exact accepted_sound (acceptM_sound (captureOp_sound (captureOp_sound h1)))

theorem execMmaBf16_sound {f : FX} {s : State} (h : s.Sound) : SoundNext (execMmaBf16 f s) :=
  issue_sound h fun _ _ ht => mmaIssue_sound ht

theorem execMmaF16_sound {f : FX} {s : State} (h : s.Sound) : SoundNext (execMmaF16 f s) :=
  issue_sound h fun _ _ ht => mmaIssue_sound ht

theorem execMmaE4m3_sound {f : FX} {s : State} (h : s.Sound) : SoundNext (execMmaE4m3 f s) :=
  issue_sound h fun _ _ ht => mmaIssue_sound ht

theorem execMmaE5m2_sound {f : FX} {s : State} (h : s.Sound) : SoundNext (execMmaE5m2 f s) :=
  issue_sound h fun _ _ ht => mmaIssue_sound ht

theorem execMmaE2m1_sound {f : FX} {s : State} (h : s.Sound) : SoundNext (execMmaE2m1 f s) :=
  issue_sound h fun _ _ ht => mmaIssue_sound ht

theorem execMmaE2m1x_sound {f : FX} {s : State} (h : s.Sound) : SoundNext (execMmaE2m1x f s) :=
  issue_sound h fun _ _ ht => mmaIssue_sound ht

theorem execMmaI8_sound {f : FX} {s : State} (h : s.Sound) : SoundNext (execMmaI8 f s) :=
  issue_sound h fun _ _ ht => mmaIssue_sound ht

theorem execMmaF32_sound {f : FX} {s : State} (h : s.Sound) : SoundNext (execMmaF32 f s) :=
  issue_sound h fun _ _ ht => mmaIssue_sound ht

theorem execMmaF64_sound {f : FX} {s : State} (h : s.Sound) : SoundNext (execMmaF64 f s) :=
  issue_sound h fun _ _ ht => mmaIssue_sound ht

theorem State.Sound.putDeck {s : State} {core d v : Nat} (h : s.Sound) : (s.putDeck core d v).Sound :=
  .ite h.logEvent (.ite h h.setDeck.logEvent)

theorem State.Sound.applyDecks {s : State} {core : Nat} (h : s.Sound) : (s.applyDecks core).Sound :=
  h.foldl fun _ _ ht => State.Sound.setCore (.ite ht.setDeck.logEvent ht.putDeck)

theorem execBfence_sound {f : RRR} {s : State} (h : s.Sound) : SoundNext (execBfence f s) := by
  unfold execBfence
  dsimp only
  refine issue_sound h fun e t ht => ?_
  exact .ite (stall_sound ht) (finishC_sound (.ite (((acceptM_sound ht).applyDecks).setCore)
      ((acceptM_sound ht).applyDecks)))

theorem execBwait_sound {f : RRR} {s : State} (h : s.Sound) : SoundNext (execBwait f s) := by
  unfold execBwait
  dsimp only
  refine issue_sound h fun e t ht => ?_
  exact .ite (trapAll_sound ht) (.ite (trapAll_sound ht) (.ite (waitIn_sound ht) (finish_sound ht.acquireOpt)))

theorem execMrep_sound {f : RRR} {s : State} (h : s.Sound) : SoundNext (execMrep f s) := by
  unfold execMrep
  dsimp only
  refine issue_sound h fun e t ht => ?_
  refine .ite (trapAll_sound ht) ?_
  split
  · exact .ite (track_sound ht) (track_sound ht)
  · exact track_sound ht

theorem execMqry_sound {f : RRR} {s : State} (h : s.Sound) : SoundNext (execMqry f s) := by
  unfold execMqry
  dsimp only
  refine issue_sound h fun e t ht => ?_
  split
  · exact track_sound ht
  · exact track_sound ht
  · exact track_sound ht
  · exact track_sound ht
  · exact trapAll_sound ht

theorem execAczero_sound {f : RRR} {s : State} (h : s.Sound) : SoundNext (execAczero f s) := by
  unfold execAczero
  dsimp only
  refine issue_sound h fun e t ht => ?_
  split
  · exact trapAll_sound ht
  · exact .ite (accepted_sound ht) (.ite (stall_sound ht) (accepted_sound (acceptM_sound ht.setCore)))

theorem execAcscl_sound {f : RRR} {s : State} (h : s.Sound) : SoundNext (execAcscl f s) := by
  unfold execAcscl
  dsimp only
  refine issue_sound h fun e t ht => ?_
  refine .ite (trapAll_sound ht) ?_
  split
  · exact trapAll_sound ht
  · exact .ite (trapAll_sound ht) (.ite (stall_sound ht) (accepted_sound (acceptM_sound ht)))

/-! The matrix queue (Machine/MatrixRun.lean). -/

theorem State.Sound.putEntry {s : State} {core : Nat} {m : MEntry} (h : s.Sound) : (s.putEntry core m).Sound :=
  h.setCore

theorem State.Sound.dropEntry {s : State} {core id : Nat} (h : s.Sound) : (s.dropEntry core id).Sound :=
  h.setCore

theorem State.Sound.setBatch {s : State} {core : Nat} {b : Batch} (h : s.Sound) : (s.setBatch core b).Sound :=
  h.setCore

theorem State.Sound.markInvalid {s : State} {core gid : Nat} {tiles : List Nat} (h : s.Sound) :
    (s.markInvalid core gid tiles).Sound :=
  h.setCore

theorem State.Sound.validate {s : State} {core gid : Nat} {tiles : List Nat} (h : s.Sound) :
    (s.validate core gid tiles).Sound :=
  h.setCore

theorem State.Sound.writeTile {s : State} {core gid n tile : Nat} {l : List DWord} (h : s.Sound) :
    (s.writeTile core gid n tile l).Sound :=
  h.setCore

theorem State.Sound.endRun {s : State} {core : Nat} {b : Batch} (h : s.Sound) : (s.endRun core b).Sound := by
  unfold State.endRun
  dsimp only
  split
  · exact h
  · exact h.writeTile.setBatch.orStatus

theorem State.Sound.endBwait {s : State} {core : Nat} {r : CoachRef} (h : s.Sound) : (s.endBwait core r).Sound := by
  unfold State.endBwait
  split
  · exact .ite h.wakeFrom h
  · exact h

theorem State.Sound.finishBatch {s : State} {core : Nat} {b : Batch} (h : s.Sound) : (s.finishBatch core b).Sound :=
  (h.setCore.modCoach.foldl fun _ _ ht => ht.completeWith).endBwait

theorem State.Sound.breakBatch {s : State} {core : Nat} {m : MEntry} (h : s.Sound) : (s.breakBatch core m).Sound := by
  unfold State.breakBatch
  dsimp only
  split
  · refine .ite ?_ ?_
    · refine State.Sound.finishBatch ?_
      split
      · exact h.endRun
      · exact h
    · refine State.Sound.setBatch ?_
      split
      · exact h.endRun
      · exact h
  · split
    · exact h.endRun
    · exact h

theorem State.Sound.skipEntry {s : State} {core : Nat} {m : MEntry} (h : s.Sound) : (s.skipEntry core m).Sound :=
  h.dropEntry.completeFlight.breakBatch

theorem State.Sound.matrixError {s : State} {core : Nat} {m : MEntry} {kind cause : Nat} {addr : DWord} (h : s.Sound) :
    (s.matrixError core m kind cause addr).Sound :=
  h.errorRecord.orStatus.markInvalid.setCore.dropEntry.completeFlight.breakBatch.foldl fun _ _ ht => ht.wakeFrom

theorem State.Sound.completeBatch {s : State} {core : Nat} {m : MEntry} (h : s.Sound) :
    (s.completeBatch core m).Sound := by
  unfold State.completeBatch
  split
  · exact h.dropEntry
  · exact h.dropEntry.finishBatch

theorem State.Sound.endRunOn {s : State} {core : Nat} {m : MEntry} {tiles : List Nat} (h : s.Sound) :
    (s.endRunOn core m tiles).Sound := by
  unfold State.endRunOn
  split
  · split
    · exact .ite h.endRun h
    · exact h
  · exact h

theorem State.Sound.mmaTurn {s : State} {core : Nat} {m : MEntry} {op tile : Nat} {zero : Bool} {p : Nat}
    {a b : MOperand} (h : s.Sound) :
    (s.mmaTurn core m op tile zero p a b).Sound := by
  unfold State.mmaTurn
  dsimp only
  split
  · exact h.skipEntry
  · refine .ite (State.Sound.skipEntry (.ite h.endRun h)) ?_
    split
    · exact State.Sound.laterOne (.ite h.endRun h) rfl
    · split
      · exact .ite h.endRun h
      · exact .ite (State.Sound.laterOne (State.Sound.addWin (State.Sound.orStatus (State.Sound.setCore
            (State.Sound.putEntry (State.Sound.setBatch (.ite h.endRun h)))))) rfl) (State.Sound.addWin
            (State.Sound.orStatus (State.Sound.setCore (State.Sound.putEntry (State.Sound.setBatch (.ite h.endRun h))))))

theorem State.Sound.entryTurn {s : State} {core : Nat} {m : MEntry} (h : s.Sound) : (s.entryTurn core m).Sound := by
  unfold State.entryTurn
  dsimp only
  split
  · exact .ite h.mmaTurn (.ite h h.setCore)
  · exact ((h.endRunOn.validate.foldl fun _ _ ht => ht.writeTile).dropEntry).completeFlight
  · exact .ite h.skipEntry (.ite (h.laterOne rfl) h.endRunOn.writeTile.orStatus.dropEntry.completeFlight)
  · refine State.Sound.laterOne ?_ rfl
    refine State.Sound.putEntry ?_
    split
    · exact h.endRun
    · exact h

theorem execMatrixPass_sound {s : State} (h : s.Sound) : SoundNext (execMatrixPass s) := by
  unfold execMatrixPass
  dsimp only
  refine State.Sound.next ?_
  refine .ite h ?_
  split
  · exact h.entryTurn
  · exact h

theorem execMmaComplete_sound {s : State} (h : s.Sound) : SoundNext (execMmaComplete s) := by
  unfold execMmaComplete
  refine State.Sound.next ?_
  split
  · split
    · exact h.dropEntry.completeFlight
    · exact h
  · exact h

theorem execBatchComplete_sound {s : State} (h : s.Sound) : SoundNext (execBatchComplete s) := by
  unfold execBatchComplete
  refine State.Sound.next ?_
  split
  · split
    · exact h.completeBatch
    · exact h
  · exact h

theorem execMatrixRuntimeError_sound {s : State} (h : s.Sound) : SoundNext (execMatrixRuntimeError s) := by
  unfold execMatrixRuntimeError
  refine State.Sound.next ?_
  split
  · split
    · exact h.matrixError
    · exact h
  · exact h

theorem gateOperand_sound {s : State} {core : Nat} {m : MEntry} {op : Nat} {buf : Buf} {x : MOperand} (h : s.Sound) :
    (gateOperand s core m op buf x).2.2.Sound := by
  unfold gateOperand
  dsimp only
  split
  · split
    · exact h
    · split
      · exact h
      · split
        · split
          · next hs1 => exact readGlobal_sound ((globalRows_sound h).of_eq hs1)
          · next hs1 => exact (globalRows_sound h).of_eq hs1
          · next hs1 => exact (globalRows_sound h).of_eq hs1
        · exact h
  · exact h

theorem execMmaGateStart_sound {s : State} (h : s.Sound) : SoundNext (execMmaGateStart s) := by
  unfold execMmaGateStart
  dsimp only
  refine State.Sound.next ?_
  split
  · split
    · split
      · exact .ite (((gateOperand_sound (gateOperand_sound h)).putEntry).laterOne rfl) ((gateOperand_sound
            (gateOperand_sound h)).putEntry)
      · exact .ite (((gateOperand_sound (gateOperand_sound h)).putEntry).laterOne rfl) ((gateOperand_sound
            (gateOperand_sound h)).putEntry)
      · exact (gateOperand_sound (gateOperand_sound h)).putEntry
    · exact h
  · exact h

theorem probeImage_sound {e : Env} {va : DWord} {need : Need} {s : State} (h : s.Sound) :
    (probeImage e va need s).2.Sound := by
  unfold probeImage
  refine .iteSnd h ?_
  split
  · next hs1 => exact (xlateParts_sound h).of_eq hs1
  · next hs1 => split <;> exact ((xlateParts_sound h).of_eq hs1)

theorem checkParts_sound {a : Acc} {kind : AccKind} {l : List (Target × Nat)} {s : State} (h : s.Sound) :
    (checkParts a kind l s).2.Sound := by
  unfold checkParts
  refine h.foldlSnd fun q _ ht => ?_
  split
  · exact ht
  · split
    · next hs1 => exact ht.homeCheck.of_eq hs1
    · next hs1 => exact (ht.homeCheck.of_eq hs1).homeTouch

theorem writeParts_sound {l : List (Target × Nat)} {bs : List Byte} {s : State} (h : s.Sound) :
    (writeParts l bs s).Sound := by
  induction l generalizing bs s with
  | nil =>
    exact h
  | cons a r ih =>
    exact ih h.homeWrite

theorem execMsave_sound {f : FS} {s : State} (h : s.Sound) : SoundNext (execMsave f s) := by
  unfold execMsave
  dsimp only
  refine issue_sound h fun e t ht => ?_
  split
  · next hs1 => exact trapAll_sound ((probeImage_sound ht).of_eq hs1)
  · next hs1 =>
    have h1 := (probeImage_sound ht).of_eq hs1
    split
    · next hs2 => exact trapAll_sound ((checkParts_sound h1).of_eq hs2)
    · next hs2 =>
      exact tracked_sound ((writeParts_sound (dropParts_sound ((checkParts_sound h1).of_eq hs2).setCore)).frame rfl rfl)

theorem execMrest_sound {f : FS} {s : State} (h : s.Sound) : SoundNext (execMrest f s) := by
  unfold execMrest
  dsimp only
  refine issue_sound h fun e t ht => ?_
  split
  · next hs1 => exact trapAll_sound ((probeImage_sound ht).of_eq hs1)
  · next hs1 =>
    have h1 := (probeImage_sound ht).of_eq hs1
    split
    · next hs2 => exact trapAll_sound ((checkParts_sound h1).of_eq hs2)
    · next hs2 =>
      exact .ite (trapAll_sound (cleanParts_sound ((checkParts_sound h1).of_eq hs2))) (tracked_sound
          ((cleanParts_sound ((checkParts_sound h1).of_eq hs2)).setCore))

theorem State.Sound.liftHalt {s : State} {core ctx : Nat} (h : s.Sound) : (s.liftHalt core ctx).Sound :=
  h.setCore

theorem State.Sound.performHeld {fuel : Nat} {s : State} {core : Nat} {ids : List Nat} (h : s.Sound) :
    (State.performHeld fuel s core ids).Sound := by
  induction fuel generalizing s with
  | zero =>
    exact h
  | succ n ih =>
    unfold State.performHeld
    split
    · exact h
    · exact ih h.entryTurn

theorem State.Sound.eresMatrix {s : State} {core ctx : Nat} {discard : Bool} (h : s.Sound) :
    (s.eresMatrix core ctx discard).2.Sound :=
  .iteSnd h (.iteSnd h.liftHalt ((h.liftHalt.foldl fun _ _ ht => ht.skipEntry).performHeld))

/-! The tin unit (Machine/Tin.lean). -/

theorem State.Sound.flightTrap {s : State} {r : CoachRef} {id : Nat} {cause : Cause} {addr : DWord} (h : s.Sound) :
    (s.flightTrap r id cause addr).Sound := by
  unfold State.flightTrap
  dsimp only
  split
  · exact h.cancelWait
  · split
    · exact h.cancelWait
    · split <;> exact h.cancelWait.setCoach.takeTrap

theorem tinDone_sound {t : Nat} {x : Tin} {s : State} {r : CoachRef} (h : s.Sound) : (tinDone t x s r).Sound := by
  unfold tinDone
  dsimp only
  split
  · exact h
  · exact State.Sound.foldl (.ite (.ite h.modCoach (finish_sound h.acquire)) h) fun _ _ ht => ht.acquire.completeFlight

theorem tinFails_sound {t : Nat} {s : State} {r : CoachRef} (h : s.Sound) : (tinFails t s r).Sound := by
  unfold tinFails
  dsimp only
  split
  · exact h
  · split
    · exact h.flightTrap
    · refine .ite ?_ h
      split
      · exact .ite h.modCoach (trapAll_sound h)
      · exact h.modCoach

theorem State.Sound.putTin {s : State} {core t : Nat} {x : Tin} (h : s.Sound) : (s.putTin core t x).Sound := by
  unfold State.putTin
  dsimp only
  refine .ite ?_ ?_
  · exact .ite (h.setCore.foldl fun _ _ ht => tinDone_sound ht) (.ite (h.setCore.foldl
        fun _ _ ht => tinFails_sound ht) h.setCore)
  · refine State.Sound.laterMap ?_ rfl
    exact .ite (h.setCore.foldl fun _ _ ht => tinDone_sound ht) (.ite (h.setCore.foldl
        fun _ _ ht => tinFails_sound ht) h.setCore)

theorem State.Sound.tinArrive {s : State} {core t n : Nat} {k : Word} {wide : Bool} (h : s.Sound) :
    (s.tinArrive core t n k wide).Sound :=
  h.putTin

theorem State.Sound.tinDrop {s : State} {core : Nat} (h : s.Sound) : (s.tinDrop core).Sound :=
  h.addWin

theorem State.Sound.tinError {s : State} {core t : Nat} (h : s.Sound) : (s.tinError core t).Sound :=
  .ite h h.putTin

theorem State.Sound.tinDrain {s : State} {core t : Nat} (h : s.Sound) : (s.tinDrain core t).Sound :=
  h.putTin

theorem State.Sound.tinRelease {s : State} {core t : Nat} (h : s.Sound) : (s.tinRelease core t).Sound :=
  h.putTin

theorem tinOp_sound {i : Instr} {f : FC} {act : Nat → Tin → Env → State → State} {e : Env} {s : State}
    (hact : ∀ n x e t, State.Sound t → (act n x e t).Sound) (h : s.Sound) :
    (tinOp i f act e s).Sound := by
  unfold tinOp
  dsimp only
  split
  · exact trapAll_sound h
  · exact hact _ _ _ _ h

theorem execTininit_sound {f : FC} {s : State} (h : s.Sound) : SoundNext (execTininit f s) :=
  issue_sound h fun _ _ ht => tinOp_sound (fun _ _ _ _ hu => .ite (trapAll_sound hu) (.ite (trapAll_sound hu)
      (accepted_sound hu.putTin))) ht

theorem execTinwait_sound {f : FC} {s : State} (h : s.Sound) : SoundNext (execTinwait f s) := by
  unfold execTinwait
  dsimp only
  refine issue_sound h fun e t ht => ?_
  refine tinOp_sound ?_ ht
  intro _ _ _ _ hu
  refine .ite (trapAll_sound hu) ?_
  exact .ite (.ite (stall_sound hu) (tracked_sound hu.acquire)) (.ite (waitIn_sound hu) (track_sound hu))

theorem execTinrel_sound {f : FC} {s : State} (h : s.Sound) : SoundNext (execTinrel f s) :=
  issue_sound h fun _ _ ht => tinOp_sound (fun _ _ _ _ hu => .ite (trapAll_sound hu) (accepted_sound hu.putTin)) ht

theorem execTinkill_sound {f : FC} {s : State} (h : s.Sound) : SoundNext (execTinkill f s) := by
  unfold execTinkill
  refine issue_sound h fun e t ht => ?_
  refine tinOp_sound ?_ ht
  intro _ _ _ _ hu
  refine accepted_sound ?_
  split
  · exact hu
  · exact hu.putTin
  · exact hu.putTin

theorem execTinq_sound {f : FC} {s : State} (h : s.Sound) : SoundNext (execTinq f s) :=
  issue_sound h fun _ _ ht => tinOp_sound (fun _ _ _ _ hu => track_sound hu) ht

/-! The optical links (Machine/Links.lean). -/

theorem State.Sound.logLink {s : State} {n f : Nat} (h : s.Sound) : (s.logLink n f).Sound :=
  h.logEvent

theorem State.Sound.losePort {s : State} {n : Nat} (h : s.Sound) : (s.losePort n).Sound := by
  unfold State.losePort
  refine .ite h (h.later fun ev hev => ?_)
  rcases List.mem_append.mp hev with hev | hev <;> obtain ⟨x, -, rfl⟩ := List.mem_map.mp hev <;> rfl

theorem State.Sound.linkDown {s : State} {n f d : Nat} (h : s.Sound) : (s.linkDown n f d).Sound :=
  h.setLstat.setLink.logLink.losePort

theorem execOhealthUpdate_sound {s : State} (h : s.Sound) : SoundNext (execOhealthUpdate s) := by
  unfold execOhealthUpdate
  dsimp only
  refine State.Sound.next (.ite h (.ite ?_ (.ite ?_ (.ite ?_ h.setWin.setLink))))
  · refine h.setWin.setLink.later fun ev hev => ?_
    rw [List.mem_singleton.mp hev]
    split <;> rfl
  · exact h.setWin.setLink.setLstat.setLink
  · exact h.setWin.setLink.setLstat.setLink

theorem State.Sound.lanesMoved {s : State} {n f d g : Nat} {narrowing : Bool} (h : s.Sound) :
    (s.lanesMoved n f d g narrowing).Sound := by
  unfold State.lanesMoved
  dsimp only
  refine State.Sound.logLink ?_
  exact .ite h.setLstat.setLink.setLink (State.Sound.pumpAll (.ite h.setLstat.setLink h.setLstat.setLink.sendFlits))

theorem execLinkNarrow_sound {s : State} (h : s.Sound) : SoundNext (execLinkNarrow s) := by
  unfold execLinkNarrow
  dsimp only
  refine State.Sound.next ?_
  refine .ite h ?_
  split
  · exact .ite h.lanesMoved h
  · exact h
  · refine .ite h ?_
    refine .ite h.linkDown ?_
    split
    · exact h.linkDown
    · exact h.setLstat.setLink

theorem execLinkWiden_sound {s : State} (h : s.Sound) : SoundNext (execLinkWiden s) := by
  unfold execLinkWiden
  dsimp only
  refine State.Sound.next ?_
  refine .ite h ?_
  split
  · exact .ite h.lanesMoved h
  · exact h
  · exact .ite h.setLstat.setLink h

theorem execLinkAcknowledgement_sound {s : State} (h : s.Sound) : SoundNext (execLinkAcknowledgement s) :=
  State.Sound.next (.ite h (.ite h.setLink.pumpAll h))

theorem execOnewayEnter_sound {s : State} (h : s.Sound) : SoundNext (execOnewayEnter s) :=
  State.Sound.next (.ite h (.ite h.setLstat.setLink h))

theorem execOnewayHoldExpiry_sound {s : State} (h : s.Sound) : SoundNext (execOnewayHoldExpiry s) := by
  unfold execOnewayHoldExpiry
  dsimp only
  refine State.Sound.next ?_
  refine .ite h ?_
  split
  · exact .ite h.linkDown h
  · exact h

theorem execPowerStateAnnounce_sound {s : State} (h : s.Sound) : SoundNext (execPowerStateAnnounce s) :=
  State.Sound.next (.ite h (.ite (.ite h.setLstat.setLink (.ite h.setLink h)) (.ite h h.setWin.setLink)))

theorem execLinkWake_sound {s : State} (h : s.Sound) : SoundNext (execLinkWake s) :=
  State.Sound.next (.ite h (.ite h.setWin.setLink h))

theorem execLaserStateReached_sound {s : State} (h : s.Sound) : SoundNext (execLaserStateReached s) :=
  State.Sound.next (.ite h h.setWin.setLstat.setLstat.pumpAll)

theorem execRelightLockTimeout_sound {s : State} (h : s.Sound) : SoundNext (execRelightLockTimeout s) := by
  unfold execRelightLockTimeout
  dsimp only
  refine State.Sound.next ?_
  refine .ite h ?_
  split
  · exact .ite (h.setLink.laterOne rfl) h
  · exact h

theorem execArbiterRound_sound {s : State} (h : s.Sound) : SoundNext (execArbiterRound s) :=
  State.Sound.next (.ite h.setLink h)

theorem execSlotStart_sound {s : State} (h : s.Sound) : SoundNext (execSlotStart s) :=
  State.Sound.next (.ite h (.ite h (.ite h.setLink.pumpAll h.setLink.report.logEvent)))

theorem execSlotEnd_sound {s : State} (h : s.Sound) : SoundNext (execSlotEnd s) := by
  unfold execSlotEnd
  dsimp only
  refine State.Sound.next ?_
  refine .ite h ?_
  split
  · exact h
  · exact h.setLink

/-! Copies (Machine/Copy.lean). -/

theorem State.Sound.setQueue {s : State} {site q : Nat} {l : List CopyEntry} (h : s.Sound) :
    (s.setQueue site q l).Sound :=
  h.setSite

theorem State.Sound.putCopy {s : State} {site q : Nat} {c : CopyEntry} (h : s.Sound) : (s.putCopy site q c).Sound :=
  h.setQueue

theorem State.Sound.dropCopy {s : State} {site q id : Nat} (h : s.Sound) : (s.dropCopy site q id).Sound :=
  h.setQueue

theorem readBlock_sound {e : Env} {va : DWord} {n align : Nat} {s : State} (h : s.Sound) :
    (readBlock e va n align s).2.Sound := by
  unfold readBlock
  refine .iteSnd h ?_
  split
  · next hs1 => exact h.translate.of_eq hs1
  · next hs1 =>
    have h1 := h.translate.of_eq hs1
    refine .iteSnd h1 ?_
    refine .iteSnd h1 ?_
    split
    · exact h1
    · exact h1.homeTouch

theorem probeRange_sound {e : Env} {need : Need} {va : DWord} {n : Nat} {s : State} (h : s.Sound) :
    (probeRange e need va n s).2.2.Sound := by
  unfold probeRange
  split
  · next hs1 => exact (xlateParts_sound h).of_eq hs1
  · next hs1 => split <;> exact ((xlateParts_sound h).of_eq hs1)

theorem xferCheck_sound {l : List (Target × Nat)} {s : State} (h : s.Sound) : (xferCheck l s).2.Sound := by
  unfold xferCheck
  split
  · exact h
  · exact h.foldl fun _ _ ht => ht.homeTouch

theorem probeRanges_sound {e : Env} {need : Need} {l : List (DWord × Nat)} {s : State} (h : s.Sound) :
    (probeRanges e need l s).2.2.Sound := by
  induction l generalizing s with
  | nil =>
    exact h
  | cons a r ih =>
    unfold probeRanges
    split
    · next hs1 => exact (probeRange_sound h).of_eq₂ hs1
    · next hs1 =>
      have h1 := (probeRange_sound h).of_eq₂ hs1
      split
      · next hs2 => exact (ih h1).of_eq₂ hs2
      · next hs2 => exact (ih h1).of_eq₂ hs2

theorem State.Sound.pageFormat {s : State} {core : Option Nat} {site ctx : Nat} {need : Need} {va : DWord}
    (h : s.Sound) :
    (s.pageFormat core site ctx need va).2.Sound := by
  unfold State.pageFormat
  split
  · next hs1 => exact h.translate.of_eq hs1
  · next hs1 =>
    have h1 := h.translate.of_eq hs1
    split
    · next hs2 => exact h1.formatAt.of_eq hs2
    · next hs2 => exact h1.formatAt.of_eq hs2

theorem encRuns_sound {core : Option Nat} {site ctx : Nat} {need : Need} {fmt : Nat} {l : List (DWord × Nat)}
    {lo : Nat} {s : State} (h : s.Sound) :
    (encRuns core site ctx need fmt l lo s).2.Sound := by
  induction l generalizing lo s with
  | nil =>
    exact h
  | cons a r ih =>
    unfold encRuns
    split
    · next hs1 => exact h.pageFormat.of_eq hs1
    · next hs1 =>
      have h1 := h.pageFormat.of_eq hs1
      split
      · exact h1
      · next hs2 => exact (ih h1).of_eq hs2
      · next hs2 => exact (ih h1).of_eq hs2

theorem State.Sound.rowRuns {s : State} {core : Option Nat} {site ctx : Nat} {need : Need} {va : DWord} {rb : Nat}
    (h : s.Sound) :
    (s.rowRuns core site ctx need va rb).2.Sound := by
  unfold State.rowRuns
  dsimp only
  split
  · next hs1 => exact h.pageFormat.of_eq hs1
  · next hs1 =>
    have h1 := h.pageFormat.of_eq hs1
    split
    · exact h1
    · next hs2 => exact (encRuns_sound h1).of_eq hs2
    · next hs2 => exact .iteSnd ((encRuns_sound h1).of_eq hs2) ((encRuns_sound h1).of_eq hs2)

theorem probeRows_sound {e : Env} {need : Need} {p : CopyParams} {at_ : Nat → Nat → DWord} {rs : List Nat}
    {fmt : Option Nat} {s : State} (h : s.Sound) :
    (probeRows e need p at_ rs fmt s).2.Sound := by
  induction rs generalizing fmt s with
  | nil =>
    exact h
  | cons a r ih =>
    unfold probeRows
    dsimp only
    split
    · next hs1 => exact h.rowRuns.of_eq hs1
    · next hs1 =>
      have h1 := h.rowRuns.of_eq hs1
      refine .iteSnd h1 ?_
      split
      · next hs2 => exact (probeRanges_sound h1).of_eq₂ hs2
      · next hs2 =>
        have h2 := (probeRanges_sound h1).of_eq₂ hs2
        split
        · next hs3 => exact (ih h2).of_eq hs3
        · next hs3 => exact (ih h2).of_eq hs3

theorem probeCopy_sound {e : Env} {k : CopyKind} {p : CopyParams} {rs : List Nat} {fmt : Option Nat} {s : State}
    (h : s.Sound) :
    (probeCopy e k p rs fmt s).2.Sound := by
  unfold probeCopy
  dsimp only
  split
  · next s1 hs1 =>
    have h1 : s1.Sound := by
      refine State.Sound.of_eq ?_ hs1
      refine .iteSnd (.iteSnd (probeRows_sound h) h) ?_
      refine .iteSnd ?_ h
      split
      · next hs2 => exact (probeRanges_sound h).of_eq₂ hs2
      · next hs2 => exact (probeRanges_sound h).of_eq₂ hs2
    exact h1
  · next s1 hs1 =>
    have h1 : s1.Sound := by
      refine State.Sound.of_eq ?_ hs1
      refine .iteSnd (.iteSnd (probeRows_sound h) h) ?_
      refine .iteSnd ?_ h
      split
      · next hs2 => exact (probeRanges_sound h).of_eq₂ hs2
      · next hs2 => exact (probeRanges_sound h).of_eq₂ hs2
    split
    · next s2 hs2 =>
      have h2 : s2.Sound := by
        refine State.Sound.of_eq ?_ hs2
        refine .iteSnd (.iteSnd (probeRows_sound h1) h1) ?_
        refine .iteSnd ?_ h1
        split
        · next hs3 => exact (probeRanges_sound h1).of_eq₂ hs3
        · next hs3 => exact (probeRanges_sound h1).of_eq₂ hs3
      exact h2
    · next s2 hs2 =>
      have h2 : s2.Sound := by
        refine State.Sound.of_eq ?_ hs2
        refine .iteSnd (.iteSnd (probeRows_sound h1) h1) ?_
        refine .iteSnd ?_ h1
        split
        · next hs3 => exact (probeRanges_sound h1).of_eq₂ hs3
        · next hs3 => exact (probeRanges_sound h1).of_eq₂ hs3
      exact h2

theorem copyParams_sound {e : Env} {mine : Option CopyEntry} {va : DWord} {s : State} (h : s.Sound) :
    (copyParams e mine va s).2.Sound := by
  unfold copyParams
  split
  · exact h
  · exact readBlock_sound h

theorem copyIssue_sound {i : Instr} {f : FC} {k : CopyKind} {e : Env} {s : State} (h : s.Sound) :
    (copyIssue i f k e s).Sound := by
  unfold copyIssue
  dsimp only
  split
  · next hs1 => exact trapAll_sound ((copyParams_sound h).of_eq hs1)
  · next hs1 =>
    have h1 := (copyParams_sound h).of_eq hs1
    split
    · exact trapAll_sound h1
    · split
      · next hs2 => exact trapAll_sound ((probeCopy_sound h1).of_eq hs2)
      · next hs2 =>
        have h2 := (probeCopy_sound h1).of_eq hs2
        refine .ite (trapAll_sound h2) ?_
        refine .ite (stall_sound h) ?_
        refine .ite (stall_sound h) ?_
        refine accepted_sound ?_
        refine .ite ?_ ?_
        · split
          · exact State.Sound.putCopy (dropParts_sound (cleanParts_sound (.iteSnd h2.release h2)))
          · exact State.Sound.setQueue (State.Sound.setSite (dropParts_sound (cleanParts_sound (.iteSnd h2.release h2))))
        · refine State.Sound.modCoach ?_
          split
          · exact State.Sound.putCopy (dropParts_sound (cleanParts_sound (.iteSnd h2.release h2)))
          · exact State.Sound.setQueue (State.Sound.setSite (dropParts_sound (cleanParts_sound (.iteSnd h2.release h2))))

theorem execCpy_sound {f : FC} {s : State} (h : s.Sound) : SoundNext (execCpy f s) :=
  issue_sound h fun _ _ ht => copyIssue_sound ht

theorem execCpym_sound {f : FC} {s : State} (h : s.Sound) : SoundNext (execCpym f s) :=
  issue_sound h fun _ _ ht => copyIssue_sound ht

theorem execCpyt_sound {f : FC} {s : State} (h : s.Sound) : SoundNext (execCpyt f s) :=
  issue_sound h fun _ _ ht => copyIssue_sound ht

theorem execQfence_sound {f : FC} {s : State} (h : s.Sound) : SoundNext (execQfence f s) := by
  unfold execQfence
  dsimp only
  refine issue_sound h fun e t ht => ?_
  refine .ite (trapAll_sound ht) ?_
  exact .ite (accepted_sound ht) (.ite (stall_sound ht) (accepted_sound (ht.setSite.foldl fun _ _ ht => ht.setQueue)))

theorem State.Sound.endFlights {s : State} {c : CopyEntry} (h : s.Sound) : (s.endFlights c).Sound :=
  h.foldl fun _ _ ht => ht.completeFlight

theorem State.Sound.endCopy {s : State} {site q : Nat} {c : CopyEntry} (h : s.Sound) : (s.endCopy site q c).Sound := by
  unfold State.endCopy
  dsimp only
  refine State.Sound.endFlights ?_
  split
  · exact (h.dropCopy.foldl fun _ _ ht => ht.foldl fun _ _ hu => hu.unqueue).tinRelease
  · exact h.dropCopy.foldl fun _ _ ht => ht.foldl fun _ _ hu => hu.unqueue

theorem execCopyStart_sound {s : State} (h : s.Sound) : SoundNext (execCopyStart s) := by
  unfold execCopyStart
  dsimp only
  refine State.Sound.next ?_
  split
  · exact h
  · split
    · exact .ite (State.Sound.endFlights (h.foldl fun _ _ ht => .ite ht.dropCopy ht)) h
    · refine .ite h ?_
      split
      · exact h.putCopy.tinDrain
      · exact h.putCopy

theorem readGlob_sound {site : Nat} {a : Acc} {l : List (DWord × Nat)} {s : State} (h : s.Sound) :
    (readGlob site a l s).2.Sound := by
  induction l generalizing s with
  | nil =>
    exact h
  | cons a r ih =>
    unfold readGlob
    split
    · next hs1 => exact h.translate.of_eq hs1
    · next hs1 =>
      have h1 := h.translate.of_eq hs1
      split
      · next hs2 => exact h1.homeCheck.of_eq hs2
      · next hs2 =>
        have h2 := h1.homeCheck.of_eq hs2
        split
        · next hs3 => exact (ih h2.homeTouch).of_eq hs3
        · next hs3 => exact (ih h2.homeTouch).of_eq hs3

theorem writeGlob_sound {site : Nat} {a : Acc} {l : List (DWord × Nat)} {bs : List Byte} {s : State} (h : s.Sound) :
    (writeGlob site a l bs s).2.Sound := by
  induction l generalizing bs s with
  | nil =>
    exact h
  | cons a r ih =>
    unfold writeGlob
    split
    · next hs1 => exact h.translate.of_eq hs1
    · next hs1 =>
      have h1 := h.translate.of_eq hs1
      split
      · next hs2 => exact h1.homeCheck.of_eq hs2
      · next hs2 => exact ih (h1.homeCheck.of_eq hs2).homeTouch.homeStore.ccForget

theorem CopyEntry.readAt_sound {c : CopyEntry} {site kind : Nat} {va : DWord} {n : Nat} {s : State} (h : s.Sound) :
    (CopyEntry.readAt c site kind va n s).2.Sound := by
  unfold CopyEntry.readAt
  dsimp only
  split
  · split <;> exact h
  · exact readGlob_sound h

theorem CopyEntry.writeAt_sound {c : CopyEntry} {site kind : Nat} {va : DWord} {bs : List Byte} {s : State}
    (h : s.Sound) :
    (CopyEntry.writeAt c site kind va bs s).2.Sound := by
  unfold CopyEntry.writeAt
  dsimp only
  split
  · exact h.setCore
  · exact writeGlob_sound h

theorem CopyEntry.encodeRuns_sound {c : CopyEntry} {site row : Nat} {l : List EncRun} {bs : List Byte} {s : State}
    (h : s.Sound) :
    (CopyEntry.encodeRuns c site row l bs s).2.Sound := by
  induction l generalizing bs s with
  | nil =>
    exact h
  | cons a r ih =>
    unfold CopyEntry.encodeRuns
    dsimp only
    split
    · next hs1 => exact (CopyEntry.writeAt_sound h).of_eq hs1
    · next hs1 =>
      have h1 := (CopyEntry.writeAt_sound h).of_eq hs1
      split
      · next hs2 => exact (writeGlob_sound h1).of_eq hs2
      · next hs2 =>
        have h2 := (writeGlob_sound h1).of_eq hs2
        split
        · next hs3 => exact (ih h2).of_eq hs3
        · next hs3 => exact (ih h2).of_eq hs3

theorem CopyEntry.decodeRuns_sound {c : CopyEntry} {site row : Nat} {l : List EncRun} {bs : List Byte} {s : State}
    (h : s.Sound) :
    (CopyEntry.decodeRuns c site row l bs s).2.Sound := by
  induction l generalizing bs s with
  | nil =>
    exact h
  | cons a r ih =>
    unfold CopyEntry.decodeRuns
    dsimp only
    split
    · next hs1 => exact (readGlob_sound h).of_eq hs1
    · next hs1 =>
      have h1 := (readGlob_sound h).of_eq hs1
      split
      · next hs2 => exact (CopyEntry.writeAt_sound h1).of_eq hs2
      · next hs2 =>
        have h2 := (CopyEntry.writeAt_sound h1).of_eq hs2
        split
        · next hs3 => exact (ih h2).of_eq hs3
        · next hs3 => exact (ih h2).of_eq hs3

theorem CopyEntry.runsAt_sound {c : CopyEntry} {site : Nat} {need : Need} {va : DWord} {lo n : Nat} {s : State}
    (h : s.Sound) :
    (CopyEntry.runsAt c site need va lo n s).2.Sound := by
  unfold CopyEntry.runsAt
  split
  · next hs1 => exact h.rowRuns.of_eq hs1
  · next hs1 => exact h.rowRuns.of_eq hs1

theorem CopyEntry.movePiece_sound {c : CopyEntry} {site : Nat} {pc : Nat × Nat × Nat} {s : State} (h : s.Sound) :
    (CopyEntry.movePiece c site pc s).2.Sound := by
  unfold CopyEntry.movePiece
  dsimp only
  split
  · next hs1 => exact (CopyEntry.readAt_sound h).of_eq hs1
  · next hs1 =>
    have h1 := (CopyEntry.readAt_sound h).of_eq hs1
    split
    · split
      · next hs2 => exact (CopyEntry.runsAt_sound h1).of_eq hs2
      · next hs2 => exact CopyEntry.encodeRuns_sound ((CopyEntry.runsAt_sound h1).of_eq hs2)
    · split
      · next hs2 => exact (CopyEntry.runsAt_sound h1).of_eq hs2
      · next hs2 => exact CopyEntry.decodeRuns_sound ((CopyEntry.runsAt_sound h1).of_eq hs2)
    · split
      · next hs2 => exact (CopyEntry.writeAt_sound h1).of_eq hs2
      · next hs2 => exact (CopyEntry.writeAt_sound h1).of_eq hs2

theorem CopyEntry.movePieces_sound {c : CopyEntry} {site : Nat} {l : List (Nat × Nat × Nat)} {s : State} (h : s.Sound) :
    (CopyEntry.movePieces c site l s).2.Sound := by
  induction l generalizing s with
  | nil =>
    exact h
  | cons a r ih =>
    unfold CopyEntry.movePieces
    split
    · next hs1 => exact (CopyEntry.movePiece_sound h).of_eq hs1
    · next hs1 =>
      have h1 := (CopyEntry.movePiece_sound h).of_eq hs1
      split
      · next hs2 => exact (ih h1).of_eq hs2
      · next hs2 => exact (ih h1).of_eq hs2

theorem CopyEntry.readPieces_sound {c : CopyEntry} {site : Nat} {l : List (Nat × Nat × Nat)} {s : State} (h : s.Sound) :
    (CopyEntry.readPieces c site l s).2.Sound := by
  induction l generalizing s with
  | nil =>
    exact h
  | cons a r ih =>
    unfold CopyEntry.readPieces
    dsimp only
    split
    · next hs1 => exact (CopyEntry.readAt_sound h).of_eq hs1
    · next hs1 =>
      have h1 := (CopyEntry.readAt_sound h).of_eq hs1
      split
      · next hs2 => exact (ih h1).of_eq hs2
      · next hs2 => exact (ih h1).of_eq hs2

theorem State.Sound.served {s : State} {site q : Nat} (h : s.Sound) : (s.served site q).Sound :=
  h.setSite

theorem State.Sound.copyFails {s : State} {site q : Nat} {c : CopyEntry} {pos : Nat} {z : CopyErr} (h : s.Sound) :
    (s.copyFails site q c pos z).Sound :=
  h.putCopy.laterOne rfl

theorem State.Sound.markLost {s : State} {core t : Nat} (h : s.Sound) : (s.markLost core t).Sound := by
  unfold State.markLost
  dsimp only
  split
  · exact h
  · split
    · next hs1 => exact h.devAddr.of_eq hs1
    · next hs1 => exact .ite (h.devAddr.of_eq hs1) (h.devAddr.of_eq hs1).homeWrite

theorem State.Sound.deliverPacket {s : State} {c : CopyEntry} {p : CopyPacket} (h : s.Sound) :
    (s.deliverPacket c p).Sound := by
  unfold State.deliverPacket
  dsimp only
  split
  · exact h
  · split
    · exact .ite h.setCore.tinArrive h.tinDrop
    · exact h.tinDrop.markLost

theorem State.Sound.landPacket {s : State} {site q : Nat} {c : CopyEntry} {p : CopyPacket} (h : s.Sound) :
    (s.landPacket site q c p).Sound :=
  h.setQueue.deliverPacket

theorem State.Sound.landAll {s : State} {site engine : Nat} {l : List CopyPacket} (h : s.Sound) :
    (s.landAll site engine l).Sound :=
  h.foldl fun _ _ ht => ht.landPacket

theorem State.Sound.landFor {s : State} {site engine core : Nat} (h : s.Sound) :
    (s.landFor site engine core).Sound :=
  h.foldl fun _ _ ht => ht.landPacket

theorem State.Sound.chunkDone {s : State} {site q : Nat} {c : CopyEntry} {n : Nat} (h : s.Sound) :
    (s.chunkDone site q c n).Sound := by
  unfold State.chunkDone
  dsimp only
  refine .ite ?_ ?_
  · refine State.Sound.endCopy ?_
    split
    · exact h.putCopy.tinArrive
    · exact h.putCopy
  · split
    · exact h.putCopy.tinArrive
    · exact h.putCopy

theorem State.Sound.moveChunk {s0 : State} {site q : Nat} {c : CopyEntry} {pos : Nat} (h : s0.Sound) :
    (s0.moveChunk site q c pos).Sound := by
  unfold State.moveChunk
  dsimp only
  refine .ite ?_ ?_
  · exact .ite (State.Sound.endCopy (State.Sound.tinDrop (State.Sound.putCopy (.ite h.landFor h))))
        (State.Sound.tinDrop (State.Sound.putCopy (.ite h.landFor h)))
  · split
    · next s1 hs1 =>
      have h1 : s1.Sound := by
        refine State.Sound.of_eq ?_ hs1
        exact CopyEntry.movePieces_sound (.ite h.landFor h)
      exact h1.copyFails
    · next s1 hs1 =>
      have h1 : s1.Sound := by
        refine State.Sound.of_eq ?_ hs1
        exact CopyEntry.movePieces_sound (.ite h.landFor h)
      exact h1.orStatus.chunkDone

theorem State.Sound.sendChunk {s : State} {site q : Nat} {c : CopyEntry} {n : Nat} {m : List (Nat × List Byte)}
    (h : s.Sound) :
    (s.sendChunk site q c n m).Sound :=
  h.setSite.putCopy

theorem State.Sound.nextChunk {s0 : State} {site q : Nat} {c : CopyEntry} (h : s0.Sound) :
    (s0.nextChunk site q c).Sound := by
  unfold State.nextChunk
  dsimp only
  split
  · exact h.served.copyFails
  · refine .ite ?_ ?_
    · split
      · next hs1 => exact ((CopyEntry.readPieces_sound h.served).of_eq hs1).copyFails
      · next hs1 => exact ((CopyEntry.readPieces_sound h.served).of_eq hs1).sendChunk
    · split
      · exact .ite h.served.copyFails (.ite h.served.putCopy.queuePackets h.served.moveChunk)
      · exact h.served.moveChunk

theorem State.Sound.evacChunk {s0 : State} {site : Nat} (h : s0.Sound) : (s0.evacChunk site).Sound := by
  unfold State.evacChunk
  dsimp only
  split
  · exact h.served
  · exact .ite h.served.setSite h.served.setSite.setWin

theorem State.Sound.landChunk {s : State} {site q id at_ : Nat} (h : s.Sound) :
    (s.landChunk site q id at_).Sound := by
  unfold State.landChunk
  split
  · exact (h.foldl fun _ _ ht => ht.unqueue).moveChunk
  · exact h

theorem execCopyChunk_sound {s : State} (h : s.Sound) : SoundNext (execCopyChunk s) := by
  unfold execCopyChunk
  dsimp only
  refine State.Sound.next ?_
  refine .ite ?_ ?_
  · split
    · exact .ite h h.moveChunk
    · exact h
  · refine .ite h ?_
    refine .ite h.evacChunk ?_
    split
    · exact h.nextChunk
    · exact h

theorem execCpymDeliver_sound {s : State} (h : s.Sound) : SoundNext (execCpymDeliver s) := by
  unfold execCpymDeliver
  dsimp only
  refine State.Sound.next ?_
  split
  · exact h
  · exact h.landPacket

theorem execCpymAck_sound {s : State} (h : s.Sound) : SoundNext (execCpymAck s) := by
  unfold execCpymAck
  dsimp only
  refine State.Sound.next ?_
  split
  · exact h
  · exact .ite h.endCopy h

theorem State.Sound.tinErrors {s : State} {c : CopyEntry} (h : s.Sound) : (s.tinErrors c).Sound := by
  unfold State.tinErrors
  split
  · exact h
  · exact .ite (h.foldl fun _ _ ht => ht.tinError) h.tinError

theorem execCopyRuntimeError_sound {s : State} (h : s.Sound) : SoundNext (execCopyRuntimeError s) := by
  unfold execCopyRuntimeError
  dsimp only
  refine State.Sound.next ?_
  split
  · exact h
  · split
    · exact h
    · exact .ite h.errorRecord.landAll.tinErrors.endCopy h.errorRecord.landAll.tinErrors.endCopy.setSite

theorem State.Sound.eresCopy {s : State} {site q ctx : Nat} {discard : Bool} (h : s.Sound) :
    (s.eresCopy site q ctx discard).2.Sound :=
  .iteSnd h (.iteSnd h.setSite (h.setSite.foldl fun _ _ ht => ht.tinErrors.endCopy))

theorem execEres_sound {f : FS} {s : State} (h : s.Sound) : SoundNext (execEres f s) :=
  issue_sound h fun _ _ ht => .ite (trapAll_sound ht) (finishW_sound (.iteSnd ht.eresMatrix (.iteSnd ht.eresCopy ht)))

/-! Collectives (Machine/Coll.lean). -/

theorem execColl_sound {f : FC} {s : State} (h : s.Sound) : SoundNext (execColl f s) := by
  unfold execColl
  dsimp only
  refine issue_sound h fun e t ht => ?_
  split
  · next hs1 => exact trapAll_sound ((readBlock_sound ht).of_eq hs1)
  · next hs1 =>
    have h1 := (readBlock_sound ht).of_eq hs1
    refine .ite (trapAll_sound h1) ?_
    split
    · next hs2 => exact trapAll_sound ((probeRange_sound h1).of_eq₂ hs2)
    · next hs2 =>
      have h2 := (probeRange_sound h1).of_eq₂ hs2
      split
      · next hs3 => exact trapAll_sound ((xferCheck_sound (cleanParts_sound h2)).of_eq hs3)
      · next hs3 =>
        have h3 := (xferCheck_sound (cleanParts_sound h2)).of_eq hs3
        refine .ite (trapAll_sound h3) ?_
        split
        · next hs4 => exact trapAll_sound ((probeRange_sound h3).of_eq₂ hs4)
        · next hs4 =>
          have h4 := (probeRange_sound h3).of_eq₂ hs4
          split
          · next hs5 => exact trapAll_sound ((probeRange_sound h4).of_eq₂ hs5)
          · next hs5 =>
            have h5 := (probeRange_sound h4).of_eq₂ hs5
            refine .ite (trapAll_sound h5) ?_
            split
            · next hs6 => exact trapAll_sound ((probeRange_sound h5).of_eq₂ hs6)
            · next hs6 =>
              exact .ite (stall_sound ht) (accepted_sound ((dropParts_sound (cleanParts_sound
                  ((probeRange_sound h5).of_eq₂ hs6))).setSite))

theorem State.Sound.putColl {s : State} {site : Nat} {c : Coll} (h : s.Sound) : (s.putColl site c).Sound :=
  h.setSite

theorem State.Sound.failColl {s : State} {site : Nat} {c : Coll} {z : CopyErr} (h : s.Sound) :
    (s.failColl site c z).Sound :=
  h.errorRecord.putColl

theorem State.Sound.meet {s : State} {site : Nat} {c : Coll} {j : Nat} {h : List Word} (hs : s.Sound) :
    (s.meet site c j h).Sound :=
  .ite hs.failColl hs.putColl

theorem State.Sound.exchange {s : State} {site : Nat} {c : Coll} {j peer : Nat} {d : Coll} (h : s.Sound) :
    (s.exchange site c j peer d).Sound :=
  h.meet.meet

theorem execCollHeaderExchange_sound {s : State} (h : s.Sound) : SoundNext (execCollHeaderExchange s) := by
  unfold execCollHeaderExchange
  dsimp only
  refine State.Sound.next ?_
  split
  · exact h
  · refine .ite h ?_
    split
    · exact h.setSite.meet
    · exact h
    · split
      · exact h.exchange
      · exact h
    · exact h.meet

theorem State.Sound.sendPiece {s : State} {site : Nat} {c : Coll} {j : Nat} {red : Bool} {bs : List Byte}
    (h : s.Sound) :
    (s.sendPiece site c j red bs).Sound :=
  .ite h.failColl h.setSite.queuePackets

theorem State.Sound.sendShare {s : State} {site : Nat} {c : Coll} {j : Nat} {red : Bool} (h : s.Sound) :
    (s.sendShare site c j red).Sound := by
  unfold State.sendShare
  dsimp only
  refine .ite h ?_
  split
  · next s1 hs1 =>
    have h1 : s1.Sound := by
      refine State.Sound.of_eq ?_ hs1
      exact .iteSnd h (readGlob_sound h)
    exact h1.failColl
  · next s1 hs1 =>
    have h1 : s1.Sound := by
      refine State.Sound.of_eq ?_ hs1
      exact .iteSnd h (readGlob_sound h)
    exact .ite h1.putColl h1.putColl.sendPiece

theorem State.Sound.collTakes {s : State} {site : Nat} {tag src : Word} {red : Bool} {bs : List Byte} (h : s.Sound) :
    (s.collTakes site tag src red bs).Sound := by
  unfold State.collTakes
  split
  · exact h.putColl
  · exact h.frame rfl rfl

theorem State.Sound.landPiece {s : State} {site : Nat} {p : Piece} (h : s.Sound) : (s.landPiece site p).Sound := by
  unfold State.landPiece
  dsimp only
  split
  · exact h.setSite.collTakes
  · exact h.setSite

theorem execCollChunk_sound {s : State} (h : s.Sound) : SoundNext (execCollChunk s) := by
  unfold execCollChunk
  dsimp only
  refine State.Sound.next ?_
  refine .ite ?_ ?_
  · split
    · exact .ite h h.landPiece
    · exact h
  · split
    · exact .ite h h.sendShare
    · exact h

theorem State.Sound.leaveColl {s : State} {site : Nat} {c : Coll} (h : s.Sound) : (s.leaveColl site c).Sound := by
  unfold State.leaveColl
  dsimp only
  refine State.Sound.withSites ?_
  refine State.Sound.setSite ?_
  refine State.Sound.foldl ?_ (fun _ _ ht => ht.unqueue)
  refine h.foldl fun t a ht => ?_
  split
  · exact ht
  · refine .ite ht ?_
    split
    · exact .ite ht ht.meet
    · exact ht.setSite

theorem State.Sound.writeRecord {s : State} {site : Nat} {c : Coll} {bs : List Byte} (h : s.Sound) :
    (s.writeRecord site c bs).2.Sound :=
  writeGlob_sound h

theorem State.Sound.endColl {s : State} {site : Nat} {c : Coll} {status : Nat} (h : s.Sound) :
    (s.endColl site c status).Sound := by
  unfold State.endColl
  dsimp only
  refine State.Sound.completeFlight ?_
  refine State.Sound.setSite ?_
  split
  · next s1 hs1 =>
    have h1 : s1.Sound := by
      refine State.Sound.of_eq ?_ hs1
      exact State.Sound.writeRecord (.ite h h.leaveColl)
    exact h1.failColl.writeRecord
  · next s1 hs1 =>
    have h1 : s1.Sound := by
      refine State.Sound.of_eq ?_ hs1
      exact State.Sound.writeRecord (.ite h h.leaveColl)
    exact h1

theorem execCollComplete_sound {s : State} (h : s.Sound) : SoundNext (execCollComplete s) := by
  unfold execCollComplete
  dsimp only
  refine State.Sound.next ?_
  split
  · exact h
  · refine .ite h.endColl ?_
    refine .ite h.endColl ?_
    refine .ite h.failColl.endColl ?_
    refine .ite h ?_
    split
    · next hs1 => exact ((writeGlob_sound h.orStatus).of_eq hs1).failColl.endColl
    · next hs1 => exact ((writeGlob_sound h.orStatus).of_eq hs1).endColl

/-! Open steps and the governor (Machine/Governor.lean). -/

theorem State.Sound.putStep {s : State} {owner : Nat} {r : CoachRef} {st : Option OpenStep} (h : s.Sound) :
    (s.putStep owner r st).Sound :=
  h.setSite

theorem State.Sound.stepWrites {s : State} {owner : Nat} {st : OpenStep} {ws : List (Nat × List Byte)} (h : s.Sound) :
    (s.stepWrites owner st ws).Sound := by
  unfold State.stepWrites
  split
  · next hs1 => exact (h.devAddr.of_eq hs1).report
  · next hs1 => exact (h.devAddr.of_eq hs1).ccPurge.foldl fun _ _ ht => ht.homeWrite

theorem State.Sound.stepClose {s : State} {r : CoachRef} {how : StepEnd} (h : s.Sound) : (s.stepClose r how).Sound := by
  unfold State.stepClose
  dsimp only
  split
  · exact h
  · exact .ite h.stepWrites.putStep.modCoach.sendTargets h.stepWrites.putStep.modCoach.setSite

theorem State.Sound.riskAway {s : State} {v : SavedWg} {k : Nat} (h : s.Sound) : (s.riskAway v k).Sound := by
  unfold State.riskAway
  dsimp only
  split
  · next hs1 => exact h.devAddr.of_eq hs1
  · next hs1 => exact (h.devAddr.of_eq hs1).homeWrite

theorem State.Sound.raiseRisk {s : State} {r : CoachRef} (h : s.Sound) : (s.raiseRisk r).Sound := by
  unfold State.raiseRisk
  split
  · exact h.riskAway
  · exact h.modCoach

theorem State.Sound.governorSample {s : State} {r : CoachRef} {late : Bool} (h : s.Sound) :
    (s.governorSample r late).Sound := by
  unfold State.governorSample
  dsimp only
  split
  · exact h
  · exact State.Sound.sendTargets (.ite (.ite h.putStep.stepWrites h.putStep.stepWrites.raiseRisk) h.putStep)

theorem State.Sound.stepOpen {s : State} {r : CoachRef} {ctx : Nat} {va : DWord} {pa : Nat} (h : s.Sound) :
    (s.stepOpen r ctx va pa).Sound := by
  have hw : ∀ l : List (Nat × List Byte), (l.foldl (fun t w => t.homeWrite (pa + w.1) w.2)
      ((s.stepClose r .closed).ccPurge (coreOfSlot r.slot) pa 64)).Sound :=
    fun l => h.stepClose.ccPurge.foldl fun _ _ ht => ht.homeWrite
  unfold State.stepOpen
  exact .ite (hw _).setSite.modCoach.governorSample (hw _).setSite.modCoach

/-! Fetching and reconvergence (Machine/Reconv.lean). -/

theorem State.Sound.fetchWord {s : State} {r : CoachRef} {ctx : Nat} {va : DWord} (h : s.Sound) :
    (s.fetchWord r ctx va).2.Sound := by
  unfold State.fetchWord
  dsimp only
  split
  · next hs1 => exact h.translate.of_eq hs1
  · next hs1 => exact .iteSnd (h.translate.of_eq hs1).homeTouch (h.translate.of_eq hs1).homeTouch

theorem State.Sound.fetchTrap {s : State} {r : CoachRef} {cause : Cause} {va : DWord} {clause : Option Clause}
    (h : s.Sound) :
    (s.fetchTrap r cause va clause).Sound :=
  h.takeTrap

theorem State.Sound.reconverge {fuel : Nat} {s : State} {r : CoachRef} (h : s.Sound) :
    (State.reconverge fuel s r).2.Sound := by
  induction fuel generalizing s with
  | zero =>
    exact h
  | succ n ih =>
    unfold State.reconverge
    dsimp only
    split
    · exact h
    · refine .iteSnd h.modCoach ?_
      refine .iteSnd h.modCoach ?_
      split
      · exact h
      · refine .iteSnd (ih h.setCoach) ?_
        split
        · next hs1 => exact h.setCoach.fetchWord.of_eq hs1
        · next hs1 =>
          have h1 := h.setCoach.fetchWord.of_eq hs1
          refine .iteSnd h1 ?_
          split
          · next hs2 => exact h1.fetchWord.of_eq hs2
          · next hs2 =>
            have h2 := h1.fetchWord.of_eq hs2
            split
            · exact h2
            · split
              · exact h2
              · exact ih h2.setCoach

theorem State.Sound.reconvergeOf {s : State} {r : CoachRef} (h : s.Sound) : (s.reconvergeOf r).Sound := by
  unfold State.reconvergeOf
  split
  · next hs1 => exact h.reconverge.of_eq hs1
  · next hs1 =>
    have h1 := h.reconverge.of_eq hs1
    split
    · exact h1.takeTrap
    · exact h1
  · next hs1 => exact (h.reconverge.of_eq hs1).takeTrap

/-! Branches and structured control (Machine/Control.lean). -/

theorem jumpTo_sound {e : Env} {f : Coach → Coach} {pc : DWord} {s : State} (h : s.Sound) : (jumpTo e f pc s).Sound :=
  h.modCoach

theorem branchTo_sound {e : Env} {i : Instr} {f : Coach → Coach} {target pc : DWord} {s : State} (h : s.Sound) :
    (branchTo e i f target pc s).Sound :=
  .ite (jumpTo_sound h) (trapAll_sound h)

theorem settle_sound {e : Env} {i : Instr} {s : State} (h : s.Sound) : (settle e i s).Sound := by
  unfold settle
  split
  · exact h
  · refine .ite h ?_
    split
    · next hs1 => exact h.reconverge.of_eq hs1
    · next hs1 =>
      have h1 := h.reconverge.of_eq hs1
      split
      · exact h1
      · exact h1.takeTrap
    · next hs1 => exact (h.reconverge.of_eq hs1).takeTrap

theorem stackAction_sound {e : Env} {i : Instr} {act : Coach → Except Cause Coach} {s : State} (h : s.Sound) :
    (stackAction e i act s).Sound := by
  unfold stackAction
  split
  · exact trapAll_sound h
  · exact settle_sound (jumpTo_sound h)

theorem execBra_sound {f : FJ} {s : State} (h : s.Sound) : SoundNext (execBra f s) :=
  issue_sound h fun _ _ ht => branchTo_sound ht

theorem execBrs_sound {f : FJC} {s : State} (h : s.Sound) : SoundNext (execBrs f s) :=
  issue_sound h fun _ _ ht => .ite (branchTo_sound ht) (finish_sound ht)

theorem execBrp_sound {f : FJC} {s : State} (h : s.Sound) : SoundNext (execBrp f s) :=
  issue_sound h fun _ _ ht => .ite (branchTo_sound ht) (finish_sound ht)

theorem execJmpr_sound {f : FJC} {s : State} (h : s.Sound) : SoundNext (execJmpr f s) :=
  issue_sound h fun _ _ ht => branchTo_sound ht

theorem execCallI_sound {f : FJ} {s : State} (h : s.Sound) : SoundNext (execCallI f s) :=
  issue_sound h fun _ _ ht => .ite (trapAll_sound ht) (.ite (trapAll_sound ht) (jumpTo_sound ht))

theorem execRetI_sound {f : FJ} {s : State} (h : s.Sound) : SoundNext (execRetI f s) := by
  unfold execRetI
  refine issue_sound h fun e t ht => ?_
  split
  · exact .ite (branchTo_sound ht) (trapAll_sound ht)
  · exact trapAll_sound ht

theorem execIfI_sound {f : FJC} {s : State} (h : s.Sound) : SoundNext (execIfI f s) :=
  issue_sound h fun _ _ ht => .ite (trapAll_sound ht) (.ite (trapAll_sound ht) (settle_sound (jumpTo_sound ht)))

theorem execElseI_sound {f : FJ} {s : State} (h : s.Sound) : SoundNext (execElseI f s) :=
  issue_sound h fun _ _ ht => stackAction_sound ht

theorem execEndifI_sound {f : FJ} {s : State} (h : s.Sound) : SoundNext (execEndifI f s) :=
  issue_sound h fun _ _ ht => stackAction_sound ht

theorem execLoopI_sound {f : FJ} {s : State} (h : s.Sound) : SoundNext (execLoopI f s) :=
  issue_sound h fun _ _ ht => .ite (trapAll_sound ht) (.ite (trapAll_sound ht) (jumpTo_sound ht))

theorem execEndloopI_sound {f : FJ} {s : State} (h : s.Sound) : SoundNext (execEndloopI f s) :=
  issue_sound h fun _ _ ht => stackAction_sound ht

theorem leaveLoop_sound {leaves : Bool} {i : Instr} {f : FJC} {e : Env} {s : State} (h : s.Sound) :
    (leaveLoop leaves i f e s).Sound := by
  unfold leaveLoop
  dsimp only
  split
  · exact trapAll_sound h
  · exact settle_sound (jumpTo_sound h)

theorem execBreakI_sound {f : FJC} {s : State} (h : s.Sound) : SoundNext (execBreakI f s) :=
  issue_sound h fun _ _ ht => leaveLoop_sound ht

theorem execContI_sound {f : FJC} {s : State} (h : s.Sound) : SoundNext (execContI f s) :=
  issue_sound h fun _ _ ht => leaveLoop_sound ht

theorem execExitI_sound {f : FJ} {s : State} (h : s.Sound) : SoundNext (execExitI f s) :=
  issue_sound h fun _ _ ht => .ite (((jumpTo_sound ht).stepClose).modCoach) (settle_sound (jumpTo_sound ht))

/-! Integer arithmetic (Machine/Integer.lean). -/

theorem intDAB_sound {f : RRR} {g : ℤ → ℤ → ℤ} {e : Env} {s : State} (h : s.Sound) : (intDAB f g e s).Sound :=
  opDAB_sound h

theorem intDA_sound {f : RRR} {g : ℤ → ℤ} {e : Env} {s : State} (h : s.Sound) : (intDA f g e s).Sound :=
  opDA_sound h

theorem execNop_sound {f : RRR} {s : State} (h : s.Sound) : SoundNext (execNop f s) :=
  issue_sound h fun _ _ ht => finish_sound ht

theorem execIadd_sound {f : RRR} {s : State} (h : s.Sound) : SoundNext (execIadd f s) :=
  issue_sound h fun _ _ ht => intDAB_sound ht

theorem execIsub_sound {f : RRR} {s : State} (h : s.Sound) : SoundNext (execIsub f s) :=
  issue_sound h fun _ _ ht => intDAB_sound ht

theorem execImul_sound {f : RRR} {s : State} (h : s.Sound) : SoundNext (execImul f s) :=
  issue_sound h fun _ _ ht => intDAB_sound ht

theorem execImulh_sound {f : RRR} {s : State} (h : s.Sound) : SoundNext (execImulh f s) :=
  issue_sound h fun _ _ ht => intDAB_sound ht

theorem execImad_sound {f : RRR} {s : State} (h : s.Sound) : SoundNext (execImad f s) :=
  issue_sound h fun _ _ ht => opDABD_sound ht

theorem execImin_sound {f : RRR} {s : State} (h : s.Sound) : SoundNext (execImin f s) :=
  issue_sound h fun _ _ ht => intDAB_sound ht

theorem execImax_sound {f : RRR} {s : State} (h : s.Sound) : SoundNext (execImax f s) :=
  issue_sound h fun _ _ ht => intDAB_sound ht

theorem execIabs_sound {f : RRR} {s : State} (h : s.Sound) : SoundNext (execIabs f s) :=
  issue_sound h fun _ _ ht => intDA_sound ht

theorem execIneg_sound {f : RRR} {s : State} (h : s.Sound) : SoundNext (execIneg f s) :=
  issue_sound h fun _ _ ht => intDA_sound ht

theorem execPopc_sound {f : RRR} {s : State} (h : s.Sound) : SoundNext (execPopc f s) :=
  issue_sound h fun _ _ ht => opDA_sound ht

theorem execClz_sound {f : RRR} {s : State} (h : s.Sound) : SoundNext (execClz f s) :=
  issue_sound h fun _ _ ht => opDA_sound ht

theorem execBrev_sound {f : RRR} {s : State} (h : s.Sound) : SoundNext (execBrev f s) :=
  issue_sound h fun _ _ ht => opDA_sound ht

theorem execIdot4_sound {f : RRR} {s : State} (h : s.Sound) : SoundNext (execIdot4 f s) :=
  issue_sound h fun _ _ ht => opDABD_sound ht

theorem execAndI_sound {f : RRR} {s : State} (h : s.Sound) : SoundNext (execAndI f s) :=
  issue_sound h fun _ _ ht => opDAB_sound ht

theorem execOrI_sound {f : RRR} {s : State} (h : s.Sound) : SoundNext (execOrI f s) :=
  issue_sound h fun _ _ ht => opDAB_sound ht

theorem execXorI_sound {f : RRR} {s : State} (h : s.Sound) : SoundNext (execXorI f s) :=
  issue_sound h fun _ _ ht => opDAB_sound ht

theorem execNotI_sound {f : RRR} {s : State} (h : s.Sound) : SoundNext (execNotI f s) :=
  issue_sound h fun _ _ ht => opDA_sound ht

theorem execShl_sound {f : RRR} {s : State} (h : s.Sound) : SoundNext (execShl f s) :=
  issue_sound h fun _ _ ht => opDAB_sound ht

theorem execShr_sound {f : RRR} {s : State} (h : s.Sound) : SoundNext (execShr f s) :=
  issue_sound h fun _ _ ht => opDAB_sound ht

theorem execSar_sound {f : RRR} {s : State} (h : s.Sound) : SoundNext (execSar f s) :=
  issue_sound h fun _ _ ht => opDAB_sound ht

theorem execRotl_sound {f : RRR} {s : State} (h : s.Sound) : SoundNext (execRotl f s) :=
  issue_sound h fun _ _ ht => opDAB_sound ht

theorem execBfx_sound {f : RRR} {s : State} (h : s.Sound) : SoundNext (execBfx f s) :=
  issue_sound h fun _ _ ht => opDAB_sound ht

theorem execBfi_sound {f : RRR} {s : State} (h : s.Sound) : SoundNext (execBfi f s) :=
  issue_sound h fun _ _ ht => opDABD_sound ht

theorem execIcmp_sound {f : RRR} {s : State} (h : s.Sound) : SoundNext (execIcmp f s) :=
  issue_sound h fun _ _ ht => setPreds_sound ht

theorem execFcmp_sound {f : RRR} {s : State} (h : s.Sound) : SoundNext (execFcmp f s) :=
  issue_sound h fun _ _ ht => setPreds_sound ht

theorem execSel_sound {f : RRR} {s : State} (h : s.Sound) : SoundNext (execSel f s) :=
  issue_sound h fun _ _ ht => lanewise_sound ht

theorem execMovI_sound {f : RRR} {s : State} (h : s.Sound) : SoundNext (execMovI f s) :=
  issue_sound h fun _ _ ht => opDB_sound ht

theorem execPrmt_sound {f : RRR} {s : State} (h : s.Sound) : SoundNext (execPrmt f s) :=
  issue_sound h fun _ _ ht => opDABD_sound ht

/-! Floating-point arithmetic (Machine/FloatOps.lean). -/

theorem f32DAB_sound {f : RRR} {g : Fv → Fv → FRes} {e : Env} {s : State} (h : s.Sound) : (f32DAB f g e s).Sound :=
  opDAB_sound h

theorem execFadd_sound {f : RRR} {s : State} (h : s.Sound) : SoundNext (execFadd f s) :=
  issue_sound h fun _ _ ht => f32DAB_sound ht

theorem execFsub_sound {f : RRR} {s : State} (h : s.Sound) : SoundNext (execFsub f s) :=
  issue_sound h fun _ _ ht => f32DAB_sound ht

theorem execFmul_sound {f : RRR} {s : State} (h : s.Sound) : SoundNext (execFmul f s) :=
  issue_sound h fun _ _ ht => f32DAB_sound ht

theorem execFfma_sound {f : RRR} {s : State} (h : s.Sound) : SoundNext (execFfma f s) :=
  issue_sound h fun _ _ ht => opDABD_sound ht

theorem execFmin_sound {f : RRR} {s : State} (h : s.Sound) : SoundNext (execFmin f s) :=
  issue_sound h fun _ _ ht => opDAB_sound ht

theorem execFmax_sound {f : RRR} {s : State} (h : s.Sound) : SoundNext (execFmax f s) :=
  issue_sound h fun _ _ ht => opDAB_sound ht

theorem execFabs_sound {f : RRR} {s : State} (h : s.Sound) : SoundNext (execFabs f s) :=
  issue_sound h fun _ _ ht => opDA_sound ht

theorem execFneg_sound {f : RRR} {s : State} (h : s.Sound) : SoundNext (execFneg f s) :=
  issue_sound h fun _ _ ht => opDA_sound ht

theorem execFdiv_sound {f : RRR} {s : State} (h : s.Sound) : SoundNext (execFdiv f s) :=
  issue_sound h fun _ _ ht => f32DAB_sound ht

theorem execFsqrt_sound {f : RRR} {s : State} (h : s.Sound) : SoundNext (execFsqrt f s) :=
  issue_sound h fun _ _ ht => opDA_sound ht

theorem execFscl_sound {f : RRR} {s : State} (h : s.Sound) : SoundNext (execFscl f s) :=
  issue_sound h fun _ _ ht => opDAB_sound ht

theorem execFrnd_sound {f : RRR} {s : State} (h : s.Sound) : SoundNext (execFrnd f s) :=
  issue_sound h fun _ _ ht => opDA_sound ht

theorem h2DAB_sound {f : RRR} {g : Fv → Fv → FRes} {e : Env} {s : State} (h : s.Sound) : (h2DAB f g e s).Sound :=
  opDAB_sound h

theorem execHadd2_sound {f : RRR} {s : State} (h : s.Sound) : SoundNext (execHadd2 f s) :=
  issue_sound h fun _ _ ht => h2DAB_sound ht

theorem execHsub2_sound {f : RRR} {s : State} (h : s.Sound) : SoundNext (execHsub2 f s) :=
  issue_sound h fun _ _ ht => h2DAB_sound ht

theorem execHmul2_sound {f : RRR} {s : State} (h : s.Sound) : SoundNext (execHmul2 f s) :=
  issue_sound h fun _ _ ht => h2DAB_sound ht

theorem execHfma2_sound {f : RRR} {s : State} (h : s.Sound) : SoundNext (execHfma2 f s) :=
  issue_sound h fun _ _ ht => opDABD_sound ht

theorem execHmin2_sound {f : RRR} {s : State} (h : s.Sound) : SoundNext (execHmin2 f s) :=
  issue_sound h fun _ _ ht => opDAB_sound ht

theorem execHmax2_sound {f : RRR} {s : State} (h : s.Sound) : SoundNext (execHmax2 f s) :=
  issue_sound h fun _ _ ht => opDAB_sound ht

theorem execHdot2_sound {f : RRR} {s : State} (h : s.Sound) : SoundNext (execHdot2 f s) :=
  issue_sound h fun _ _ ht => opDABD_sound ht

theorem f64DAB_sound {f : RRR} {g : Fv → Fv → FRes} {e : Env} {s : State} (h : s.Sound) : (f64DAB f g e s).Sound :=
  opDAB_sound h

theorem execDadd_sound {f : RRR} {s : State} (h : s.Sound) : SoundNext (execDadd f s) :=
  issue_sound h fun _ _ ht => f64DAB_sound ht

theorem execDsub_sound {f : RRR} {s : State} (h : s.Sound) : SoundNext (execDsub f s) :=
  issue_sound h fun _ _ ht => f64DAB_sound ht

theorem execDmul_sound {f : RRR} {s : State} (h : s.Sound) : SoundNext (execDmul f s) :=
  issue_sound h fun _ _ ht => f64DAB_sound ht

theorem execDfma_sound {f : RRR} {s : State} (h : s.Sound) : SoundNext (execDfma f s) :=
  issue_sound h fun _ _ ht => opDABD_sound ht

theorem execDmin_sound {f : RRR} {s : State} (h : s.Sound) : SoundNext (execDmin f s) :=
  issue_sound h fun _ _ ht => opDAB_sound ht

theorem execDmax_sound {f : RRR} {s : State} (h : s.Sound) : SoundNext (execDmax f s) :=
  issue_sound h fun _ _ ht => opDAB_sound ht

theorem execDdiv_sound {f : RRR} {s : State} (h : s.Sound) : SoundNext (execDdiv f s) :=
  issue_sound h fun _ _ ht => f64DAB_sound ht

theorem execDsqrt_sound {f : RRR} {s : State} (h : s.Sound) : SoundNext (execDsqrt f s) :=
  issue_sound h fun _ _ ht => opDA_sound ht

theorem execMovi_sound {f : RI} {s : State} (h : s.Sound) : SoundNext (execMovi f s) :=
  issue_sound h fun _ _ ht => lanewise_sound ht

theorem execMovih_sound {f : RI} {s : State} (h : s.Sound) : SoundNext (execMovih f s) :=
  issue_sound h fun _ _ ht => opRI_sound ht

theorem execIaddi_sound {f : RI} {s : State} (h : s.Sound) : SoundNext (execIaddi f s) :=
  issue_sound h fun _ _ ht => opRI_sound ht

theorem execImuli_sound {f : RI} {s : State} (h : s.Sound) : SoundNext (execImuli f s) :=
  issue_sound h fun _ _ ht => opRI_sound ht

theorem execAndi_sound {f : RI} {s : State} (h : s.Sound) : SoundNext (execAndi f s) :=
  issue_sound h fun _ _ ht => opRI_sound ht

theorem execOri_sound {f : RI} {s : State} (h : s.Sound) : SoundNext (execOri f s) :=
  issue_sound h fun _ _ ht => opRI_sound ht

theorem execXori_sound {f : RI} {s : State} (h : s.Sound) : SoundNext (execXori f s) :=
  issue_sound h fun _ _ ht => opRI_sound ht

theorem execShli_sound {f : RI} {s : State} (h : s.Sound) : SoundNext (execShli f s) :=
  issue_sound h fun _ _ ht => opRI_sound ht

theorem execShri_sound {f : RI} {s : State} (h : s.Sound) : SoundNext (execShri f s) :=
  issue_sound h fun _ _ ht => opRI_sound ht

theorem execFmovi_sound {f : RI} {s : State} (h : s.Sound) : SoundNext (execFmovi f s) :=
  issue_sound h fun _ _ ht => lanewise_sound ht

theorem execFaddi_sound {f : RI} {s : State} (h : s.Sound) : SoundNext (execFaddi f s) :=
  issue_sound h fun _ _ ht => opRI_sound ht

theorem execFmuli_sound {f : RI} {s : State} (h : s.Sound) : SoundNext (execFmuli f s) :=
  issue_sound h fun _ _ ht => opRI_sound ht

theorem halvesImm_sound {fmt : FloatFmt} {f : RI} {g : Fv → Fv → FRes} {e : Env} {s : State} (h : s.Sound) :
    (halvesImm fmt f g e s).Sound :=
  opRI_sound h

theorem execHaddi2h_sound {f : RI} {s : State} (h : s.Sound) : SoundNext (execHaddi2h f s) :=
  issue_sound h fun _ _ ht => halvesImm_sound ht

theorem execHaddi2b_sound {f : RI} {s : State} (h : s.Sound) : SoundNext (execHaddi2b f s) :=
  issue_sound h fun _ _ ht => halvesImm_sound ht

theorem execHmuli2h_sound {f : RI} {s : State} (h : s.Sound) : SoundNext (execHmuli2h f s) :=
  issue_sound h fun _ _ ht => halvesImm_sound ht

theorem execHmuli2b_sound {f : RI} {s : State} (h : s.Sound) : SoundNext (execHmuli2b f s) :=
  issue_sound h fun _ _ ht => halvesImm_sound ht

theorem f8Imm_sound {f : RI} {g : Fv → Fv → FRes} {e : Env} {s : State} (h : s.Sound) : (f8Imm f g e s).Sound :=
  opRI_sound h

theorem execF8muli_sound {f : RI} {s : State} (h : s.Sound) : SoundNext (execF8muli f s) :=
  issue_sound h fun _ _ ht => f8Imm_sound ht

theorem execF8addi_sound {f : RI} {s : State} (h : s.Sound) : SoundNext (execF8addi f s) :=
  issue_sound h fun _ _ ht => f8Imm_sound ht

/-! Conversions (Machine/Convert.lean). -/

theorem execCvt_sound {f : RRR} {s : State} (h : s.Sound) : SoundNext (execCvt f s) :=
  issue_sound h fun _ _ ht => lanewise_sound ht

theorem execCvtsr_sound {f : RRR} {s : State} (h : s.Sound) : SoundNext (execCvtsr f s) := by
  unfold execCvtsr
  dsimp only
  exact issue_sound h fun _ _ ht => track_sound ht.raise.modCoach

theorem execBscale_sound {f : RRR} {s : State} (h : s.Sound) : SoundNext (execBscale f s) :=
  issue_sound h fun _ _ ht => lanewise_sound ht

theorem execBenc_sound {f : RRR} {s : State} (h : s.Sound) : SoundNext (execBenc f s) :=
  issue_sound h fun _ _ ht => lanewise_sound ht

theorem execBdec_sound {f : RRR} {s : State} (h : s.Sound) : SoundNext (execBdec f s) :=
  issue_sound h fun _ _ ht => lanewise_sound ht

/-! Power (Machine/Power.lean). -/

theorem execCurrentStep_sound {s : State} (h : s.Sound) : SoundNext (execCurrentStep s) :=
  State.Sound.next (.ite h (h.enterStep.laterMap rfl))

theorem State.Sound.chargeBallast {s : State} {core : Nat} {by_ : Option MEntry} (h : s.Sound) :
    (s.chargeBallast core by_).Sound := by
  unfold State.chargeBallast
  dsimp only
  split
  · split
    · exact h.addWin.setBatch
    · exact h.addWin.setSite.addWin
  · exact h

theorem State.Sound.grantRamp {s : State} {core : Nat} (h : s.Sound) : (s.grantRamp core).Sound :=
  h.chargeBallast.setCore.setRegion.withQuadRamp

theorem execRampStart_sound {s : State} (h : s.Sound) : SoundNext (execRampStart s) :=
  State.Sound.next (.ite h (.ite h.enterStep (.ite h.enterStep.setRegion h.enterStep.grantRamp)))

theorem execRampStep_sound {s : State} (h : s.Sound) : SoundNext (execRampStep s) := by
  unfold execRampStep
  dsimp only
  refine State.Sound.next ?_
  split
  · exact .ite h h.setCore
  · exact h

theorem execBallastStep_sound {s : State} (h : s.Sound) : SoundNext (execBallastStep s) := by
  unfold execBallastStep
  dsimp only
  refine State.Sound.next ?_
  split
  · refine .ite h ?_
    refine .ite h.chargeBallast.setCore ?_
    split
    · exact h.setCore
    · exact h
  · refine .ite h ?_
    refine .ite h.setCore ?_
    split
    · exact h.setCore
    · exact h

theorem State.Sound.syncRegion {s : State} {r : Nat} (h : s.Sound) : (s.syncRegion r).Sound :=
  h.foldl fun _ _ ht => ht.syncClk

theorem execDroopAlarm_sound {s : State} (h : s.Sound) : SoundNext (execDroopAlarm s) := by
  unfold execDroopAlarm
  dsimp only
  refine State.Sound.next ?_
  refine .ite h ?_
  refine .ite ?_ ((h.setWin.foldl fun _ _ ht => ht.logEvent).setRegion)
  refine State.Sound.setRegion ?_
  refine State.Sound.setWin ?_
  exact .ite (h.setWin.foldl fun _ _ ht => ht.logEvent) ((h.setWin.foldl fun _ _ ht => ht.logEvent).syncRegion)

theorem execThrottleEnd_sound {s : State} (h : s.Sound) : SoundNext (execThrottleEnd s) := by
  unfold execThrottleEnd
  dsimp only
  refine State.Sound.next ?_
  refine .ite h ?_
  split
  · exact h
  · exact .ite h h.syncRegion.enterStep.setRegion.setWin

theorem execHotMarkChange_sound {s : State} (h : s.Sound) : SoundNext (execHotMarkChange s) :=
  State.Sound.next (.ite h (.ite h.setCore (.ite h.setCore h)))

theorem State.Sound.deckAtClose {s : State} {core d v : Nat} (h : s.Sound) : (s.deckAtClose core d v).Sound :=
  .ite h h.setCore.applyDecks

theorem execDeckThermal_sound {s : State} (h : s.Sound) : SoundNext (execDeckThermal s) :=
  State.Sound.next (.ite h (.ite (.ite h.logEvent (.ite h.deckAtClose h)) (.ite (.ite h.deckAtClose h) h)))

theorem State.Sound.deckFails {s : State} {core : Nat} {b : Batch} (h : s.Sound) : (s.deckFails core b).Sound := by
  unfold State.deckFails
  dsimp only
  split
  · exact h.matrixError
  · exact h.errorRecord.markInvalid.setCore.setBatch

theorem State.Sound.loseDeck {s : State} {core d v : Nat} (h : s.Sound) : (s.loseDeck core d v).Sound :=
  h.setCore.putDeck.foldl fun _ _ ht => ht.deckFails

theorem execDstatWrite_sound {s : State} (h : s.Sound) : SoundNext (execDstatWrite s) := by
  unfold execDstatWrite
  dsimp only
  refine State.Sound.next ?_
  exact .ite h (h.foldl fun _ _ ht => .ite ht.setCore (.ite ht.loseDeck (.ite ht.setCore ht.setCore.setDeck.logEvent)))

theorem execThermalControl_sound {s : State} (h : s.Sound) : SoundNext (execThermalControl s) := by
  unfold execThermalControl
  dsimp only
  refine State.Sound.next ?_
  refine .ite h ?_
  refine .ite (.ite h.setSite.setWin.postTarget.logEvent h.setSite.setWin.postTarget) ?_
  refine .ite h.setSite.setWin.postTarget ?_
  refine .ite ?_ h.setSite.setWin.postTarget
  split
  · exact h.setSite.setWin.postTarget
  · exact .ite h.setSite.setWin.postTarget h.setSite.setWin.postTarget

theorem execGovernorSample_sound {s : State} (h : s.Sound) : SoundNext (execGovernorSample s) := by
  unfold execGovernorSample
  dsimp only
  refine State.Sound.next ?_
  split
  · exact .ite h.sendTargets h
  · exact .ite h.governorSample h

theorem State.Sound.startMove {s : State} {site p : Nat} (h : s.Sound) : (s.startMove site p).Sound :=
  h.setSite.setWin

theorem State.Sound.takeTarget {s : State} {site p : Nat} (h : s.Sound) : (s.takeTarget site p).Sound :=
  .ite h.setWin (.ite h h.startMove)

theorem State.Sound.deliverTarget {s : State} {site : Nat} (h : s.Sound) : (s.deliverTarget site).Sound := by
  unfold State.deliverTarget
  dsimp only
  split
  · exact h
  · exact .ite h h.setSite.takeTarget

theorem execIslandTarget_sound {s : State} (h : s.Sound) : SoundNext (execIslandTarget s) :=
  State.Sound.next (.ite h h.deliverTarget)

theorem State.Sound.endMove {s : State} {site : Nat} (h : s.Sound) : (s.endMove site).Sound :=
  .ite h.setSite.setWin.startMove h.setSite.setWin

theorem execClockSwitch_sound {s : State} (h : s.Sound) : SoundNext (execClockSwitch s) := by
  unfold execClockSwitch
  dsimp only
  refine State.Sound.next ?_
  refine .ite h ?_
  refine .ite ?_ h
  exact .ite (.ite h.syncClk.setSite.endMove h.syncClk.setSite) (State.Sound.laterOne
      (.ite h.syncClk.setSite.endMove h.syncClk.setSite) rfl)

theorem execIslandMoveComplete_sound {s : State} (h : s.Sound) : SoundNext (execIslandMoveComplete s) :=
  State.Sound.next (.ite h (.ite h.endMove h))

theorem execSliceAutoIdle_sound {s : State} (h : s.Sound) : SoundNext (execSliceAutoIdle s) :=
  State.Sound.next (.ite h (.ite h.setCore h))

theorem State.Sound.writeBands {s : State} {n : Nat} {bands : List (Nat × Nat)} (h : s.Sound) :
    (s.writeBands n bands).Sound :=
  .ite h h.homeWrite.homeWrite

theorem execBandedLatencyMeasure_sound {s : State} (h : s.Sound) : SoundNext (execBandedLatencyMeasure s) :=
  State.Sound.next (.ite h.writeBands h)

/-! Events of a turn (Machine/Fetch.lean). -/

theorem State.Sound.opcodeTrap {s : State} {e : Env} {w : Word} (h : s.Sound) : (s.opcodeTrap e w).Sound :=
  h.takeTrap

/-! Remote operations (Machine/Remote.lean). -/

theorem remoteIssue_sound {i : Instr} {f : FC} {kind : Nat} {e : Env} {s : State} (h : s.Sound) :
    (remoteIssue i f kind e s).Sound := by
  unfold remoteIssue
  dsimp only
  split
  · next hs1 => exact trapAll_sound ((readBlock_sound h).of_eq hs1)
  · next hs1 =>
    have h1 := (readBlock_sound h).of_eq hs1
    refine .ite (trapAll_sound h1) ?_
    split
    · next hs2 => exact trapAll_sound ((xlateParts_sound h1).of_eq hs2)
    · next hs2 =>
      exact accepted_sound (State.Sound.queuePackets (State.Sound.setSite (.ite (cleanParts_sound
          ((xlateParts_sound h1).of_eq hs2)) (dropParts_sound ((xlateParts_sound h1).of_eq hs2)))))

theorem execRput_sound {f : FC} {s : State} (h : s.Sound) : SoundNext (execRput f s) :=
  issue_sound h fun _ _ ht => remoteIssue_sound ht

theorem execRget_sound {f : FC} {s : State} (h : s.Sound) : SoundNext (execRget f s) :=
  issue_sound h fun _ _ ht => remoteIssue_sound ht

theorem execRatom_sound {f : FC} {s : State} (h : s.Sound) : SoundNext (execRatom f s) :=
  issue_sound h fun _ _ ht => remoteIssue_sound ht

theorem execRflush_sound {f : FC} {s : State} (h : s.Sound) : SoundNext (execRflush f s) :=
  issue_sound h fun _ _ ht => accepted_sound ht

theorem State.Sound.endRemote {s : State} {site : Nat} {o : RemoteOp} (h : s.Sound) : (s.endRemote site o).Sound := by
  unfold State.endRemote
  dsimp only
  split
  · exact h.unqueue.setSite.completeFlight
  · exact h.unqueue.setSite.completeFlight.foldl fun _ _ ht => ht.completeFlight

theorem State.Sound.raiseRemote {s : State} {o : RemoteOp} {cause : Cause} (h : s.Sound) :
    (s.raiseRemote o cause).Sound := by
  unfold State.raiseRemote
  dsimp only
  split
  · exact h
  · exact .ite h (h.setCoach.laterOne rfl)

theorem State.Sound.remoteRecord {s : State} {site : Nat} {o : RemoteOp} {z : CopyErr} (h : s.Sound) :
    (s.remoteRecord site o z).Sound :=
  h.errorRecord

theorem State.Sound.failRemote {s : State} {site : Nat} {o : RemoteOp} {cause : Cause} {z : Option CopyErr}
    (h : s.Sound) :
    (s.failRemote site o cause z).Sound := by
  unfold State.failRemote
  dsimp only
  refine State.Sound.endRemote ?_
  refine State.Sound.raiseRemote ?_
  split
  · exact h.remoteRecord
  · exact h

theorem execRemoteAck_sound {s : State} (h : s.Sound) : SoundNext (execRemoteAck s) := by
  unfold execRemoteAck
  dsimp only
  refine State.Sound.next ?_
  split
  · exact h
  · refine .ite h ?_
    split
    · exact h.failRemote
    · refine .ite h ?_
      refine .ite h.failRemote ?_
      refine .ite ?_ ?_
      · split
        · next hs1 => exact ((readGlob_sound h).of_eq hs1).failRemote
        · next hs1 => exact ((readGlob_sound h).of_eq hs1).endRemote
      · split
        · next hs1 => exact ((writeGlob_sound h).of_eq hs1).failRemote
        · next hs1 => exact ((writeGlob_sound h).of_eq hs1).endRemote

theorem execRmtTimeout_sound {s : State} (h : s.Sound) : SoundNext (execRmtTimeout s) := by
  unfold execRmtTimeout
  dsimp only
  refine State.Sound.next ?_
  split
  · exact h
  · exact .ite h.failRemote h

theorem State.Sound.reply {s : State} {n key : Nat} {data : Option (List Byte)} (h : s.Sound) :
    (s.reply n key data).Sound :=
  h.queuePackets

theorem State.Sound.arrived {s : State} {n key : Nat} {a : Arrival} (h : s.Sound) : (s.arrived n key a).Sound := by
  unfold State.arrived
  dsimp only
  split
  · split
    · next hs1 => exact (h.devWrite.of_eq hs1).reply
    · next hs1 => exact h.devWrite.of_eq hs1
  · split
    · next hs1 => exact (h.devRead.of_eq hs1).reply
    · next hs1 => exact (h.devRead.of_eq hs1).reply
  · refine .ite h.reply ?_
    split
    · next hs1 => exact (h.devAddr.of_eq hs1).reply
    · next hs1 => exact (h.devAddr.of_eq hs1).devStore.reply
  · exact h

theorem State.Sound.landCollPackets {fuel : Nat} {s : State} {n key : Nat} (h : s.Sound) :
    (State.landCollPackets fuel s n key).Sound := by
  induction fuel generalizing s with
  | zero =>
    exact h
  | succ n ih =>
    unfold State.landCollPackets
    dsimp only
    split
    · exact h
    · exact ih h.setConn.collTakes

theorem execPacketReceive_sound {s : State} (h : s.Sound) : SoundNext (execPacketReceive s) := by
  unfold execPacketReceive
  dsimp only
  refine State.Sound.next ?_
  refine .ite h ?_
  refine .ite h ?_
  exact .ite h.setConn.landCollPackets (.ite h.setConn.arrived (h.setConn.foldl fun _ _ ht => ht.arrived))

theorem tryLaunch_sound {core site : Nat} {a : Acc} {r : CoachRef} {record : List Byte} {s : State} (h : s.Sound) :
    (tryLaunch core site a r record s).Sound := by
  unfold tryLaunch
  dsimp only
  split
  · trivial
  · next hs1 => exact h.openQcb.of_eq hs1
  · next hs1 =>
    have h1 := h.openQcb.of_eq hs1
    split
    · exact h1
    · split
      · split
        · next hs2 => exact h1.useQcb.of_eq hs2
        · next hs2 =>
          have h2 := h1.useQcb.of_eq hs2
          split <;> exact h2
      · split
        · trivial
        · next hs2 => exact h1.enqAddrs.of_eq hs2
        · next hs2 =>
          have h2 := h1.enqAddrs.of_eq hs2
          split
          · trivial
          · exact h2.release.enqCommit

theorem execLaunchI_sound {f : FC} {s : State} (h : s.Sound) : SoundNext (execLaunchI f s) := by
  unfold execLaunchI
  refine issue_sound h fun e t ht => ?_
  dsimp only
  split
  · next hs1 => exact trapAll_sound ((readBlock_sound ht).of_eq hs1)
  · next hs1 =>
    have h1 := (readBlock_sound ht).of_eq hs1
    split
    · next hs2 => exact tracked_sound ((tryLaunch_sound h1).of_done hs2)
    · next hs2 => exact trapAll_sound ((tryLaunch_sound h1).of_stop hs2)
    · exact stall_sound ht
    · next hs2 =>
      exact .ite (tracked_sound ((tryLaunch_sound h1).of_full hs2)) (track_sound ((tryLaunch_sound h1).of_full hs2))

theorem execOperationComplete_sound {s : State} (h : s.Sound) : SoundNext (execOperationComplete s) := by
  unfold execOperationComplete
  refine State.Sound.next ?_
  split
  · exact h
  · split
    · exact h
    · next f _ =>
      generalize f.kind = kind
      cases kind
      case performed => exact h.completeFlight
      case raised => exact .ite h.flightTrap h
      case late => exact .ite h.setCoach h
      case launch =>
        dsimp only
        split
        · exact h
        · split
          · next hs1 => exact ((tryLaunch_sound h).of_done hs1).completeWith
          · next hs1 => exact ((tryLaunch_sound h).of_stop hs1).flightTrap
          · next hs1 => exact (tryLaunch_sound h).of_full hs1
          · exact h
      all_goals exact h

/-! System registers and handlers (Machine/System.lean). -/

theorem execSrd_sound {f : FS} {s : State} (h : s.Sound) : SoundNext (execSrd f s) :=
  issue_sound h fun _ _ ht => lanewise_sound ht

theorem sysregWrite_sound {s : State} {e : Env} {n : Nat} {v : DWord} (h : s.Sound) : (sysregWrite s e n v).Sound := by
  unfold sysregWrite
  dsimp only
  split
  · exact h.frame rfl rfl
  · exact h.frame rfl rfl
  · exact h.modCoach
  · exact h.setContext
  · exact h.modCoach
  · exact h.frame rfl rfl
  · exact h.setContext
  · exact .ite (h.enterStep.frame rfl rfl) h

theorem execSwr_sound {f : FS} {s : State} (h : s.Sound) : SoundNext (execSwr f s) :=
  issue_sound h fun _ _ ht => finish_sound (sysregWrite_sound ht)

theorem completeAndTrap_sound {e : Env} {cause : Cause} {addr : DWord} {s : State} (h : s.Sound) :
    (completeAndTrap e cause addr s).Sound :=
  (finish_sound h).takeTrap

theorem execTrapI_sound {f : FS} {s : State} (h : s.Sound) : SoundNext (execTrapI f s) :=
  issue_sound h fun _ _ ht => completeAndTrap_sound ht

theorem execBrk_sound {f : FS} {s : State} (h : s.Sound) : SoundNext (execBrk f s) :=
  issue_sound h fun _ _ ht => completeAndTrap_sound ht

theorem State.Sound.noticeDone {s : State} {r : CoachRef} (h : s.Sound) : (s.noticeDone r).Sound := by
  unfold State.noticeDone
  dsimp only
  split
  · exact h
  · exact .ite (.ite (h.setWg.laterOne rfl) h.setWg) h

theorem execTret_sound {f : FS} {s : State} (h : s.Sound) : SoundNext (execTret f s) :=
  issue_sound h fun _ _ ht => .ite (stall_sound ht) (.ite (trapAll_sound ht) (.ite ht.modCoach.noticeDone ht.modCoach))

theorem execLrd_sound {f : FS} {s : State} (h : s.Sound) : SoundNext (execLrd f s) :=
  issue_sound h fun _ _ ht => finishW_sound ht

theorem execLwr_sound {f : FS} {s : State} (h : s.Sound) : SoundNext (execLwr f s) :=
  issue_sound h fun _ _ ht => finishC_sound ht

theorem execRqrd_sound {f : FS} {s : State} (h : s.Sound) : SoundNext (execRqrd f s) :=
  issue_sound h fun _ _ ht => finishW_sound ht

theorem execRqwr_sound {f : FS} {s : State} (h : s.Sound) : SoundNext (execRqwr f s) :=
  issue_sound h fun _ _ ht => finishC_sound ht

theorem afterEarlier_sound {e : Env} {s t : State} (hs : s.Sound) (ht : t.Sound) : (afterEarlier e s t).Sound :=
  .ite ht (stall_sound hs)

theorem execStepo_sound {f : FS} {s : State} (h : s.Sound) : SoundNext (execStepo f s) := by
  unfold execStepo
  dsimp only
  refine issue_sound h fun e t ht => ?_
  refine afterEarlier_sound ht ?_
  refine .ite (trapAll_sound ht) ?_
  split
  · next hs1 => exact trapAll_sound (ht.translate.of_eq hs1)
  · next hs1 => exact finish_sound (ht.translate.of_eq hs1).stepOpen

theorem execStepm_sound {f : FS} {s : State} (h : s.Sound) : SoundNext (execStepm f s) := by
  unfold execStepm
  refine issue_sound h fun e t ht => ?_
  refine afterEarlier_sound ht ?_
  refine finish_sound ?_
  split
  · exact ht
  · exact ht.putStep

theorem execStepc_sound {f : FS} {s : State} (h : s.Sound) : SoundNext (execStepc f s) :=
  issue_sound h fun _ _ ht => afterEarlier_sound ht (finish_sound ht.stepClose)

theorem execTimeI_sound {f : FS} {s : State} (h : s.Sound) : SoundNext (execTimeI f s) :=
  issue_sound h fun _ _ ht => afterEarlier_sound ht (finishW_sound ht)

/-! Traps (Machine/Traps.lean). -/

theorem State.Sound.clauseWords {s : State} {r : CoachRef} {ctx : Nat} {hdr : DWord} {cnt : Nat} (h : s.Sound) :
    (s.clauseWords r ctx hdr cnt).2.Sound := by
  unfold State.clauseWords
  dsimp only
  refine h.foldlSnd fun q a ht => ?_
  split
  · exact ht
  · split
    · next hs1 => exact ht.fetchWord.of_eq hs1
    · next hs1 => exact ht.fetchWord.of_eq hs1

theorem execClauseFetch_sound {s : State} (h : s.Sound) : SoundNext (execClauseFetch s) := by
  unfold execClauseFetch
  dsimp only
  refine State.Sound.next ?_
  split
  · exact h
  · refine .ite h ?_
    split
    · next hs1 => exact (h.fetchWord.of_eq hs1).fetchTrap
    · next hs1 =>
      have h1 := h.fetchWord.of_eq hs1
      split
      · next hs2 => exact (h1.clauseWords.of_eq hs2).fetchTrap
      · next hs2 => exact .ite (h1.clauseWords.of_eq hs2).takeTrap (h1.clauseWords.of_eq hs2).modCoach

theorem execClauseWaitEnd_sound {s : State} (h : s.Sound) : SoundNext (execClauseWaitEnd s) := by
  unfold execClauseWaitEnd
  dsimp only
  refine State.Sound.next ?_
  split
  · split
    · exact .ite h h.setCoach
    · exact h
  · exact h

theorem execTrapTake_sound {s : State} (h : s.Sound) : SoundNext (execTrapTake s) := by
  unfold execTrapTake
  dsimp only
  refine State.Sound.next ?_
  split
  · split
    · exact .ite h h.formFrame
    · exact h
  · exact h

theorem execAsyncTrapTake_sound {s : State} (h : s.Sound) : SoundNext (execAsyncTrapTake s) := by
  unfold execAsyncTrapTake
  dsimp only
  refine State.Sound.next ?_
  split
  · refine .ite h ?_
    split
    · exact h.setCoach.asyncTrap
    · exact h
  · exact h

theorem State.Sound.escalBytes {s : State} {site ctx : Nat} {va : DWord} (h : s.Sound) :
    (s.escalBytes site ctx va).2.Sound := by
  unfold State.escalBytes
  split
  · next hs1 => exact h.devRead.of_eq hs1
  · next hs1 =>
    have h1 := h.devRead.of_eq hs1
    split
    · next hs2 => exact h1.devRead.of_eq hs2
    · next hs2 => exact h1.devRead.of_eq hs2

theorem State.Sound.freeEscal {s : State} {site ctx : Nat} {va : DWord} (h : s.Sound) :
    (s.freeEscal site ctx va).Sound :=
  .ite h h.setContext.poolReset

theorem State.Sound.reload {s : State} {e : Env} {va : DWord} (h : s.Sound) : (s.reload e va).2.Sound := by
  unfold State.reload
  dsimp only
  refine .iteSnd h ?_
  split
  · next hs1 => exact h.escalBytes.of_eq hs1
  · next hs1 => exact (h.escalBytes.of_eq hs1).freeEscal

theorem execResume_sound {s : State} (h : s.Sound) : SoundNext (execResume s) := by
  unfold execResume
  dsimp only
  refine State.Sound.next ?_
  split
  · exact h
  · split
    · exact h
    · refine .ite h ?_
      split
      · next hs1 => exact h.reload.of_eq hs1
      · next hs1 =>
        exact .ite (h.reload.of_eq hs1).setCoach.escalate (.ite (h.reload.of_eq hs1).setCoach.noticeDone
            (h.reload.of_eq hs1).setCoach)

theorem State.Sound.freeWg {s : State} {slot : Nat} (h : s.Sound) : (s.freeWg slot).Sound := by
  unfold State.freeWg
  dsimp only
  split
  · exact h
  · exact State.Sound.setCore (h.frame rfl rfl)

theorem State.Sound.dropBatches {s : State} {slot : Nat} (h : s.Sound) : (s.dropBatches slot).Sound :=
  ((h.foldl fun _ _ ht => ht.endRun).setCore).applyDecks

theorem State.Sound.gridEnd {s : State} {gid : Nat} (h : s.Sound) : (s.gridEnd gid).Sound := by
  unfold State.gridEnd
  dsimp only
  split
  · exact .ite (h.laterOne rfl) h
  · exact h

theorem State.Sound.raiseH {s : State} {k : Word} (h : s.Sound) : (s.raiseH k).Sound :=
  h.foldl fun _ _ ht => ht.setSite

theorem State.Sound.retireWg {s : State} {slot : Nat} (h : s.Sound) : (s.retireWg slot).Sound := by
  unfold State.retireWg
  dsimp only
  split
  · exact h.dropBatches.release
  · split
    · exact h.dropBatches.release.freeWg.raiseH
    · exact h.dropBatches.release.freeWg.raiseH.setGrid.gridEnd

theorem execCoachSlotFree_sound {s : State} (h : s.Sound) : SoundNext (execCoachSlotFree s) := by
  unfold execCoachSlotFree
  dsimp only
  refine State.Sound.next ?_
  split
  · exact h
  · split
    · exact h
    · exact .ite h (.ite h.setWg.retireWg h.setWg)

theorem State.Sound.dropWork {s : State} {slot : Nat} (h : s.Sound) : (s.dropWork slot).Sound :=
  ((h.setCore.applyDecks.foldl fun _ _ ht => ht.endCopy).setSite).foldl fun _ _ ht => .ite ht.setSite ht

theorem State.Sound.uncountAll {s : State} {w : Workgroup} (h : s.Sound) : (s.uncountAll w).Sound :=
  h.foldl fun _ _ ht => ht.uncount

theorem State.Sound.unlink {fuel : Nat} {s : State} {site ctx : Nat} {base : DWord} {at_ rec_ next : Nat}
    (h : s.Sound) :
    (State.unlink fuel s site ctx base at_ rec_ next).Sound := by
  induction fuel generalizing s at_ with
  | zero =>
    exact h
  | succ n ih =>
    unfold State.unlink
    dsimp only
    refine .ite h ?_
    split
    · next hs1 => exact h.devRead.of_eq hs1
    · next hs1 => exact .ite (h.devRead.of_eq hs1).devWrite (ih (h.devRead.of_eq hs1))

theorem State.Sound.freeRecord {s : State} {site ctx : Nat} {va : DWord} (h : s.Sound) :
    (s.freeRecord site ctx va).Sound := by
  unfold State.freeRecord
  dsimp only
  split
  · next hs1 => exact h.saveHeader.of_eq hs1
  · next hs1 =>
    exact State.Sound.poolReset (State.Sound.saveField (.ite (h.saveHeader.of_eq hs1).saveField
        (h.saveHeader.of_eq hs1).unlink))

theorem State.Sound.dropSaved {s : State} {site ctx : Nat} {v : SavedWg} (h : s.Sound) :
    (s.dropSaved site ctx v).Sound := by
  unfold State.dropSaved
  dsimp only
  refine .ite ?_ ?_
  · refine State.Sound.foldl (h.frame rfl rfl) fun t a ht => ?_
    split
    · exact ht.freeEscal
    · exact ht
  · refine State.Sound.freeRecord ?_
    refine State.Sound.foldl (h.frame rfl rfl) fun t a ht => ?_
    split
    · exact ht.freeEscal
    · exact ht

theorem State.Sound.killGrid {s : State} {gid : Nat} (h : s.Sound) : (s.killGrid gid).Sound := by
  unfold State.killGrid
  dsimp only
  split
  · exact h
  · refine State.Sound.laterOne ?_ rfl
    refine State.Sound.setGrid ?_
    refine State.Sound.foldl ?_ (fun _ _ ht => .ite ht.setCore ht)
    refine State.Sound.foldl ?_ (fun _ _ ht => .ite ht.setSite ht)
    refine State.Sound.foldl ?_ (fun _ _ ht => (ht.foldl fun _ _ hu => hu.stepClose).dropSaved)
    refine h.foldl fun t a ht => ?_
    refine State.Sound.freeWg ?_
    refine State.Sound.dropWork ?_
    refine ht.uncountAll.foldl fun _ _ hv => ?_
    split
    · exact hv.stepClose.freeEscal
    · exact hv.stepClose

theorem execKill_sound {s : State} (h : s.Sound) : SoundNext (execKill s) := by
  unfold execKill
  dsimp only
  refine State.Sound.next ?_
  split
  · exact .ite h.killGrid h
  · exact h

theorem execReflect_sound {s : State} (h : s.Sound) : SoundNext (execReflect s) := by
  unfold execReflect
  dsimp only
  refine State.Sound.next ?_
  split
  · exact h
  · split
    · exact h
    · refine .ite h ?_
      split
      · next hs1 => exact h.reload.of_eq hs1
      · next hs1 =>
        have h1 := h.reload.of_eq hs1
        split
        · next hs2 => exact (h1.setCoach.handler.of_eq hs2).modCoach
        · next hs2 => exact (h1.setCoach.handler.of_eq hs2).killGrid

theorem execSliceIssueCycle_sound {s : State} (h : s.Sound) : SoundNext (execSliceIssueCycle s) :=
  State.Sound.next (.ite h ((h.setCore.foldl fun _ _ ht => ht.modCoach).frame rfl rfl))

/-! Upkeep (Machine/Maintain.lean). -/

theorem execHorizonReport_sound {s : State} (h : s.Sound) : SoundNext (execHorizonReport s) := by
  unfold execHorizonReport
  dsimp only
  refine State.Sound.next ?_
  split
  · exact h
  · exact (h.foldl fun _ _ ht => ht.setSite).withWgs

theorem execAgeSweep_sound {s0 : State} (h : s0.Sound) : SoundNext (execAgeSweep s0) :=
  State.Sound.next (State.Sound.withLines (.ite h h.setSite))

theorem execPageWalk_sound {s : State} (h : s.Sound) : SoundNext (execPageWalk s) :=
  State.Sound.next (.ite h.translate h)

theorem State.Sound.discardRex {s : State} {n i : Nat} (h : s.Sound) : (s.discardRex n i).Sound := by
  unfold State.discardRex
  refine .ite h (State.Sound.addWin (State.Sound.setSite (h.frameMem ?_ rfl)))
  exact wf_foldl h.canonical fun m a hm => writeN_wf _ m _ hm

theorem State.Sound.zeroRex {s : State} {n i : Nat} (h : s.Sound) : (s.zeroRex n i).Sound := by
  unfold State.zeroRex
  refine State.Sound.foldl (State.Sound.foldl (h.discardRex.frameMem ?_ rfl) fun _ _ ht => ht.doubtQcbs)
      fun _ _ ht => ht.fireMonitors
  refine wf_foldl h.discardRex.canonical fun m a hm => ?_
  split
  · exact write_wf m _ _ hm
  · exact hm

theorem State.Sound.rexDone {s : State} {n : Nat} (h : s.Sound) : (s.rexDone n).Sound :=
  h.endCmd

theorem execArm_sound {s : State} (h : s.Sound) : SoundNext (execArm s) := by
  unfold execArm
  dsimp only
  refine State.Sound.next ?_
  refine .ite h ?_
  exact .ite h.rexDone.logEvent (State.Sound.rexDone (State.Sound.setWin (State.Sound.setSite (.ite h.zeroRex h))))

theorem execDisarm_sound {s : State} (h : s.Sound) : SoundNext (execDisarm s) :=
  State.Sound.next (.ite h (State.Sound.rexDone (State.Sound.setSite (.ite h.zeroRex h))))

theorem execRexDeadline_sound {s : State} (h : s.Sound) : SoundNext (execRexDeadline s) :=
  State.Sound.next (.ite h h.discardRex)

theorem State.Sound.dropXlate {s : State} {tlb : TlbEntry → Bool} {ctx : Option Nat} (h : s.Sound) :
    (s.dropXlate tlb ctx).Sound :=
  h.frame rfl rfl

theorem State.Sound.dropFrd {s : State} {ctx : Option Nat} (h : s.Sound) : (s.dropFrd ctx).Sound :=
  h.frame rfl rfl

theorem State.Sound.invDone {s : State} {n : Nat} {held : Bool} (h : s.Sound) : (s.invDone n held).Sound :=
  .ite h h.endCmd

theorem execTlbinvPage_sound {s : State} (h : s.Sound) : SoundNext (execTlbinvPage s) := by
  unfold execTlbinvPage
  dsimp only
  refine State.Sound.next ?_
  split
  · exact h
  · exact h.dropXlate.invDone

theorem execTlbinvContext_sound {s : State} (h : s.Sound) : SoundNext (execTlbinvContext s) := by
  unfold execTlbinvContext
  dsimp only
  refine State.Sound.next ?_
  split
  · exact h
  · exact h.dropXlate.dropFrd.invDone

theorem execTlbinvFrd_sound {s : State} (h : s.Sound) : SoundNext (execTlbinvFrd s) := by
  unfold execTlbinvFrd
  dsimp only
  refine State.Sound.next ?_
  split
  · exact h
  · exact h.dropFrd.invDone

theorem execTlbinvAll_sound {s : State} (h : s.Sound) : SoundNext (execTlbinvAll s) := by
  unfold execTlbinvAll
  dsimp only
  refine State.Sound.next ?_
  split
  · exact h
  · exact h.dropXlate.dropFrd.invDone

theorem execRegisterWrite_sound {s : State} (h : s.Sound) : SoundNext (execRegisterWrite s) :=
  State.Sound.next (.ite (Ssc.write_sound h) h)

theorem execEccSelfTest_sound {s : State} (h : s.Sound) : SoundNext (execEccSelfTest s) := by
  unfold execEccSelfTest
  dsimp only
  refine State.Sound.next ?_
  refine .ite h ?_
  refine .ite (State.Sound.frame (.ite h.logEvent h.logEvent.setSite) rfl rfl) ?_
  exact .ite (State.Sound.setCore (.ite h.logEvent h.logEvent.setSite)) (.ite h.logEvent h.logEvent.setSite)

theorem execTargetedSelfTestEnd_sound {s : State} (h : s.Sound) : SoundNext (execTargetedSelfTestEnd s) :=
  State.Sound.next (.ite h (.ite h (.ite h.setSite.logEvent.loseDeck h.setSite.logEvent)))

theorem execDramEvacuate_sound {s : State} (h : s.Sound) : SoundNext (execDramEvacuate s) := by
  unfold execDramEvacuate
  dsimp only
  refine State.Sound.next ?_
  refine .ite h ?_
  split
  · exact .ite h.setSite.setWin h.logEvent
  · exact h.logEvent

theorem execBack_sound {s : State} (h : s.Sound) : SoundNext (execBack s) := by
  unfold execBack
  dsimp only
  refine State.Sound.next ?_
  split
  · exact h
  · exact h.setSite.endCmd

/-! Placing and launching (Machine/Sched.lean). -/

theorem State.Sound.reclaim {s : State} {core u : Nat} (h : s.Sound) : (s.reclaim core u).Sound :=
  .ite h ((h.foldl fun _ _ ht => ht.ccDrop).setCore)

theorem State.Sound.take {s : State} {core gid : Nat} {g : Grid} {r : Room} (h : s.Sound) :
    (s.take core gid g r).Sound := by
  unfold State.take
  dsimp only
  refine State.Sound.withGiven ?_
  split
  · exact h.foldl fun _ _ ht => ht.reclaim
  · exact (h.foldl fun _ _ ht => ht.reclaim).setCore

theorem State.Sound.endRound {s : State} (h : s.Sound) : s.endRound.Sound :=
  .ite (h.frame rfl rfl) h

theorem State.Sound.admission {s : State} {ctx : Nat} (h : s.Sound) : ∀
    (t : State), s.admission ctx = some t → t.Sound := by
  unfold State.admission
  dsimp only
  split
  · exact State.Sound.ofSome h
  · split
    · exact State.Sound.ofSome h.setContext
    · split
      · exact nofun
      · exact State.Sound.ofSome h.setContext.setContext

theorem State.Sound.startWg {s : State} {core gid index : Nat} {g : Grid} {r : Room} (h : s.Sound) :
    (s.startWg core gid index g r).Sound :=
  h.endRound.take.setWg.ccAcquire.setGrid

theorem State.Sound.startTree {s s1 : State} {core gid : Nat} {g : Grid} (hs : s.Sound) (hs1 : s1.Sound) :
    (s.startTree s1 core gid g).Sound := by
  unfold State.startTree
  dsimp only
  split
  · exact .ite hs hs1.setCore.startWg
  · exact hs

theorem execWorkgroupStart_sound {s : State} (h : s.Sound) : SoundNext (execWorkgroupStart s) := by
  unfold execWorkgroupStart
  dsimp only
  refine State.Sound.next ?_
  split
  · exact h
  · refine .ite h ?_
    split
    · exact h
    · next hs1 =>
      have h1 := h.admission _ hs1
      refine .ite (h.startTree h1) ?_
      split
      · split
        · split
          · exact h1.startWg
          · exact h
        · exact h
      · refine .ite h ?_
        split
        · exact h
        · refine .ite h1.setGrid ?_
          split
          · split
            · exact h1.startWg
            · exact h
          · exact h

theorem execStaggerRegionStart_sound {s : State} (h : s.Sound) : SoundNext (execStaggerRegionStart s) := by
  unfold execStaggerRegionStart
  dsimp only
  refine State.Sound.next ?_
  split
  · exact h
  · exact .ite h h.setGrid

theorem State.Sound.checkRecord {s : State} {site ctx : Nat} {queue : DWord} {rec_ : List Byte} {clock : Word}
    (h : s.Sound) :
    (s.checkRecord site ctx queue rec_ clock).2.2.Sound := by
  unfold State.checkRecord
  dsimp only
  split
  · next hs1 => exact h.devRead.of_eq hs1
  · next hs1 =>
    have h1 := h.devRead.of_eq hs1
    split
    · next hs2 => exact h1.devAddr.of_eq hs2
    · next hs2 =>
      have h2 := h1.devAddr.of_eq hs2
      split
      · next hs3 => exact h2.devAddr.of_eq hs3
      · next hs3 => exact h2.devAddr.of_eq hs3

theorem State.Sound.distribute {s : State} {gid : Nat} {g : Grid} (h : s.Sound) : (s.distribute gid g).Sound :=
  h.foldl fun _ _ ht => ht.foldl fun _ _ hu => .ite hu.setCore hu

theorem State.Sound.nameGrid {s : State} {ctx : Nat} (h : s.Sound) : (s.nameGrid ctx).Sound :=
  State.Sound.setContext (h.frame rfl rfl)

theorem State.Sound.addGrid {s : State} {gid : Nat} {g : Grid} (h : s.Sound) : (s.addGrid gid g).Sound :=
  .ite (State.Sound.setGrid (State.Sound.distribute (h.frame rfl rfl))) (State.Sound.setGrid (h.frame rfl rfl))

theorem State.Sound.refuse {s : State} {g : Grid} {status : Nat} (h : s.Sound) : (s.refuse g status).Sound :=
  State.Sound.laterOne (State.Sound.setGrid (h.frame rfl rfl)) rfl

theorem State.Sound.launchProbe {s : State} {site ctx e : Nat} (h : s.Sound) :
    (s.launchProbe site ctx e).Sound := by
  unfold State.launchProbe
  dsimp only
  refine .ite h ?_
  split
  · next hs1 => exact h.openQcb.of_eq hs1
  · next hs1 => exact (h.openQcb.of_eq hs1).readySlots

theorem execLaunchRecordTake_sound {s : State} (h : s.Sound) : SoundNext (execLaunchRecordTake s) := by
  unfold execLaunchRecordTake
  dsimp only
  refine State.Sound.next ?_
  refine .ite h ?_
  split
  · exact .ite (State.Sound.addGrid (h.frame rfl rfl)) h
  · split
    · exact .ite h.launchProbe h
    · refine .ite h ?_
      split
      · exact h
      · next hs1 =>
        have h1 := h.admission _ hs1
        split
        · next hs2 => exact h1.openQcb.of_eq hs2
        · next hs2 =>
          have h2 := h1.openQcb.of_eq hs2
          split
          · next hs3 =>
            have h3 := h2.deqAddrs.of_eq hs3
            split
            · next hs4 => exact (h3.deqCommit.setSite.checkRecord.of_eq₂ hs4).refuse
            · next hs4 =>
              exact .ite (h3.deqCommit.setSite.checkRecord.of_eq₂ hs4).nameGrid.addGrid
                  (h3.deqCommit.setSite.checkRecord.of_eq₂ hs4).nameGrid.withWaitRecs
          · next hs3 => exact h2.deqAddrs.of_eq hs3

theorem execGridCompletion_sound {s : State} (h : s.Sound) : SoundNext (execGridCompletion s) := by
  unfold execGridCompletion
  extract_lets gid
  refine State.Sound.next ?_
  split
  · exact h
  · next g _ =>
    extract_lets s1 bad s2
    have h1 : s1.Sound := .ite h h.raiseH
    have h2 : s2.Sound := by
      dsimp only [s2, bad]
      split
      · next hs1 => exact (h1.devWrite.of_eq hs1).report
      · next hs1 =>
        have h3 := h1.devWrite.of_eq hs1
        split
        · next hs2 => exact (h3.devAddr.of_eq hs2).report
        · next hs2 => exact (h3.devAddr.of_eq hs2).homeWrite.raiseLine
    exact .ite h h2.withoutGrid

theorem State.Sound.takeHalf {s : State} {cores : List Nat} {thief : Nat} (h : s.Sound) :
    (s.takeHalf cores thief).Sound := by
  unfold State.takeHalf
  refine State.Sound.setCore ?_
  exact List.foldlRecOn (motive := fun a : State × List RangeQ => a.1.Sound) cores.reverse _ h fun a ha c _ => ha.setCore

theorem State.Sound.startHead {s : State} {core : Nat} (h : s.Sound) : (s.startHead core).Sound := by
  unfold State.startHead
  split
  · exact h
  · split
    · exact h
    · refine .ite h ?_
      split
      · exact h
      · next hs1 =>
        have h1 := h.admission _ hs1
        exact h.startTree h1

theorem State.Sound.askQuad {s : State} {core : Nat} (h : s.Sound) : (s.askQuad core).Sound := by
  unfold State.askQuad
  dsimp only
  refine .ite h.setCore ?_
  split
  · exact h.takeHalf
  · refine .ite h.setCore ?_
    split
    · exact h.takeHalf
    · exact h.setCore

theorem execStealRequest_sound {s : State} (h : s.Sound) : SoundNext (execStealRequest s) :=
  State.Sound.next (.ite h (.ite h.askQuad (.ite h.setCore.startHead.setCore h.setCore.startHead.takeHalf)))

theorem execStealRetryWait_sound {s : State} (h : s.Sound) : SoundNext (execStealRetryWait s) :=
  h.setCore.next

theorem execSbufLend_sound {s : State} (h : s.Sound) : SoundNext (execSbufLend s) := by
  unfold execSbufLend
  dsimp only
  refine State.Sound.next ?_
  split
  · exact .ite h.setCore h
  · exact h

theorem execSbufReclaim_sound {s : State} (h : s.Sound) : SoundNext (execSbufReclaim s) :=
  State.Sound.next (.ite h.reclaim h)

theorem State.Sound.without {s : State} {slots : List Nat} (h : s.Sound) : (s.without slots).Sound :=
  h.foldl fun _ _ ht => ht.freeWg

theorem execPriorityPreempt_sound {s : State} (h : s.Sound) : SoundNext (execPriorityPreempt s) := by
  unfold execPriorityPreempt
  dsimp only
  refine State.Sound.next ?_
  split
  · exact h
  · refine .ite h ?_
    split
    · exact h
    · exact h.laterMap rfl

theorem execQuantumExpiry_sound {s : State} (h : s.Sound) : SoundNext (execQuantumExpiry s) := by
  unfold execQuantumExpiry
  dsimp only
  refine State.Sound.next ?_
  split
  · exact h
  · exact .ite (h.laterOne rfl) h

theorem State.Sound.beginSave {s : State} {slot parkTo : Nat} (h : s.Sound) : (s.beginSave slot parkTo).Sound := by
  unfold State.beginSave
  dsimp only
  split
  · exact h
  · exact .ite h (h.setWg.laterOne rfl)

theorem execPreemptRequest_sound {s : State} (h : s.Sound) : SoundNext (execPreemptRequest s) := by
  unfold execPreemptRequest
  dsimp only
  refine State.Sound.next ?_
  split
  · exact h
  · refine .ite h ?_
    refine .ite h.beginSave ?_
    exact .ite (((h.handler.foldl fun _ _ ht => ht.modCoach).modWg).laterOne rfl) ((h.handler.foldl
        fun _ _ ht => ht.modCoach).modWg)

theorem execNoticeIntervalExpiry_sound {s : State} (h : s.Sound) : SoundNext (execNoticeIntervalExpiry s) := by
  unfold execNoticeIntervalExpiry
  dsimp only
  refine State.Sound.next ?_
  split
  · exact h
  · split
    · exact .ite h.beginSave h
    · exact h

theorem execBarrierPark_sound {s : State} (h : s.Sound) : SoundNext (execBarrierPark s) := by
  unfold execBarrierPark
  dsimp only
  refine State.Sound.next ?_
  split
  · exact h
  · refine .ite h ?_
    split
    · exact h.beginSave
    · exact h

theorem execWaitPark_sound {s : State} (h : s.Sound) : SoundNext (execWaitPark s) := by
  unfold execWaitPark
  dsimp only
  refine State.Sound.next ?_
  split
  · exact h
  · refine .ite h ?_
    split
    · exact h.beginSave
    · exact h

/-! Save, restore and migration (Machine/Save.lean). -/

theorem State.Sound.markAbsent {s : State} {r : CoachRef} {queues : Bool} (h : s.Sound) : (s.markAbsent r queues).Sound :=
  h.foldl fun _ _ ht => .ite ht.setSite ht

theorem State.Sound.stopCoach {queues : Bool} {s : State} {r : CoachRef} (h : s.Sound) :
    (State.stopCoach queues s r).Sound := by
  unfold State.stopCoach
  dsimp only
  split
  · exact h
  · exact .ite h h.markAbsent.setCoach.cancelWait

theorem State.Sound.restCoach {s : State} {r : CoachRef} (h : s.Sound) : (s.restCoach r).Sound :=
  h.modCoach

theorem State.Sound.settleTrap {s : State} {r : CoachRef} (h : s.Sound) : (s.settleTrap r).Sound := by
  unfold State.settleTrap
  split
  · split
    · exact .ite h h.setCoach.formFrame
    · exact h
  · exact h

theorem State.Sound.poolPlace {s : State} {site ctx size : Nat} (h : s.Sound) :
    (s.poolPlace site ctx size).2.Sound := by
  unfold State.poolPlace
  dsimp only
  split
  · next hs1 => exact h.saveHeader.of_eq hs1
  · next hs1 => exact .iteSnd (h.saveHeader.of_eq hs1) (h.saveHeader.of_eq hs1)

theorem State.Sound.saveFields {site ctx : Nat} {l : List (Nat × Nat × Nat)} {s : State} (h : s.Sound) :
    (State.saveFields site ctx l s).2.Sound := by
  induction l generalizing s with
  | nil =>
    exact h
  | cons a r ih =>
    unfold State.saveFields
    split
    · next hs1 => exact ih (h.saveField.of_eq hs1)
    · next hs1 => exact h.saveField.of_eq hs1

theorem State.Sound.linkRecord {s : State} {site ctx gid : Nat} {g : Grid} {park : Bool} {va : DWord} {size : Nat}
    {matrix : Bool} (h : s.Sound) :
    (s.linkRecord site ctx gid g park va size matrix).2.Sound := by
  unfold State.linkRecord
  dsimp only
  refine .iteSnd ?_ ?_
  · split
    · exact h.devWrite
    · exact h
  · split
    · next hs1 => exact h.saveHeader.of_eq hs1
    · next hs1 => exact (h.saveHeader.of_eq hs1).saveFields

theorem State.Sound.rekeySteps {s : State} {from_ to_ : Nat} (h : s.Sound) : (s.rekeySteps from_ to_).Sound :=
  h.foldl fun _ _ ht => .ite ht.setSite ht

theorem State.Sound.landPackets {s : State} {slot : Nat} (h : s.Sound) : (s.landPackets slot).Sound :=
  h.foldl fun _ _ ht => ht.landAll.foldl fun _ _ hu => hu.landChunk

theorem State.Sound.liftWork {s : State} {slot : Nat} (h : s.Sound) : (s.liftWork slot).Sound :=
  h.setCore.setSite

theorem State.Sound.saveFails {s : State} {slot : Nat} {w : Workgroup} {va : DWord} (h : s.Sound) :
    (s.saveFails slot w va).Sound :=
  State.Sound.report (State.Sound.modWg (h.foldl fun _ _ ht => .ite ht.setSite ht))

theorem State.Sound.saveNow {s : State} {slot : Nat} {w0 : Workgroup} {g : Grid} {states : Table CoachState}
    (h : s.Sound) :
    (s.saveNow slot w0 g states).Sound := by
  unfold State.saveNow
  dsimp only
  split
  · exact h
  · split
    · exact State.Sound.saveFails (.iteSnd h.landPackets.release h.landPackets.release.poolPlace)
    · split
      · next s1 hs1 =>
        have h1 : s1.Sound := by
          refine State.Sound.of_eq ?_ hs1
          exact State.Sound.devWrite (.iteSnd h.landPackets.release h.landPackets.release.poolPlace)
        exact h1.saveFails
      · next s1 hs1 =>
        have h1 : s1.Sound := by
          refine State.Sound.of_eq ?_ hs1
          exact State.Sound.devWrite (.iteSnd h.landPackets.release h.landPackets.release.poolPlace)
        split
        · next hs2 => exact (h1.linkRecord.of_eq hs2).saveFails
        · next hs2 => exact (h1.linkRecord.of_eq hs2).liftWork.freeWg.rekeySteps.withSaved

theorem execWorkgroupSave_sound {s : State} (h : s.Sound) : SoundNext (execWorkgroupSave s) := by
  unfold execWorkgroupSave
  dsimp only
  refine State.Sound.next ?_
  split
  · exact h
  · refine .ite h ?_
    refine .ite ((h.foldl fun _ _ ht => ht.settleTrap).foldl fun _ _ ht => ht.stopCoach) ?_
    split
    · split
      · exact (((h.foldl fun _ _ ht => ht.settleTrap).foldl fun _ _ ht => ht.stopCoach).foldl
            fun _ _ ht => ht.restCoach).saveNow
      · exact ((h.foldl fun _ _ ht => ht.settleTrap).foldl fun _ _ ht => ht.stopCoach).foldl fun _ _ ht => ht.restCoach
    · exact (h.foldl fun _ _ ht => ht.settleTrap).foldl fun _ _ ht => ht.stopCoach

theorem State.Sound.recordOf {s : State} {site ctx : Nat} {v : SavedWg} (h : s.Sound) :
    (s.recordOf site ctx v).2.Sound := by
  unfold State.recordOf
  split
  · next hs1 => exact h.saveHeader.of_eq hs1
  · next hs1 =>
    have h1 := h.saveHeader.of_eq hs1
    refine .iteSnd h1 ?_
    split
    · next hs2 => exact h1.devRead.of_eq hs2
    · next hs2 => exact .iteSnd (h1.devRead.of_eq hs2) (h1.devRead.of_eq hs2)

theorem State.Sound.returnWork {s : State} {core ctx : Nat} {v : SavedWg} {b : Rebase} (h : s.Sound) :
    (s.returnWork core ctx v b).Sound :=
  (((h.setCore.foldl fun _ _ ht => ht.setQueue).setSite).setSite).laterMap rfl

theorem State.Sound.unspill {s : State} {site ctx n count : Nat} (h : s.Sound) :
    (s.unspill site ctx n count).Sound := by
  unfold State.unspill
  dsimp only
  split
  · next hs1 => exact h.devRead.of_eq hs1
  · next hs1 => exact (h.devRead.of_eq hs1).devWrite.saveField

theorem State.Sound.unspillAll {fuel : Nat} {s : State} {site ctx slot n : Nat} (h : s.Sound) :
    (State.unspillAll fuel s site ctx slot n).Sound := by
  induction fuel generalizing s n with
  | zero =>
    exact h
  | succ n ih =>
    unfold State.unspillAll
    split
    · next hs1 => exact h.saveHeader.of_eq hs1
    · next hs1 =>
      have h1 := h.saveHeader.of_eq hs1
      refine .ite h1 ?_
      split
      · next hs2 => exact h1.devRead.of_eq hs2
      · next hs2 => exact .ite (ih (h1.devRead.of_eq hs2).unspill) (ih (h1.devRead.of_eq hs2))

theorem State.Sound.recallEntries {s : State} {site ctx : Nat} {v : SavedWg} (h : s.Sound) :
    (s.recallEntries site ctx v).Sound := by
  unfold State.recallEntries
  dsimp only
  refine .ite ?_ ?_
  · refine State.Sound.unspillAll ?_
    refine State.Sound.foldl (h.foldl fun _ _ ht => .ite ht.setSite ht) fun t a ht => ?_
    split
    · exact ht.uncount
    · exact ht
  · refine State.Sound.foldl (h.foldl fun _ _ ht => .ite ht.setSite ht) fun t a ht => ?_
    split
    · exact ht.uncount
    · exact ht

theorem State.Sound.restoreOne {s : State} {core : Nat} {g : Grid} {v : SavedWg} {r : Room} {b : List Byte}
    {re : Rebase} (h : s.Sound) :
    (s.restoreOne core g v r b re).Sound := by
  unfold State.restoreOne
  dsimp only
  refine .ite ?_ (State.Sound.freeRecord (State.Sound.withSaved (State.Sound.rekeySteps
      (State.Sound.returnWork (State.Sound.recallEntries (.ite h.setCore.setWg h.setCore.setWg.ccAcquire))))))
  split
  · split
    · next s1 hs1 =>
      have h1 : s1.Sound := by
        refine State.Sound.of_eq ?_ hs1
        exact State.Sound.devRead (State.Sound.withSaved (State.Sound.rekeySteps (State.Sound.returnWork
            (State.Sound.recallEntries (.ite h.setCore.setWg h.setCore.setWg.ccAcquire)))))
      exact h1.devWrite
    · next s1 hs1 =>
      have h1 : s1.Sound := by
        refine State.Sound.of_eq ?_ hs1
        exact State.Sound.devRead (State.Sound.withSaved (State.Sound.rekeySteps (State.Sound.returnWork
            (State.Sound.recallEntries (.ite h.setCore.setWg h.setCore.setWg.ccAcquire)))))
      exact h1
  · exact State.Sound.withSaved (State.Sound.rekeySteps (State.Sound.returnWork (State.Sound.recallEntries
        (.ite h.setCore.setWg h.setCore.setWg.ccAcquire))))

theorem readRecords_sound {site ctx : Nat} {l : List SavedWg} {s : State} (h : s.Sound) :
    (readRecords site ctx l s).2.Sound := by
  induction l generalizing s with
  | nil =>
    exact h
  | cons a r ih =>
    unfold readRecords
    split
    · next hs1 => exact h.recordOf.of_eq hs1
    · next hs1 =>
      have h1 := h.recordOf.of_eq hs1
      split
      · next hs2 => exact (ih h1).of_eq hs2
      · next hs2 => exact (ih h1).of_eq hs2

theorem State.Sound.restoreGroup {s : State} {core : Nat} {g : Grid} {gid : Nat} {l : List SavedWg}
    {rooms : List Room} (h : s.Sound) :
    (s.restoreGroup core g gid l rooms).Sound := by
  unfold State.restoreGroup
  dsimp only
  split
  · next hs1 => exact ((readRecords_sound h).of_eq hs1).report
  · next hs1 =>
    have h1 := (readRecords_sound h).of_eq hs1
    refine .ite h1.report ?_
    refine State.Sound.foldl ?_ (fun _ _ ht => ht.take.restoreOne)
    split
    · exact .ite ((h1.endRound.foldl fun _ _ ht => ht.take).setCore) (h1.endRound.foldl fun _ _ ht => ht.take)
    · exact h1.endRound.foldl fun _ _ ht => ht.take

theorem execWorkgroupRestore_sound {s : State} (h : s.Sound) : SoundNext (execWorkgroupRestore s) := by
  unfold execWorkgroupRestore
  dsimp only
  refine State.Sound.next ?_
  split
  · split
    · next hs1 =>
      have h1 := h.admission _ hs1
      exact .ite h h1.restoreGroup
    · exact h
  · exact h

theorem execMigration_sound {s : State} (h : s.Sound) : SoundNext (execMigration s) := by
  unfold execMigration
  dsimp only
  refine State.Sound.next ?_
  split
  · exact h
  · refine .ite h ?_
    split
    · exact h
    · exact .ite h (h.foldl fun _ _ ht => ht.beginSave.modWg)

/-! Power-on, the host and checkpoints (Machine/HostLink.lean). -/

theorem execPowerOnReset_sound {s : State} : SoundNext (execPowerOnReset s) :=
  State.Sound.next (State.Sound.reset.frame rfl rfl)

theorem execFirmwareUpdate_sound {s : State} (h : s.Sound) : SoundNext (execFirmwareUpdate s) :=
  State.Sound.next (.ite (h.frame rfl rfl) h)

theorem State.Sound.fails {s : State} {site : Nat} (h : s.Sound) : (s.fails site).Sound :=
  .ite h (h.frame rfl rfl)

theorem State.Sound.linksTo {s : State} {lanes st : Nat} (h : s.Sound) : (s.linksTo lanes st).Sound :=
  h.foldl fun _ _ ht => ht.foldl fun _ _ hu => hu.foldl fun _ _ hv => hv.setLstat

theorem State.Sound.opticsUp {s : State} {key : List Byte} (h : s.Sound) : (s.opticsUp key).Sound :=
  h.linksTo.foldl fun _ _ ht => (ht.foldl fun _ _ hu => hu.setWin).setWin

theorem State.Sound.stageAction {s : State} (h : s.Sound) : s.stageAction.Sound := by
  unfold State.stageAction
  dsimp only
  split
  · exact h.frame rfl rfl
  · exact h.frame rfl rfl
  · exact h.frame rfl rfl
  · exact h.linksTo.laterMap rfl
  · exact h.opticsUp
  · exact h

theorem execBringupStage_sound {s : State} (h : s.Sound) : SoundNext (execBringupStage s) :=
  State.Sound.next (.ite h (.ite h.fails (.ite h (h.stageAction.frame rfl rfl))))

theorem execToffUpdate_sound {s : State} (h : s.Sound) : SoundNext (execToffUpdate s) :=
  State.Sound.next (.ite (h.frame rfl rfl) h)

theorem execThermalTrip_sound {s : State} (h : s.Sound) : SoundNext (execThermalTrip s) :=
  State.Sound.next (.ite h (h.logEvent.setSite.fails.foldl fun _ _ ht => ht.killGrid))

theorem execOzrikLinkTrain_sound {s : State} (h : s.Sound) : SoundNext (execOzrikLinkTrain s) :=
  State.Sound.next (.ite h (.ite (.ite (h.frame rfl rfl) h) (.ite h (h.frame rfl rfl))))

theorem State.Sound.assignPod {s : State} {ctx : Nat} (h : s.Sound) : (s.assignPod ctx).Sound :=
  h.frame rfl rfl

theorem execHostAccess_sound {s : State} (h : s.Sound) : SoundNext (execHostAccess s) := by
  unfold execHostAccess
  dsimp only
  refine State.Sound.next ?_
  refine .ite h.assignPod ?_
  refine .ite h ?_
  split
  · exact .ite (Ssc.write_sound h) h
  · exact .ite (h.store rfl rfl) h
  · exact .ite h (.ite h.homeTouch.homeWrite h.homeTouch.setLine)

theorem State.Sound.hostEnqueue {s : State} {n ctx : Nat} {va : DWord} (h : s.Sound) :
    ∀ (t : Nat × State), s.hostEnqueue n ctx va = some t → t.2.Sound := by
  unfold State.hostEnqueue
  dsimp only
  split
  · exact State.Sound.ofSomeSnd h
  · split
    · exact nofun
    · next hs1 => exact State.Sound.ofSomeSnd (h.openQcb.of_eq hs1)
    · next hs1 => exact State.Sound.ofSomeSnd (h.openQcb.of_eq hs1)
    · next hs1 =>
      have h1 := h.openQcb.of_eq hs1
      split
      · exact State.Sound.ofSomeSnd h1
      · split
        · exact State.Sound.ofSomeSnd h1
        · split
          · exact State.Sound.ofSomeSnd h1
          · split
            · exact nofun
            · next hs2 => exact State.Sound.ofSomeSnd (h1.enqAddrs.of_eq hs2)
            · next hs2 => exact State.Sound.ofSomeSnd (h1.enqAddrs.of_eq hs2)
            · next hs2 => exact State.Sound.ofSomeSnd (h1.enqAddrs.of_eq hs2).enqCommit

theorem execHqenq_sound {s : State} (h : s.Sound) : SoundNext (execHqenq s) := by
  unfold execHqenq
  dsimp only
  refine State.Sound.next ?_
  split
  · exact h
  · split
    · exact h
    · next hs1 =>
      have h1 := h.hostEnqueue _ hs1
      exact h1.setWin.endCmd

theorem execAttcmd_sound {s : State} (h : s.Sound) : SoundNext (execAttcmd s) :=
  State.Sound.next (.ite h h.homeWrite.setWin)

theorem State.Sound.ckptDone {s : State} {err : Bool} (h : s.Sound) : (s.ckptDone err).Sound :=
  h.setWin.endCmd

theorem execCheckpoint_sound {s : State} (h : s.Sound) : SoundNext (execCheckpoint s) := by
  unfold execCheckpoint
  dsimp only
  refine State.Sound.next ?_
  refine .ite h ?_
  exact .ite (h.foldl fun _ _ ht => ht.beginSave) (.ite (State.Sound.ckptDone (h.frame rfl rfl)) h.ckptDone)

theorem State.Sound.afterRestore {s : State} (h : s.Sound) : s.afterRestore.Sound := by
  have hd : ((s.dropXlate (fun _ => true) none).dropFrd none).Sound := h.dropXlate.dropFrd
  exact State.Sound.foldl (hd.frame rfl rfl) fun _ _ ht => ht.fireMonitors

theorem execCheckpointRestore_sound {s : State} (h : s.Sound) : SoundNext (execCheckpointRestore s) := by
  unfold execCheckpointRestore
  refine State.Sound.next (.ite h ?_)
  split
  · refine State.Sound.ckptDone (State.Sound.afterRestore (h.frameMem ?_ rfl))
    exact wf_foldl (filter_wf _ _ h.canonical) fun m a hm => write_wf m _ _ hm
  · exact h.ckptDone

/-! Lanes and predicates (Machine/Lane.lean). -/

theorem lanePick_sound {f : RRR} {partner : Env → Nat → Nat} {e : Env} {s : State} (h : s.Sound) :
    (lanePick f partner e s).Sound :=
  lanewise_sound h

theorem execLxch_sound {f : RRR} {s : State} (h : s.Sound) : SoundNext (execLxch f s) :=
  issue_sound h fun _ _ ht => lanePick_sound ht

theorem execLshfl_sound {f : RRR} {s : State} (h : s.Sound) : SoundNext (execLshfl f s) :=
  issue_sound h fun _ _ ht => lanePick_sound ht

theorem execLbcast_sound {f : RRR} {s : State} (h : s.Sound) : SoundNext (execLbcast f s) :=
  issue_sound h fun _ _ ht => lanePick_sound ht

theorem execLrot_sound {f : RRR} {s : State} (h : s.Sound) : SoundNext (execLrot f s) :=
  issue_sound h fun _ _ ht => lanePick_sound ht

theorem execCred_sound {f : RRR} {s : State} (h : s.Sound) : SoundNext (execCred f s) :=
  issue_sound h fun _ _ ht => lanewise_sound ht

theorem execCscan_sound {f : RRR} {s : State} (h : s.Sound) : SoundNext (execCscan f s) :=
  issue_sound h fun _ _ ht => lanewise_sound ht

theorem execPand_sound {f : RRR} {s : State} (h : s.Sound) : SoundNext (execPand f s) :=
  issue_sound h fun _ _ ht => setPreds_sound ht

theorem execPor_sound {f : RRR} {s : State} (h : s.Sound) : SoundNext (execPor f s) :=
  issue_sound h fun _ _ ht => setPreds_sound ht

theorem execPxor_sound {f : RRR} {s : State} (h : s.Sound) : SoundNext (execPxor f s) :=
  issue_sound h fun _ _ ht => setPreds_sound ht

theorem execPnot_sound {f : RRR} {s : State} (h : s.Sound) : SoundNext (execPnot f s) :=
  issue_sound h fun _ _ ht => setPreds_sound ht

theorem execPmask_sound {f : RRR} {s : State} (h : s.Sound) : SoundNext (execPmask f s) :=
  issue_sound h fun _ _ ht => setPreds_sound ht

theorem execPsets_sound {f : RRR} {s : State} (h : s.Sound) : SoundNext (execPsets f s) :=
  issue_sound h fun _ _ ht => setPreds_sound ht

theorem execVote_sound {f : RRR} {s : State} (h : s.Sound) : SoundNext (execVote f s) :=
  issue_sound h fun _ _ ht => lanewise_sound ht

theorem execElect_sound {f : RRR} {s : State} (h : s.Sound) : SoundNext (execElect f s) :=
  issue_sound h fun _ _ ht => setPreds_sound ht

theorem execVget_sound {f : RRR} {s : State} (h : s.Sound) : SoundNext (execVget f s) :=
  issue_sound h fun _ _ ht => finishW_sound ht

theorem execVput_sound {f : RRR} {s : State} (h : s.Sound) : SoundNext (execVput f s) :=
  issue_sound h fun _ _ ht => finishW_sound ht

/-! Transcendental instructions (Machine/Transcend.lean). -/

theorem execFrcp_sound {f : RRR} {s : State} (h : s.Sound) : SoundNext (execFrcp f s) :=
  issue_sound h fun _ _ ht => opDA_sound ht

theorem execFrsq_sound {f : RRR} {s : State} (h : s.Sound) : SoundNext (execFrsq f s) :=
  issue_sound h fun _ _ ht => opDA_sound ht

theorem execFsin_sound {f : RRR} {s : State} (h : s.Sound) : SoundNext (execFsin f s) :=
  issue_sound h fun _ _ ht => opDA_sound ht

theorem execFcos_sound {f : RRR} {s : State} (h : s.Sound) : SoundNext (execFcos f s) :=
  issue_sound h fun _ _ ht => opDA_sound ht

theorem execFsincos_sound {f : RRR} {s : State} (h : s.Sound) : SoundNext (execFsincos f s) :=
  issue_sound h fun _ _ ht => lanewise_sound ht

theorem execFexp2_sound {f : RRR} {s : State} (h : s.Sound) : SoundNext (execFexp2 f s) :=
  issue_sound h fun _ _ ht => opDA_sound ht

theorem execFlog2_sound {f : RRR} {s : State} (h : s.Sound) : SoundNext (execFlog2 f s) :=
  issue_sound h fun _ _ ht => opDA_sound ht

theorem execFexp_sound {f : RRR} {s : State} (h : s.Sound) : SoundNext (execFexp f s) :=
  issue_sound h fun _ _ ht => opDA_sound ht

theorem execFln_sound {f : RRR} {s : State} (h : s.Sound) : SoundNext (execFln f s) :=
  issue_sound h fun _ _ ht => opDA_sound ht

theorem execFtanh_sound {f : RRR} {s : State} (h : s.Sound) : SoundNext (execFtanh f s) :=
  issue_sound h fun _ _ ht => opDA_sound ht

theorem execFsigm_sound {f : RRR} {s : State} (h : s.Sound) : SoundNext (execFsigm f s) :=
  issue_sound h fun _ _ ht => opDA_sound ht

/-! The passing of time (Machine/Time.lean). -/

theorem State.Sound.watchSlices {now : Nat} {s : State} {core : Nat} (h : s.Sound) :
    (State.watchSlices now s core).Sound :=
  h.foldl fun _ _ ht => .ite ht.setCore ht

theorem State.Sound.sampleSite {s : State} {n : Nat} (h : s.Sound) : (s.sampleSite n).Sound :=
  .ite (((h.foldl fun _ _ ht => ht.governorSample).setSite).sendTargets) (h.foldl fun _ _ ht => ht.governorSample)

theorem State.Sound.dueNow {s : State} (h : s.Sound) : s.dueNow.Sound :=
  ((h.foldl fun _ _ ht => ht.sampleSite).foldl fun _ _ ht => ht.foldl fun _ _ hu => hu.deliverTarget).foldl
      fun _ _ ht => ht.discardRex

theorem State.Sound.ticked {s : State} (h : s.Sound) : s.ticked.Sound := by
  unfold State.ticked
  dsimp only
  split
  · exact (h.foldl fun _ _ ht => ht.watchSlices).frame rfl rfl
  · exact .ite (State.Sound.dueNow ((h.foldl fun _ _ ht => ht.watchSlices).frame rfl rfl)) ((h.foldl
        fun _ _ ht => ht.watchSlices).frame rfl rfl)

/-! Every instruction and event (Machine/Dispatch.lean). -/

/-- Every instruction and every event keeps the invariant. -/
theorem exec_sound {s : State} (h : s.Sound) : ∀ i, SoundNext (exec i s)
  | .nop _ => execNop_sound h
  | .iadd _ => execIadd_sound h
  | .isub _ => execIsub_sound h
  | .imul _ => execImul_sound h
  | .imulh _ => execImulh_sound h
  | .imad _ => execImad_sound h
  | .imin _ => execImin_sound h
  | .imax _ => execImax_sound h
  | .iabs _ => execIabs_sound h
  | .ineg _ => execIneg_sound h
  | .popc _ => execPopc_sound h
  | .clz _ => execClz_sound h
  | .brev _ => execBrev_sound h
  | .idot4 _ => execIdot4_sound h
  | .andI _ => execAndI_sound h
  | .orI _ => execOrI_sound h
  | .xorI _ => execXorI_sound h
  | .notI _ => execNotI_sound h
  | .shl _ => execShl_sound h
  | .shr _ => execShr_sound h
  | .sar _ => execSar_sound h
  | .rotl _ => execRotl_sound h
  | .bfx _ => execBfx_sound h
  | .bfi _ => execBfi_sound h
  | .icmp _ => execIcmp_sound h
  | .fcmp _ => execFcmp_sound h
  | .sel _ => execSel_sound h
  | .movI _ => execMovI_sound h
  | .prmt _ => execPrmt_sound h
  | .fadd _ => execFadd_sound h
  | .fsub _ => execFsub_sound h
  | .fmul _ => execFmul_sound h
  | .ffma _ => execFfma_sound h
  | .fmin _ => execFmin_sound h
  | .fmax _ => execFmax_sound h
  | .fabs _ => execFabs_sound h
  | .fneg _ => execFneg_sound h
  | .fdiv _ => execFdiv_sound h
  | .fsqrt _ => execFsqrt_sound h
  | .frcp _ => execFrcp_sound h
  | .frsq _ => execFrsq_sound h
  | .fscl _ => execFscl_sound h
  | .frnd _ => execFrnd_sound h
  | .hadd2 _ => execHadd2_sound h
  | .hsub2 _ => execHsub2_sound h
  | .hmul2 _ => execHmul2_sound h
  | .hfma2 _ => execHfma2_sound h
  | .hmin2 _ => execHmin2_sound h
  | .hmax2 _ => execHmax2_sound h
  | .hdot2 _ => execHdot2_sound h
  | .dadd _ => execDadd_sound h
  | .dsub _ => execDsub_sound h
  | .dmul _ => execDmul_sound h
  | .dfma _ => execDfma_sound h
  | .dmin _ => execDmin_sound h
  | .dmax _ => execDmax_sound h
  | .ddiv _ => execDdiv_sound h
  | .dsqrt _ => execDsqrt_sound h
  | .cvt _ => execCvt_sound h
  | .cvtsr _ => execCvtsr_sound h
  | .fsin _ => execFsin_sound h
  | .fcos _ => execFcos_sound h
  | .fsincos _ => execFsincos_sound h
  | .fexp2 _ => execFexp2_sound h
  | .flog2 _ => execFlog2_sound h
  | .fexp _ => execFexp_sound h
  | .fln _ => execFln_sound h
  | .ftanh _ => execFtanh_sound h
  | .fsigm _ => execFsigm_sound h
  | .bscale _ => execBscale_sound h
  | .benc _ => execBenc_sound h
  | .bdec _ => execBdec_sound h
  | .lxch _ => execLxch_sound h
  | .lshfl _ => execLshfl_sound h
  | .lbcast _ => execLbcast_sound h
  | .lrot _ => execLrot_sound h
  | .cred _ => execCred_sound h
  | .cscan _ => execCscan_sound h
  | .pand _ => execPand_sound h
  | .por _ => execPor_sound h
  | .pxor _ => execPxor_sound h
  | .pnot _ => execPnot_sound h
  | .pmask _ => execPmask_sound h
  | .psets _ => execPsets_sound h
  | .vote _ => execVote_sound h
  | .elect _ => execElect_sound h
  | .vget _ => execVget_sound h
  | .vput _ => execVput_sound h
  | .movi _ => execMovi_sound h
  | .movih _ => execMovih_sound h
  | .iaddi _ => execIaddi_sound h
  | .imuli _ => execImuli_sound h
  | .andi _ => execAndi_sound h
  | .ori _ => execOri_sound h
  | .xori _ => execXori_sound h
  | .shli _ => execShli_sound h
  | .shri _ => execShri_sound h
  | .fmovi _ => execFmovi_sound h
  | .faddi _ => execFaddi_sound h
  | .fmuli _ => execFmuli_sound h
  | .haddi2h _ => execHaddi2h_sound h
  | .haddi2b _ => execHaddi2b_sound h
  | .hmuli2h _ => execHmuli2h_sound h
  | .hmuli2b _ => execHmuli2b_sound h
  | .f8muli _ => execF8muli_sound h
  | .f8addi _ => execF8addi_sound h
  | .ld8 _ => execLd8_sound h
  | .ld16 _ => execLd16_sound h
  | .ld32 _ => execLd32_sound h
  | .ld64 _ => execLd64_sound h
  | .ld128 _ => execLd128_sound h
  | .st8 _ => execSt8_sound h
  | .st16 _ => execSt16_sound h
  | .st32 _ => execSt32_sound h
  | .st64 _ => execSt64_sound h
  | .st128 _ => execSt128_sound h
  | .ldacq _ => execLdacq_sound h
  | .strel _ => execStrel_sound h
  | .fence _ => execFence_sound h
  | .ldq _ => execLdq_sound h
  | .stq _ => execStq_sound h
  | .pref _ => execPref_sound h
  | .lds _ => execLds_sound h
  | .sts _ => execSts_sound h
  | .lds128 _ => execLds128_sound h
  | .sts128 _ => execSts128_sound h
  | .ldx _ => execLdx_sound h
  | .stx _ => execStx_sound h
  | .ldw _ => execLdw_sound h
  | .stw _ => execStw_sound h
  | .ldac _ => execLdac_sound h
  | .stac _ => execStac_sound h
  | .atom _ => execAtom_sound h
  | .atomar _ => execAtomar_sound h
  | .acas _ => execAcas_sound h
  | .acasar _ => execAcasar_sound h
  | .atoms _ => execAtoms_sound h
  | .aredg _ => execAredg_sound h
  | .bara _ => execBara_sound h
  | .barw _ => execBarw_sound h
  | .baraw _ => execBaraw_sound h
  | .barinit _ => execBarinit_sound h
  | .waitc _ => execWaitc_sound h
  | .waitct _ => execWaitct_sound h
  | .enq _ => execEnq_sound h
  | .deq _ => execDeq_sound h
  | .enqnb _ => execEnqnb_sound h
  | .deqnb _ => execDeqnb_sound h
  | .qinit _ => execQinit_sound h
  | .qclose _ => execQclose_sound h
  | .qstat _ => execQstat_sound h
  | .ocrd _ => execOcrd_sound h
  | .yield _ => execYield_sound h
  | .sleep _ => execSleep_sound h
  | .mmaBf16 _ => execMmaBf16_sound h
  | .mmaF16 _ => execMmaF16_sound h
  | .mmaE4m3 _ => execMmaE4m3_sound h
  | .mmaE5m2 _ => execMmaE5m2_sound h
  | .mmaE2m1 _ => execMmaE2m1_sound h
  | .mmaE2m1x _ => execMmaE2m1x_sound h
  | .mmaI8 _ => execMmaI8_sound h
  | .mmaF32 _ => execMmaF32_sound h
  | .mmaF64 _ => execMmaF64_sound h
  | .bfence _ => execBfence_sound h
  | .bwait _ => execBwait_sound h
  | .aczero _ => execAczero_sound h
  | .acscl _ => execAcscl_sound h
  | .mrep _ => execMrep_sound h
  | .mqry _ => execMqry_sound h
  | .cpy _ => execCpy_sound h
  | .cpym _ => execCpym_sound h
  | .cpyt _ => execCpyt_sound h
  | .tininit _ => execTininit_sound h
  | .tinwait _ => execTinwait_sound h
  | .tinrel _ => execTinrel_sound h
  | .tinkill _ => execTinkill_sound h
  | .tinq _ => execTinq_sound h
  | .qfence _ => execQfence_sound h
  | .coll _ => execColl_sound h
  | .rput _ => execRput_sound h
  | .rget _ => execRget_sound h
  | .ratom _ => execRatom_sound h
  | .rflush _ => execRflush_sound h
  | .launchI _ => execLaunchI_sound h
  | .bra _ => execBra_sound h
  | .brs _ => execBrs_sound h
  | .brp _ => execBrp_sound h
  | .callI _ => execCallI_sound h
  | .retI _ => execRetI_sound h
  | .jmpr _ => execJmpr_sound h
  | .ifI _ => execIfI_sound h
  | .elseI _ => execElseI_sound h
  | .endifI _ => execEndifI_sound h
  | .loopI _ => execLoopI_sound h
  | .endloopI _ => execEndloopI_sound h
  | .breakI _ => execBreakI_sound h
  | .contI _ => execContI_sound h
  | .exitI _ => execExitI_sound h
  | .srd _ => execSrd_sound h
  | .swr _ => execSwr_sound h
  | .trapI _ => execTrapI_sound h
  | .tret _ => execTret_sound h
  | .lrd _ => execLrd_sound h
  | .lwr _ => execLwr_sound h
  | .rqrd _ => execRqrd_sound h
  | .rqwr _ => execRqwr_sound h
  | .stepo _ => execStepo_sound h
  | .stepm _ => execStepm_sound h
  | .stepc _ => execStepc_sound h
  | .timeI _ => execTimeI_sound h
  | .eres _ => execEres_sound h
  | .msave _ => execMsave_sound h
  | .mrest _ => execMrest_sound h
  | .brk _ => execBrk_sound h
  | .powerOnReset => execPowerOnReset_sound
  | .bringupStage => execBringupStage_sound h
  | .firmwareUpdate => execFirmwareUpdate_sound h
  | .thermalTrip => execThermalTrip_sound h
  | .toffUpdate => execToffUpdate_sound h
  | .ozrikLinkTrain => execOzrikLinkTrain_sound h
  | .clauseFetch => execClauseFetch_sound h
  | .clauseWaitEnd => execClauseWaitEnd_sound h
  | .sliceIssueCycle => execSliceIssueCycle_sound h
  | .operationComplete => execOperationComplete_sound h
  | .trapTake => execTrapTake_sound h
  | .asyncTrapTake => execAsyncTrapTake_sound h
  | .resume => execResume_sound h
  | .reflect => execReflect_sound h
  | .kill => execKill_sound h
  | .coachSlotFree => execCoachSlotFree_sound h
  | .gridCompletion => execGridCompletion_sound h
  | .preemptRequest => execPreemptRequest_sound h
  | .noticeIntervalExpiry => execNoticeIntervalExpiry_sound h
  | .workgroupSave => execWorkgroupSave_sound h
  | .workgroupRestore => execWorkgroupRestore_sound h
  | .migration => execMigration_sound h
  | .launchRecordTake => execLaunchRecordTake_sound h
  | .workgroupStart => execWorkgroupStart_sound h
  | .staggerRegionStart => execStaggerRegionStart_sound h
  | .stealRequest => execStealRequest_sound h
  | .stealRetryWait => execStealRetryWait_sound h
  | .priorityPreempt => execPriorityPreempt_sound h
  | .quantumExpiry => execQuantumExpiry_sound h
  | .barrierPark => execBarrierPark_sound h
  | .waitPark => execWaitPark_sound h
  | .sbufLend => execSbufLend_sound h
  | .sbufReclaim => execSbufReclaim_sound h
  | .barrierRelease => execBarrierRelease_sound h
  | .monitorWake => execMonitorWake_sound h
  | .monitorPoll => execMonitorPoll_sound h
  | .waitctDeadline => execWaitctDeadline_sound h
  | .queueWake => execQueueWake_sound h
  | .queuePoll => execQueuePoll_sound h
  | .sleepExpiry => execSleepExpiry_sound h
  | .horizonReport => execHorizonReport_sound h
  | .ageSweep => execAgeSweep_sound h
  | .pageWalk => execPageWalk_sound h
  | .rexDeadline => execRexDeadline_sound h
  | .arm => execArm_sound h
  | .disarm => execDisarm_sound h
  | .tlbinvPage => execTlbinvPage_sound h
  | .tlbinvContext => execTlbinvContext_sound h
  | .tlbinvFrd => execTlbinvFrd_sound h
  | .tlbinvAll => execTlbinvAll_sound h
  | .hostAccess => execHostAccess_sound h
  | .hqenq => execHqenq_sound h
  | .attcmd => execAttcmd_sound h
  | .checkpoint => execCheckpoint_sound h
  | .checkpointRestore => execCheckpointRestore_sound h
  | .registerWrite => execRegisterWrite_sound h
  | .dstatWrite => execDstatWrite_sound h
  | .eccSelfTest => execEccSelfTest_sound h
  | .dramEvacuate => execDramEvacuate_sound h
  | .back => execBack_sound h
  | .mmaGateStart => execMmaGateStart_sound h
  | .mmaComplete => execMmaComplete_sound h
  | .matrixPass => execMatrixPass_sound h
  | .batchComplete => execBatchComplete_sound h
  | .matrixRuntimeError => execMatrixRuntimeError_sound h
  | .rampStart => execRampStart_sound h
  | .rampStep => execRampStep_sound h
  | .ballastStep => execBallastStep_sound h
  | .currentStep => execCurrentStep_sound h
  | .droopAlarm => execDroopAlarm_sound h
  | .throttleEnd => execThrottleEnd_sound h
  | .deckThermal => execDeckThermal_sound h
  | .governorSample => execGovernorSample_sound h
  | .islandTarget => execIslandTarget_sound h
  | .clockSwitch => execClockSwitch_sound h
  | .islandMoveComplete => execIslandMoveComplete_sound h
  | .thermalControl => execThermalControl_sound h
  | .sliceAutoIdle => execSliceAutoIdle_sound h
  | .bandedLatencyMeasure => execBandedLatencyMeasure_sound h
  | .copyStart => execCopyStart_sound h
  | .copyChunk => execCopyChunk_sound h
  | .copyRuntimeError => execCopyRuntimeError_sound h
  | .cpymDeliver => execCpymDeliver_sound h
  | .cpymAck => execCpymAck_sound h
  | .collHeaderExchange => execCollHeaderExchange_sound h
  | .collChunk => execCollChunk_sound h
  | .collComplete => execCollComplete_sound h
  | .remoteAck => execRemoteAck_sound h
  | .rmtTimeout => execRmtTimeout_sound h
  | .packetReceive => execPacketReceive_sound h
  | .ackReceive => execAckReceive_sound h
  | .retransmitTimer => execRetransmitTimer_sound h
  | .occupancyReport => execOccupancyReport_sound h
  | .ohealthUpdate => execOhealthUpdate_sound h
  | .linkNarrow => execLinkNarrow_sound h
  | .linkWiden => execLinkWiden_sound h
  | .onewayEnter => execOnewayEnter_sound h
  | .onewayHoldExpiry => execOnewayHoldExpiry_sound h
  | .powerStateAnnounce => execPowerStateAnnounce_sound h
  | .linkWake => execLinkWake_sound h
  | .relightLockTimeout => execRelightLockTimeout_sound h
  | .arbiterRound => execArbiterRound_sound h
  | .slotStart => execSlotStart_sound h
  | .slotEnd => execSlotEnd_sound h
  | .hotMarkChange => execHotMarkChange_sound h
  | .laserStateReached => execLaserStateReached_sound h
  | .targetedSelfTestEnd => execTargetedSelfTestEnd_sound h
  | .linkAcknowledgement => execLinkAcknowledgement_sound h

/-! One step (Machine/Step.lean). -/

/-- An instruction that has been chosen, and the time that passes with it. -/
theorem runInstr_sound {i : Instr} {s : State} (h : s.Sound) : SoundNext (runInstr i s) := by
  unfold runInstr
  split
  · next hs1 => exact (exec_sound h i _ hs1).ticked.next
  · exact nofun
  · exact nofun

theorem runTurn_sound {t : Turn} (h : t.Sound) : SoundNext (runTurn t) := by
  cases t with
  | run i s => exact runInstr_sound h
  | done s => exact (State.Sound.ticked h).next

theorem State.Sound.reached {s : State} {e : Env} {cl : Clause} {w : Word} (h : s.Sound) : (s.reached e cl w).Sound := by
  unfold State.reached
  split
  · exact h.takeTrap
  · split
    · exact h
    · exact h.opcodeTrap

/-- A coach's turn keeps the invariant up to what it runs. -/
theorem turn_sound {s : State} (h : s.Sound) : (turn s).Sound := by
  have hev : ∀ r op, (coachEvent s r op).Sound := fun _ _ => h.frame rfl rfl
  unfold turn
  split
  · exact h
  · split
    · exact h
    split
    · split
      · exact h
      · exact hev _ _
    split
    · exact h
    split
    · exact h
    split
    · exact hev _ _
    split
    · split
      · exact h
      · exact h.opcodeTrap
    · split
      · exact h.reconvergeOf
      split
      · exact h
      · exact hev _ _
      · split
        · next hs1 => exact (h.fetchWord.of_eq hs1).fetchTrap
        · next hs1 => exact (h.fetchWord.of_eq hs1).reached

/-- One step keeps the invariant. The event that it takes from the agenda was itself legal, and leaves only legal ones behind. -/
theorem step_sound {s : State} (h : s.Sound) : SoundNext (step s) := by
  unfold step
  split
  · next hs =>
    refine runInstr_sound ⟨h.canonical, fun ev hev => h.agenda ev ?_⟩
    rw [hs]
    exact List.mem_cons_of_mem _ hev
  · split
    · exact runTurn_sound (turn_sound (h.frame rfl rfl))
    · split
      · exact h.ticked.next
      · split
        · exact runInstr_sound (h.frame rfl rfl)
        · exact h.ticked.next

/-- Settles O60: one step keeps the invariant (`step_sound`), whose two parts are what the claim asks for. -/
theorem stepKeepsInvariant : Obligations.StepKeepsInvariant := by
  intro s t hc ha ht
  have h := step_sound ⟨hc, ha⟩ t ht
  exact ⟨h.canonical, h.agenda⟩

end Sys2Proof.Machine
end

section
namespace Sys2Proof.Machine

/-- Settles O55: every register of the claim is read from a table that reset leaves empty, so its value is its reader's default. -/
theorem resetState : Obligations.ResetState := by
  have hclk : ∀ n, State.reset.clk n = 0 := fun n => by
    simp [State.clk, State.site, Table.getD, State.reset, Site.reset]
  exact ⟨State.Sound.reset.canonical, State.Sound.reset.agenda, rfl, rfl, rfl, rfl, fun n => ⟨rfl, hclk n, rfl⟩, fun _ => rfl,
    fun _ => ⟨rfl, rfl⟩⟩
end Sys2Proof.Machine
end

section
namespace Sys2Proof.Machine

section Mem
variable {s : State}

theorem foldl_mem {α : Type} {f : State → α → State} (hf : ∀ t a, (f t a).mem = t.mem) (l : List α) (s : State) :
    (l.foldl f s).mem = s.mem :=
  List.foldlRecOn (motive := fun t => t.mem = s.mem) l f rfl fun t ht a _ => (hf t a).trans ht

@[simp] theorem raiseFloor_mem (s : State) (k : Word) : (s.raiseFloor k).mem = s.mem := by
  unfold State.raiseFloor
  refine foldl_mem (fun t n => ?_) _ s
  rfl

@[simp] theorem touchLine_mem (s : State) (pa : Nat) : (s.touchLine pa).mem = s.mem := by
  unfold State.touchLine
  dsimp only
  split
  · rfl
  · split
    · rfl
    · split
      · rfl
      · split
        · rfl
        · dsimp only
          split <;> simp

@[simp] theorem homeTouch_mem (s : State) (pa n : Nat) : (s.homeTouch pa n).mem = s.mem := by
  unfold State.homeTouch
  split
  · exact foldl_mem (fun t _ => touchLine_mem t _) _ s
  · rfl

@[simp] theorem fireMonitors_mem (s : State) (pa n : Nat) : (s.fireMonitors pa n).mem = s.mem := by
  refine foldl_mem (fun t x => ?_) _ s
  split <;> rfl

@[simp] theorem doubtQcbs_mem (s : State) (pa n : Nat) : (s.doubtQcbs pa n).mem = s.mem := by
  refine foldl_mem (fun t x => ?_) _ s
  split <;> rfl

@[simp] theorem dropSharers_mem (s : State) (pa n : Nat) : (s.dropSharers pa n).mem = s.mem := by
  refine foldl_mem (fun t line => ?_) _ s
  split
  · split <;> rfl
  · rfl

/-- A write at the home changes exactly its bytes of memory (R8). -/
@[simp] theorem homeWrite_mem (s : State) (pa : Nat) (bs : List Byte) (controller : Bool) :
    (s.homeWrite pa bs controller).mem = Memory.writeN s.mem pa bs := by
  unfold State.homeWrite
  rw [fireMonitors_mem, dropSharers_mem]
  split <;> simp

/-- Bytes written to memory, read back byte by byte. -/
theorem read_writeN (m : Memory) (a : Nat) (bs : List Byte) (x : Nat) :
    Memory.read (Memory.writeN m a bs) x = if h : a ≤ x ∧ x - a < bs.length then bs[x - a]'h.2 else Memory.read m x := by
  split
  · next h =>
    obtain ⟨hle, hlt⟩ := h
    have := read_writeN_inside bs m a (x - a) hlt
    rwa [Nat.add_sub_cancel' hle] at this
  · next h => exact read_writeN_outside bs m a x (by omega)

@[simp] theorem core_setCore_same (s : State) (c : Nat) (x : Core) : (s.setCore c x).core c = x := by
  simp [State.core, Table.getD]

theorem ccPut_mem (s : State) (core pa : Nat) (bs : List Byte) (dirty : Bool) (owner : BitVec 16) :
    (s.ccPut core pa bs dirty owner).mem = s.mem := by
  unfold State.ccPut
  split <;> rfl

/-- A line that is present is not allocated again (R274). -/
theorem ccAlloc_present {s : State} {core key : Nat} (h : (Table.find (s.core core).cc key).isSome) (stream : Bool) :
    s.ccAlloc core key stream = s := by
  unfold State.ccAlloc
  exact if_pos h

theorem storeBytes_home {a : Acc} {x : Xl} {nt : Bool} (bs : List Byte) (hp : paSpace x.pa ≤ 1)
    (hc : (cacheable x nt && !leafRDC x.leaf) = false) :
    s.storeBytes a x bs nt = (s.ccPut a.core x.pa bs false 0).homeWrite x.pa bs := by
  unfold State.storeBytes
  split
  · omega
  · omega
  · simp [hc]

theorem storeBytes_cached {a : Acc} {x : Xl} {nt : Bool} (bs : List Byte) (hp : paSpace x.pa ≤ 1)
    (hc : (cacheable x nt && !leafRDC x.leaf) = true) :
    s.storeBytes a x bs nt =
      (s.ccAlloc a.core (x.pa / 128) false).ccPut a.core x.pa bs true (BitVec.ofNat 16 (2 ^ (a.agent.toNat % 16))) := by
  unfold State.storeBytes
  split
  · omega
  · omega
  · simp [hc]

end Mem

section Line

/-- The bytes of a cache line after those of a store, at `o` and on, have been put. -/
def putLine (dirty : Bool) (o : Nat) (bs : List Byte) (t : Table CByte) : Table CByte :=
  (List.zip (upFrom o bs.length) bs).foldl (fun t e => Table.insert t e.1 { val := e.2, dirty := dirty }) t

theorem putLine_cons (dirty : Bool) (o : Nat) (b : Byte) (r : List Byte) (t : Table CByte) :
    putLine dirty o (b :: r) t = putLine dirty (o + 1) r (Table.insert t o { val := b, dirty := dirty }) := rfl

theorem find_putLine_below (dirty : Bool) (bs : List Byte) (o k : Nat) (t : Table CByte) (h : k < o) :
    Table.find (putLine dirty o bs t) k = Table.find t k := by
  induction bs generalizing o t with
  | nil => rfl
  | cons b r ih => rw [putLine_cons, ih _ _ (by omega), find_insert_ne _ _ (by omega)]

theorem find_putLine (dirty : Bool) (bs : List Byte) (o i : Nat) (t : Table CByte) (h : i < bs.length) :
    Table.find (putLine dirty o bs t) (o + i) = some { val := bs[i], dirty := dirty } := by
  induction bs generalizing o i t with
  | nil => simp at h
  | cons b r ih =>
    rw [putLine_cons]
    cases i with
    | zero => simp [find_putLine_below]
    | succ j =>
      have := ih (o + 1) j (Table.insert t o { val := b, dirty := dirty }) (by simpa using h)
      rw [show o + (j + 1) = o + 1 + j by omega, this, List.getElem_cons_succ]

/-- A load of the core sees the bytes that it has put into a line that is present (R274). -/
theorem ccByte_ccPut {s : State} {core pa : Nat} (hl : (Table.find (s.core core).cc (pa / 128)).isSome) (bs : List Byte)
    (dirty : Bool) (owner : BitVec 16) (hn : pa % 128 + bs.length ≤ 128) (i : Nat) (hi : i < bs.length) :
    (s.ccPut core pa bs dirty owner).ccByte core (pa + i) = bs[i] := by
  obtain ⟨l, hl⟩ := Option.isSome_iff_exists.mp hl
  have hkey : (pa + i) / 128 = pa / 128 := by omega
  have hoff : (pa + i) % 128 = pa % 128 + i := by omega
  have hput : s.ccPut core pa bs dirty owner = s.setCore core { s.core core with
      cc := Table.insert (s.core core).cc (pa / 128) { l with
        bytes := putLine dirty (pa % 128) bs l.bytes, owner := l.owner ||| owner } } := by
    unfold State.ccPut
    rw [hl]
    rfl
  simp [hput, State.ccByte, hkey, hoff, find_putLine dirty bs (pa % 128) i l.bytes hi]

end Line

/-- Settles O22: a store that is not kept in the column cache is one write at the home; one that is kept is put into its line. -/
theorem storedBytes : Obligations.StoredBytes := by
  refine ⟨fun s a x bs nt hp hc addr => ?_, fun s a x bs nt hp hc hl hn => ?_⟩
  · rw [storeBytes_home bs hp hc, homeWrite_mem, ccPut_mem, read_writeN]
  · rw [storeBytes_cached bs hp hc, ccAlloc_present hl]
    exact ⟨ccPut_mem s _ _ _ _ _, fun i hi => ccByte_ccPut hl bs true _ hn i hi⟩

end Sys2Proof.Machine
end

section
namespace Sys2Proof.Machine

/-! Registers of a site and their fields. -/

section Registers
variable (s : State)

@[simp] theorem site_setSite_same (n : Nat) (x : Site) : (s.setSite n x).site n = x := by
  simp [State.site, Table.getD]

theorem site_setSite_ne {n m : Nat} (x : Site) (h : m ≠ n) : (s.setSite n x).site m = s.site m := by
  simp [State.site, Table.getD, find_insert_ne _ _ h]

@[simp] theorem win_setWin_same (n off : Nat) (v : DWord) : (s.setWin n off v).win n off = v := by
  simp [State.setWin, State.win, Table.getD]

theorem win_setWin_ne {n m : Nat} (off o : Nat) (v : DWord) (h : m ≠ n) : (s.setWin n off v).win m o = s.win m o := by
  simp [State.setWin, State.win, site_setSite_ne s _ h]

@[simp] theorem win_endCmd_same (n off : Nat) (done : DWord) : (s.endCmd n off done).win n off = s.win n off ||| done := by
  simp [State.endCmd, State.setWin, State.win, Table.getD]

@[simp] theorem endCmd_mem (n off : Nat) (done : DWord) : (s.endCmd n off done).mem = s.mem := rfl

/-- The lowest field of one bit, set. -/
theorem getLsbD_setFld_zero (v : DWord) : (setFld v 0 1 1).getLsbD 0 = true := by
  simp only [setFld, bits, BitVec.getLsbD_ofNat, Nat.testBit_eq_decide_div_mod_eq, Bool.and_eq_true, decide_eq_true_eq]
  omega

/-- ERR of CKPTCTL. -/
theorem getLsbD_setFld_three (v : DWord) (b : Bool) : (setFld v 3 1 (if b then 1 else 0)).getLsbD 3 = b := by
  have := v.isLt
  cases b <;>
    simp only [setFld, bits, BitVec.getLsbD_ofNat, Nat.testBit_eq_decide_div_mod_eq, Bool.and_eq_true,
      decide_eq_true_eq, Bool.false_eq_true, if_false, if_true, Bool.and_eq_false_iff, decide_eq_false_iff_not] <;> omega

/-- CODE of HQENQ, with DONE set over it. -/
theorem fld_setFld_code (v : DWord) (x : Nat) (h : x < 16) : fld (setFld v 56 4 x ||| 0x4000000000000000) 56 4 = x := by
  have := v.isLt
  have hor : fld (setFld v 56 4 x ||| 0x4000000000000000) 56 4 = fld (setFld v 56 4 x) 56 4 := by
    simp only [fld, bits, BitVec.toNat_or, ← Nat.shiftRight_eq_div_pow, Nat.shiftRight_or_distrib, Nat.or_mod_two_pow]
    simp
  rw [hor]
  simp only [fld, setFld, bits, BitVec.toNat_ofNat]
  omega

@[simp] theorem line_setLine_same (pa : Nat) (m : LineMeta) : (s.setLine pa m).line pa = m := by
  simp [State.setLine, State.line, Table.getD]

end Registers
end Sys2Proof.Machine
end

section
namespace Sys2Proof.Machine

/-! What only the tables of sites hold. -/

/-- `t` differs from `s` in its sites alone. -/
def SitesOnly (s t : State) : Prop := t = { s with sites := t.sites }

theorem SitesOnly.trans {s t u : State} (h : SitesOnly s t) (g : SitesOnly t u) : SitesOnly s u := by
  unfold SitesOnly at h g ⊢
  rw [h] at g
  exact g

theorem SitesOnly.foldl {α : Type} {f : State → α → State} (hf : ∀ t a, SitesOnly t (f t a)) (l : List α) (s : State) :
    SitesOnly s (l.foldl f s) :=
  List.foldlRecOn (motive := SitesOnly s) l f rfl fun t ht a _ => ht.trans (hf t a)

theorem sitesOnly_setWin (s : State) (n off : Nat) (v : DWord) : SitesOnly s (s.setWin n off v) := rfl

theorem sitesOnly_linksTo (s : State) (lanes st : Nat) : SitesOnly s (s.linksTo lanes st) := by
  unfold State.linksTo
  refine SitesOnly.foldl (fun t n => ?_) _ s
  refine SitesOnly.foldl (fun u f => ?_) _ t
  exact SitesOnly.foldl (fun v d => sitesOnly_setWin v _ _ _) _ u

/-- A site loads the link key and puts its endpoint in service (R382). -/
def endpointUp (key : List Byte) (t : State) (n : Nat) : State :=
  let t1 := (List.range 6).foldl (fun u i => u.setWin n (offLINKKEY + 8 * i) (dword64 key (8 * i))) t
  t1.setWin n offEPCFG (setFld (t1.win n offEPCFG) 0 1 1)

theorem opticsUp_eq (s : State) (key : List Byte) : s.opticsUp key = (List.range 64).foldl (endpointUp key) (s.linksTo 255 stUP) := rfl

theorem sitesOnly_endpointUp (key : List Byte) (t : State) (n : Nat) : SitesOnly t (endpointUp key t n) := by
  unfold endpointUp
  exact (SitesOnly.foldl (fun u i => sitesOnly_setWin u _ _ _) _ t).trans (sitesOnly_setWin _ _ _ _)

theorem sitesOnly_opticsUp (s : State) (key : List Byte) : SitesOnly s (s.opticsUp key) := by
  rw [opticsUp_eq]
  exact (sitesOnly_linksTo s _ _).trans (SitesOnly.foldl (sitesOnly_endpointUp key) _ _)

/-- What an action establishes for its own index and keeps for every other holds of every index of a list it has been done for. -/
theorem foldl_establishes {α β : Type} {P : α → β → Prop} {f : β → α → β} (hset : ∀ t a, P a (f t a))
    (hkeep : ∀ t a b, P b t → P b (f t a)) (l : List α) (t : β) (a : α) (ha : a ∈ l) : P a (l.foldl f t) := by
  induction l generalizing t with
  | nil => simp at ha
  | cons b r ih =>
    rcases List.mem_cons.mp ha with rfl | hr
    · exact List.foldlRecOn (motive := P a) r f (hset t a) fun u hu c _ => hkeep u c a hu
    · exact ih (f t b) hr

theorem endpointUp_win_ne (key : List Byte) (t : State) {n m : Nat} (off : Nat) (h : m ≠ n) :
    (endpointUp key t n).win m off = t.win m off := by
  unfold endpointUp
  rw [win_setWin_ne _ _ _ _ h]
  exact List.foldlRecOn (motive := fun u => State.win u m off = t.win m off) _ _ rfl fun u hu i _ => by rw [win_setWin_ne _ _ _ _ h, hu]

/-- Every endpoint is in service once the optics are up (R382). -/
theorem opticsUp_endpoint (s : State) (key : List Byte) {m : Nat} (hm : m < 64) : ((s.opticsUp key).win m offEPCFG).getLsbD 0 = true := by
  rw [opticsUp_eq]
  have hset : ∀ t n, ((endpointUp key t n).win n offEPCFG).getLsbD 0 = true := fun t n => by
    unfold endpointUp
    rw [win_setWin_same]
    exact getLsbD_setFld_zero _
  refine foldl_establishes (P := fun n (t : State) => (t.win n offEPCFG).getLsbD 0 = true) hset (fun t n k hk => ?_) _ _ m
    (List.mem_range.mpr hm)
  by_cases h : k = n
  · exact h ▸ hset t k
  · rwa [endpointUp_win_ne key t _ h]

/-! BRINGUP_STAGE (R382, R383). -/

/-- What no stage's action changes. -/
theorem stageAction_keeps (s : State) : s.stageAction.failBit = s.failBit ∧
    (s.stage ≠ 1 → s.stageAction.regionsOn = s.regionsOn) ∧ (s.stage ≠ 2 → s.stageAction.stripe = s.stripe) := by
  unfold State.stageAction
  split
  · exact ⟨rfl, fun _ => rfl, fun _ => rfl⟩
  · next h => exact ⟨rfl, fun hn => (hn h).elim, fun _ => rfl⟩
  · next h => exact ⟨rfl, fun _ => rfl, fun hn => (hn h).elim⟩
  · have := sitesOnly_linksTo s 0 stTRAINING
    rw [this]
    exact ⟨rfl, fun _ => rfl, fun _ => rfl⟩
  · have := sitesOnly_opticsUp s s.arg.data
    rw [this]
    exact ⟨rfl, fun _ => rfl, fun _ => rfl⟩
  · exact ⟨rfl, fun _ => rfl, fun _ => rfl⟩

theorem stageHeld_eq_false {s : State} (h1 : s.stage = 1 → s.powerAt ≤ s.now) (h5 : s.stage = 5 → ∃ p ∈ s.ports, p.2.up = true) :
    s.stageHeld = false := by
  unfold State.stageHeld
  split
  · next h => simpa using h1 h
  · next h => simpa using h5 h
  · rfl

/-- A stage that succeeds does its action and passes to the next. -/
theorem execBringupStage_next {s : State} (hf : s.failBit = false) (hs : s.stage < 6)
    (hok : if s.stage = 0 then s.imageOk s.fwImage s.fwSig = true else s.arg.ok = true) (hh : s.stageHeld = false) :
    exec .bringupStage s = .next { s.stageAction with stage := s.nextStage } := by
  have hok' : (if s.stage = 0 then s.imageOk s.fwImage s.fwSig else s.arg.ok) = true := by
    split at hok <;> simp_all
  show execBringupStage s = _
  simp [execBringupStage, hf, hok', hh, stageService, hs]

theorem bringupStage_succeeds {s : State} (hf : s.failBit = false) (hs : s.stage < 6)
    (hok : if s.stage = 0 then s.imageOk s.fwImage s.fwSig = true else s.arg.ok = true)
    (h1 : s.stage = 1 → s.powerAt ≤ s.now) (h5 : s.stage = 5 → ∃ p ∈ s.ports, p.2.up = true) :
    ∃ t, exec .bringupStage s = .next t ∧ t.failBit = false ∧ t.stage = (if s.stage = 1 ∧ s.regionsOn + 1 < 16 then 1 else s.stage + 1) ∧
      (s.stage = 1 → t.regionsOn = s.regionsOn + 1 ∧ t.powerAt = s.now + 1000000) ∧ (s.stage ≠ 1 → t.regionsOn = s.regionsOn) ∧
      t.stripe = (if s.stage = 2 then min dramBytes (s.arg.n * 2 ^ 26) else s.stripe) ∧
      (s.stage = 4 → ∀ m < 64, (t.win m offEPCFG).getLsbD 0 = true) := by
  obtain ⟨hfail, hregions, hstripe⟩ := stageAction_keeps s
  refine ⟨_, execBringupStage_next hf hs hok (stageHeld_eq_false h1 h5), hfail.trans hf, rfl, fun h => ?_, hregions, ?_, fun h m hm => ?_⟩
  · simp [State.stageAction, h]
  · show s.stageAction.stripe = _
    split
    · next h => simp [State.stageAction, h]
    · next h => exact hstripe h
  · show (s.stageAction.win m offEPCFG).getLsbD 0 = true
    have : s.stageAction = s.opticsUp s.arg.data := by simp [State.stageAction, h]
    rw [this]
    exact opticsUp_endpoint s _ hm

theorem bringupStage_fails {s : State} (hf : s.failBit = false) (hs : s.stage < 6)
    (hok : if s.stage = 0 then s.imageOk s.fwImage s.fwSig = false else s.arg.ok = false) :
    exec .bringupStage s = .next { s with failBit := true, failSite := s.arg.site, ports := [] } := by
  have hok' : (if s.stage = 0 then s.imageOk s.fwImage s.fwSig else s.arg.ok) = false := by
    split at hok <;> simp_all
  show execBringupStage s = _
  simp [execBringupStage, State.fails, hf, hok', stageService, hs]

end Sys2Proof.Machine
end

section
namespace Sys2Proof.Machine

/-! The module management controller (R4, R368) and the ports (R371, R372, R383). -/

/-- The rest of the state that an entry of the event log leaves as it was. -/
theorem logEvent_keeps (s : State) (n kind cls unit result addr : Nat) :
    (s.logEvent n kind cls unit result addr).wgs = s.wgs ∧ (s.logEvent n kind cls unit result addr).failBit = s.failBit ∧
      (s.logEvent n kind cls unit result addr).failSite = s.failSite := by
  rw [(touch_logEvent s n kind cls unit result addr).shape]
  exact ⟨rfl, rfl, rfl⟩

theorem fails_keeps (s : State) (n : Nat) : (s.fails n).wgs = s.wgs ∧ (s.fails n).sites = s.sites ∧ (s.fails n).failBit = true ∧
    (s.fails n).failSite = (if s.failBit = true then s.failSite else n) := by
  unfold State.fails
  split
  · next h => exact ⟨rfl, rfl, h, rfl⟩
  · exact ⟨rfl, rfl, rfl, rfl⟩

/-- A trip of a site without workgroups removes its power and records the failure (R368, R383). -/
theorem thermalTrip_next {s : State} {n : Nat} (hn : s.arg.site = n) (hlt : n < 64) (ht : s.tTrip n ≤ s.arg.n)
    (hp : s.powered n = true) (hw : ∀ x ∈ s.wgs, siteOfSlot x.1 ≠ n) : ∃ t, exec .thermalTrip s = .next t ∧
      (t.site n).powered = false ∧ t.failBit = true ∧ t.failSite = (if s.failBit = true then s.failSite else n) := by
  obtain ⟨hwgs, hbit, hsite⟩ := logEvent_keeps s n evTrip 0 0 0 0
  generalize hs1 : s.logEvent n evTrip 0 0 0 0 = s1 at hwgs hbit hsite
  obtain ⟨fwgs, fsites, fbit, fsite⟩ := fails_keeps (s1.setSite n { s1.site n with powered := false }) n
  have hnone : (s1.wgs.filter (fun w => siteOfSlot w.1 == n)) = [] := by
    rw [hwgs, List.filter_eq_nil_iff]
    exact fun x hx => by simpa using hw x hx
  refine ⟨(s1.setSite n { s1.site n with powered := false }).fails n, ?_, ?_, fbit, ?_⟩
  · show execThermalTrip s = _
    have hgo : ¬ (n ≥ 64 ∨ s.arg.n < s.tTrip n ∨ s.powered n = false) := by simp [hp]; omega
    simp only [execThermalTrip, hn, if_neg hgo, hs1, fwgs, setSite_wgs, hnone]
    rfl
  · rw [State.site, fsites]
    exact congrArg Site.powered (site_setSite_same s1 n _)
  · rw [fsite, setSite_failBit, setSite_failSite, hbit, hsite]

/-- What is written as TOFF is within 2 ns of the counter's offset (R4). -/
theorem measuredOffset_bounds (s : State) (n : Nat) (m : Int) :
    (s.site n).skew - 2 ≤ s.measuredOffset n m ∧ s.measuredOffset n m ≤ (s.site n).skew + 2 := by
  unfold State.measuredOffset
  omega

theorem toffUpdate_next {s : State} (h : s.arg.site < 64) : ∃ m : Int, (s.site s.arg.site).skew - 2 ≤ m ∧ m ≤ (s.site s.arg.site).skew + 2 ∧
    exec .toffUpdate s = .next { s with toff := Table.insert s.toff s.arg.site (BitVec.ofInt 32 m) } := by
  obtain ⟨hlo, hhi⟩ := measuredOffset_bounds s s.arg.site (s.arg.value.truncate 32 : Word).toInt
  refine ⟨_, hlo, hhi, ?_⟩
  show execToffUpdate s = _
  simp only [execToffUpdate, if_pos h]

theorem linkTrain_port {s : State} (hn : s.arg.n < 2) (hf : s.failBit = true → s.stage = 6) (h5 : 5 ≤ s.stage) :
    ∃ t, exec .ozrikLinkTrain s = .next t ∧ Table.find t.ports s.arg.n =
      some { up := [32, 16, 8].contains s.arg.m, gen3 := s.arg.ok, lanes := s.arg.m, mgmt := false } := by
  have hs : s.stopped = false := by
    cases hb : s.failBit
    · simp [State.stopped, hb]
    · simp [State.stopped, hb, hf hb, stageService]
  refine ⟨{ s with ports := Table.insert s.ports s.arg.n (portOf s.arg.ok false s.arg.m) }, ?_, ?_⟩
  · show execOzrikLinkTrain s = _
    simp only [execOzrikLinkTrain, hs, if_neg (show ¬ s.arg.n ≥ 2 by omega), if_neg (show ¬ s.stage < 5 by omega),
      Bool.false_eq_true, if_false]
  · simp [portOf]

theorem linkTrain_management {s : State} (hn : s.arg.n = 0) (hf : s.failBit = true) (hs : s.stage < 6) : exec .ozrikLinkTrain s = .next
    { s with mgmtBit := [32, 16, 8].contains s.arg.m, ports := [(0, { up := [32, 16, 8].contains s.arg.m, gen3 := false, lanes := s.arg.m, mgmt := true })] } := by
  have hst : s.stopped = true := by simp [State.stopped, hf, stageService, hs]
  show execOzrikLinkTrain s = _
  simp [execOzrikLinkTrain, hst, hn, portOf]

/-- A port that carries an access is one of the two. -/
theorem portCarries_lt {s : State} {port pa : Nat} (h : s.portCarries port pa = true) : port < 2 := by
  simp only [State.portCarries, Bool.and_eq_true, decide_eq_true_eq] at h
  exact h.1.1

/-- An access that a port carries, of bytes within a line, does what its space gives it (R372). -/
theorem execHostAccess_carried {s : State} (hc : s.portCarries s.arg.n s.arg.pa = true) (hpa : s.arg.pa < 2 ^ 52)
    (hlen : s.arg.pa % 128 + s.arg.data.length ≤ 128) :
    (paSpace s.arg.pa ≤ 1 → s.paOk s.arg.pa = true → s.arg.ok = true →
      exec .hostAccess s = .next ((s.homeTouch s.arg.pa).homeWrite s.arg.pa s.arg.data)) ∧
    (paSpace s.arg.pa ≤ 1 → s.paOk s.arg.pa = true → s.arg.ok = false →
      exec .hostAccess s = .next ((s.homeTouch s.arg.pa).setLine s.arg.pa { (s.homeTouch s.arg.pa).line s.arg.pa with
        sharers := ((s.homeTouch s.arg.pa).line s.arg.pa).sharers ||| BitVec.ofNat 2 (2 ^ s.arg.n) })) ∧
    (paSpace s.arg.pa = 2 → s.arg.ok = true → exec .hostAccess s = .next { s with mem := Memory.writeN s.mem s.arg.pa s.arg.data }) := by
  have hp := portCarries_lt hc
  have hgo : (!s.portCarries s.arg.n s.arg.pa || decide (s.arg.pa ≥ 2 ^ 52) ||
      decide (s.arg.pa % 128 + s.arg.data.length > 128)) = false := by
    simp only [hc, Bool.not_true, Bool.false_or, Bool.or_eq_false_iff, decide_eq_false_iff_not]
    omega
  have hx : exec .hostAccess s = execHostAccess s := rfl
  simp only [hx, execHostAccess, if_neg (show ¬ s.arg.n = 2 by omega), hgo, Bool.false_eq_true, if_false]
  refine ⟨fun h hok ha => ?_, fun h hok ha => ?_, fun h ha => ?_⟩
  · split
    · omega
    · omega
    · simp [hok, ha]
  · split
    · omega
    · omega
    · simp [hok, ha]
  · simp [h, ha]

theorem hostAccess_spaces {s : State} (hc : s.portCarries s.arg.n s.arg.pa = true) (hpa : s.arg.pa < 2 ^ 52)
    (hlen : s.arg.pa % 128 + s.arg.data.length ≤ 128) :
    (paSpace s.arg.pa ≤ 1 → s.paOk s.arg.pa = true → s.arg.ok = true →
      ∃ t, exec .hostAccess s = .next t ∧ ∀ j (h : j < s.arg.data.length), Memory.read t.mem (s.arg.pa + j) = s.arg.data[j]) ∧
    (paSpace s.arg.pa ≤ 1 → s.paOk s.arg.pa = true → s.arg.ok = false → ∃ t, exec .hostAccess s = .next t ∧ t.mem = s.mem ∧
      (s.arg.n < 2 → (t.line s.arg.pa).sharers.getLsbD s.arg.n = true)) ∧
    (paSpace s.arg.pa = 2 → s.arg.ok = true → exec .hostAccess s = .next { s with mem := Memory.writeN s.mem s.arg.pa s.arg.data }) := by
  obtain ⟨hwrite, hread, hhost⟩ := execHostAccess_carried hc hpa hlen
  refine ⟨fun h hok ha => ⟨_, hwrite h hok ha, fun j hj => ?_⟩, fun h hok ha => ⟨_, hread h hok ha, homeTouch_mem _ _ _, fun hn => ?_⟩, hhost⟩
  · rw [homeWrite_mem]
    exact read_writeN_inside _ _ _ _ hj
  · rw [line_setLine_same]
    have hbit : (BitVec.ofNat 2 (2 ^ s.arg.n)).getLsbD s.arg.n = true := by
      rw [BitVec.getLsbD_ofNat, Nat.testBit_two_pow_self]
      simp [hn]
    rw [BitVec.getLsbD_or, hbit, Bool.or_true]

/-! The host's enqueue (R373) and attestation (R379). -/

/-- An enqueue that answers gives a code of four bits. -/
def CodeFits (o : Option (Nat × State)) : Prop := ∀ r, o = some r → r.1 < 16

theorem codeFits_none : CodeFits none := nofun
theorem codeFits_some {c : Nat} {t : State} (h : c < 16) : CodeFits (some (c, t)) := by
  rintro _ ⟨⟩
  exact h

/-- The code of a host enqueue fits the field of HQENQ that it is written to (R373). -/
theorem hostEnqueue_code (s : State) (n ctx : Nat) (va : DWord) : CodeFits (s.hostEnqueue n ctx va) := by
  have fault : qFAULT < 16 := by decide
  have badparam : qBADPARAM < 16 := by decide
  unfold State.hostEnqueue
  dsimp only
  split
  · exact codeFits_some fault
  · split
    · exact codeFits_none
    · exact codeFits_some badparam
    · exact codeFits_some fault
    · split
      · exact codeFits_some badparam
      split
      · exact codeFits_some (by decide)
      split
      · exact codeFits_some (by decide)
      split
      · exact codeFits_none
      · exact codeFits_some badparam
      · exact codeFits_some fault
      · exact codeFits_some (by decide)

theorem hqenq_next {s : State} {n : Nat} (hn : s.arg.site = n) {v : DWord} (hv : s.cmd n offHQENQ = some v) {r : Nat × State}
    (hr : s.hostEnqueue n (fld v 48 8) ((v &&& 0x0000FFFFFFFFFFC0) |||
      (if (v &&& 0x0000FFFFFFFFFFC0).getLsbD 47 = true then 0xFFFF000000000000 else 0)) = some r) :
    ∃ t, exec .hqenq s = .next t ∧ t.mem = r.2.mem ∧ (t.win n offHQENQ).getLsbD 62 = true ∧ fld (t.win n offHQENQ) 56 4 = r.1 := by
  refine ⟨(r.2.setWin n offHQENQ (setFld (r.2.win n offHQENQ) 56 4 r.1)).endCmd n offHQENQ 0x4000000000000000, ?_, rfl, ?_, ?_⟩
  · show execHqenq s = _
    simp only [execHqenq, hn, hv, hr]
  · rw [win_endCmd_same, BitVec.getLsbD_or]
    exact Bool.or_true _
  · rw [win_endCmd_same, win_setWin_same]
    exact fld_setFld_code _ _ (hostEnqueue_code _ _ _ _ r hr)

end Sys2Proof.Machine
end

section
namespace Sys2Proof.Machine

/-- Bytes that have been written whole read back as they are. -/
theorem readN_writeN (m : Memory) (a : Nat) (bs : List Byte) : Memory.readN (Memory.writeN m a bs) a bs.length = bs := by
  induction bs generalizing m a with
  | nil => rfl
  | cons b r ih =>
    have hb : Memory.read (Memory.writeN m a (b :: r)) a = b := read_writeN_inside (b :: r) m a 0 (by simp)
    show Memory.read _ a :: Memory.readN (Memory.writeN (Memory.write m a b) (a + 1) r) (a + 1) r.length = _
    rw [hb, ih]

theorem padTo_length (n : Nat) (bs : List Byte) : (padTo n bs).length = n := by
  simp only [padTo, List.length_take, List.length_append, List.length_replicate]
  omega

theorem attReport_length (s : State) (nonce : List Byte) : (s.attReport nonce).length = 512 := padTo_length 512 _

/-- ATTCMD over a buffer of memory leaves the report there and DONE set (R379). -/
theorem attcmd_next {s : State} {pa : Nat} (hn : s.arg.pa = pa) (hd : (s.win 0 offATTCMD).getLsbD 0 = false) (ha : pa % 512 = 0)
    (hv : (s.win 0 offATTCMD).toNat % 2 ^ 52 = pa) (hp : paSpace pa ≤ 2) (hok : s.paOk pa = true) :
    ∃ t, exec .attcmd s = .next t ∧ (t.win 0 offATTCMD).getLsbD 0 = true ∧ t.homeRead pa 512 = s.attReport (s.homeRead pa 48) := by
  have hfld : fld (s.win 0 offATTCMD) 0 52 = pa := by simpa [fld, bits] using hv
  refine ⟨(s.homeWrite pa (s.attReport (s.homeRead pa 48))).setWin 0 offATTCMD (s.win 0 offATTCMD ||| 1), ?_, ?_, ?_⟩
  · show execAttcmd s = _
    have hgo : ¬ ((s.win 0 offATTCMD).getLsbD 0 = true ∨ pa % 512 ≠ 0 ∨ fld (s.win 0 offATTCMD) 0 52 ≠ pa ∨ paSpace pa ≥ 3 ∨
        s.paOk pa = false) := by
      rintro (h | h | h | h | h)
      · rw [hd] at h
        exact absurd h (by decide)
      · exact h ha
      · exact h hfld
      · omega
      · simp [hok] at h
    simp only [execAttcmd, hn, if_neg hgo]
  · rw [win_setWin_same, BitVec.getLsbD_or]
    exact Bool.or_true _
  · have := readN_writeN s.mem pa (s.attReport (s.homeRead pa 48))
    rw [attReport_length] at this
    rw [State.homeRead, setWin_mem, homeWrite_mem, this]

/-! Checkpoint and restore (R381). -/

/-- A command of CKPTCTL that has ended: DONE, and ERR as the transfer went. -/
theorem ckptDone_status (s : State) (err : Bool) :
    ((s.ckptDone err).win 0 offCKPTCTL).getLsbD 1 = true ∧ ((s.ckptDone err).win 0 offCKPTCTL).getLsbD 3 = err := by
  unfold State.ckptDone
  rw [win_endCmd_same, win_setWin_same, BitVec.getLsbD_or, BitVec.getLsbD_or, getLsbD_setFld_three]
  exact ⟨Bool.or_true _, Bool.or_false _⟩

/-- A site's registers and commands are not its translations. -/
theorem setSite_tlb {s : State} {n : Nat} {x : Site} (h : x.tlb = (s.site n).tlb) (m : Nat) :
    ((s.setSite n x).site m).tlb = (s.site m).tlb := by
  by_cases hm : m = n
  · rw [hm, site_setSite_same, h]
  · rw [site_setSite_ne s x hm]

theorem setWin_tlb (s : State) (n off : Nat) (v : DWord) (m : Nat) : ((s.setWin n off v).site m).tlb = (s.site m).tlb :=
  setSite_tlb (by rfl) m

theorem endCmd_tlb (s : State) (n off : Nat) (done : DWord) (m : Nat) : ((s.endCmd n off done).site m).tlb = (s.site m).tlb :=
  (setSite_tlb (by rfl) m).trans (setWin_tlb s n off _ m)

theorem ckptDone_tlb (s : State) (err : Bool) (m : Nat) : ((s.ckptDone err).site m).tlb = (s.site m).tlb :=
  (endCmd_tlb _ _ _ _ m).trans (setWin_tlb s _ _ _ m)

theorem find_mapVal {α : Type} (f : Nat → α → α) (t : Table α) (k : Nat) : Table.find (Table.mapVal f t) k = (Table.find t k).map (f k) := by
  induction t with
  | nil => rfl
  | cons e r ih =>
    obtain ⟨j, a⟩ := e
    show Table.find ((j, f j a) :: Table.mapVal f r) k = _
    rw [find_cons, find_cons]
    split
    · next h => simp [h]
    · exact ih

/-- A map that leaves the default as it is maps what the table reads. -/
theorem getD_mapVal {α : Type} {f : Nat → α → α} {k : Nat} {d : α} (hd : f k d = d) (t : Table α) :
    Table.getD (Table.mapVal f t) k d = f k (Table.getD t k d) := by
  unfold Table.getD
  rw [find_mapVal]
  cases Table.find t k with
  | none => exact hd.symm
  | some a => rfl

/-- `t` has the caches and the translation buffers of `s`. -/
def SameCaches (s t : State) : Prop := t.cores = s.cores ∧ ∀ m, (t.site m).tlb = (s.site m).tlb

theorem SameCaches.refl (s : State) : SameCaches s s := ⟨rfl, fun _ => rfl⟩

theorem SameCaches.trans {s t u : State} (h : SameCaches s t) (g : SameCaches t u) : SameCaches s u :=
  ⟨g.1.trans h.1, fun m => (g.2 m).trans (h.2 m)⟩

theorem SameCaches.foldl {α : Type} {f : State → α → State} (hf : ∀ t a, SameCaches t (f t a)) (l : List α) (s : State) :
    SameCaches s (l.foldl f s) :=
  List.foldlRecOn (motive := SameCaches s) l f (.refl s) fun t ht a _ => ht.trans (hf t a)

theorem sameCaches_fireMonitors (s : State) (pa n : Nat) : SameCaches s (s.fireMonitors pa n) := by
  refine SameCaches.foldl (fun t x => ?_) _ s
  split
  · exact ⟨rfl, setSite_tlb (s := t) (n := x.1) (by rfl)⟩
  · exact .refl t

/-- Without its translations and descriptors, its caches' lines and what the queue controllers have verified. -/
def State.forgetMemory (s : State) : State :=
  let t : State := { (s.dropXlate (fun _ => true) none).dropFrd none with lines := [] }
  { t with
    cores := Table.mapVal (fun _ c => { c with cc := [] }) t.cores
    sites := Table.mapVal (fun _ x => { x with qcbs := x.qcbs.map (fun q => { q with verified := false }) }) t.sites }

theorem afterRestore_eq (s : State) : s.afterRestore =
    ((s.forgetMemory.sites.flatMap (fun x => x.2.mon.map MonEntry.pa)).eraseDups).foldl (fun t pa => t.fireMonitors pa 4) s.forgetMemory := rfl

theorem core_mapVal {s t : State} {f : Nat → Core → Core} (h : t.cores = Table.mapVal f s.cores) {m : Nat}
    (hd : f m (Core.reset m) = Core.reset m) : t.core m = f m (s.core m) := by
  rw [State.core, h, getD_mapVal hd, State.core]

theorem site_mapVal {s t : State} {f : Nat → Site → Site} (h : t.sites = Table.mapVal f s.sites) {m : Nat} (hd : f m Site.reset = Site.reset) :
    t.site m = f m (s.site m) := by
  rw [State.site, h, getD_mapVal hd, State.site]

/-- Dropping every translation leaves no buffer one. -/
theorem dropXlate_tlb (s : State) (m : Nat) :
    ((s.dropXlate (fun _ => true) none).core m).tlb = [] ∧ ((s.dropXlate (fun _ => true) none).site m).tlb = [] := by
  have hc : (s.dropXlate (fun _ => true) none).cores =
    Table.mapVal (fun _ c => { c with tlb := c.tlb.filter fun _ => false }) s.cores := rfl
  have hs : (s.dropXlate (fun _ => true) none).sites =
    Table.mapVal (fun _ x => { x with tlb := x.tlb.filter fun _ => false, walk := x.walk.filter fun _ => false }) s.sites := rfl
  rw [core_mapVal hc rfl, site_mapVal hs rfl]
  simp

theorem forgetMemory_empty (s : State) (m : Nat) :
    (s.forgetMemory.core m).cc = [] ∧ (s.forgetMemory.core m).tlb = [] ∧ (s.forgetMemory.site m).tlb = [] := by
  have hempty := dropXlate_tlb s m
  have hc : s.forgetMemory.cores = Table.mapVal (fun _ c => { c with cc := [] }) (s.dropXlate (fun _ => true) none).cores := rfl
  have hs : s.forgetMemory.sites = Table.mapVal (fun _ x => { x with qcbs := x.qcbs.map fun q => { q with verified := false } })
    ((s.dropXlate (fun _ => true) none).dropFrd none).sites := rfl
  generalize s.dropXlate (fun _ => true) none = d at hempty hc hs
  have hf : (d.dropFrd none).sites = Table.mapVal (fun _ x => { x with frd := x.frd.filter fun _ => false }) d.sites := rfl
  rw [core_mapVal hc rfl, site_mapVal hs rfl, site_mapVal hf rfl]
  exact ⟨rfl, hempty⟩

/-- Nothing of what memory held is in a cache or a translation buffer after a restore (R381). -/
theorem afterRestore_drops (s : State) (m : Nat) :
    (s.afterRestore.core m).cc = [] ∧ (s.afterRestore.core m).tlb = [] ∧ (s.afterRestore.site m).tlb = [] := by
  obtain ⟨hcores, htlb⟩ : SameCaches s.forgetMemory s.afterRestore := by
    rw [afterRestore_eq]
    exact SameCaches.foldl (fun t pa => sameCaches_fireMonitors t pa 4) _ _
  rw [State.core, hcores, htlb]
  exact forgetMemory_empty s m

/-- The work that a checkpoint saves is as it was. -/
theorem afterRestore_keeps (s : State) : s.afterRestore.saved = s.saved ∧ s.afterRestore.grids = s.grids ∧
    s.afterRestore.wideBars = s.wideBars := by
  rw [afterRestore_eq, (Touch.foldl _ (fun t pa => touch_fireMonitors t pa 4) _ _).shape]
  exact ⟨rfl, rfl, rfl⟩

@[simp] theorem ckptDone_mem (s : State) (err : Bool) : (s.ckptDone err).mem = s.mem := rfl
@[simp] theorem ckptDone_pools (s : State) (err : Bool) : (s.ckptDone err).pools = s.pools := rfl

/-- What a checkpoint leaves in the pool. -/
def State.toPool (s : State) : Checkpoint :=
  { mem := dramOf s.mem, poison := s.poison, saved := s.saved, grids := s.grids, ctxs := s.ctxs, wideBars := s.wideBars,
    given := s.given }

/-- The device with what the pool holds. -/
def State.fromPool (s : State) (c : Checkpoint) : State :=
  { s with
    mem := c.mem.foldl (fun (m : Memory) (x : Host.Cell) => Memory.write m x.1 x.2) (s.mem.filter (fun x => !decide (paSpace x.1 ≤ 1)))
    poison := c.poison, saved := c.saved, grids := c.grids, ctxs := c.ctxs, wideBars := c.wideBars, given := c.given }

theorem execCheckpoint_empty {s : State} (hr : s.ckptRuns false = true) (hw : s.wgs.isEmpty = true) : exec .checkpoint s = .next
    (if s.arg.ok && s.poolReached s.ckptPool then { s with pools := Table.insert s.pools s.ckptPool s.toPool }.ckptDone false
    else s.ckptDone true) := by
  show execCheckpoint s = _
  simp only [execCheckpoint, hr, hw, Bool.not_true, Bool.false_eq_true, if_false, State.toPool]

theorem execCheckpointRestore_reached {s : State} {c : Checkpoint} (hr : s.ckptRuns true = true) (hw : s.wgs.isEmpty = true)
    (hc : Table.find s.pools s.ckptPool = some c) (hgo : (s.arg.ok && s.poolReached s.ckptPool) = true) :
    exec .checkpointRestore s = .next ((s.fromPool c).afterRestore.ckptDone false) := by
  show execCheckpointRestore s = _
  simp only [execCheckpointRestore, hr, hw, hc, hgo, Bool.not_true, Bool.or_self, Bool.false_eq_true, if_false, State.fromPool]

theorem execCheckpointRestore_unreached {s : State} (hr : s.ckptRuns true = true) (hw : s.wgs.isEmpty = true)
    (hgo : (s.arg.ok && s.poolReached s.ckptPool) = false) : exec .checkpointRestore s = .next (s.ckptDone true) := by
  show execCheckpointRestore s = _
  simp only [execCheckpointRestore, hr, hw, hgo, Bool.not_true, Bool.or_self, Bool.false_eq_true, if_false]
  cases Table.find s.pools s.ckptPool <;> rfl

theorem checkpoint_next {s : State} (hr : s.ckptRuns false = true) (hw : s.wgs = []) :
    ∃ t, exec .checkpoint s = .next t ∧ t.mem = s.mem ∧ (t.win 0 offCKPTCTL).getLsbD 1 = true ∧
      ((t.win 0 offCKPTCTL).getLsbD 3 = !(s.arg.ok && s.poolReached s.ckptPool)) ∧
      (s.arg.ok = true → s.poolReached s.ckptPool = true →
        ∃ c, Table.find t.pools s.ckptPool = some c ∧ c.mem = dramOf s.mem ∧ c.saved = s.saved) := by
  refine ⟨_, execCheckpoint_empty hr (by rw [hw]; rfl), ?_⟩
  cases hgo : s.arg.ok && s.poolReached s.ckptPool with
  | true =>
    obtain ⟨hdone, herr⟩ := ckptDone_status { s with pools := Table.insert s.pools s.ckptPool s.toPool } false
    rw [if_pos rfl]
    refine ⟨ckptDone_mem _ _, hdone, herr, fun _ _ => ⟨s.toPool, ?_, rfl, rfl⟩⟩
    rw [ckptDone_pools]
    exact find_insert_same _ _ _
  | false =>
    obtain ⟨hdone, herr⟩ := ckptDone_status s true
    exact ⟨ckptDone_mem _ _, hdone, herr, fun ha hp => by simp [ha, hp] at hgo⟩

theorem checkpointRestore_next {s : State} {c : Checkpoint} (hr : s.ckptRuns true = true) (hw : s.wgs = [])
    (hc : Table.find s.pools s.ckptPool = some c) (ha : s.arg.ok = true) (hp : s.poolReached s.ckptPool = true) :
    ∃ t, exec .checkpointRestore s = .next t ∧ (t.win 0 offCKPTCTL).getLsbD 1 = true ∧ t.saved = c.saved ∧ t.grids = c.grids ∧
      t.wideBars = c.wideBars ∧ ∀ m, (t.core m).cc = [] ∧ (t.core m).tlb = [] ∧ (t.site m).tlb = [] := by
  refine ⟨_, execCheckpointRestore_reached hr (by rw [hw]; rfl) hc (by rw [ha, hp]; rfl), ?_⟩
  have hback : (s.fromPool c).saved = c.saved ∧ (s.fromPool c).grids = c.grids ∧ (s.fromPool c).wideBars = c.wideBars :=
    ⟨rfl, rfl, rfl⟩
  generalize s.fromPool c = u at hback ⊢
  obtain ⟨hsaved, hgrids, hbars⟩ := hback
  obtain ⟨ksaved, kgrids, kbars⟩ := afterRestore_keeps u
  have hdrops := afterRestore_drops u
  generalize u.afterRestore = v at ksaved kgrids kbars hdrops ⊢
  refine ⟨(ckptDone_status v false).1, ksaved.trans hsaved, kgrids.trans hgrids, kbars.trans hbars, fun m => ?_⟩
  obtain ⟨hcc, hct, hst⟩ := hdrops m
  exact ⟨hcc, hct, (ckptDone_tlb v false m).trans hst⟩

/-- No site of a device that has been reset has power (R4, R382). -/
theorem powerOnReset_next (s : State) : ∃ t, exec .powerOnReset s = .next t ∧ t.mem = [] ∧ t.wgs = [] ∧ t.epol = State.reset.epol ∧
    t.fwImage = s.fwImage ∧ t.fuseMin = s.fuseMin ∧ t.fuseKey = s.fuseKey ∧ t.serial = s.serial ∧ t.stage = 0 ∧
    ∀ m < 64, t.powered m = false :=
  ⟨_, rfl, rfl, rfl, rfl, rfl, rfl, rfl, rfl, rfl, fun _ _ => by simp [State.powered, State.reset]⟩

/-- Settles O48: one lemma for each event, in the order of the claim. -/
theorem hostEvents : Obligations.HostEvents := by
  intro s n pa
  refine ⟨powerOnReset_next s, bringupStage_succeeds, bringupStage_fails, rfl, thermalTrip_next rfl, toffUpdate_next, linkTrain_port,
    linkTrain_management, hostAccess_spaces, fun v hv r hr => hqenq_next rfl hv hr, attcmd_next rfl, checkpoint_next,
    fun c => checkpointRestore_next, fun hr hw hp => ?_⟩
  obtain ⟨hdone, herr⟩ := ckptDone_status s true
  exact ⟨_, execCheckpointRestore_unreached hr (by rw [hw]; rfl) (by rw [hp]; exact Bool.and_false _), rfl, hdone, herr⟩

end Sys2Proof.Machine
end

section
namespace Sys2Proof.Machine

/-! Registers with and without a pending write, and the start of a coach (R23-R26, R77). -/

/-- Which writes are pending leaves the stored values as they are. -/
@[simp] theorem rawReg_setPend (c : Coach) (sc : Bool) (n t : Nat) (old : Option Word) (sc' : Bool) (n' t' : Nat) :
    (c.setPend sc n t old).rawReg sc' n' t' = c.rawReg sc' n' t' := rfl

/-- A register holds what is stored in it, whatever its thread's number. -/
theorem rawReg_putV_self (c : Coach) (n t : Nat) (x : Word) : (c.putV n t x).rawReg false n t = x := by
  simp [Coach.rawReg, Coach.putV]

theorem rawReg_putS_self (c : Coach) {n : Nat} (hn : n ≠ 0) (x : Word) : (c.putS n x).rawReg true n 0 = x := by
  simp [rawReg_putS, hn]

theorem writeV_settled {c : Coach} {n t : Nat} (h : c.pendOf false n t = none) (tick : Nat) (x : Word) :
    c.writeV tick n t x = c.putV n t x := by
  simp [Coach.writeV, h]

theorem writeS_settled {c : Coach} {n : Nat} (hn : n ≠ 0) (h : c.pendOf true n 0 = none) (tick : Nat) (x : Word) :
    c.writeS tick n x = c.putS n x := by
  simp [Coach.writeS, hn, h]

theorem pendOf_putS (c : Coach) (n : Nat) (x : Word) (sc : Bool) (n' t' : Nat) :
    (c.putS n x).pendOf sc n' t' = c.pendOf sc n' t' := by
  unfold Coach.putS
  split <;> rfl

/-- A read of a v register with a write pending (R77). -/
theorem readV_pending {c : Coach} {n t : Nat} {p : PendReg} (h : c.pendOf false n t = some p) (tick : Nat) :
    c.readV tick n t = p.old ∨ c.readV tick n t = c.rawReg false n t := by
  simp only [Coach.readV, h]
  split
  · exact Or.inl rfl
  · exact Or.inr rfl

/-- A write over a pending one leaves the later result, or the stored one (R77). -/
theorem writeV_pending {c : Coach} {n t : Nat} {p : PendReg} (h : c.pendOf false n t = some p) (tick : Nat) (x : Word) :
    (c.writeV tick n t x).rawReg false n t = x ∨ (c.writeV tick n t x).rawReg false n t = c.rawReg false n t := by
  simp only [Coach.writeV, h]
  split
  · exact Or.inl (rawReg_putV_self _ n t x)
  · split
    · exact Or.inr (rawReg_setPend c _ _ _ _ _ _ _)
    · exact Or.inl (rawReg_putV_self _ n t x)

theorem readS_pending {c : Coach} {n : Nat} {p : PendReg} (hn : n ≠ 0) (h : c.pendOf true n 0 = some p) (tick : Nat) :
    c.readS tick n = p.old ∨ c.readS tick n = c.rawReg true n 0 := by
  simp only [Coach.readS, h, hn, if_false]
  split
  · exact Or.inl rfl
  · exact Or.inr (by simp [Coach.rawReg, hn])

theorem writeS_pending {c : Coach} {n : Nat} {p : PendReg} (hn : n ≠ 0) (h : c.pendOf true n 0 = some p) (tick : Nat) (x : Word) :
    (c.writeS tick n x).rawReg true n 0 = x ∨ (c.writeS tick n x).rawReg true n 0 = c.rawReg true n 0 := by
  simp only [Coach.writeS, h, hn, if_false]
  split
  · exact Or.inl (rawReg_putS_self _ hn x)
  · split
    · exact Or.inr (rawReg_setPend c _ _ _ _ _ _ _)
    · exact Or.inl (rawReg_putS_self _ hn x)

/-- Settles O57: settled registers read as they are stored, so a read after a write is one of the stored values; a pending one leaves
the two outcomes of R77. -/
theorem registersAndHazards : Obligations.RegistersAndHazards := by
  intro c tick x
  refine ⟨rfl, rfl, fun _ => rfl, fun _ _ => rfl, fun n t n' t' ht ht' hp hp' => ?_, fun n n' hn hp hp' => ?_,
    fun n t n' t' b h1 h7 => ?_, fun n t p hp => ⟨readV_pending hp tick, writeV_pending hp tick x⟩,
    fun n p hn hp => ⟨readS_pending hn hp tick, writeS_pending hn hp tick x⟩⟩
  · rw [writeV_settled hp, readV_of_settled (c.putV n t x) tick n' t' hp', readV_of_settled c tick n' t' hp',
      rawReg_putV c n t x false n' t' ht ht']
    simp
  · rw [writeS_settled hn hp, readS_of_settled _ tick n' 0 (by rw [pendOf_putS, hp']), readS_of_settled c tick n' 0 hp', rawReg_putS]
    simp [hn]
  · rw [readP_writeP c n t b n' t' h7]
    simp [show n ≠ 0 by omega]

/-- Settles O56: the tables of a new coach are empty but for s2 and s3, so every other register reads its reader's default. -/
theorem coachStart : Obligations.CoachStart := by
  intro entry args n
  have hs : ∀ r, Table.getD (Coach.start entry args n).s r 0 =
      if r = 2 then args.truncate 32 else if r = 3 then (args >>> 32).truncate 32 else 0 := fun r => by
    show Table.getD (Table.put 0 (Table.put 0 [] 2 _) 3 _) r 0 = _
    by_cases h3 : r = 3
    · simp [h3]
    · by_cases h2 : r = 2
      · subst h2
        rw [getD_put_ne _ _ _ (by decide), getD_put_same, if_pos rfl]
      · rw [getD_put_ne _ _ _ h3, getD_put_ne _ _ _ h2, if_neg h2, if_neg h3]
        rfl
  refine ⟨fun _ _ => rfl, fun r _ => ?_, fun tick r => readS_of_settled _ tick r 0 rfl, fun q t => ?_, fun _ => rfl, rfl, rfl, rfl,
    rfl, rfl⟩
  · by_cases h0 : r = 0
    · subst h0
      rfl
    · rw [← hs r]
      simp [Coach.rawReg, h0]
  · by_cases h0 : q = 0
    · simp [h0]
    · simp [Coach.readP, Coach.start, Table.getD, h0]

end Sys2Proof.Machine
end

section
namespace Sys2Proof.Machine

/-! Results written in every unit before the coach goes on (R77), and conversions (R56-R58, R110-R112). -/

/-- The writes of a run over settled destinations go over no pending one. -/
theorem over_lanes {e : Env} {u : Bool} {d n : Nat} {val : Nat → Nat} (h : DestSettled e u d n) :
    ∀ w ∈ (e.units u).flatMap (fun t => putRun u d n t (val t)), w.over e.c = none := by
  intro w hw
  obtain ⟨t, _, hw⟩ := List.mem_flatMap.mp hw
  obtain ⟨j, hj, rfl⟩ := mem_putRun.mp hw
  have := h j hj t
  cases u <;> simpa [RegWrite.over, runWrite] using this

/-- One value per unit is written, and the coach has not gone on. -/
theorem results_lanes (e : Env) (u : Bool) (d n : Nat) (val : Nat → Nat) (h : DestSettled e u d n) :
    Results e (e.c.writeRegs e.tick ((e.units u).flatMap (fun t => putRun u d n t (val t)))) u d n val := by
  obtain ⟨hresult, hothers, -⟩ := wrote_lanes e u d n val h
  simp only [rawReg_advance] at hresult hothers
  obtain ⟨V, S, hv⟩ := writeRegs_shape _ e.c e.tick (over_lanes (val := val) h)
  exact ⟨hresult, hothers, by rw [hv]⟩

theorem cvtDst_settled {e : Env} {f : RRR} {i : Instr} (hs : Settled e i)
    (hu : i.uses = [.write (fileOf f.u) f.d (cvtDstRegs f.b.toNat), .read (fileOf f.u) f.a (cvtSrcRegs f.b.toNat)]) :
    DestSettled e f.u f.d.toNat (cvtDstRegs f.b.toNat) :=
  destSettled_of_settled hs ⟨_, by rw [hu]; exact List.mem_cons_self, rfl, rfl, le_rfl, rfl⟩

/-- What CVTSR gives in a thread, by the dither of its position and DPHASE (R112). -/
def cvtsrVal (f : RRR) (e : Env) (t : Nat) : Nat × Word :=
  cvtAll (cvtItems f.b.toNat) (fun j i =>
    i.writeSr (dither ((t * (cvtItems f.b.toNat).length + j) % 32) e.c.dphase.toNat) f.ftz (i.read f.ftz (e.opA f (cvtSrcRegs f.b.toNat) t)))

theorem cvtsr_next {f : RRR} {s : State} {e : Env} (h : Runs (.cvtsr f) s e) (hs : Settled e (.cvtsr f)) :
    ∃ c, exec (.cvtsr f) s = .next (tracked e (.cvtsr f) []
        ((s.orStatus e.site e.ctx (flagsAll ((e.units f.u).map (fun t => (cvtsrVal f e t).2)))).setCoach s.cur c)) ∧
      Results e c f.u f.d.toNat (cvtDstRegs f.b.toNat) (fun t => (cvtsrVal f e t).1) := by
  refine ⟨_, ?_, results_lanes e f.u f.d.toNat (cvtDstRegs f.b.toNat) (fun t => (cvtsrVal f e t).1) (cvtDst_settled hs rfl)⟩
  have hc : (s.orStatus e.site e.ctx (flagsAll ((e.units f.u).map (fun t => (cvtsrVal f e t).2)))).coach s.cur = some e.c := by
    rw [(touch_orStatus s _ _ _).coach]
    exact h.coach
  show execCvtsr f s = _
  rw [execCvtsr, issue_runs h, ← modCoach_of_coach hc (fun c => c.writeRegs e.tick _), ← h.ref]
  simp only [List.flatMap_map, List.map_map, Function.comp_def]
  rfl

/-- The opcode is bits [31:24] of a word (R79). -/
theorem opcodeOf_toNat (w : Word) : (opcodeOf w).toNat = w.toNat / 2 ^ 24 := by
  have := w.isLt
  simp only [opcodeOf, BitVec.extractLsb'_toNat, Nat.shiftRight_eq_div_pow]
  omega

@[simp] theorem lowerFlag_dphase (c : Coach) (f : Option Nat) : (c.lowerFlag f).dphase = c.dphase := by
  cases f <;> rfl

/-- A tile of CVTSR that completes advances DPHASE (R33, R58). -/
theorem afterFlight_cvtsr {c : Coach} {fl : Flight} (hk : fl.kind = .performed) (hw : fl.word.toNat / 2 ^ 24 = 0x41) :
    (c.afterFlight fl).dphase = c.dphase + 1 := by
  have ht : fl.tile = true := by
    simp only [Flight.tile, opcodeOf_toNat, hw, hk]
    rfl
  simp only [Coach.afterFlight, ht, if_true, lowerFlag_dphase]

/-- Settles O8: CVT is a lanewise instruction; CVTSR writes its results and stays in flight until its tile completes. -/
theorem conversionResults : Obligations.ConversionResults := by
  intro f
  exact ⟨fun s e h hs => lanewise_spec h f.u f.d.toNat _ _ (cvtDst_settled hs rfl),
    fun s e h hs => ⟨cvtsr_next h hs, fun c fl => afterFlight_cvtsr⟩⟩

end Sys2Proof.Machine
end

section
namespace Sys2Proof.Machine

/-! System registers (R30-R33, R205). -/

/-- A word of a wider value, as an operand reads it. -/
theorem toNat_word (m : Mask) : (((m.truncate 32 : Word).zeroExtend 64 : DWord)).toNat = m.toNat % 2 ^ 32 := by
  simp only [BitVec.truncate, BitVec.zeroExtend, BitVec.toNat_setWidth]
  omega

/-- The extents of the grid, 0 without one (R31). -/
theorem gridExtents_toNat (g : Option Grid) :
    (match g with | some g => BitVec.ofNat 64 ((g.ze - 1) * 2 ^ 24 + (g.ye - 1) * 65536 + (g.xe - 1)) | none => (0 : DWord)).toNat =
      (BitVec.ofNat 64 (match g with | some g => (g.ze - 1) * 2 ^ 24 + (g.ye - 1) * 65536 + (g.xe - 1) | none => 0)).toNat := by
  cases g <;> rfl

/-- What SRD reads in a thread from the register numbered `n`, as a number. -/
def srdValue (s : State) (e : Env) (k t n : Nat) : Nat := (sysregRead s e n k t).toNat

theorem srd_computes {f : FS} {s : State} {e : Env} (h : Runs (.srd f) s e) (hs : Settled e (.srd f)) :
    Computes (.srd f) s e f.u f.d.toNat (sysregRegs f.sysreg.toNat) (fun t => srdValue s e f.a.toNat t f.sysreg.toNat) := by
  have hd : DestSettled e f.u f.d.toNat (sysregRegs f.sysreg.toNat) :=
    destSettled_of_settled hs ⟨_, List.mem_cons_self, rfl, rfl, le_rfl, rfl⟩
  obtain ⟨c, hx, hw⟩ := lanewise_clean h f.u f.d.toNat _ (fun e t => srdValue s e f.a.toNat t f.sysreg.toNat) hd
  refine ⟨c, ?_, hw⟩
  rw [← hx, issue_runs h]
  show execSrd f s = _
  rw [execSrd, issue_runs h]
  rfl

theorem Computes.congr {i : Instr} {s : State} {e : Env} {u : Bool} {d n : Nat} {f g : Nat → Nat} (h : Computes i s e u d n f)
    (hv : ∀ t, g t = f t) : Computes i s e u d n g := by
  rwa [funext hv]

/-- A register narrower than 64 bits reads as its number. -/
theorem narrow_value {n : Nat} (x : BitVec n) (h : n ≤ 64) : x.toNat = (x.zeroExtend 64).toNat :=
  (BitVec.toNat_setWidth_of_le h).symm

/-- TMASK0 to TMASK7 (R30). -/
theorem srdValue_tmask {n : Nat} (h : 0x028 ≤ n ∧ n ≤ 0x02F) (s : State) (e : Env) (k t : Nat) :
    (e.c.tmask >>> (32 * (n - 0x028))).toNat % 2 ^ 32 = srdValue s e k t n := by
  rw [srdValue, sysregRead]
  · rw [if_pos h, toNat_word]
  all_goals omega

/-- The current limits (R30). -/
theorem srdValue_csl {n : Nat} (h : 0x050 ≤ n ∧ n ≤ 0x05F) (s : State) (e : Env) (k t : Nat) :
    (Table.getD s.csl (n - 0x050) cslReset).toNat = srdValue s e k t n := by
  rw [srdValue, sysregRead]
  · rw [if_neg (by omega), if_pos h]
    exact narrow_value _ (by decide)
  all_goals omega

/-- One case of a chain of conditions on a number, for a function of the number. -/
theorem ite_value {n m a b : Nat} {g : Nat → Nat} (h : a = g m) (hn : n ≠ m → b = g n) : (if n = m then a else b) = g n := by
  split
  · next hm => rw [h, hm]
  · next hm => exact hn hm

/-- Settles O17: SRD is lanewise in `sysregRead`, whose branches, taken in the order of the claim's conditions, are its registers. -/
theorem systemRegisterReads : Obligations.SystemRegisterReads := by
  intro f s e h hs
  refine (srd_computes h hs).congr fun t => ?_
  generalize f.sysreg.toNat = n
  -- the identity of the thread, its coach and its workgroup (0x000 to 0x007), its grid, and the identity of the device
  refine ite_value rfl fun _ => ite_value rfl fun _ => ite_value rfl fun _ => ite_value rfl fun _ => ite_value rfl fun _ =>
    ite_value rfl fun _ => ite_value rfl fun _ => ite_value rfl fun _ => ite_value (gridExtents_toNat _).symm fun _ =>
    ite_value rfl fun _ => ite_value rfl fun _ => ite_value rfl fun _ => ite_value (narrow_value s.waferId (by decide)) fun _ =>
    ite_value (narrow_value s.podId (by decide)) fun _ => ite_value rfl fun _ => ?_
  -- the clocks, and DPHASE
  refine ite_value rfl fun _ => ite_value rfl fun _ => ite_value (narrow_value (s.toffOf e.site) (by decide)) fun _ =>
    ite_value (narrow_value e.wg.oclk (by decide)) fun _ => ite_value (narrow_value e.c.dphase (by decide)) fun _ => ?_
  -- the registers of a trap
  refine ite_value rfl fun _ => ite_value (narrow_value e.c.tcause (by decide)) fun _ => ite_value rfl fun _ =>
    ite_value rfl fun _ => ite_value rfl fun _ => ?_
  by_cases ht : 0x028 ≤ n ∧ n ≤ 0x02F
  · rw [if_pos ht]
    exact srdValue_tmask ht s e _ t
  rw [if_neg ht]
  -- EXEC, the open step, the error policy and the context's registers
  refine ite_value (toNat_word _).symm fun _ => ite_value rfl fun _ => ite_value rfl fun _ => ite_value rfl fun _ =>
    ite_value rfl fun _ => ?_
  by_cases hl : 0x050 ≤ n ∧ n ≤ 0x05F
  · rw [if_pos hl]
    exact srdValue_csl hl s e _ t
  rw [if_neg hl, srdValue, sysregRead]
  · rw [if_neg ht, if_neg hl]
    rfl
  all_goals assumption

end Sys2Proof.Machine
end

section
namespace Sys2Proof.Machine

/-! Instructions that change the machine and then let their coach go on (R69, R74): the writes of system registers (R30, R32, R205),
the open steps and TIME (R211, R212). -/

theorem finish_of_coach {e : Env} {s : State} {c : Coach} (h : s.coach e.ref = some c) :
    finish e s = s.setCoach e.ref (c.advance e) :=
  modCoach_of_coach h _

/-- An instruction that leaves its coach as it was, and goes on. -/
theorem Runs.finish_eq {i : Instr} {s : State} {e : Env} (h : Runs i s e) {t : State} (ht : t.coach s.cur = s.coach s.cur) :
    finish e t = t.setCoach s.cur (e.c.advance e) := by
  rw [← h.ref]
  exact finish_of_coach (by rw [h.ref, ht, h.coach])

/-- Entering a current step changes regions alone. -/
theorem enterStep_coach (s : State) (n : Nat) (r : CoachRef) : (s.enterStep n).coach r = s.coach r := by
  unfold State.enterStep
  dsimp only
  split <;> rfl

theorem putStep_coach (s : State) (owner : Nat) (r r' : CoachRef) (st : Option OpenStep) :
    (s.putStep owner r st).coach r' = s.coach r' := rfl

@[simp] theorem insert_insert {α : Type} (t : Table α) (k : Nat) (a b : α) :
    Table.insert (Table.insert t k a) k b = Table.insert t k b := by
  induction t with
  | nil => simp [Table.insert]
  | cons x r ih =>
    obtain ⟨j, y⟩ := x
    simp only [Table.insert]
    split
    · simp [Table.insert]
    · split
      · simp [Table.insert]
      · next h1 h2 => simp [Table.insert, h1, h2, ih]

theorem setCoach_of_wg {s : State} {r : CoachRef} {w : Workgroup} (h : s.wg r.slot = some w) (c : Coach) :
    s.setCoach r c = s.setWg r.slot (w.setCoach r.k c) := by
  simp only [State.setCoach, h]

/-- The later of two changes of a coach stays. -/
@[simp] theorem setCoach_setCoach (s : State) (r : CoachRef) (c d : Coach) : (s.setCoach r c).setCoach r d = s.setCoach r d := by
  cases hw : s.wg r.slot with
  | none => simp only [State.setCoach, hw]
  | some w =>
    have hw' : (s.setWg r.slot (w.setCoach r.k c)).wg r.slot = some (w.setCoach r.k c) := by simp [State.wg]
    rw [setCoach_of_wg hw, setCoach_of_wg hw', setCoach_of_wg hw]
    simp [State.setWg, Workgroup.setCoach]

/-- A change of the coach before it goes on. -/
theorem Runs.finish_modCoach {i : Instr} {s : State} {e : Env} (h : Runs i s e) (f : Coach → Coach) :
    finish e (s.modCoach e.ref f) = s.setCoach s.cur ((f e.c).advance e) := by
  have hm : s.modCoach e.ref f = s.setCoach s.cur (f e.c) := by
    rw [h.ref]
    exact modCoach_of_coach h.coach f
  have hc : (s.setCoach s.cur (f e.c)).coach e.ref = some (f e.c) := by
    rw [h.ref]
    exact coach_setCoach_same h.wg _
  rw [hm, finish_of_coach hc, h.ref, setCoach_setCoach]

theorem advance_dphase (c : Coach) (e : Env) (x : BitVec 5) :
    ({ c with dphase := x } : Coach).advance e = { c.advance e with dphase := x } := by
  unfold Coach.advance
  split <;> rfl

theorem advance_tpc (c : Coach) (e : Env) (x : DWord) : ({ c with tpc := x } : Coach).advance e = { c.advance e with tpc := x } := by
  unfold Coach.advance
  split <;> rfl

/-- The value that SWR writes: the lowest active thread's, or with U=1 the coach's (R32). -/
def swrVal (f : FS) (e : Env) : DWord :=
  BitVec.ofNat 64 (wordsToNat (e.opRun f.u 0 f.d.toNat (sysregRegs f.sysreg.toNat) (e.threads.headD 0)))

theorem swr_next {f : FS} {s : State} {e : Env} (h : Runs (.swr f) s e) {n : Nat} (hn : f.sysreg.toNat = n) :
    exec (.swr f) s = .next (finish e (sysregWrite s e n (swrVal f e))) := by
  show execSwr f s = _
  rw [execSwr, issue_runs h, ← hn]
  rfl

/-- SWR of a register outside the coach. -/
theorem swr_outside {f : FS} {s t : State} {e : Env} (h : Runs (.swr f) s e) {n : Nat} (hn : f.sysreg.toNat = n)
    (hw : sysregWrite s e n (swrVal f e) = t) (ht : t.coach s.cur = s.coach s.cur) :
    exec (.swr f) s = .next (t.setCoach s.cur (e.c.advance e)) := by
  rw [swr_next h hn, hw, h.finish_eq ht]

/-- SWR of a register of the coach. -/
theorem swr_coach {f : FS} {s : State} {e : Env} (h : Runs (.swr f) s e) {n : Nat} (hn : f.sysreg.toNat = n) {g : Coach → Coach}
    (hw : sysregWrite s e n (swrVal f e) = s.modCoach e.ref g) (hg : (g e.c).advance e = g (e.c.advance e)) :
    exec (.swr f) s = .next (s.setCoach s.cur (g (e.c.advance e))) := by
  rw [swr_next h hn, hw, h.finish_modCoach, hg]

theorem sysregWrite_csl (s : State) (e : Env) {k : Nat} (hk : k < 16) (v : DWord) :
    sysregWrite s e (0x050 + k) v =
      { s.enterStep k with csl := Table.put cslReset s.csl k ((v.truncate 16).zeroExtend 32) } := by
  rw [sysregWrite]
  · rw [if_pos (by omega), Nat.add_sub_cancel_left]
  all_goals omega

/-- Settles O18: a register of the coach is written before the coach goes on; every other lies outside the coach. -/
theorem systemRegisterWrites : Obligations.SystemRegisterWrites := by
  intro f s e h
  exact ⟨fun hn => swr_outside h hn rfl rfl, fun hn => swr_outside h hn rfl rfl, fun hn => swr_coach h hn rfl (advance_dphase _ _ _),
    fun hn => swr_outside h hn rfl rfl, fun hn => swr_coach h hn rfl (advance_tpc _ _ _), fun hn => swr_outside h hn rfl rfl,
    fun hn => swr_outside h hn rfl rfl, fun k hk hn => swr_outside h hn (sysregWrite_csl s e hk _) (enterStep_coach s k s.cur)⟩

/-! Steps and TIME. -/

theorem afterEarlier_free {e : Env} (h : e.c.flights = []) (s t : State) : afterEarlier e s t = t := by
  simp [afterEarlier, h]

theorem afterEarlier_waits {e : Env} (h : e.c.flights ≠ []) (s t : State) : afterEarlier e s t = s := by
  simp [afterEarlier, h, stall]

/-- With nothing in flight nothing is pending. -/
theorem destSettled_of_noFlights {e : Env} (h : e.c.flights = []) (u : Bool) (d n : Nat) : DestSettled e u d n := by
  intro j _ t
  simp [Coach.pendOf, h]

/-- Behind an instruction in flight a step instruction or TIME changes nothing (R35, R212). -/
theorem stepInstr_waits {f : FS} {s : State} {e : Env} (hf : e.c.flights ≠ []) :
    ∀ i ∈ [Instr.stepo f, .stepm f, .stepc f, .timeI f], Runs i s e → exec i s = .next s := by
  intro i hi h
  simp only [List.mem_cons, List.not_mem_nil, or_false] at hi
  rcases hi with rfl | rfl | rfl | rfl
  · show execStepo f s = _
    rw [execStepo, issue_runs h, afterEarlier_waits hf]
  · show execStepm f s = _
    rw [execStepm, issue_runs h, afterEarlier_waits hf]
  · show execStepc f s = _
    rw [execStepc, issue_runs h, afterEarlier_waits hf]
  · show execTimeI f s = _
    rw [execTimeI, issue_runs h, afterEarlier_waits hf]

theorem stepo_next {f : FS} {s s1 : State} {e : Env} {x : Xl} (h : Runs (.stepo f) s e) (hf : e.c.flights = [])
    (ha : (e.sop64 0 f.d).toNat % 64 = 0) (ht : s.translate (some e.core) e.site e.ctx (e.sop64 0 f.d) .both = (.ok x, s1)) :
    exec (.stepo f) s = .next (finish e (s1.stepOpen e.ref e.ctx (e.sop64 0 f.d) x.pa)) := by
  show execStepo f s = _
  rw [execStepo, issue_runs h, afterEarlier_free hf]
  simp only [ha, ht, ne_eq, not_true_eq_false, if_false]

theorem stepm_next {f : FS} {s : State} {e : Env} (h : Runs (.stepm f) s e) (hf : e.c.flights = []) {owner : Nat} {st : OpenStep}
    (hst : s.findStep s.cur = some (owner, st)) :
    exec (.stepm f) s = .next ((s.putStep owner s.cur (some { st with progress := st.progress + (e.sop 0 f.a).setWidth 64 })).setCoach
      s.cur (e.c.advance e)) := by
  show execStepm f s = _
  rw [execStepm, issue_runs h, afterEarlier_free hf, h.ref, hst]
  exact congrArg Host.Outcome.next (h.finish_eq (putStep_coach s _ _ _ _))

theorem stepm_none {f : FS} {s : State} {e : Env} (h : Runs (.stepm f) s e) (hf : e.c.flights = []) (hst : s.findStep s.cur = none) :
    GoesOnBy (.stepm f) s e id := by
  show execStepm f s = _
  rw [execStepm, issue_runs h, afterEarlier_free hf, h.ref, hst]
  exact congrArg Host.Outcome.next (h.finish_eq rfl)

theorem stepc_next {f : FS} {s : State} {e : Env} (h : Runs (.stepc f) s e) (hf : e.c.flights = []) :
    exec (.stepc f) s = .next (finish e (s.stepClose s.cur .closed)) := by
  show execStepc f s = _
  rw [execStepc, issue_runs h, afterEarlier_free hf, h.ref]

theorem stepc_none {f : FS} {s : State} {e : Env} (h : Runs (.stepc f) s e) (hf : e.c.flights = []) (hst : s.findStep s.cur = none) :
    GoesOnBy (.stepc f) s e id := by
  have hn : s.stepClose s.cur .closed = s := by simp only [State.stepClose, hst]
  rw [GoesOnBy, stepc_next h hf, hn, h.finish_eq rfl]
  rfl

theorem timeI_computes {f : FS} {s : State} {e : Env} (h : Runs (.timeI f) s e) (hf : e.c.flights = []) :
    Computes (.timeI f) s e true f.d.toNat 4 (fun _ => (s.time e.site).toNat + (s.waferTime e.site).toNat * 2 ^ 64) := by
  refine ⟨_, ?_, wrote_lanes e true f.d.toNat 4 _ (destSettled_of_noFlights hf _ _ _)⟩
  show execTimeI f s = _
  rw [execTimeI, issue_runs h, afterEarlier_free hf]
  have hu : e.units true = [0] := rfl
  rw [hu, List.flatMap_singleton, ← h.ref]
  exact congrArg Host.Outcome.next (modCoach_of_coach (by rw [h.ref]; exact h.coach) _)

/-- Settles O31: behind an instruction in flight each of the four stalls; with none in flight each does its own. -/
theorem stepsAndTime : Obligations.StepsAndTime := by
  intro f s s1 e x
  exact ⟨fun i hi h hf => stepInstr_waits hf i hi h, fun hf => ⟨fun h => stepo_next h hf, fun owner st h => stepm_next h hf,
    fun h => stepm_none h hf, fun h => stepc_next h hf, fun h => stepc_none h hf, fun h => timeI_computes h hf⟩⟩

end Sys2Proof.Machine
end

section
namespace Sys2Proof.Machine

/-! What traps before an instruction is executed (R90 groups 4 to 8). -/

/-- The meaning of an instruction that is no event of the device is a body that issues. -/
theorem exec_issues {i : Instr} (hi : i.isEvent = false) (s : State) : ∃ body, exec i s = issue i s body := by
  cases i <;> cases hi
  case cvtsr f => exact ⟨_, execCvtsr.eq_1 f s⟩
  all_goals
    dsimp only [exec]
    exact ⟨_, rfl⟩

/-- An instruction with a cause traps, unless its issue has to stall. -/
theorem issue_traps {i : Instr} {s : State} {e0 : Env} (h : s.env s.cur = some e0) {c : Cause}
    (hc : wordCause (e0.holding i) (s.grid e0.wg.gid) (s.privileged e0.site e0.ctx) i = some c)
    (hs : e0.active = 0 ∨ issueStalls (e0.holding i) i s = false) (body : Env → State → State) :
    issue i s body = .next (trapAll (e0.holding i) i c 0 s) := by
  have hn : ¬ (e0.active ≠ 0 ∧ issueStalls (e0.holding i) i s = true) := by
    rintro ⟨ha, hst⟩
    rcases hs with h0 | h0
    · exact ha h0
    · simp [h0] at hst
  simp only [issue, h, holding_wg, holding_active]
  rw [show (e0.holding i).site = e0.site from rfl, show (e0.holding i).ctx = e0.ctx from rfl, hc]
  exact congrArg Host.Outcome.next (if_neg hn)

/-- With no cause and no thread active an instruction has no effect but to go on (R74). -/
theorem issue_idle {i : Instr} {s : State} {e0 : Env} (h : s.env s.cur = some e0)
    (hc : wordCause (e0.holding i) (s.grid e0.wg.gid) (s.privileged e0.site e0.ctx) i = none) (ha : e0.active = 0)
    (body : Env → State → State) : issue i s body = .next (finish (e0.holding i) s) := by
  simp only [issue, h, holding_wg, holding_active]
  rw [show (e0.holding i).site = e0.site from rfl, show (e0.holding i).ctx = e0.ctx from rfl, hc]
  exact congrArg Host.Outcome.next (if_pos ha)

theorem classBad_iff (e : Env) (i : Instr) : classBad e i = true ↔
    ∃ h, e.header = some h ∧ classOf i.op ≠ hdrCLS h ∧ ¬ (i.op / 16 = 12 ∧ e.last = true) := by
  unfold classBad isControl
  cases e.header with
  | none => simp
  | some h =>
    simp only [Bool.and_eq_true, bne_iff_ne, Bool.not_eq_true', Bool.and_eq_false_imp, beq_iff_eq, Option.some.injEq,
      exists_eq_left', not_and, Bool.not_eq_true]

/-- What only privileged code may do (R32, R41, R89, R213). -/
def NeedsPrivilege (e : Env) (i : Instr) : Prop :=
  match i with
  | .msave _ | .mrest _ => True
  | .srd f | .swr f => (sysregAccess f.sysreg.toNat = .privOnly ∨ sysregAccess f.sysreg.toNat = .privReadOnly) ∧
      (sysregWidth f.sysreg.toNat).isSome = true
  | .eres f => (e.sop 0 f.a).toNat / 2 ^ 16 % 2 ^ 16 ≠ 0xFFFF ∧ (e.sop 0 f.a).toNat / 2 ^ 16 % 2 ^ 16 ≠ e.wg.ctx
  | _ => False

theorem privReg_iff (a : SysAccess) (b : Bool) :
    (match a with | .privOnly | .privReadOnly => b | _ => false) = true ↔ (a = .privOnly ∨ a = .privReadOnly) ∧ b = true := by
  cases a <;> simp

theorem privCause_iff (e : Env) (priv : Bool) (i : Instr) : privCause e priv i = true ↔ priv = false ∧ NeedsPrivilege e i := by
  unfold privCause
  rw [Bool.and_eq_true, Bool.not_eq_true']
  refine and_congr_right fun _ => ?_
  cases i
  case msave f => exact iff_of_true rfl trivial
  case mrest f => exact iff_of_true rfl trivial
  case srd f => exact privReg_iff _ _
  case swr f => exact privReg_iff _ _
  case eres f => exact decide_eq_true_iff
  all_goals exact iff_of_false Bool.false_ne_true not_false

/-- The fields that an instruction's state refuses, beside those that its word refuses (R32, R118, R125, R149, R207, R208). -/
def RefusedField (e : Env) (g : Option Grid) (user : Prop) (i : Instr) : Prop :=
  match i with
  | .swr f => sysregAccess f.sysreg.toNat = .readOnly ∨ sysregAccess f.sysreg.toNat = .privReadOnly ∨
      (sysregAccess f.sysreg.toNat = .privElseRO ∧ user)
  | .tret _ | .lrd _ | .lwr _ => e.c.inHandler = false
  | .bara f | .baraw f | .barw f | .barinit f => barSlots g f.scope.toNat ≤ f.bix.toNat ∧ ¬ (f.scope = 5 ∧ barSlots g 5 = 0)
  | .lxch f | .lrot f => e.wg.w ≤ f.b.toNat
  | .callI _ | .retI _ | .ifI _ | .elseI _ | .endifI _ | .loopI _ | .endloopI _ | .breakI _ | .contI _ =>
      ∃ h, e.header = some h ∧ hdrGP h ≠ 0
  | _ => False

theorem writeRefused_iff (a : SysAccess) (priv : Bool) :
    (match a with | .readOnly | .privReadOnly => true | .privElseRO => !priv | _ => false) = true ↔
      a = .readOnly ∨ a = .privReadOnly ∨ (a = .privElseRO ∧ priv = false) := by
  cases a <;> simp

theorem barIndexBad_iff (g : Option Grid) (f : FB) : barIndexBad g f = true ↔
    barSlots g f.scope.toNat ≤ f.bix.toNat ∧ ¬ (f.scope = 5 ∧ barSlots g 5 = 0) := by
  simp only [barIndexBad, Bool.and_eq_true, decide_eq_true_eq, Bool.not_eq_true', Bool.and_eq_false_imp, beq_iff_eq,
    beq_eq_false_iff_ne, not_and, ne_eq]

theorem guarded_iff (hd : Option Word) :
    (match hd with | some h => decide (hdrGP h ≠ 0) | none => false) = true ↔ ∃ h, hd = some h ∧ hdrGP h ≠ 0 := by
  cases hd <;> simp

theorem fieldCause_iff (e : Env) (g : Option Grid) (priv : Bool) (i : Instr) :
    fieldCause e g priv i = true ↔ i.fieldsOk = false ∨ RefusedField e g (priv = false) i := by
  unfold fieldCause
  rw [Bool.or_eq_true, Bool.not_eq_true']
  refine or_congr_right ?_
  cases i
  case swr f => exact writeRefused_iff _ priv
  case tret f => exact .of_eq (Bool.not_eq_true' _)
  case lrd f => exact .of_eq (Bool.not_eq_true' _)
  case lwr f => exact .of_eq (Bool.not_eq_true' _)
  case bara f => exact barIndexBad_iff g f
  case baraw f => exact barIndexBad_iff g f
  case barw f => exact barIndexBad_iff g f
  case barinit f => exact barIndexBad_iff g f
  case lxch f => exact decide_eq_true_iff
  case lrot f => exact decide_eq_true_iff
  case callI f => exact guarded_iff _
  case retI f => exact guarded_iff _
  case ifI f => exact guarded_iff _
  case elseI f => exact guarded_iff _
  case endifI f => exact guarded_iff _
  case loopI f => exact guarded_iff _
  case endloopI f => exact guarded_iff _
  case breakI f => exact guarded_iff _
  case contI f => exact guarded_iff _
  all_goals exact iff_of_false Bool.false_ne_true not_false

theorem inRange_iff (w : Workgroup) (u : Use) : Use.inRange w u = true ↔ ¬ ((if u.file = .v then w.vregs else w.sregs) < u.reg + u.n) := by
  unfold Use.inRange
  cases u.file <;> simp

theorem rangeBad_iff (w : Workgroup) (us : List Use) :
    (!us.all (Use.inRange w)) = true ↔ ∃ u ∈ us, (if u.file = .v then w.vregs else w.sregs) < u.reg + u.n := by
  simp only [Bool.not_eq_true', List.all_eq_false, inRange_iff, not_not]

theorem hazard_iff (e : Env) (us : List Use) : (e.replay.isNone && e.wg.haz && us.any e.c.usePending) = true ↔
    e.replay = none ∧ e.wg.haz = true ∧ ∃ u ∈ us, e.c.usePending u = true := by
  simp [and_assoc]

/-- Settles O19: the five conditions are those of `wordCause`, in its order, and every instruction that is no event issues. -/
theorem wordTraps : Obligations.WordTraps := by
  intro i s e0 hi he e user slots noBar clash priv field range hazard traps hs
  obtain ⟨body, hx⟩ := exec_issues hi s
  have hclash : classBad e i = true ↔ clash := classBad_iff e i
  have hpriv : privCause e (s.privileged e0.site e0.ctx) i = true ↔ priv := privCause_iff e _ i
  have hfield : fieldCause e (s.grid e0.wg.gid) (s.privileged e0.site e0.ctx) i = true ↔ field := fieldCause_iff e _ _ i
  have hrange : (!i.uses.all (Use.inRange e.wg)) = true ↔ range := rangeBad_iff e.wg i.uses
  have hhazard : (e.replay.isNone && e.wg.haz && i.uses.any e.c.usePending) = true ↔ hazard := hazard_iff e i.uses
  have htraps : ∀ c, wordCause e (s.grid e0.wg.gid) (s.privileged e0.site e0.ctx) i = some c → traps c := fun c hc =>
    hx.trans (issue_traps he hc hs body)
  refine ⟨fun h1 => htraps _ ?_, fun n1 h2 => htraps _ ?_, fun n1 n2 h3 => htraps _ ?_, fun n1 n2 n3 h4 => htraps _ ?_,
    fun n1 n2 n3 n4 h5 => htraps _ ?_, fun n1 n2 n3 n4 n5 ha => hx.trans (issue_idle he ?_ ha body)⟩
  · exact if_pos (hclash.mpr h1)
  · rw [wordCause, if_neg (mt hclash.mp n1), if_pos (hpriv.mpr h2)]
  · rw [wordCause, if_neg (mt hclash.mp n1), if_neg (mt hpriv.mp n2), if_pos (hfield.mpr h3)]
  · rw [wordCause, if_neg (mt hclash.mp n1), if_neg (mt hpriv.mp n2), if_neg (mt hfield.mp n3), if_pos (hrange.mpr h4)]
  · rw [wordCause, if_neg (mt hclash.mp n1), if_neg (mt hpriv.mp n2), if_neg (mt hfield.mp n3), if_neg (mt hrange.mp n4),
      if_pos (hhazard.mpr h5)]
  · rw [wordCause, if_neg (mt hclash.mp n1), if_neg (mt hpriv.mp n2), if_neg (mt hfield.mp n3), if_neg (mt hrange.mp n4),
      if_neg (mt hhazard.mp n5)]

end Sys2Proof.Machine
end

section
namespace Sys2Proof.Machine

/-! What a step runs (R21, R69, R71, R89, R251). -/

/-- An answer of the machine, with the time that the step takes. -/
def afterTick : Host.Outcome State Fault Refusal → Host.Outcome State Fault Refusal
  | .next u => .next u.ticked
  | .fault f => .fault f
  | .refused x => .refused x

theorem runInstr_eq (i : Instr) (s : State) : runInstr i s = afterTick (exec i s) := by
  unfold runInstr
  cases exec i s <;> rfl

theorem step_of_agenda {s : State} {ev : Event} {rest : List Event} (h : s.agenda = ev :: rest) :
    step s = afterTick (exec ev.op { s with agenda := rest, arg := ev.arg }) := by
  simp only [step, h, runInstr_eq]

theorem step_of_issue {s : State} {r : CoachRef} {rest : List CoachRef} (ha : s.agenda = []) (hi : s.issue = r :: rest) :
    step s = runTurn (turn { s with issue := rest, cur := r }) := by
  simp only [step, ha, hi]

theorem ticked_of_none {u : State} (hd : u.untilDue = none) (ha : u.autoCores = []) :
    u.ticked = { u with tick := u.tick + 1, now := u.now + Config.elapsed u.tick } := by
  simp only [State.ticked, hd, ha, List.foldl_nil]

theorem ticked_of_due {u : State} {d : Nat} (hd : u.untilDue = some d) (ha : u.autoCores = []) :
    u.ticked =
      let t : State := { u with tick := u.tick + 1, now := u.now + min (Config.elapsed u.tick) d }
      if d ≤ Config.elapsed u.tick then t.dueNow else t := by
  simp only [State.ticked, hd, ha, List.foldl_nil]

/-- The coach `s.cur`, with environment `e`, may issue: nothing holds it up and no event of its own comes first. -/
structure MayTurn (s : State) (e : Env) : Prop where
  env : s.env s.cur = some e
  escalated : e.c.escalated = none
  saving : e.wg.saving = none
  pendTrap : e.c.pendTrap = none
  state : e.c.state = .runnable ∨ e.c.state = .trapped
  octets : s.octetsFree e.ref e.wg e.c = true
  noAsync : e.c.inHandler = true ∨ ((e.c.woken = true ∨ e.c.nextAsync = none) ∧ e.c.reconv = false)

/-! None of the conditions that end its turn early holds of such a coach. -/

theorem MayTurn.notHeld {s : State} {e : Env} (h : MayTurn s e) :
    ¬ (e.c.escalated.isSome = true ∨ (e.wg.saving.isSome = true ∧ e.c.injected = false ∧ e.c.woken = false)) := by
  simp [h.escalated, h.saving]

theorem MayTurn.noTrap {s : State} {e : Env} (h : MayTurn s e) : ¬ (e.c.pendTrap.isSome = true) := by simp [h.pendTrap]

theorem MayTurn.issues {s : State} {e : Env} (h : MayTurn s e) : ¬ (e.c.state ≠ .runnable ∧ e.c.state ≠ .trapped) := by
  have := h.state
  tauto

theorem MayTurn.free {s : State} {e : Env} (h : MayTurn s e) : ¬ (s.octetsFree e.ref e.wg e.c = false) := by simp [h.octets]

theorem MayTurn.prompt {s : State} {e : Env} (h : MayTurn s e) :
    ¬ ((!e.c.inHandler && !e.c.woken && e.c.nextAsync.isSome && e.wg.saving.isNone) = true) := by
  rcases h.noAsync with hh | ⟨hw | hn, -⟩
  · simp [hh]
  · simp [hw]
  · simp [hn]

theorem MayTurn.converged {s : State} {e : Env} (h : MayTurn s e) : ¬ ((e.c.reconv && !e.c.inHandler) = true) := by
  rcases h.noAsync with hh | ⟨-, hr⟩
  · simp [hh]
  · simp [hr]

theorem turn_replay {s : State} {e : Env} (h : MayTurn s e) {en : ReplayEntry} {i : Instr} (hr : e.replay = some en)
    (hp : parse en.word = some i) : turn s = .run i s := by
  simp only [turn, h.env, if_neg h.notHeld, if_neg h.noTrap, if_neg h.issues, if_neg h.free, if_neg h.prompt, hr, hp]

theorem turn_woken {s : State} {e : Env} (h : MayTurn s e) {i : Instr} (hr : e.replay = none) (hw : e.c.woken = true)
    (hp : e.c.wait.word.bind parse = some i) : turn s = .run i s := by
  simp only [turn, h.env, if_neg h.notHeld, if_neg h.noTrap, if_neg h.issues, if_neg h.free, if_neg h.prompt, if_neg h.converged, hr,
    if_pos hw, hp]

theorem turn_fetched {s s1 : State} {e : Env} (h : MayTurn s e) {cl : Clause} {w : Word} (hr : e.replay = none)
    (hw : e.c.woken = false) (hc : e.c.openClause = some cl) (hf : s.fetchWord s.cur e.ctx e.c.pc = (.ok w, s1)) :
    turn s = s1.reached e cl w := by
  have hw' : ¬ (e.c.woken = true) := by simp [hw]
  simp only [turn, h.env, if_neg h.notHeld, if_neg h.noTrap, if_neg h.issues, if_neg h.free, if_neg h.prompt, if_neg h.converged, hr,
    if_neg hw', hc, hf]

theorem reached_early {s : State} {e : Env} {cl : Clause} {w : Word} (hc : isControl (opcodeOf w).toNat = true)
    (hl : e.last = false) : s.reached e cl w =
      .done (s.takeTrap e.ref cILLEGAL_CLAUSE 0 0 [] (e.c.pc - BitVec.ofNat 64 (4 * (cl.next + 1))) none) := by
  simp [State.reached, hc, hl]

/-- A control word is the last of its clause. -/
theorem not_early {e : Env} {w : Word} (hl : isControl (opcodeOf w).toNat = true → e.last = true) :
    ¬ ((isControl (opcodeOf w).toNat && !e.last) = true) := by
  rw [Bool.and_eq_true, Bool.not_eq_true']
  rintro ⟨hc, hn⟩
  simp [hl hc] at hn

theorem reached_instr {s : State} {e : Env} {cl : Clause} {w : Word} {i : Instr}
    (hl : isControl (opcodeOf w).toNat = true → e.last = true) (hp : parse w = some i) : s.reached e cl w = .run i s := by
  simp only [State.reached, if_neg (not_early hl), hp]

theorem reached_none {s : State} {e : Env} {cl : Clause} {w : Word}
    (hl : isControl (opcodeOf w).toNat = true → e.last = true) (hp : parse w = none) :
    s.reached e cl w = .done (s.opcodeTrap e w) := by
  simp only [State.reached, if_neg (not_early hl), hp]

/-- Settles O58: one lemma for each branch of the turn of a coach that may issue. -/
theorem stepRunsDecoded : Obligations.StepRunsDecoded := by
  refine ⟨fun u => ⟨ticked_of_none, fun _ => ticked_of_due⟩, fun s ev rest => step_of_agenda, ?_⟩
  intro s s1 r rest e w t hag his henv hesc hsav hpend hst hoct hasync
  have h : MayTurn t e := ⟨henv, hesc, hsav, hpend, hst, hoct, hasync⟩
  have hstep : step s = runTurn (turn t) := step_of_issue hag his
  refine ⟨fun en i hr hp => ?_, fun i hr hw hp => ?_,
    fun cl hr hw hc hf => ⟨fun hl => ⟨fun i hp => ?_, fun hp => ?_⟩, fun hc' hl => ?_⟩⟩
  · rw [hstep, turn_replay h hr hp]
    exact runInstr_eq i t
  · rw [hstep, turn_woken h hr hw hp]
    exact runInstr_eq i t
  · rw [hstep, turn_fetched h hr hw hc hf, reached_instr hl hp]
    exact runInstr_eq i s1
  · rw [hstep, turn_fetched h hr hw hc hf, reached_none hl hp]
    rfl
  · rw [hstep, turn_fetched h hr hw hc hf, reached_early hc' hl]
    obtain ⟨hr', -⟩ := env_coach henv
    rw [hr']
    rfl

end Sys2Proof.Machine
end

section
namespace Sys2Proof.Machine

/-! What wakes a waiting coach (R22, R150, R155, R166, R317, R405). -/

theorem wakeFrom_of_state {s : State} {r : CoachRef} {c : Coach} {st : CoachState} (h : s.coach r = some c) (hs : c.state = st) :
    s.wakeFrom r st = s.setCoach r c.wake := by
  simp only [State.wakeFrom, h, if_pos hs]

theorem barrierRelease_next {s : State} {e : Env} {scope bix : Nat} (he : s.env (argCoach s) = some e) (hs : e.c.state = .waitBar)
    (hb : e.c.wait.bar = some (scope, bix)) (hr : s.barReady (argCoach s) e.c = true) (hc : s.barCarried scope = true) :
    exec .barrierRelease s =
      .next (finish e (s.acquire (argCoach s).slot scope (s.bar (argCoach s).slot scope bix).rclk)) := by
  show execBarrierRelease s = _
  unfold argCoach at *
  simp only [execBarrierRelease, he, hb, hs, hr, hc, and_self, if_true]

/-- A monitor entry of the coach in some site's table. -/
def registeredIn (r : CoachRef) (m : MonEntry) : Bool := m.slot == r.slot && m.k == r.k && !m.absent

theorem monitorWake_next {s : State} {c : Coach} (hc : s.coach (argCoach s) = some c) (hs : c.state = .parkedMon)
    (hf : s.sites.any (fun x => x.2.mon.any (fun m => registeredIn (argCoach s) m && m.fired)) = true) :
    exec .monitorWake s = .next (s.setCoach (argCoach s) c.wake) := by
  show execMonitorWake s = _
  unfold registeredIn at hf
  simp only [execMonitorWake, if_pos hf, wakeFrom_of_state hc hs]

theorem monitorPoll_next {s : State} {c : Coach} {n : Nat} (hc : s.coach (argCoach s) = some c) (hs : c.state = .parkedMon)
    (hp : c.wait.poll = some n) : exec .monitorPoll s = .next ((s.addWin n offMONPOLL 1).wakeFrom (argCoach s) .parkedMon) := by
  show execMonitorPoll s = _
  simp only [execMonitorPoll, hc, hs, hp, beq_self_eq_true]

theorem waitctDeadline_next {s : State} {c : Coach} {n x : Nat} {y : Word} {m : MonEntry} (hc : s.coach (argCoach s) = some c)
    (hs : c.state = .parkedMon)
    (hm : s.sites.findSome? (fun x => (x.2.mon.find? (registeredIn (argCoach s))).map (fun m => (x.1, m))) = some (n, m))
    (hk : m.kind = .cmp x y true) (hd : m.deadline ≤ (s.waferTime n).toNat) :
    exec .waitctDeadline s = .next (s.setCoach (argCoach s) c.wake) := by
  show execWaitctDeadline s = _
  unfold registeredIn at hm
  simp only [execWaitctDeadline, hm, hk, if_pos hd, wakeFrom_of_state hc hs]

/-- The earliest waiter is woken when what it waits for may hold. -/
theorem wakeEarliest_present {m : MonEntry} (h : m.absent = false) (n : Nat) (producer : Bool) (rest : List MonEntry) (s : State) :
    wakeEarliest n producer (m :: rest) s = if s.queueDue m producer = true then s.wakeQueue { slot := m.slot, k := m.k } else s := by
  simp only [wakeEarliest, h, Bool.false_eq_true, if_false]

theorem queueWake_next {s : State} {m : MonEntry} {rest : List MonEntry}
    (hm : (s.site (homeSite s.arg.pa)).mon.filter (fun m => m.pa == s.arg.pa && m.kind == .queue s.arg.ok) = m :: rest)
    (ha : m.absent = false) :
    exec .queueWake s = .next
      (let t := if s.queueDue m s.arg.ok = true then s.wakeQueue { slot := m.slot, k := m.k } else s
       if s.arg.ok = true then t.flushAll else t) := by
  show execQueueWake s = _
  simp only [execQueueWake, hm, wakeEarliest_present ha]

theorem queuePoll_next {s : State} {c : Coach} {n : Nat} (hc : s.coach (argCoach s) = some c) (hs : c.state = .parkedQueue)
    (hp : c.wait.poll = some n) : exec .queuePoll s = .next ((s.addWin n offQPOLL 1).wakeQueue (argCoach s)) := by
  show execQueuePoll s = _
  simp only [execQueuePoll, hc, hs, hp, ne_eq, not_true_eq_false, if_false]

theorem sleepExpiry_next {s : State} {c : Coach} {d : Nat} (hc : s.coach (argCoach s) = some c) (hs : c.state = .parkedMon)
    (hd : c.wait.deadline = some d) (hp : c.wait.poll = none)
    (hr : s.sites.any (fun x => x.2.mon.any (registeredIn (argCoach s))) = false)
    (ht : d ≤ (s.time (siteOfSlot (argCoach s).slot)).toNat) :
    exec .sleepExpiry s = .next (s.setCoach (argCoach s) c.wake) := by
  show execSleepExpiry s = _
  unfold registeredIn at hr
  simp only [execSleepExpiry, hc, hd, hr, hp, ht, and_self, if_true, wakeFrom_of_state hc hs]

/-- Settles O45: one lemma for each event, in the order of the claim. -/
theorem wakeEvents : Obligations.WakeEvents := by
  intro s e c n m
  exact ⟨fun scope bix => barrierRelease_next, monitorWake_next, monitorPoll_next,
    fun x y hc hs hm hk hd => waitctDeadline_next hc hs hm hk hd,
    fun rest => queueWake_next, queuePoll_next, fun d hc hs hd hp hr ht => sleepExpiry_next hc hs hd hp hr ht⟩

end Sys2Proof.Machine
end

section
namespace Sys2Proof.Machine

/-! The events of a coach (R21, R70-R73, R76, R131, R246, R250-R253, R300). -/

/-! CLAUSE_FETCH. -/

section ClauseFetch
variable {s s1 : State} {e : Env} {h : Word}

theorem clauseFetch_starts (he : s.env (argCoach s) = some e) (ha : e.atHeader = true)
    (hf : s.fetchWord (argCoach s) e.ctx e.c.pc = (.ok h, s1)) {inner : Bool} {t : State}
    (hw : s1.clauseWords (argCoach s) e.ctx e.c.pc (hdrCNT h) = (.ok inner, t)) (hb : headerBad h = false) (hi : inner = false) :
    exec .clauseFetch s = .next (t.modCoach (argCoach s) (fun c => { c with
      pc := c.pc + 4, clause := some { header := h, next := 0, guard := 0 },
      state := if c.waiting h = true then .waitFlags else c.state })) := by
  show execClauseFetch s = _
  simp only [execClauseFetch, he, ha, hf, hw, hb, hi, Bool.not_true, Bool.or_self, Bool.false_eq_true, if_false]

theorem clauseFetch_illegal (he : s.env (argCoach s) = some e) (ha : e.atHeader = true)
    (hf : s.fetchWord (argCoach s) e.ctx e.c.pc = (.ok h, s1)) {inner : Bool} {t : State}
    (hw : s1.clauseWords (argCoach s) e.ctx e.c.pc (hdrCNT h) = (.ok inner, t)) (hb : headerBad h = true ∨ inner = true) :
    exec .clauseFetch s = .next (t.takeTrap (argCoach s) cILLEGAL_CLAUSE 0 0 [] e.c.pc none) := by
  show execClauseFetch s = _
  rw [← Bool.or_eq_true] at hb
  simp only [execClauseFetch, he, ha, hf, hw, hb, Bool.not_true, Bool.false_eq_true, if_false, if_true]

theorem clauseFetch_faults (he : s.env (argCoach s) = some e) (ha : e.atHeader = true)
    (hf : s.fetchWord (argCoach s) e.ctx e.c.pc = (.ok h, s1)) {cause : Cause} {va : DWord} {t : State}
    (hw : s1.clauseWords (argCoach s) e.ctx e.c.pc (hdrCNT h) = (.error (cause, va), t)) :
    exec .clauseFetch s = .next (t.takeTrap (argCoach s) cause va 0 [] va
      (some { header := h, next := 0, guard := 0, fresh := some e.c.pc })) := by
  show execClauseFetch s = _
  simp only [execClauseFetch, he, ha, hf, hw, Bool.not_true, Bool.false_eq_true, if_false]
  rfl

end ClauseFetch

theorem clauseWaitEnd_next {s : State} {c : Coach} {cl : Clause} (hc : s.coach (argCoach s) = some c) (hs : c.state = .waitFlags)
    (hcl : c.clause = some cl) (hw : c.waiting cl.header = false) :
    exec .clauseWaitEnd s = .next (s.setCoach (argCoach s) c.wake) := by
  show execClauseWaitEnd s = _
  simp only [execClauseWaitEnd, hc, hs, hcl, hw, beq_self_eq_true, Bool.false_eq_true, if_false]

/-! Traps. -/

theorem trapTake_next {s : State} {c : Coach} {p : PendTrap} (hc : s.coach (argCoach s) = some c) (hp : c.pendTrap = some p)
    (hf : c.flights.any Flight.entry = false) :
    exec .trapTake s = .next (s.formFrame (argCoach s) p.cause p.addr p.mask p.entries p.tpc p.clause false) := by
  show execTrapTake s = _
  simp only [execTrapTake, hc, hp, hf, Bool.false_eq_true, if_false]

theorem asyncTrapTake_next {s : State} {e : Env} {c : Coach} {cause : Cause} {addr : DWord} (he : s.env (argCoach s) = some e)
    (hh : e.c.inHandler = false) (hp : e.c.pendTrap = none) (hx : e.c.escalated = none) (hs : e.wg.saving = none)
    (hw : e.c.woken = false) (hr : e.c.state ≠ .retired) (hn : e.c.nextAsync = some (cause, addr, c)) :
    exec .asyncTrapTake s = .next ((s.setCoach (argCoach s) c).asyncTrap (argCoach s) cause addr) := by
  show execAsyncTrapTake s = _
  have hr' : (e.c.state == .retired) = false := beq_eq_false_iff_ne.mpr hr
  simp only [execAsyncTrapTake, he, hh, hp, hx, hs, hw, hr', hn, Option.isSome_none, Bool.or_self, Bool.false_eq_true, if_false]

/-! Commands of system software on an escalated coach. -/

section Escalated
variable {s s1 s2 : State} {e : Env} {c : Coach} {va : DWord}

theorem resume_returns (he : s.env (argCoach s) = some e) (hx : e.c.escalated = some va) (hs : e.wg.saving = none)
    (hf : e.c.flights.any Flight.entry = false) (hl : s.reload e va = (some c, s1)) (ht : targetOk c.tpc = true) :
    exec .resume s = .next (if c.tcause = cPREEMPT_NOTICE then
      (s1.setCoach (argCoach s) c.returnFromTrap).noticeDone (argCoach s) else s1.setCoach (argCoach s) c.returnFromTrap) := by
  show execResume s = _
  simp only [execResume, he, hx, hs, hf, hl, ht, Option.isSome_none, Bool.or_self, Bool.not_true, Bool.false_eq_true, if_false]

theorem resume_escalates (he : s.env (argCoach s) = some e) (hx : e.c.escalated = some va) (hs : e.wg.saving = none)
    (hf : e.c.flights.any Flight.entry = false) (hl : s.reload e va = (some c, s1)) (ht : targetOk c.tpc = false) :
    exec .resume s = .next ((s1.setCoach (argCoach s) c).escalate (argCoach s) cBAD_TARGET 0 false true) := by
  show execResume s = _
  simp only [execResume, he, hx, hs, hf, hl, ht, Option.isSome_none, Bool.or_self, Bool.not_false, Bool.false_eq_true, if_false, if_true]

theorem reflect_enters (he : s.env (argCoach s) = some e) (hx : e.c.escalated = some va) (hs : e.wg.saving = none)
    {a : DWord} (hl : s.reload e va = (some c, s1))
    (ha : (s1.setCoach (argCoach s) c).handler e.site e.ctx c.tcause = (some a, s2)) :
    exec .reflect s = .next (s2.modCoach (argCoach s) (fun d => d.enterHandler e.wg.threads a (causeAsync c.tcause))) := by
  show execReflect s = _
  simp only [execReflect, he, hx, hs, hl, ha, Option.isSome_none, Bool.false_eq_true, if_false]

theorem reflect_kills (he : s.env (argCoach s) = some e) (hx : e.c.escalated = some va) (hs : e.wg.saving = none)
    (hl : s.reload e va = (some c, s1)) (ha : (s1.setCoach (argCoach s) c).handler e.site e.ctx c.tcause = (none, s2)) :
    exec .reflect s = .next (s2.killGrid e.wg.gid) := by
  show execReflect s = _
  simp only [execReflect, he, hx, hs, hl, ha, Option.isSome_none, Bool.false_eq_true, if_false]

theorem kill_next (he : s.env (argCoach s) = some e) (hx : e.c.escalated = some va) : exec .kill s = .next (s.killGrid e.wg.gid) := by
  show execKill s = _
  simp only [execKill, he, hx, Option.isSome_some, if_true]

end Escalated

/-! COACH_SLOT_FREE. -/

/-- The workgroup with the slot of a retired coach given back. -/
def Workgroup.freed (w : Workgroup) (k : Nat) (c : Coach) : Workgroup := w.setCoach k { c with slotIx := noSlot }

theorem coachSlotFree_next {s : State} {w : Workgroup} {c : Coach} (hw : s.wg (argCoach s).slot = some w)
    (hc : w.coach (argCoach s).k = some c) (hs : c.state = .retired) (hf : c.flags = []) (hv : w.saving = none) :
    let w1 := w.freed (argCoach s).k c
    let t := s.setWg (argCoach s).slot w1
    exec .coachSlotFree s = .next
      (if (w1.coaches.all (fun x => x.2.state == .retired && x.2.slotIx == noSlot) && !t.engineWork (argCoach s).slot) = true then
        t.retireWg (argCoach s).slot else t) := by
  have hgo : ¬ (c.state ≠ .retired ∨ (!c.flags.isEmpty) = true ∨ w.saving.isSome = true) := by simp [hs, hf, hv]
  show execCoachSlotFree s = _
  simp only [execCoachSlotFree, hw, hc, if_neg hgo]
  rfl

/-! SLICE_ISSUE_CYCLE. -/

/-- `t` differs from `s` in its workgroups alone. -/
def WgsOnly (s t : State) : Prop := t = { s with wgs := t.wgs }

theorem WgsOnly.trans {s t u : State} (h : WgsOnly s t) (g : WgsOnly t u) : WgsOnly s u := by
  unfold WgsOnly at h g ⊢
  rw [h] at g
  exact g

theorem WgsOnly.foldl {α : Type} {f : State → α → State} (hf : ∀ t a, WgsOnly t (f t a)) (l : List α) (s : State) :
    WgsOnly s (l.foldl f s) :=
  List.foldlRecOn (motive := WgsOnly s) l f rfl fun t ht a _ => ht.trans (hf t a)

theorem wgsOnly_setCoach (s : State) (r : CoachRef) (c : Coach) : WgsOnly s (s.setCoach r c) := by
  unfold State.setCoach
  split <;> rfl

theorem wgsOnly_modCoach (s : State) (r : CoachRef) (f : Coach → Coach) : WgsOnly s (s.modCoach r f) := by
  unfold State.modCoach
  split
  · rfl
  · exact wgsOnly_setCoach s r _

theorem WgsOnly.core {s t : State} (h : WgsOnly s t) (n : Nat) : t.core n = s.core n := by
  rw [h]
  rfl

theorem mem_insertBy {α : Type} {key : α → Nat} {a x : α} {l : List α} (h : x ∈ insertBy key a l) : x = a ∨ x ∈ l := by
  induction l with
  | nil => simpa [insertBy] using h
  | cons b r ih =>
    unfold insertBy at h
    split at h
    · simpa using h
    · rcases List.mem_cons.mp h with rfl | hr
      · simp
      · rcases ih hr with rfl | hr'
        · simp
        · simp [hr']

/-- Sorting adds no element. -/
theorem mem_sortBy {α : Type} {key : α → Nat} {x : α} {l : List α} (h : x ∈ sortBy key l) : x ∈ l := by
  have hall : ∀ y ∈ l.foldl (fun acc a => insertBy key a acc) [], y ∈ l :=
    List.foldlRecOn (motive := fun acc => ∀ y ∈ acc, y ∈ l) l _ (by simp) fun acc hacc a ha y hy =>
      (mem_insertBy hy).elim (fun he => he ▸ ha) (hacc y)
  exact hall x h

theorem mem_chooseOrder {x : CoachRef × Workgroup × Coach} {l : List (CoachRef × Workgroup × Coach)} (h : x ∈ chooseOrder l) :
    x ∈ l :=
  mem_sortBy (mem_sortBy (mem_sortBy h))

/-- The coaches of a slice belong to its core. -/
theorem onSlice_core {s : State} {core sl : Nat} {x : CoachRef × Workgroup × Coach} (h : x ∈ s.onSlice core sl) :
    coreOfSlot x.1.slot = core := by
  obtain ⟨w, hw, hx⟩ := List.mem_flatMap.mp h
  obtain ⟨c, -, rfl⟩ := List.mem_map.mp hx
  exact beq_iff_eq.mp (List.mem_filter.mp hw).2

/-- A slice's cycle, when its coaches have counted it: the chosen coaches come last in the queue of turns. -/
theorem cycle_taken {s t : State} {core n now : Nat} {x : Core} (h : WgsOnly (s.setCore core x) t) (hx : Table.getD x.cycles n 0 = now)
    {ready : List (CoachRef × Workgroup × Coach)} (hr : ∀ y ∈ ready, coreOfSlot y.1.slot = core) (late : Bool) (missing : BitVec 8) :
    let u : State := { t with issue := t.issue ++ ready.map (fun y => y.1), late := late, missing := missing }
    u.issue = s.issue ++ ready.map (fun y => y.1) ∧ (∀ y ∈ ready.map (fun y => y.1), coreOfSlot y.slot = core) ∧
      Table.getD (u.core core).cycles n 0 = now ∧ u.mem = s.mem := by
  refine ⟨?_, fun y hy => ?_, ?_, ?_⟩
  · show t.issue ++ _ = _
    rw [h]
    rfl
  · obtain ⟨z, hz, rfl⟩ := List.mem_map.mp hy
    exact hr z hz
  · show Table.getD (t.core core).cycles n 0 = now
    rw [h.core, core_setCore_same, hx]
  · show t.mem = s.mem
    rw [h]
    rfl

theorem sliceIssueCycle_next {s : State} (hn : s.arg.n < 6) (hcore : s.arg.core < 2048)
    (hcyc : Table.getD (s.core s.arg.core).cycles s.arg.n 0 ≠ s.clk (siteOfCore s.arg.core) + 1)
    (hgrp : Table.getD (s.core s.arg.core).cycles (8 + s.arg.n) 0 / 16 ≠ s.clk (siteOfCore s.arg.core) / 8)
    (hrate : 0 < s.sliceRate s.arg.core s.arg.n) :
    ∃ t go, exec .sliceIssueCycle s = .next t ∧ t.issue = s.issue ++ go ∧ (∀ x ∈ go, coreOfSlot x.slot = s.arg.core) ∧
      Table.getD (t.core s.arg.core).cycles s.arg.n 0 = s.clk (siteOfCore s.arg.core) + 1 ∧ t.mem = s.mem := by
  have hgo : ¬ (s.arg.n ≥ 6 ∨ s.arg.core ≥ 2048 ∨
      Table.getD (s.core s.arg.core).cycles s.arg.n 0 = s.clk (siteOfCore s.arg.core) + 1 ∨
      (if Table.getD (s.core s.arg.core).cycles (8 + s.arg.n) 0 / 16 = s.clk (siteOfCore s.arg.core) / 8 then
        Table.getD (s.core s.arg.core).cycles (8 + s.arg.n) 0 % 16 else 0) ≥ s.sliceRate s.arg.core s.arg.n) := by
    rw [if_neg hgrp]
    rintro (h | h | h | h)
    · omega
    · omega
    · exact hcyc h
    · omega
  refine ⟨_, _, congrArg Host.Outcome.next (if_neg hgo), cycle_taken (WgsOnly.foldl (fun t x => wgsOnly_modCoach t _ _) _ _) ?_ ?_ _ _⟩
  · simp only [Table.getD]
    rw [find_insert_ne _ _ (by omega), find_insert_ne _ _ (by omega), find_insert_same]
    rfl
  · exact fun y hy => onSlice_core (List.mem_of_mem_filter (mem_chooseOrder hy))

/-! OPERATION_COMPLETE. -/

theorem operationComplete_performed {s : State} {c : Coach} {f : Flight} (hc : s.coach (argCoach s) = some c)
    (hf : c.flights.find? (fun f => f.id == s.arg.id) = some f) (hk : f.kind = .performed) :
    exec .operationComplete s = .next (s.completeFlight (argCoach s) f.id) := by
  show execOperationComplete s = _
  simp only [execOperationComplete, hc, hf, hk]

/-- The entry of the only operation in flight joins an empty queue. -/
theorem inject_only {c : Coach} (hs : c.state = .runnable) (hq : c.rq = []) (en : ReplayEntry) :
    (({ c with flights := [] } : Coach).inject [en]).letGo = { c with flights := [], rq := [en] } := by
  simp [Coach.inject, Coach.letGo, hs, hq]

theorem operationComplete_late {s : State} {c : Coach} {f : Flight} {en : ReplayEntry} (hc : s.coach (argCoach s) = some c)
    (hf : c.flights = [f]) (hid : f.id = s.arg.id) (hk : f.kind = .late) (hen : f.rep = some en) (hq : c.rq = [])
    (hs : c.state = .runnable) : exec .operationComplete s = .next (s.setCoach (argCoach s) { c with flights := [], rq := [en] }) := by
  have hfind : c.flights.find? (fun f => f.id == s.arg.id) = some f := by simp [hf, hid]
  have hold : c.olderBack f.id = false := by simp [Coach.olderBack, hf]
  have hgone : c.flights.filter (fun g => g.id != f.id) = [] := by simp [hf]
  have hempty : c.rq.isEmpty = true := by simp [hq]
  show execOperationComplete s = _
  simp only [execOperationComplete, hc, hfind, hk, hold, hempty, hgone, hen, Bool.and_false, Bool.not_false, Bool.and_self,
    if_true, Option.toList_some]
  rw [inject_only hs hq]

/-- Settles O44: one lemma for each event and outcome, in the order of the claim. -/
theorem coachEvents : Obligations.CoachEvents := by
  intro s s1 s2 e w c
  refine ⟨fun h he ha hf => ⟨fun inner t hw => ⟨clauseFetch_starts he ha hf hw, clauseFetch_illegal he ha hf hw⟩,
      fun cause va t hw => clauseFetch_faults he ha hf hw⟩,
    fun cl => clauseWaitEnd_next, fun p => trapTake_next, fun cause addr => asyncTrapTake_next,
    fun va he hx hs => ⟨fun hf hl => ⟨resume_returns he hx hs hf hl, resume_escalates he hx hs hf hl⟩,
      fun a => reflect_enters he hx hs, reflect_kills he hx hs⟩,
    fun va => kill_next, coachSlotFree_next, sliceIssueCycle_next, fun f => operationComplete_performed,
    fun f en => operationComplete_late⟩

end Sys2Proof.Machine
end

section
namespace Sys2Proof.Machine

/-! Lanewise instructions of which the claim gives the result in the active threads alone (R55, R99). -/

theorem Runs.fieldRules {i : Instr} {s : State} {e : Env} (h : Runs i s e) : i.fieldRules = true := by
  by_contra hn
  have hbad : i.fieldsOk = false := by simp [Instr.fieldsOk, hn]
  have := h.cause
  simp only [wordCause, fieldCause, hbad] at this
  split at this
  · cases this
  · split at this
    · cases this
    · cases this

theorem dest_settled {e : Env} {f : RRR} {i : Instr} (hs : Settled e i) {u : Bool} {n : Nat}
    (hu : i.uses.head? = some (.write (fileOf u) f.d n)) : DestSettled e u f.d.toNat n :=
  destSettled_of_settled hs ⟨_, List.mem_of_head? hu, rfl, rfl, le_rfl, rfl⟩

/-- An instruction that is accepted only with U=0 writes v registers (R82). -/
theorem dest_settled_threads {i : Instr} {s : State} {e : Env} {f : RRR} (h : Runs i s e) (hs : Settled e i) {n : Nat} {ok : Bool}
    (hr : i.fieldRules = (!f.u && ok)) (hu : i.uses.head? = some (.write (fileOf f.u) f.d n)) : DestSettled e false f.d.toNat n := by
  have hok := h.fieldRules
  rw [hr, Bool.and_eq_true, Bool.not_eq_true'] at hok
  exact dest_settled hs (hok.1 ▸ hu)

/-- Only what a unit computes for itself counts. -/
theorem lanewise_congr {e : Env} {u : Bool} {f g : Env → Nat → Nat × Word} (h : ∀ t ∈ e.units u, f e t = g e t) (d n : Nat) (s : State) :
    lanewise u d n f e s = lanewise u d n g e s := by
  have hmap : (e.units u).map (fun t => (t, f e t)) = (e.units u).map (fun t => (t, g e t)) :=
    List.map_congr_left fun t ht => by rw [h t ht]
  simp only [lanewise, hmap]

/-- An instruction whose body is lanewise in each environment does what the lanewise operation of its results does. -/
theorem exec_of_body {i : Instr} {u : Bool} {d n : Nat} {body : Env → State → State} {f : Env → Env → Nat → Nat × Word}
    {s : State} {e : Env} (h : Runs i s e) (hx : ∀ s, exec i s = issue i s body) (hb : ∀ e s, body e s = lanewise u d n (f e) e s)
    {g : Env → Nat → Nat × Word} (hv : ∀ t ∈ e.units u, f e e t = g e t) : exec i s = issue i s (lanewise u d n g) := by
  rw [hx, issue_runs h, issue_runs h, hb, lanewise_congr hv]

/-- Such an instruction gives, with its flags, what its body computes in the units. -/
theorem givesF_of_body {i : Instr} {u : Bool} {d n : Nat} {body : Env → State → State} {f : Env → Env → Nat → Nat × Word}
    {val : Env → Nat → Nat × Word} (hx : ∀ s, exec i s = issue i s body)
    (hd : ∀ s e, Runs i s e → Settled e i → DestSettled e u d n) (hb : ∀ e s, body e s = lanewise u d n (f e) e s)
    (hv : ∀ e, ∀ t ∈ e.units u, f e e t = val e t) : GivesF i u d n val := by
  intro s e h hs
  rw [ComputesF, exec_of_body h hx hb (hv e)]
  exact lanewise_spec h u d n val (hd s e h hs)

/-- The same for a body that raises no flag. -/
theorem gives_of_body {i : Instr} {u : Bool} {d n : Nat} {body : Env → State → State} {f : Env → Env → Nat → Nat × Word}
    {val : Env → Nat → Nat} (hx : ∀ s, exec i s = issue i s body)
    (hd : ∀ s e, Runs i s e → Settled e i → DestSettled e u d n) (hb : ∀ e s, body e s = lanewise u d n (f e) e s)
    (hv : ∀ e, ∀ t ∈ e.units u, f e e t = clean (val e t)) : Gives i u d n val := by
  intro s e h hs
  rw [Computes, exec_of_body h hx hb (g := fun e t => clean (val e t)) (hv e)]
  exact lanewise_clean h u d n val (hd s e h hs)

/-- An active thread is one of the coach's threads. -/
theorem threads_lt {e : Env} {t : Nat} (h : t ∈ e.threads) : t < e.wg.threads := by
  simp only [Env.threads, threadsOf, List.mem_filter, List.mem_range] at h
  exact h.1

theorem getD_map_range {α : Type} (g : Nat → α) (d : α) (n j : Nat) : ((List.range n).map g).getD j d = if j < n then g j else d := by
  split
  · next h => simp [h]
  · next h => simp [h]

/-- Settles O11: both instructions build the levels of one tree, of which CRED gives the last and CSCAN folds the covering nodes. -/
theorem reductionResults : Obligations.ReductionResults := by
  intro f
  constructor
  · refine givesF_of_body (fun s => (rfl : execCred f s = _)) (fun _ _ h hs => dest_settled_threads h hs rfl rfl) (fun _ _ => rfl) (fun e t _ => ?_)
    cases ((treeLevels 9 f.m.toNat (positions f e)).getLastD []).headD none <;> rfl
  · refine givesF_of_body (fun s => (rfl : execCscan f s = _)) (fun _ _ h hs => dest_settled_threads h hs rfl rfl) (fun _ _ => rfl) (fun e t _ => ?_)
    cases scanAt f.m.toNat t (treeLevels 9 f.m.toNat (positions f e)) <;> rfl

/-- A block of the positions' side records (R115). -/
theorem bscale_gives (f : RRR) : Gives (.bscale f) false f.d.toNat 1 (fun e t =>
    let val (p : Nat) : Fv := if e.active.getLsbD p then Fv.ofBits fp32 (e.opA f 1 p) else Fv.zero
    let r := bscale (BlkFmt.of f.m.toNat) ((upFrom (t / 32 * 32) 32).map val)
    r.1 + r.2 * 256) := by
  refine gives_of_body (fun s => (rfl : execBscale f s = _)) (fun _ _ h hs => dest_settled_threads h hs (Bool.and_assoc _ _ _) rfl) (fun _ _ => rfl) (fun e t ht => ?_)
  have hblock : t / 32 < e.wg.threads / 32 + 1 := Nat.lt_succ_of_le (Nat.div_le_div_right (threads_lt ht).le)
  simp only [getD_map_range, if_pos hblock, Nat.mul_comm 32 (t / 32)]

/-- Every thread of the coach has its code in the list of all codes; a position beyond them has none (R116). -/
theorem benc_gives (f : RRR) : GivesF (.benc f) false f.d.toNat 1 (fun e t =>
    let k := BlkFmt.of f.m.toNat
    let per := 32 / k.bits
    ((List.range per).foldl (fun x j => x + (if t / per * per + j < e.wg.threads then
      (bencCode f e (t / per * per + j)).1 else 0) * 2 ^ (k.bits * j)) 0,
     (bencCode f e t).2)) := by
  refine givesF_of_body (fun s => (rfl : execBenc f s = _)) (fun _ _ h hs => dest_settled_threads h hs (Bool.and_assoc _ _ _) rfl) (fun _ _ => rfl) (fun e t ht => ?_)
  simp only [getD_map_range, if_pos (threads_lt ht), apply_ite Prod.fst]

/-- The scale and the zero of a side record are its lowest two bytes (R117). -/
theorem bdec_gives (f : RRR) : GivesF (.bdec f) false f.d.toNat 1 (fun e t =>
    let k := BlkFmt.of f.m.toNat
    let b := e.opB f 1 1 t
    let r := fp32.roundF .rne false
      (decodeElem k (b % 256) (b / 256 % 256) (e.opA f 1 t / 2 ^ (k.bits * (t % (32 / k.bits))) % 2 ^ k.bits))
    (r.1, r.2 ||| if illFormed k (b % 256) (b / 256 % 256) then flFMT else 0)) := by
  refine givesF_of_body (fun s => (rfl : execBdec f s = _)) (fun _ _ h hs => dest_settled_threads h hs (Bool.and_assoc _ _ _) rfl) (fun _ _ => rfl) (fun e t _ => ?_)
  simp only [bits, flagIf, pow_zero, Nat.div_one]
  rfl

/-- Settles O9: the three bodies are lanewise in lists over the positions of the coach, of which each thread reads its own. -/
theorem blockScaleResults : Obligations.BlockScaleResults :=
  fun f => ⟨bscale_gives f, benc_gives f, bdec_gives f⟩

end Sys2Proof.Machine
end

section
namespace Sys2Proof.Machine

/-! Transcendental instructions and their special inputs (R66, R67). -/

/-- A NaN without an invalid operation sets no flag (R54). -/
theorem deliver_nan (fmt : FloatFmt) (mode : RMode) (z : Bool) : fmt.deliver mode z (.ok .nan) = (fmt.nan, 0) :=
  Prod.ext rfl (by decide : (flNone ||| flagIf false flNV : Word) = 0)

/-- An invalid operation gives the default NaN and sets NV (R54). -/
theorem deliver_bad (fmt : FloatFmt) (mode : RMode) (z : Bool) : fmt.deliver mode z .bad = (fmt.nan, flNV) :=
  Prod.ext rfl (by decide : (flNone ||| flagIf true flNV : Word) = flNV)

/-- An instruction of the table computes its function of operand A. -/
theorem tfun_gives {i : Instr} {f : RRR} {g : Tfun} {mode : RMode} (hx : ∀ s, exec i s = issue i s (opDA f 1 (Tfun.run g mode f.ftz f.m)))
    (hu : i.uses.head? = some (.write (fileOf f.u) f.d)) :
    GivesF i f.u f.d.toNat 1 (fun e t => Tfun.run g mode f.ftz f.m (e.opA f 1 t)) :=
  givesF_of_body hx (fun _ _ _ hs => dest_settled hs hu) (fun _ _ => rfl) fun _ _ _ => rfl

theorem fsincos_gives (f : RRR) : GivesF (.fsincos f) f.u f.d.toNat 2 (fun e t =>
    let x := Tfun.run .sin .rne f.ftz f.m (e.opA f 1 t)
    let y := Tfun.run .cos .rne f.ftz f.m (e.opA f 1 t)
    (x.1 + y.1 * 2 ^ 32, x.2 ||| y.2)) :=
  givesF_of_body (fun s => (rfl : execFsincos f s = _)) (fun _ _ _ hs => dest_settled hs rfl) (fun _ _ => rfl) fun _ _ _ => rfl

/-! Reading an FP32 operand (R43, R53). -/

/-- The value of an FP32 bit pattern by its sign, exponent and fraction. -/
theorem ofBits_fp32 (b : Nat) : Fv.ofBits fp32 b =
    if bits b 23 8 = 255 then (if bits b 0 23 = 0 then .inf (bitN b 31) else .nan)
    else if bits b 23 8 = 0 then .num (bitN b 31) (bits b 0 23) (-149)
    else .num (bitN b 31) (bits b 0 23 + 2 ^ 23) (-149 + (bits b 23 8 - 1 : Nat)) := by
  show (if (decide (bits b 23 8 = 255) && true) = true then _ else if (_ && false && _) = true then _ else _) = _
  by_cases h : bits b 23 8 = 255
  · simp only [h, decide_true, Bool.and_true, if_true]
    rfl
  · simp only [h, decide_false, Bool.false_and, Bool.and_false, Bool.false_eq_true, if_false]
    rfl

theorem ofBitsFtz_nan (z : Bool) {a : Nat} (h : 0x7F800000 < a % 2 ^ 31) : Fv.ofBitsFtz fp32 z a = .nan := by
  have hex : bits a 23 8 = 255 := by simp only [bits]; omega
  have hfr : bits a 0 23 ≠ 0 := by simp only [bits]; omega
  rw [Fv.ofBitsFtz, ofBits_fp32, if_pos hex, if_neg hfr]

/-- The negative numbers, of which FTZ reads the subnormal ones as zero (R53). -/
theorem ofBitsFtz_negative {z : Bool} {a : Nat} (hlo : (if z then 0x80800000 else 0x80000001) ≤ a) (hhi : a < 0xFF800000) :
    ∃ m e, m ≠ 0 ∧ Fv.ofBitsFtz fp32 z a = .num true m e := by
  have hneg : bitN a 31 = true := by
    simp only [bitN, beq_iff_eq]
    cases z <;> simp only [Bool.false_eq_true, if_false, if_true] at hlo <;> omega
  have hex : bits a 23 8 ≠ 255 := by
    simp only [bits]
    cases z <;> simp only [Bool.false_eq_true, if_false, if_true] at hlo <;> omega
  rw [Fv.ofBitsFtz, ofBits_fp32, if_neg hex, hneg]
  by_cases hsub : bits a 23 8 = 0
  · cases z with
    | false =>
      refine ⟨bits a 0 23, _, ?_, by rw [if_pos hsub]; rfl⟩
      simp only [bits, Bool.false_eq_true, if_false] at hsub hlo ⊢
      omega
    | true =>
      simp only [bits, if_true] at hsub hlo
      omega
  · have hnormal : ¬ bits a 0 23 + 2 ^ 23 < 2 ^ fp32.fracBits := Nat.not_lt.mpr (Nat.le_add_left _ _)
    exact ⟨bits a 0 23 + 2 ^ 23, -149 + (bits a 23 8 - 1 : Nat), by simp, by simp only [if_neg hsub, hnormal, decide_false, Bool.and_false, Bool.false_eq_true, if_false]⟩

theorem ofBitsFtz_inf (z n : Bool) : Fv.ofBitsFtz fp32 z (if n then 0xFF800000 else 0x7F800000) = .inf n := by
  cases z <;> cases n <;> rfl

theorem ofBitsFtz_zero (z n : Bool) : Fv.ofBitsFtz fp32 z (if n then 0x80000000 else 0) = .num n 0 (-149) := by
  cases z <;> cases n <;> rfl

/-! What a special input gives. -/

section Special
variable {g : Tfun} {mode : RMode} {z : Bool} {m3 : BitVec 3}

theorem run_of_special {a : Nat} {x : Fv} {r : FRes} (hx : Fv.ofBitsFtz fp32 z a = x) (hr : g.special x = some r) :
    Tfun.run g mode z m3 a = fp32.deliver mode z r := by
  simp only [Tfun.run, hx, hr]

theorem run_nan {a : Nat} (h : 0x7F800000 < a % 2 ^ 31) : Tfun.run g mode z m3 a = (0x7FC00000, 0) :=
  (run_of_special (ofBitsFtz_nan z h) rfl).trans (deliver_nan fp32 mode z)

/-- The logarithms and the reciprocal root of a negative number are invalid. -/
theorem run_negative (hg : g ∈ [Tfun.log2, .ln, .rsq]) {a : Nat} (hlo : (if z then 0x80800000 else 0x80000001) ≤ a) (hhi : a < 0xFF800000) :
    Tfun.run g mode z m3 a = (0x7FC00000, flNV) := by
  obtain ⟨m, e, hm, hx⟩ := ofBitsFtz_negative hlo hhi
  refine (run_of_special hx ?_).trans (deliver_bad fp32 mode z)
  simp only [List.mem_cons, List.not_mem_nil, or_false] at hg
  obtain rfl | rfl | rfl := hg <;> simp only [Tfun.special, if_neg hm, if_true]

theorem run_inf (n : Bool) {r : FRes} (hr : g.special (.inf n) = some r) :
    Tfun.run g mode z m3 (if n then 0xFF800000 else 0x7F800000) = fp32.deliver mode z r :=
  run_of_special (ofBitsFtz_inf z n) hr

theorem run_zero (n : Bool) {r : FRes} (hr : g.special (.num n 0 (-149)) = some r) :
    Tfun.run g mode z m3 (if n then 0x80000000 else 0) = fp32.deliver mode z r :=
  run_of_special (ofBitsFtz_zero z n) hr

end Special

/-! The results of the table, which every mode delivers exactly. -/

theorem deliver_zero (mode : RMode) (z n : Bool) (e : Int) : fp32.deliver mode z (.ok (.num n 0 e)) = (if n then 0x80000000 else 0, 0) := by
  have hzero : fp32.deliver mode z (.ok (.num n 0 e)) = (fp32.packFin n 0 0, flNone ||| flagIf false flNV) := rfl
  rw [hzero]
  cases n <;> rfl

theorem deliver_inf (mode : RMode) (z n : Bool) : fp32.deliver mode z (.ok (.inf n)) = (if n then 0xFF800000 else 0x7F800000, 0) := by
  cases mode <;> cases z <;> cases n <;> rfl

theorem deliver_one (mode : RMode) (z n : Bool) : fp32.deliver mode z (.ok (.num n 1 0)) = (if n then 0xBF800000 else 0x3F800000, 0) := by
  cases mode <;> cases z <;> cases n <;> rfl

theorem deliver_half (mode : RMode) (z : Bool) : fp32.deliver mode z (.ok (Fv.pow2 (-1))) = (0x3F000000, 0) := by
  cases mode <;> cases z <;> rfl

/-! The table, function by function, in any mode. -/

section Table
variable (mode : RMode) (z : Bool) (m3 : BitVec 3)

theorem run_inf_invalid {g : Tfun} {n : Bool} (h : g.special (.inf n) = some .bad) :
    Tfun.run g mode z m3 (if n then 0xFF800000 else 0x7F800000) = (0x7FC00000, flNV) :=
  (run_inf n h).trans (deliver_bad fp32 mode z)

theorem run_inf_inf {g : Tfun} {n m : Bool} (h : g.special (.inf n) = some (.ok (.inf m))) :
    Tfun.run g mode z m3 (if n then 0xFF800000 else 0x7F800000) = (if m then 0xFF800000 else 0x7F800000, 0) :=
  (run_inf n h).trans (deliver_inf mode z m)

theorem run_inf_zero {g : Tfun} {n m : Bool} (h : g.special (.inf n) = some (.ok (.num m 0 0))) :
    Tfun.run g mode z m3 (if n then 0xFF800000 else 0x7F800000) = (if m then 0x80000000 else 0, 0) :=
  (run_inf n h).trans (deliver_zero mode z m 0)

theorem run_inf_one {g : Tfun} {n m : Bool} (h : g.special (.inf n) = some (.ok (.num m 1 0))) :
    Tfun.run g mode z m3 (if n then 0xFF800000 else 0x7F800000) = (if m then 0xBF800000 else 0x3F800000, 0) :=
  (run_inf n h).trans (deliver_one mode z m)

theorem run_zero_zero {g : Tfun} {n : Bool} (h : g.special (.num n 0 (-149)) = some (.ok (.num n 0 (-149)))) :
    Tfun.run g mode z m3 (if n then 0x80000000 else 0) = (if n then 0x80000000 else 0, 0) :=
  (run_zero n h).trans (deliver_zero mode z n _)

theorem run_zero_inf {g : Tfun} {n m : Bool} (h : g.special (.num n 0 (-149)) = some (.ok (.inf m))) :
    Tfun.run g mode z m3 (if n then 0x80000000 else 0) = (if m then 0xFF800000 else 0x7F800000, 0) :=
  (run_zero n h).trans (deliver_inf mode z m)

theorem run_zero_one {g : Tfun} {n : Bool} (h : g.special (.num n 0 (-149)) = some (.ok (.num false 1 0))) :
    Tfun.run g mode z m3 (if n then 0x80000000 else 0) = (0x3F800000, 0) :=
  (run_zero n h).trans (deliver_one mode z false)

theorem run_sigm_zero (n : Bool) : Tfun.run .sigm mode z m3 (if n then 0x80000000 else 0) = (0x3F000000, 0) :=
  (run_zero n rfl).trans (deliver_half mode z)

end Table

/-- Settles O7: each instruction is lanewise in its function, and each special input of the table has the result that every mode delivers. -/
theorem transcendentalResults : Obligations.TranscendentalResults := by
  refine ⟨fun f => ⟨tfun_gives (fun s => (rfl : execFrcp f s = _)) rfl, tfun_gives (fun s => (rfl : execFrsq f s = _)) rfl,
    tfun_gives (fun s => (rfl : execFsin f s = _)) rfl, tfun_gives (fun s => (rfl : execFcos f s = _)) rfl,
    tfun_gives (fun s => (rfl : execFexp2 f s = _)) rfl, tfun_gives (fun s => (rfl : execFlog2 f s = _)) rfl,
    tfun_gives (fun s => (rfl : execFexp f s = _)) rfl, tfun_gives (fun s => (rfl : execFln f s = _)) rfl,
    tfun_gives (fun s => (rfl : execFtanh f s = _)) rfl, tfun_gives (fun s => (rfl : execFsigm f s = _)) rfl, fsincos_gives f⟩,
    fun mode z m3 => ?_⟩
  have hsincos : ∀ g ∈ [Tfun.sin, .cos], ∀ n, g.special (.inf n) = some .bad := by decide
  have hone : ∀ g ∈ [Tfun.cos, .exp2, .exp], ∀ n, g.special (.num n 0 (-149)) = some (.ok (.num false 1 0)) := by decide
  have hexp : ∀ g ∈ [Tfun.exp2, .exp], g.special (.inf false) = some (.ok (.inf false)) ∧ g.special (.inf true) = some (.ok (.num false 0 0)) := by
    decide
  have hlog : ∀ g ∈ [Tfun.log2, .ln], (∀ n, g.special (.num n 0 (-149)) = some (.ok (.inf true))) ∧
      g.special (.inf false) = some (.ok (.inf false)) ∧ g.special (.inf true) = some .bad := by decide
  exact ⟨fun _ _ _ _ h => run_nan h, fun _ hg _ hlo hhi => run_negative hg hlo hhi,
    run_zero_zero mode z m3 (n := false) rfl, run_zero_zero mode z m3 (n := true) rfl,
    fun g hg => ⟨run_inf_invalid mode z m3 (hsincos g hg false), run_inf_invalid mode z m3 (hsincos g hg true)⟩,
    fun g hg => ⟨run_zero_one mode z m3 (hone g hg false), run_zero_one mode z m3 (hone g hg true)⟩,
    fun g hg => ⟨run_inf_inf mode z m3 (hexp g hg).1, run_inf_zero mode z m3 (hexp g hg).2⟩,
    fun g hg =>
      have ⟨hzero, hpos, hneg⟩ := hlog g hg
      ⟨run_zero_inf mode z m3 (hzero false), run_zero_inf mode z m3 (hzero true), run_inf_inf mode z m3 hpos, run_inf_invalid mode z m3 hneg⟩,
    run_zero_inf mode z m3 (n := false) (m := false) rfl, run_zero_inf mode z m3 (n := true) (m := true) rfl,
    run_inf_zero mode z m3 (n := false) (m := false) rfl, run_inf_zero mode z m3 (n := true) (m := true) rfl,
    run_zero_inf mode z m3 (n := false) (m := false) rfl, run_zero_inf mode z m3 (n := true) (m := true) rfl,
    run_inf_zero mode z m3 (n := false) (m := false) rfl, run_inf_invalid mode z m3 (n := true) rfl,
    run_zero_zero mode z m3 (n := false) rfl, run_zero_zero mode z m3 (n := true) rfl,
    run_inf_one mode z m3 (n := false) (m := false) rfl, run_inf_one mode z m3 (n := true) (m := true) rfl,
    by simpa using And.intro (run_sigm_zero mode z m3 false) (run_sigm_zero mode z m3 true),
    run_inf_one mode z m3 (n := false) (m := false) rfl, run_inf_zero mode z m3 (n := true) (m := false) rfl⟩

end Sys2Proof.Machine
end

section
namespace Sys2Proof.Machine

/-! Overflow (R52), NaN operands and invalid operations (R54), and the arithmetic status word (R55). -/

/-- What the formats of the arithmetic instructions share: the largest finite number has a significand of ones, above the smallest
normal number (R43). -/
structure FloatFmt.Full (fmt : FloatFmt) : Prop where
  p : fmt.p = fmt.fracBits + 1
  maxM : fmt.maxM = 2 ^ fmt.p - 1
  emin : fmt.emin ≤ fmt.fracBits + fmt.maxE

theorem FloatFmt.Full.of_mem {fmt : FloatFmt} (h : fmt ∈ [fp32, fp64, fp16, bf16]) : fmt.Full := by
  simp only [List.mem_cons, List.not_mem_nil, or_false] at h
  obtain rfl | rfl | rfl | rfl := h <;> exact ⟨rfl, by decide, by decide⟩

section Round
variable {fmt : FloatFmt} (h : fmt.Full)
include h

theorem FloatFmt.Full.maxM_ne_zero : fmt.maxM ≠ 0 := by
  have : 0 < 2 ^ fmt.fracBits := Nat.two_pow_pos _
  rw [h.maxM, h.p, pow_succ]
  omega

theorem FloatFmt.Full.log2_maxM : Nat.log2 fmt.maxM = fmt.fracBits := by
  have : 0 < 2 ^ fmt.fracBits := Nat.two_pow_pos _
  rw [Nat.log2_eq_iff h.maxM_ne_zero, h.maxM, h.p, pow_succ]
  omega

theorem FloatFmt.Full.lead_max : lead fmt.maxM fmt.maxE = fmt.fracBits + fmt.maxE := by
  rw [lead, h.log2_maxM]

theorem FloatFmt.Full.ulpExp_max : fmt.ulpExp fmt.maxM fmt.maxE = fmt.maxE := by
  rw [FloatFmt.ulpExp, h.lead_max, max_eq_left h.emin]
  omega

/-- The largest finite number is rounded to itself. -/
theorem FloatFmt.Full.roundNum_max (m : RMode) (z n : Bool) : (fmt.roundNum m z n fmt.maxM fmt.maxE).2 = 0 := by
  have hunits : unitsOf fmt.maxM fmt.maxE fmt.maxE = (fmt.maxM, 0, 1) := by simp [unitsOf]
  have hround : roundsUp m n fmt.maxM 0 1 = false := by simp [roundsUp]
  have hover : fmt.over fmt.maxM fmt.maxE = false := by simp [FloatFmt.over]
  simp only [FloatFmt.roundNum, if_neg h.maxM_ne_zero, h.ulpExp_max, hunits, hround, hover, Bool.false_eq_true, if_false, apply_ite Prod.snd, ite_self]
  rfl

omit h in
/-- A magnitude counted in units in its last place has as many units as the leading bit says. -/
theorem units_ge {x : Nat} {k : Int} {p : Nat} (hx : x ≠ 0) : 2 ^ p ≤ (unitsOf x k (lead x k - p)).1 := by
  have hlog : 2 ^ Nat.log2 x ≤ x := Nat.log2_self_le hx
  have hlead : lead x k = Nat.log2 x + k := rfl
  generalize lead x k = l at hlead ⊢
  rw [unitsOf]
  split
  · calc 2 ^ p = 2 ^ Nat.log2 x * 2 ^ (k - (l - p)).toNat := by rw [← pow_add]; congr 1; omega
      _ ≤ x * 2 ^ (k - (l - p)).toNat := Nat.mul_le_mul_right _ hlog
  · refine (Nat.le_div_iff_mul_le (Nat.two_pow_pos _)).mpr ?_
    calc 2 ^ p * 2 ^ (l - p - k).toNat = 2 ^ Nat.log2 x := by rw [← pow_add]; congr 1; omega
      _ ≤ x := hlog

/-- Units above the last place of the largest number are more than the format holds. -/
theorem FloatFmt.Full.over_of_lt {t : Nat} {q : Int} (ht : 2 ^ fmt.fracBits ≤ t) (hq : fmt.maxE < q) : fmt.over t q = true := by
  obtain ⟨d, hd⟩ : ∃ d, (q - fmt.maxE).toNat = d + 1 := ⟨(q - fmt.maxE).toNat - 1, by omega⟩
  have hpos : 0 < 2 ^ fmt.fracBits := Nat.two_pow_pos _
  have hmax : fmt.maxM < t * 2 ^ (d + 1) :=
    calc fmt.maxM < 2 ^ fmt.fracBits * 2 := by rw [h.maxM, h.p, pow_succ]; omega
      _ ≤ t * 2 ^ (d + 1) := Nat.mul_le_mul ht (Nat.le_self_pow (by omega) 2)
  rw [FloatFmt.over, if_pos hq.le, hd]
  exact decide_eq_true hmax

/-- A number whose leading bit lies above the largest number's overflows. -/
theorem FloatFmt.Full.roundNum_overflow (m : RMode) (z n : Bool) {x : Nat} {k : Int} (hx : x ≠ 0)
    (hlead : lead fmt.maxM fmt.maxE < lead x k) : (fmt.roundNum m z n x k).2 = flOF := by
  rw [h.lead_max] at hlead
  have hulp : fmt.ulpExp x k = lead x k - fmt.fracBits := by
    rw [FloatFmt.ulpExp, max_eq_left (h.emin.trans hlead.le)]
  have hover (t : Nat) (ht : (unitsOf x k (lead x k - fmt.fracBits)).1 ≤ t) : fmt.over t (lead x k - fmt.fracBits) = true :=
    h.over_of_lt ((units_ge hx).trans ht) (by omega)
  simp only [FloatFmt.roundNum, if_neg hx, hulp]
  rw [if_pos (hover _ (by split <;> omega))]
  rfl

end Round

/-! NaN operands and invalid operations. -/

theorem sumF_nan (mode : RMode) {xs : List Fv} (h : .nan ∈ xs) : sumF mode xs = .ok .nan :=
  if_pos (List.any_eq_true.mpr ⟨.nan, h, rfl⟩)

theorem mulF_nan_right (x : Fv) : mulF x .nan = .ok .nan := by cases x <;> rfl
theorem divF_nan_right (fmt : FloatFmt) (x : Fv) : divF fmt x .nan = .ok .nan := by cases x <;> rfl
theorem addF_inf_opposite (mode : RMode) (a : Bool) : addF mode (.inf a) (.inf !a) = .bad := by cases a <;> rfl

theorem sqrtF_negative (fmt : FloatFmt) {q : Nat} (hq : q ≠ 0) (k : Int) : sqrtF fmt (.num true q k) = .bad := if_neg hq

/-! The status word. -/

theorem ofBytesLE_bytesLE (n x : Nat) : ofBytesLE (bytesLE n x) = x % 256 ^ n := by
  induction n generalizing x with
  | zero => simp [bytesLE, ofBytesLE, Nat.mod_one]
  | succ n ih =>
    rw [bytesLE, ofBytesLE, ih, pow_succ', Nat.mod_mul]
    rfl

theorem bytesLE_length (n x : Nat) : (bytesLE n x).length = n := by
  induction n generalizing x with
  | zero => rfl
  | succ n ih => rw [bytesLE, List.length_cons, ih]

/-- A word written at its home is read there. -/
theorem word_homeWrite (s : State) (pa : Nat) (w : Word) :
    BitVec.ofNat 32 (ofBytesLE ((s.homeWrite pa (bytesLE 4 w.toNat)).homeRead pa 4)) = w := by
  have hread := readN_writeN s.mem pa (bytesLE 4 w.toNat)
  rw [bytesLE_length] at hread
  rw [State.homeRead, homeWrite_mem, hread, ofBytesLE_bytesLE, Nat.mod_eq_of_lt (show w.toNat < 256 ^ 4 from w.isLt), BitVec.ofNat_toNat, BitVec.setWidth_eq]

/-- The OR of bits into a status word that can be written is one write of its four bytes. -/
theorem orStatus_written {s s1 : State} {n ctx : Nat} {b : Word} {x : Xl} (hb : b ≠ 0) (hbase : (s.context ctx).ctxsave ≠ 0)
    (hx : s.devAddr n ctx ((s.context ctx).ctxsave + 0x10000) 4 Need.both = (.ok x, s1)) :
    s.orStatus n ctx b = s1.homeWrite x.pa (bytesLE 4 (BitVec.ofNat 32 (ofBytesLE (s1.homeRead x.pa 4)) ||| b).toNat) := by
  simp only [State.orStatus, if_neg hb, if_neg hbase, hx]

/-- Settles O6: overflow by the leading bit of the magnitude, NaN and invalid operands by cases, the status word by its one write. -/
theorem nanAndFlagRules : Obligations.NanAndFlagRules := by
  refine ⟨⟨rfl, rfl, rfl⟩, fun fmt hf m z n x k => ?_, fun _ _ _ _ => ⟨rfl, rfl⟩, fun s n ctx b => ⟨?_, ?_, ?_, ?_⟩, ?_, ?_⟩
  · exact ⟨(FloatFmt.Full.of_mem hf).roundNum_overflow m z n, (FloatFmt.Full.of_mem hf).roundNum_max m z n⟩
  · rintro rfl
    exact orStatus_zero s n ctx
  · intro x s1 hb hbase hx
    rw [orStatus_written hb hbase hx]
    refine ⟨word_homeWrite s1 _ _, fun a ha => ?_, (touch_homeWrite s1 _ _ _).wgs⟩
    rw [homeWrite_mem, read_writeN, dif_neg]
    rw [bytesLE_length]
    omega
  · intro c s1 hb hbase hx
    simp only [State.orStatus, if_neg hb, if_neg hbase, hx]
  · intro hb hbase
    simp only [State.orStatus, if_neg hb, if_pos hbase]
  · intro fmt _ m z x
    have hnan := deliver_nan fmt m z
    exact ⟨by rw [addF, sumF_nan m (by simp), hnan], by rw [addF, sumF_nan m (by simp), hnan], hnan, by rw [mulF_nan_right, hnan],
      hnan, by rw [divF_nan_right, hnan], hnan⟩
  · intro fmt _ m z a b e e' k
    have hbad := deliver_bad fmt m z
    exact ⟨by rw [addF_inf_opposite, hbad], hbad, hbad, hbad, fun q hq => by rw [sqrtF_negative fmt hq, hbad]⟩

end Sys2Proof.Machine
end

section
namespace Sys2Proof.Machine

/-! Events of the matrix array (R61, R177-R181). -/

theorem matrixPass_next {s : State} {m : MEntry} (hf : (s.core s.arg.core).frozen = false)
    (hm : s.nextEntry s.arg.core (s.core s.arg.core).mq [] = some m) : exec .matrixPass s = .next (s.entryTurn s.arg.core m) := by
  show execMatrixPass s = _
  simp only [execMatrixPass, hf, hm, Bool.false_eq_true, if_false]

section Entry
variable {s : State} {m : MEntry} (hm : s.entryById s.arg.core s.arg.id = some m)
include hm

theorem mmaComplete_next {op tile : Nat} {zero : Bool} {p : Nat} {x y : MOperand} (ho : m.op = .mma op tile zero p x y) (hc : m.consumed = true) :
    exec .mmaComplete s = .next ((s.dropEntry s.arg.core m.id).completeFlight m.ref m.flight) := by
  show execMmaComplete s = _
  simp only [execMmaComplete, hm, ho, hc]

theorem batchComplete_next (ho : m.op = .close) (hc : m.consumed = true) : exec .batchComplete s = .next (s.completeBatch s.arg.core m) := by
  show execBatchComplete s = _
  simp only [execBatchComplete, hm, ho, hc]

theorem matrixRuntimeError_next {kd cause : Nat} {addr : DWord} (h : s.entryFault s.arg.core m = some (kd, cause, addr)) :
    exec .matrixRuntimeError s = .next (s.matrixError s.arg.core m kd cause addr) := by
  show execMatrixRuntimeError s = _
  simp only [execMatrixRuntimeError, hm, h]

theorem mmaGateStart_next {s1 s2 : State} {op tile : Nat} {zero : Bool} {p : Nat} {x y x1 y1 : MOperand} (ho : m.op = .mma op tile zero p x y)
    (he : m.err = none) (hx : gateOperand s s.arg.core m op .xbuf x = (x1, none, s1)) (hy : gateOperand s1 s.arg.core m op .wbuf y = (y1, none, s2)) :
    exec .mmaGateStart s = .next (s2.putEntry s.arg.core { m with op := .mma op tile zero p x1 y1, err := none }) := by
  show execMmaGateStart s = _
  simp only [execMmaGateStart, hm, ho, he, hx, hy]

end Entry

/-! Events of the copy queues (R190-R193, R198, R311-R315). -/

/-- A copy starts whose coaches have all arrived; CPYM has one. -/
theorem copyStart_next {s : State} {c : CopyEntry} (hc : (s.site s.arg.site).headOf s.arg.n = some c)
    (hk : c.kind = .cpym ∨ ∃ w, s.wg c.slot = some w ∧ c.arrivals.length = w.ncoach ∧ (c.kind = .cpy ∨ c.kind = .cpyt))
    (hw : (s.wg c.slot).isSome = true) (hs : c.started = false) (hp : c.paused = false) :
    exec .copyStart s = .next (match c.stin with
      | some t => (s.putCopy s.arg.site s.arg.n { c with started := true }).tinDrain c.core t
      | none => s.putCopy s.arg.site s.arg.n { c with started := true }) := by
  show execCopyStart s = _
  obtain ⟨w, hw⟩ := Option.isSome_iff_exists.mp hw
  obtain hk | ⟨w', hw', hall, hk | hk⟩ := hk
  · simp only [execCopyStart, hc, hk, hw, hs, hp]
    rfl
  · simp only [execCopyStart, hc, hk, hw', hs, hp, hall]
    rfl
  · simp only [execCopyStart, hc, hk, hw', hs, hp, hall]
    rfl

theorem join_next {s : State} {c : CopyEntry} (hc : (s.site s.arg.site).headOf s.arg.n = some c) {id : Nat} {qs : BitVec 16} (hk : c.kind = .join id qs)
    (hj : joinReady (s.site s.arg.site) id qs = true) : exec .copyStart s = .next
      (((List.range 16).foldl (fun t i => if qs.getLsbD i = true then t.dropCopy s.arg.site i c.id else t) s).endFlights c) := by
  show execCopyStart s = _
  simp only [execCopyStart, hc, hk, hj, if_true]

theorem engineOf_of_lt {q : Nat} (h : q < 16) : engineOf q = q / 4 := by
  unfold engineOf
  omega

/-- An engine's turn passes to the queue it has served. -/
theorem served_eq (s : State) (n : Nat) {q : Nat} (h : q < 16) :
    s.served n q = s.setSite n { s.site n with turn := Table.insert (s.site n).turn (q / 4) (q % 4) } := by
  have hmod : q - 4 * (q / 4) = q % 4 := by omega
  rw [State.served, engineOf_of_lt h, hmod]

/-- Nothing lands before a chunk of whose engine no packet flies to the core. -/
theorem landFor_none {s : State} {n engine core : Nat} (h : s.inFlight n engine (fun p => p.core == core) = []) : s.landFor n engine core = s := by
  rw [State.landFor, h]
  rfl

/-- A chunk moves that no tin drops and before which no packet lands. -/
theorem moveChunk_moved {s s1 : State} {n q pos : Nat} {c : CopyEntry} {fl : Word}
    (hl : c.par.dkind = 1 → s.inFlight n (q / 4) (fun p => p.core == c.core) = [])
    (ht : ∀ t, c.dtin = some t → ((s.core c.core).tin t).state ≠ 0) (hm : c.movePieces n (c.chunkAt pos) s = (.ok fl, s1)) :
    s.moveChunk n q c pos = (s1.orStatus n c.ctx fl).chunkDone n q c (min 4096 (c.total - pos)) := by
  have hland : (if c.par.dkind = 1 then s.landFor n (q / 4) c.core else s) = s := by
    split
    · next h => exact landFor_none (hl h)
    · rfl
  cases hd : c.dtin with
  | none =>
    simp only [State.moveChunk, hland, hd, hm, Bool.false_eq_true, if_false]
    rfl
  | some t =>
    simp only [State.moveChunk, hland, hd, hm, beq_eq_false_iff_ne.mpr (ht t hd), Bool.false_eq_true, if_false]
    rfl

/-- The next chunk of a copy whose accumulators are valid moves at once when its destination is not reached by optics. -/
theorem nextChunk_moved {s0 s : State} {n q : Nat} {c : CopyEntry} (hs : s0.served n q = s) (hk : c.kind = .cpy ∨ c.kind = .cpyt)
    (hv : (c.abufPieces (c.chunkAt c.done)).flatMap (fun a => (tilesAt a.1 a.2).filterMap (fun t =>
      if (s.core c.core).invalidTile c.gid t = true then some (max a.1 (t * tileBytes)) else none)) = [])
    (ho : ∀ t, s.chunkSite n c c.done = some t → s.byOptics n t = false) :
    s0.nextChunk n q c = s.moveChunk n q { c with done := c.done + min 4096 (c.total - c.done) } c.done := by
  have hm : c.kind ≠ .cpym := by rintro h; simp [h] at hk
  subst hs
  simp only [State.nextChunk]
  rw [hv]
  simp only [if_neg hm]
  cases hd : (s0.served n q).chunkSite n c c.done with
  | none => rfl
  | some t => simp only [ho t hd, Bool.false_and, Bool.false_eq_true, if_false]; rfl

theorem copyChunk_turn {s : State} {c : CopyEntry} (hok : s.arg.ok = false) (hq : s.arg.n < 16)
    (ht : s.engineTurn s.arg.site (s.arg.n / 4) = some s.arg.n) (hc : (s.site s.arg.site).headOf s.arg.n = some c) :
    exec .copyChunk s = .next (s.nextChunk s.arg.site s.arg.n c) := by
  have hne : s.arg.n ≠ evacQueue := by unfold evacQueue; omega
  show execCopyChunk s = _
  simp only [execCopyChunk, hok, engineOf_of_lt hq, ht, hc, if_neg hne, ne_eq, not_true, Bool.false_eq_true, if_false]

theorem copyChunk_evac {s : State} (hok : s.arg.ok = false) (hq : s.arg.n = 16) (ht : s.engineTurn s.arg.site 3 = some 16) :
    exec .copyChunk s = .next (s.evacChunk s.arg.site) := by
  show execCopyChunk s = _
  simp only [execCopyChunk, hok, hq, show engineOf 16 = 3 from rfl, ht, evacQueue, ne_eq, not_true, Bool.false_eq_true, if_false, if_true]

/-- The chunk that has travelled by optics lands. -/
theorem copyChunk_landed {s : State} {c : CopyEntry} (hok : s.arg.ok = true)
    (hc : ((s.site s.arg.site).queue s.arg.n).find? (fun c => c.away.contains s.arg.m && c.err.isNone && !c.paused) = some c)
    (he : ∀ e < 64, s.carries e (.chunk s.arg.site c.id s.arg.m) = false) :
    exec .copyChunk s = .next (s.moveChunk s.arg.site s.arg.n { c with away := c.away.erase s.arg.m } s.arg.m) := by
  have hany : (List.range 64).any (fun e => s.carries e (.chunk s.arg.site c.id s.arg.m)) = false := by
    simpa [List.any_eq_false] using he
  show execCopyChunk s = _
  simp only [execCopyChunk, hok, hc, hany, if_true, Bool.false_eq_true, if_false]

theorem cpymAck_next {s : State} {c : CopyEntry} (hc : (s.site s.arg.site).headOf s.arg.n = some c) (hk : c.kind = .cpym) (hs : c.started = true)
    (he : c.err = none) (ht : c.total ≤ c.done) (hf : c.flying = []) : exec .cpymAck s = .next (s.endCopy s.arg.site s.arg.n c) := by
  show execCpymAck s = _
  have hend : c.kind = .cpym ∧ c.started ∧ c.err.isNone ∧ c.done ≥ c.total ∧ c.flying.isEmpty := ⟨hk, hs, by rw [he]; rfl, ht, by rw [hf]; rfl⟩
  simp only [execCpymAck, hc, if_pos hend]

theorem cpymDeliver_next {s : State} {i : Nat} {c : CopyEntry} {p : CopyPacket} {rest : List (Nat × CopyEntry × CopyPacket)}
    (h : s.inFlight s.arg.site (s.arg.n / 4) (fun p => p.core == s.arg.core) = (i, c, p) :: rest) :
    exec .cpymDeliver s = .next (s.landPacket s.arg.site i c p) := by
  show execCpymDeliver s = _
  simp only [execCpymDeliver, h]

/-- The halt of a queue for a context (R190). -/
def State.haltCopies (s : State) (n q ctx : Nat) : State :=
  if (s.site n).copyHalted q ctx then s else s.setSite n { s.site n with copyHalt := (s.site n).copyHalt ++ [(q, ctx)] }

theorem haltCopies_halted (s : State) (n q ctx : Nat) : ((s.haltCopies n q ctx).site n).copyHalted q ctx = true := by
  unfold State.haltCopies
  split
  · assumption
  · simp [Site.copyHalted]

theorem copyRuntimeError_next {s : State} {c : CopyEntry} {z : Nat × CopyErr}
    (hc : ((s.site s.arg.site).queue s.arg.n).find? (fun c => c.id == s.arg.id) = some c) (hz : c.err = some z) :
    ∃ t : State, exec .copyRuntimeError s = .next (t.haltCopies s.arg.site s.arg.n c.ctx) := by
  show ∃ t : State, execCopyRuntimeError s = _
  simp only [execCopyRuntimeError, hc, hz]
  exact ⟨_, rfl⟩

/-! The chunks of an evacuation (R367). -/

theorem getLsbD_setFld_one (v : DWord) : (setFld v 1 1 1).getLsbD 1 = true := by
  simp only [setFld, bits, BitVec.getLsbD_ofNat, Nat.testBit_eq_decide_div_mod_eq, Bool.and_eq_true, decide_eq_true_eq]
  omega

theorem evac_served (s : State) (n q : Nat) : ((s.served n q).site n).evac = (s.site n).evac := by
  rw [State.served, site_setSite_same]

theorem spare_served (s : State) (n q : Nat) : ((s.served n q).site n).spare = (s.site n).spare := by
  rw [State.served, site_setSite_same]

/-- The addresses keep their bytes. -/
theorem evacChunk_mem (s : State) (n : Nat) : (s.evacChunk n).mem = s.mem := by
  unfold State.evacChunk
  dsimp only
  split
  · rfl
  · split <;> rfl

/-- The evacuation goes on in the next chunk. -/
theorem evacChunk_next {s : State} {n : Nat} {e : Evacuation} (he : (s.site n).evac = some e) (hlt : e.chunk + 1 < 98304) :
    ((s.evacChunk n).site n).evac = some { e with chunk := e.chunk + 1 } ∧ ((s.evacChunk n).site n).spare = (s.site n).spare := by
  have hserved := (evac_served s n evacQueue).trans he
  simp only [State.evacChunk, hserved, if_pos (show e.chunk + 1 < bankChunks from hlt), site_setSite_same, spare_served, and_self]

/-- After the last chunk the bank's rows are the spare's. -/
theorem evacChunk_last {s : State} {n : Nat} {e : Evacuation} (he : (s.site n).evac = some e) (hle : 98304 ≤ e.chunk + 1) :
    ((s.evacChunk n).site n).evac = none ∧ Table.find ((s.evacChunk n).site n).spare e.layer = some e.bank ∧
      ((s.evacChunk n).win n offEVACCTL).getLsbD 1 = true := by
  have hserved := (evac_served s n evacQueue).trans he
  simp only [State.evacChunk, hserved, if_neg (show ¬ e.chunk + 1 < bankChunks from Nat.not_lt.mpr hle), win_setWin_same,
    getLsbD_setFld_one, and_true]
  simp only [State.setWin, site_setSite_same, find_insert_same, and_self]

/-! Events of collectives (R200, R314). -/

/-- A header that a participant left is taken (R200). -/
def State.takeHead (s : State) (n : Nat) (tag : Word) (w : Option Word) : State :=
  s.setSite n { s.site n with heads := (s.site n).heads.filter (fun y => !(y.1 == tag && some y.2.1 == w)) }

theorem headAt_takeHead (s : State) (n : Nat) (tag : Word) (w : Option Word) : (s.takeHead n tag w).headAt n tag w = none := by
  simp only [State.takeHead, State.headAt, site_setSite_same, Option.map_eq_none_iff, List.find?_eq_none, List.mem_filter]
  rintro y ⟨-, hy⟩ hy'
  simp [hy'] at hy

theorem collAt_takeHead (s : State) (n : Nat) (tag : Word) (w : Option Word) : (s.takeHead n tag w).collAt n tag = s.collAt n tag := by
  simp only [State.takeHead, State.collAt, site_setSite_same]

section Collective
variable {s : State} {k : Coll} (hk : s.collAt s.arg.site (s.arg.value.truncate 32) = some k)
include hk

section Header
variable (hf : k.failed = none) (hq : s.arg.n < k.group.length)
include hf hq

theorem headerExchange_left {h : List Word} (hh : s.headAt s.arg.site (s.arg.value.truncate 32) k.group[s.arg.n]? = some h) :
    exec .collHeaderExchange s =
      .next ((s.takeHead s.arg.site (s.arg.value.truncate 32) k.group[s.arg.n]?).meet s.arg.site k s.arg.n h) := by
  show execCollHeaderExchange s = _
  simp only [execCollHeaderExchange, hk, hf, hh, ge_iff_le, Nat.not_le.mpr hq, decide_false, Option.isSome_none, Bool.or_self, Bool.false_eq_true, if_false]
  rfl

theorem headerExchange_sent (hh : s.headAt s.arg.site (s.arg.value.truncate 32) k.group[s.arg.n]? = none) (hc : k.headers.contains s.arg.n = false)
    (hl : k.localSite s s.arg.n = none) (hw : s.arg.words ≠ []) :
    exec .collHeaderExchange s = .next (s.putColl s.arg.site (k.compare s.arg.n s.arg.words)) := by
  have hmeet : s.meet s.arg.site k s.arg.n s.arg.words = s.putColl s.arg.site (k.compare s.arg.n s.arg.words) := by
    rw [State.meet, if_neg (by simpa using hw)]
  show execCollHeaderExchange s = _
  simp only [execCollHeaderExchange, hk, hf, hh, hc, hl, hmeet, ge_iff_le, Nat.not_le.mpr hq, decide_false, Option.isSome_none, Bool.or_self,
    Bool.false_eq_true, if_false]

theorem headerExchange_sites {peer : Nat} {d : Coll} (hh : s.headAt s.arg.site (s.arg.value.truncate 32) k.group[s.arg.n]? = none)
    (hc : k.headers.contains s.arg.n = false) (hl : k.localSite s s.arg.n = some peer)
    (hd : s.collAt peer (s.arg.value.truncate 32) = some d) :
    exec .collHeaderExchange s = .next (s.exchange s.arg.site k s.arg.n peer d) := by
  show execCollHeaderExchange s = _
  simp only [execCollHeaderExchange, hk, hf, hh, hc, hl, hd, ge_iff_le, Nat.not_le.mpr hq, decide_false, Option.isSome_none, Bool.or_self,
    Bool.false_eq_true, if_false]

theorem collChunk_sent (hp : s.arg.p ≠ 1) (hr : s.allReady k = true) :
    exec .collChunk s = .next (s.sendShare s.arg.site k s.arg.n s.arg.ok) := by
  show execCollChunk s = _
  simp only [execCollChunk, if_neg hp, hk, hf, hr, ge_iff_le, Nat.not_le.mpr hq, decide_false, Option.isSome_none, Bool.or_self, Bool.not_true,
    Bool.false_eq_true, if_false]

end Header

theorem collComplete_mismatch (hm : k.mismatch = true) : exec .collComplete s = .next (s.endColl s.arg.site k 2) := by
  show execCollComplete s = _
  simp only [execCollComplete, hk, hm, if_true]

section Agreed
variable (hm : k.mismatch = false)
include hm

theorem collComplete_failed (hf : k.failed.isSome = true) : exec .collComplete s = .next (s.endColl s.arg.site k 1) := by
  show execCollComplete s = _
  simp only [execCollComplete, hk, hm, hf, Bool.false_eq_true, if_false, if_true]

theorem collComplete_lost (hf : k.failed = none) (hl : s.collLost s.arg.site k = true) : exec .collComplete s =
    .next ((s.failColl s.arg.site k k.lost).endColl s.arg.site { k with failed := some k.lost } 1) := by
  show execCollComplete s = _
  simp only [execCollComplete, hk, hm, hf, hl, Option.isSome_none, Bool.false_eq_true, if_false, if_true]

theorem collComplete_whole {t : State} (hf : k.failed = none) (hl : s.collLost s.arg.site k = false) (hr : k.ready = true) (hw : k.whole = true)
    (hs : k.spent = true) (ht : writeGlob s.arg.site k.acc (granuleParts (k.result.length + 1) k.blk.daddr k.result.length) k.result
      (s.orStatus s.arg.site k.ctx k.flags) = (none, t)) : exec .collComplete s = .next (t.endColl s.arg.site k 0) := by
  show execCollComplete s = _
  simp only [execCollComplete, hk, hm, hf, hl, hr, hw, hs, ht, Option.isSome_none, Bool.not_true, Bool.or_self, Bool.false_eq_true, if_false]

end Agreed
end Collective

theorem collChunk_landed {s : State} {p : Piece} (hp : s.arg.p = 1)
    (hc : s.pieceTo s.arg.site (s.arg.value.truncate 32) (BitVec.ofNat 32 s.arg.n) s.arg.ok = some p)
    (hn : s.carries p.ep (.piece s.arg.site p.no) = false) : exec .collChunk s = .next (s.landPiece s.arg.site p) := by
  show execCollChunk s = _
  simp only [execCollChunk, hp, hc, hn, Bool.false_eq_true, if_false, if_true]

/-! Events of remote operations (R201, R202). -/

section Remote
variable {s : State} {o : RemoteOp} (ho : (s.site s.arg.site).remotes.find? (fun o => o.id == s.arg.id) = some o) (hr : s.failRoom o = true)
include ho hr

section Acknowledged
variable (hd : o.ord = false) (hep : (s.win o.ep offEPCFG).getLsbD 0 = true) (hc : s.connRoom o.ep o.conn = true)
  (ht : s.transport o.ep o.peer o.psite = some 1) (hw : s.sentWhole s.arg.site o = true) (hn : s.timedOut s.arg.site o = false)
include hd hep hc ht hw hn

theorem remoteAck_put {bs : List Byte} {s1 : State} (hok : s.arg.ok = true) (hk : o.kind = 0)
    (hb : readGlob s.arg.site o.acc (granuleParts (o.len + 1) o.laddr o.len) s = (.ok bs, s1)) :
    exec .remoteAck s = .next (s1.endRemote s.arg.site o) := by
  show execRemoteAck s = _
  simp [execRemoteAck, ho, hr, hd, hep, hc, ht, hw, hn, hok, hk, hb, kPUT]

theorem remoteAck_get {s1 : State} (hok : s.arg.ok = true) (hk : o.kind ≠ 0)
    (hb : writeGlob s.arg.site o.acc (granuleParts (o.len + 1) o.laddr o.len) (padTo o.len s.arg.data) s = (none, s1)) :
    exec .remoteAck s = .next (s1.endRemote s.arg.site o) := by
  show execRemoteAck s = _
  simp [execRemoteAck, ho, hr, hd, hep, hc, ht, hw, hn, hok, hk, hb, kPUT]

theorem remoteAck_refused (hok : s.arg.ok = false) :
    exec .remoteAck s = .next (s.failRemote s.arg.site o cRMT_NAK (some (8, cRMT_NAK.toNat, o.laddr))) := by
  show execRemoteAck s = _
  simp [execRemoteAck, ho, hr, hd, hep, hc, ht, hw, hn, hok]

end Acknowledged

theorem rmtTimeout_next (ht : s.timedOut s.arg.site o = true) : exec .rmtTimeout s = .next (s.failRemote s.arg.site o cRMT_TIMEOUT none) := by
  show execRmtTimeout s = _
  simp only [execRmtTimeout, ho, hr, ht, Bool.and_self, if_true]

end Remote

/-- Settles O49: each event in its case is one branch of its meaning, whose operation the claim names. -/
theorem engineEvents : Obligations.EngineEvents := by
  intro s s1 s2 m c k o
  refine ⟨matrixPass_next, fun hm => ⟨fun _ _ _ _ _ _ => mmaComplete_next hm, fun _ _ _ => matrixRuntimeError_next hm, batchComplete_next hm,
      fun _ _ _ _ _ _ _ _ => mmaGateStart_next hm⟩,
    fun hc => ⟨fun hk hw hs hp => ?_, fun _ _ => join_next hc, fun fl hok hq ht hk hv ho hd hl hm => ?_, cpymAck_next hc⟩,
    fun e hok hq ht he => ?_, copyChunk_landed, fun z hc hz => ?_, fun _ _ _ => cpymDeliver_next, fun hk => ⟨fun hf hq => ⟨fun h hh => ?_,
      headerExchange_sent hk hf hq, fun _ _ => headerExchange_sites hk hf hq⟩, fun hp hr hf hq => collChunk_sent hk hf hq hp hr,
      collComplete_mismatch hk, collComplete_failed hk, collComplete_lost hk, fun _ hm => collComplete_whole hk hm⟩,
    fun _ => collChunk_landed, fun ho hr => ⟨fun hd hep hc ht hw hn => ⟨fun _ => remoteAck_put ho hr hd hep hc ht hw hn,
      remoteAck_get ho hr hd hep hc ht hw hn, remoteAck_refused ho hr hd hep hc ht hw hn⟩, rmtTimeout_next ho hr⟩⟩
  · exact (copyStart_next hc hk hw hs hp).trans (by cases c.stin <;> rfl)
  · rw [copyChunk_turn hok hq ht hc, nextChunk_moved (served_eq s _ hq) hk hv ho,
      moveChunk_moved (c := { c with done := c.done + min 4096 (c.total - c.done) }) hl hd hm]
    rfl
  · exact ⟨_, copyChunk_evac hok hq ht, evacChunk_mem s _, evacChunk_next he, evacChunk_last he⟩
  · obtain ⟨t, ht⟩ := copyRuntimeError_next hc hz
    exact ⟨_, ht, haltCopies_halted t _ _ _⟩
  · exact ⟨_, headerExchange_left hk hf hq hh, headAt_takeHead s _ _ _, (collAt_takeHead s _ _ _).trans hk⟩

end Sys2Proof.Machine
end

section
namespace Sys2Proof

/-! A word is its opcode and its fields (R79, R80), both ways. -/

theorem ofBool_bit (w : Word) (i : Nat) : BitVec.ofBool (bit w i) = field w i 1 := by
  rw [bit, BitVec.getLsbD_eq_extractLsb']
  show BitVec.ofBool (field w i 1 == 1#1) = field w i 1
  generalize field w i 1 = b
  revert b
  decide

/-- A layout that gives back the opcode and the fields it has packed, and packs every word's own into that word, gives a word for its
own opcode and fields alone. -/
theorem pack_eq_iff {F : Type} {pack : BitVec 8 → F → Word} {read : Word → F} (hop : ∀ op f, opcodeOf (pack op f) = op)
    (hread : ∀ op f, read (pack op f) = f) (hself : ∀ w, pack (opcodeOf w) (read w) = w) {op : BitVec 8} {f : F} {w : Word} :
    pack op f = w ↔ opcodeOf w = op ∧ read w = f := by
  constructor
  · rintro rfl
    exact ⟨hop op f, hread op f⟩
  · rintro ⟨rfl, rfl⟩
    exact hself w

section Formats
variable {op : BitVec 8} {w : Word}

theorem packRRR_eq_iff {f : RRR} : packRRR op f = w ↔ opcodeOf w = op ∧ rrrOf w = f :=
  pack_eq_iff opcodeOf_packRRR rrrOf_pack fun w => by
    simp (disch := decide) only [packRRR, rrrOf, opcodeOf, ofBool_bit, BitVec.extractLsb'_append_extractLsb'_eq_extractLsb']
    exact extract_self w

theorem packRI_eq_iff {f : RI} : packRI op f = w ↔ opcodeOf w = op ∧ riOf w = f :=
  pack_eq_iff opcodeOf_packRI riOf_pack fun w => by
    simp (disch := decide) only [packRI, riOf, opcodeOf, ofBool_bit, BitVec.extractLsb'_append_extractLsb'_eq_extractLsb']
    exact extract_self w

theorem packM_eq_iff {f : FM} : packM op f = w ↔ opcodeOf w = op ∧ fmOf w = f :=
  pack_eq_iff opcodeOf_packM fmOf_pack fun w => by
    simp (disch := decide) only [packM, fmOf, opcodeOf, ofBool_bit, BitVec.extractLsb'_append_extractLsb'_eq_extractLsb']
    exact extract_self w

theorem packA_eq_iff {f : FA} : packA op f = w ↔ opcodeOf w = op ∧ faOf w = f :=
  pack_eq_iff opcodeOf_packA faOf_pack fun w => by
    simp (disch := decide) only [packA, faOf, opcodeOf, ofBool_bit, BitVec.extractLsb'_append_extractLsb'_eq_extractLsb']
    exact extract_self w

theorem packB_eq_iff {f : FB} : packB op f = w ↔ opcodeOf w = op ∧ fbOf w = f :=
  pack_eq_iff opcodeOf_packB fbOf_pack fun w => by
    simp (disch := decide) only [packB, fbOf, opcodeOf, ofBool_bit, BitVec.extractLsb'_append_extractLsb'_eq_extractLsb']
    exact extract_self w

theorem packW_eq_iff {f : FW} : packW op f = w ↔ opcodeOf w = op ∧ fwOf w = f :=
  pack_eq_iff opcodeOf_packW fwOf_pack fun w => by
    simp (disch := decide) only [packW, fwOf, opcodeOf, ofBool_bit, BitVec.extractLsb'_append_extractLsb'_eq_extractLsb']
    exact extract_self w

theorem packQ_eq_iff {f : FQ} : packQ op f = w ↔ opcodeOf w = op ∧ fqOf w = f :=
  pack_eq_iff opcodeOf_packQ fqOf_pack fun w => by
    simp (disch := decide) only [packQ, fqOf, opcodeOf, ofBool_bit, BitVec.extractLsb'_append_extractLsb'_eq_extractLsb']
    exact extract_self w

theorem packX_eq_iff {f : FX} : packX op f = w ↔ opcodeOf w = op ∧ fxOf w = f :=
  pack_eq_iff opcodeOf_packX fxOf_pack fun w => by
    simp (disch := decide) only [packX, fxOf, opcodeOf, ofBool_bit, BitVec.extractLsb'_append_extractLsb'_eq_extractLsb']
    exact extract_self w

theorem packC_eq_iff {f : FC} : packC op f = w ↔ opcodeOf w = op ∧ fcOf w = f :=
  pack_eq_iff opcodeOf_packC fcOf_pack fun w => by
    simp (disch := decide) only [packC, fcOf, opcodeOf, ofBool_bit, BitVec.extractLsb'_append_extractLsb'_eq_extractLsb']
    exact extract_self w

theorem packJ_eq_iff {f : FJ} : packJ op f = w ↔ opcodeOf w = op ∧ fjOf w = f :=
  pack_eq_iff opcodeOf_packJ fjOf_pack fun w => by
    simp (disch := decide) only [packJ, fjOf, opcodeOf, ofBool_bit, BitVec.extractLsb'_append_extractLsb'_eq_extractLsb']
    exact extract_self w

theorem packJC_eq_iff {f : FJC} : packJC op f = w ↔ opcodeOf w = op ∧ fjcOf w = f :=
  pack_eq_iff opcodeOf_packJC fjcOf_pack fun w => by
    simp (disch := decide) only [packJC, fjcOf, opcodeOf, ofBool_bit, BitVec.extractLsb'_append_extractLsb'_eq_extractLsb']
    exact extract_self w

theorem packS_eq_iff {f : FS} : packS op f = w ↔ opcodeOf w = op ∧ fsOf w = f :=
  pack_eq_iff opcodeOf_packS fsOf_pack fun w => by
    simp (disch := decide) only [packS, fsOf, opcodeOf, ofBool_bit, BitVec.extractLsb'_append_extractLsb'_eq_extractLsb']
    exact extract_self w

end Formats

theorem toNat_opcodeOf (w : Word) : (opcodeOf w).toNat = w.toNat / 2 ^ 24 := by
  have hw := w.isLt
  rw [opcodeOf, BitVec.extractLsb'_toNat, Nat.shiftRight_eq_div_pow]
  omega

/-- A word that encodes an instruction has its opcode and its fields, which are what is read. -/
theorem parse_of_encode {w : Word} {i : Instr} (h : encode i = some w) : parse w = some i := by
  cases i
  all_goals simp only [encode, Option.some.injEq, reduceCtorEq, packRRR_eq_iff, packRI_eq_iff, packM_eq_iff, packA_eq_iff, packB_eq_iff,
    packW_eq_iff, packQ_eq_iff, packX_eq_iff, packC_eq_iff, packJ_eq_iff, packJC_eq_iff, packS_eq_iff] at h
  all_goals
    obtain ⟨hop, rfl⟩ := h
    unfold parse
    rewrite [hop]
    rfl

/-- What is read from a word, opcode by opcode, is encoded with that opcode and the word's own fields. -/
theorem encode_of_parse {w : Word} {i : Instr} (h : parse w = some i) : encode i = some w := by
  have hlt : (opcodeOf w).toNat < 256 := (opcodeOf w).isLt
  generalize hn : (opcodeOf w).toNat = n at hlt
  have hop : opcodeOf w = BitVec.ofNat 8 n := by rw [← hn, BitVec.ofNat_toNat, BitVec.setWidth_eq]
  unfold parse at h
  rewrite [hn] at h
  interval_cases n
  all_goals cases h
  all_goals
    simp only [encode, Option.some.injEq, packRRR_eq_iff, packRI_eq_iff, packM_eq_iff, packA_eq_iff, packB_eq_iff, packW_eq_iff,
      packQ_eq_iff, packX_eq_iff, packC_eq_iff, packJ_eq_iff, packJC_eq_iff, packS_eq_iff, and_true]
    exact hop

/-- The opcode alone decides whether a word is read; which opcodes are not, R89 lists. -/
theorem parse_isNone (w : Word) : (parse w).isNone =
    ([0x0E, 0x0F, 0x1F, 0x2E, 0x2F, 0x37, 0x4E, 0x4F, 0xAF, 0xBF, 0xCE, 0xCF].contains (opcodeOf w).toNat ||
      decide (0xE2 ≤ (opcodeOf w).toNat)) := by
  have hlt : (opcodeOf w).toNat < 256 := (opcodeOf w).isLt
  unfold parse
  generalize (opcodeOf w).toNat = n at hlt
  interval_cases n
  all_goals rfl

/-- The bytes of a word in memory are the word (R8). -/
theorem wordOfBytes_wordBytes (w : Word) : wordOfBytes (wordBytes w) = w := by
  simp (disch := decide) only [wordOfBytes, wordBytes, BitVec.extractLsb'_append_extractLsb'_eq_extractLsb']
  exact extract_self w

theorem decodeTableWord_toNat (w : Word) : decodeTableWord 32 w.toNat = parse w := by
  rw [decodeTableWord, Nat.mod_eq_of_lt w.isLt, BitVec.ofNat_toNat, BitVec.setWidth_eq, wordOfBytes_wordBytes]

/-- A word that is read is decoded or refused by its fields (R89). -/
theorem decode_of_parse {w : Word} {i : Instr} (h : parse w = some i) :
    decode w = if i.fieldsOk then .ok i else .error .illegalField := by
  simp only [decode, h]

/-- Settles O52: an encoded word is read back (`parse_of_encode`), from its bytes too, and its fields decide how it decodes. -/
theorem encodingRoundTrip : Obligations.EncodingRoundTrip := by
  intro i w h
  have hp := parse_of_encode h
  exact ⟨hp, wordOfBytes_wordBytes w, (decodeTableWord_toNat w).trans hp, fun hw => (decode_of_parse hp).trans (if_pos hw),
    fun hw => (decode_of_parse hp).trans (if_neg hw)⟩

/-- Settles O53: what is read is encoded by its word (`encode_of_parse`), and the opcode alone decides that nothing is read. -/
theorem decodingIsExact : Obligations.DecodingIsExact := by
  refine ⟨fun w i => encode_of_parse, fun w => ?_⟩
  rw [← toNat_opcodeOf, ← Option.isNone_iff_eq_none, parse_isNone, Bool.or_eq_true, decide_eq_true_eq]

/-- Settles O54: each word is what its instruction encodes to, field by field. -/
theorem wordsOfTheFormats : Obligations.WordsOfTheFormats := by
  refine ⟨?_, ?_, ?_, ?_, ?_, ?_, ?_, ?_, ?_, ?_, ?_, ?_⟩ <;> exact parse_of_encode (by decide)

end Sys2Proof
end

section
namespace Sys2Proof.Machine

/-! Branches (R70, R127). -/

theorem targetOk_iff (a : DWord) : targetOk a = true ↔ a.toNat % 4 = 0 ∧ canonical a = true := by
  simp [targetOk]

/-- The conditions of BRS are comparisons of the signed value with 0 (R85). -/
theorem brsHolds_iff (cond : Nat) (x : Word) : brsHolds cond x = true ↔ (match cond with
    | 0 => x.toInt = 0 | 1 => x.toInt ≠ 0 | 2 => x.toInt < 0 | 3 => 0 ≤ x.toInt | 4 => 0 < x.toInt | _ => x.toInt ≤ 0) := by
  have hzero : x = 0#32 ↔ x.toInt = 0 := by rw [← BitVec.toInt_inj, BitVec.toInt_zero]
  match cond with
  | 0 | 1 => simp [brsHolds, hzero]
  | 2 | 3 | 4 | _ + 5 => simp [brsHolds, BitVec.slt_eq_decide]

/-- The conditions of BRP ask for some, all or none of the active threads (R85). -/
theorem brpHolds_iff (cond : Nat) (ts : List Nat) (p : Nat → Bool) : brpHolds cond (ts.map p) = true ↔ (match cond with
    | 0 => ∃ t ∈ ts, p t = true | 1 => ∀ t ∈ ts, p t = true | 2 => ∀ t ∈ ts, ¬ p t = true | _ => ∃ t ∈ ts, ¬ p t = true) := by
  match cond with
  | 0 | 1 | 2 | _ + 3 => simp [brpHolds]

theorem Runs.jumpTo_eq {i : Instr} {s : State} {e : Env} (h : Runs i s e) (f : Coach → Coach) (pc : DWord) :
    jumpTo e f pc s = s.setCoach s.cur
      { (f e.c).advance e with pc := pc, clause := if pc = e.nextHdr then ((f e.c).advance e).clause else none } := by
  rw [← h.ref]
  exact modCoach_of_coach (by rw [h.ref, h.coach]) _

section Branch
variable {i : Instr} {s : State} {e : Env} {a : DWord} (hx : exec i s = .next (branchTo e i id a a s))
include hx

theorem branch_goesTo (h : Runs i s e) (ha : a.toNat % 4 = 0 ∧ canonical a = true) : GoesTo i s e id a := by
  rw [GoesTo, GoesOnBy, hx, branchTo, if_pos ((targetOk_iff a).mpr ha), h.jumpTo_eq]
  rfl

theorem branch_traps (ha : ¬ (a.toNat % 4 = 0 ∧ canonical a = true)) : exec i s = .next (trapAll e i cBAD_TARGET 0 s) := by
  rw [hx, branchTo, if_neg (mt (targetOk_iff a).mp ha)]

end Branch

/-- An instruction that goes on and changes nothing else. -/
theorem goesOn_of_finish {i : Instr} {s : State} {e : Env} (h : Runs i s e) (hx : exec i s = .next (finish e s)) : GoesOnBy i s e id := by
  rw [GoesOnBy, hx, h.finish_eq rfl]
  rfl

theorem bra_next {f : FJ} {s : State} {e : Env} (h : Runs (.bra f) s e) :
    exec (.bra f) s = .next (branchTo e (.bra f) id (e.target f.off) (e.target f.off) s) := by
  show execBra f s = _
  exact issue_runs h _

theorem brs_next {f : FJC} {s : State} {e : Env} (h : Runs (.brs f) s e) : exec (.brs f) s = .next
    (if brsHolds f.cond.toNat (e.c.readS e.tick f.reg.toNat) then branchTo e (.brs f) id (e.target f.off) (e.target f.off) s
    else finish e s) := by
  show execBrs f s = _
  exact issue_runs h _

theorem brp_next {f : FJC} {s : State} {e : Env} (h : Runs (.brp f) s e) : exec (.brp f) s = .next
    (if brpHolds f.cond.toNat (e.threads.map (fun t => e.c.readP f.reg.toNat t)) then
      branchTo e (.brp f) id (e.target f.off) (e.target f.off) s
    else finish e s) := by
  show execBrp f s = _
  exact issue_runs h _

theorem jmpr_next {f : FJC} {s : State} {e : Env} (h : Runs (.jmpr f) s e) : exec (.jmpr f) s = .next
    (branchTo e (.jmpr f) id (e.c.readS e.tick (f.reg.toNat + 1) ++ e.c.readS e.tick f.reg.toNat)
      (e.c.readS e.tick (f.reg.toNat + 1) ++ e.c.readS e.tick f.reg.toNat) s) := by
  show execJmpr f s = _
  exact issue_runs h _

/-- Settles O13: a branch that is taken is one checked jump; one that is not goes on. -/
theorem branchResults : Obligations.BranchResults := by
  intro f g s e
  have hs := brsHolds_iff g.cond.toNat (e.c.readS e.tick g.reg.toNat)
  have hp := brpHolds_iff g.cond.toNat e.threads (fun t => e.c.readP g.reg.toNat t)
  have hbrs (h : Runs (.brs g) s e) (hc : brsHolds g.cond.toNat (e.c.readS e.tick g.reg.toNat) = true) :=
    (brs_next h).trans (congrArg _ (if_pos hc))
  have hbrp (h : Runs (.brp g) s e) (hc : brpHolds g.cond.toNat (e.threads.map (fun t => e.c.readP g.reg.toNat t)) = true) :=
    (brp_next h).trans (congrArg _ (if_pos hc))
  exact ⟨fun h => branch_goesTo (bra_next h) h, fun h => branch_traps (bra_next h),
    fun h hc => branch_goesTo (hbrs h (hs.mpr hc)) h, fun h hc => branch_traps (hbrs h (hs.mpr hc)),
    fun h hc => goesOn_of_finish h ((brs_next h).trans (congrArg _ (if_neg (mt hs.mp hc)))),
    fun h hc => branch_goesTo (hbrp h (hp.mpr hc)) h, fun h hc => branch_traps (hbrp h (hp.mpr hc)),
    fun h hc => goesOn_of_finish h ((brp_next h).trans (congrArg _ (if_neg (mt hp.mp hc)))),
    fun h => branch_goesTo (jmpr_next h) h, fun h => branch_traps (jmpr_next h)⟩

end Sys2Proof.Machine
end

section
namespace Sys2Proof.Machine

/-! Atomics (R86, R146-R148). -/

/-- What one unit's atomic does at its home (R146): its step on the bytes there, with the core's copy dropped; the line clock is read
and raised to `k` when the instruction orders (R148). -/
def atomAct (e : Env) (u : Bool) (r : RegNo) (step : AtomStep) (order ret : Bool) (size : Nat) (k : Word) (g : Target) (s : State) :
    (List RegWrite × Option Word × Word) × State :=
  let h := (s.ccDrop e.core (g.x.pa / 128)).homeTouch g.x.pa
  let a := step g.t (h.homeLoad g.x size)
  let h2 := match a.2.1 with | some bs => h.homeStore g.x bs | none => h
  ((if ret then putWords u r g.t a.1 else [], if order then some (h2.lineClock g.x.pa) else none, a.2.2),
    if order then h2.raiseLine g.x.pa k else h2)

/-- The release before an atomic that orders (R148): the clock it carries, and the state. -/
def atomRelease (e : Env) (order : Bool) (s : State) : Word × State := if order then s.release e.ref.slot 5 else (0, s)

section Reached
variable {i : Instr} {f : FA} {size : Nat} {order ret : Bool} {step : Env → AtomStep} {s s1 s2 : State} {e : Env} {gs : List Target} {d : Done}
  (hr : Reaches e f.u size .both (e.ea f.u f.base f.idx) s gs s1) (hb : order = true → s1.engineBusy e.ref 5 = false)
include hr hb

/-- An atomic whose accesses pass, and that waits for no engine, performs in every unit and then acquires. -/
theorem atomM_reaches : atomM i f size order ret step e s =
    (let r := performEach (checkHome e size (.sync true true)) (atomAct e f.u f.t (step e) order ret size (atomRelease e order s1).1) gs
      .none (atomRelease e order s1).2
     settleMem e i f.u r.1 (r.2.acquireOpt e.ref.slot 5 r.1.clk)) := by
  rw [atomM, accessAll_reaches hr]
  exact if_neg (by simpa [scWAFER] using hb)

/-- When no home refuses one, the instruction is tracked. -/
theorem atomM_tracks (hp : performEach (checkHome e size (.sync true true))
      (atomAct e f.u f.t (step e) order ret size (atomRelease e order s1).1) gs .none (atomRelease e order s1).2 = (d, s2))
    (hd : d.misses = []) :
    atomM i f size order ret step e s = tracked e i d.ws ((s2.acquireOpt e.ref.slot 5 d.clk).raise e d.fl) := by
  rw [atomM_reaches hr hb, hp]
  exact settleMem_clean hd _

end Reached

theorem atoms_tracks {f : FA} {s : State} {e : Env} (h : Runs (.atoms f) s e) (hr : ReachesBuf e f.u .sbuf 4 true (e.ea f.u f.base f.idx) s) :
    let r := (e.units f.u).foldl (fun (d : (List RegWrite × Word) × State) t =>
      let off := ((s.core e.core).window e.wg .sbuf).1 + (e.ea f.u f.base f.idx t).toNat
      let c := d.2.core e.core
      let a := atomStep f e t (bufRead c.sbuf off 4)
      ((d.1.1 ++ putWords f.u f.t t a.1, d.1.2 ||| a.2.2),
        d.2.setCore e.core { c with sbuf := match a.2.1 with | some bs => bufWrite c.sbuf off bs | none => c.sbuf })) (([], 0), s)
    TracksFrom (.atoms f) s e r.1.1 (r.2.raise e r.1.2) := by
  show execAtoms f s = _
  rw [execAtoms, issue_runs h]
  exact congrArg Host.Outcome.next (bufAll_reaches hr fun t off s => by rw [core_setCore_same]; exact List.Subset.refl _)

/-! What the integer steps store (R86, R147). -/

theorem combine_arith (old x : Word) : (combine 0 old x).1 = old + x ∧ (combine 1 old x).1 = old - x := ⟨rfl, rfl⟩

theorem combine_signed (old x : Word) :
    (combine 2 old x).1.toInt = min old.toInt x.toInt ∧ (combine 3 old x).1.toInt = max old.toInt x.toInt := by
  simp only [combine, BitVec.slt_eq_decide, decide_eq_true_eq]
  constructor <;> split <;> omega

theorem combine_unsigned (old x : Word) :
    (combine 4 old x).1.toNat = min old.toNat x.toNat ∧ (combine 5 old x).1.toNat = max old.toNat x.toNat := by
  simp only [combine, BitVec.ult_eq_decide, decide_eq_true_eq]
  constructor <;> split <;> omega

/-- The wrapping increment goes to 0 at the operand, the wrapping decrement to the operand at 0. -/
theorem combine_wrapping (old x : Word) : (combine 9 old x).1 = (if x.toNat ≤ old.toNat then 0 else old + 1) ∧
    (combine 10 old x).1 = (if old = 0 ∨ x.toNat < old.toNat then x else old - 1) := by
  have hle : x.toNat < old.toNat ∨ x = old ↔ x.toNat ≤ old.toNat := by rw [← BitVec.toNat_inj]; omega
  simp only [combine, BitVec.ult_eq_decide, Bool.or_eq_true, decide_eq_true_eq, beq_iff_eq, hle, and_self]

theorem casStep_word {f : FA} {e : Env} (hr : e.replay = none) (hu : f.u = false) (t : Nat) (bs : List Byte) :
    casStep f 1 e t bs = ([BitVec.ofNat 32 (ofBytesLE bs)],
      if ofBytesLE bs = (e.c.readV e.tick f.t.toNat t).toNat then some (bytesLE 4 (e.c.readV e.tick (f.t.toNat + 1) t).toNat) else none, 0) := by
  have hrun (i : Nat) : wordsToNat ((List.range 1).map (fun j => e.data f.u f.t (i + j) t)) = (e.c.readV e.tick (f.t.toNat + i) t).toNat := by
    simp [wordsToNat, Env.data, hr, hu]
  simp only [casStep, hrun]
  rfl

/-- Settles O26: each atomic of memory is `atomM` with its own step, ATOMS its counterpart on SBUF, and each integer step one case. -/
theorem atomics : Obligations.Atomics := by
  refine ⟨fun f s s1 s2 e gs d hd => ⟨?_, ?_, ?_, ?_, ?_, atoms_tracks⟩, fun old x => ?_, fun f e t bs hr hu _ => casStep_word hr hu t bs⟩
  · intro h hr hp
    show execAtom f s = _
    rw [execAtom, issue_runs h, atomM_tracks (order := false) hr nofun hp hd]
  · intro h hr hp
    show execAredg f s = _
    rw [execAredg, issue_runs h, atomM_tracks (order := false) hr nofun hp hd]
  · intro h hr hb hp
    show execAtomar f s = _
    rw [execAtomar, issue_runs h, atomM_tracks (order := true) hr (fun _ => hb) hp hd]
  · intro h hr hp
    show execAcas f s = _
    rw [execAcas, issue_runs h, atomM_tracks (order := false) hr nofun hp hd]
  · intro h hr hb hp
    show execAcasar f s = _
    rw [execAcasar, issue_runs h, atomM_tracks (order := true) hr (fun _ => hb) hp hd]
  · obtain ⟨hadd, hsub⟩ := combine_arith old x
    obtain ⟨hmin, hmax⟩ := combine_signed old x
    obtain ⟨humin, humax⟩ := combine_unsigned old x
    obtain ⟨hinc, hdec⟩ := combine_wrapping old x
    exact ⟨hadd, hsub, hmin, hmax, humin, humax, rfl, rfl, rfl, hinc, hdec, rfl⟩

end Sys2Proof.Machine
end

section
namespace Sys2Proof.Machine

/-! The return from a handler (R78, R207, R250, R255). -/

theorem lowerFlag_shape (c : Coach) (f : Option Nat) : ∃ F, c.lowerFlag f = { c with flags := F } := by
  cases f with
  | none => exact ⟨c.flags, rfl⟩
  | some f => exact ⟨_, rfl⟩

/-- Lowering the flags of entries changes flags alone. -/
theorem lowerFlags_shape (l : List ReplayEntry) (c : Coach) : ∃ F, l.foldl (fun d en => d.lowerFlag en.flag) c = { c with flags := F } := by
  induction l generalizing c with
  | nil => exact ⟨c.flags, rfl⟩
  | cons en l ih =>
    obtain ⟨F, hF⟩ := lowerFlag_shape c en.flag
    obtain ⟨G, hG⟩ := ih { c with flags := F }
    exact ⟨G, by rw [List.foldl_cons, hF, hG]⟩

/-- Where a coach resumes (R78, R250): with the clause state saved in its frame when TPC is unchanged. -/
def Coach.resumeAt (c : Coach) (fr : Frame) : DWord × Option Clause :=
  match fr.clause with
  | some cl => if c.tpc = fr.resume then (match cl.fresh with | some h => (h, none) | none => (c.tpc, some cl)) else (c.tpc, none)
  | none => (c.tpc, none)

/-- An entry as a return leaves it (R250): without the threads that have exited, and no longer FAULTED. -/
def ReplayEntry.returned (en : ReplayEntry) (exited : Mask) : ReplayEntry :=
  { en with mask := en.mask &&& ~~~exited, status := if en.status = 1 then 0 else en.status }

/-- The coach after its return: its registers and predicates stay. -/
theorem returnFromTrap_shape {c : Coach} {fr : Frame} (h : c.frame = some fr) : ∃ F, c.returnFromTrap = { c with
    flags := F, exec := fr.exec &&& ~~~c.exited, div := c.div.drop (c.div.length - fr.depth), state := .runnable,
    rq := (c.rq.map (fun en => en.returned c.exited)).filter (fun en => en.mask != 0), pc := (c.resumeAt fr).1, clause := (c.resumeAt fr).2, reconv := c.reconv && decide (c.tpc = fr.resume),
    frame := none, wait := Wait.none, escalated := none } := by
  obtain ⟨F, hF⟩ := lowerFlags_shape ((c.rq.map (fun en => en.returned c.exited)).filter (fun en => en.mask == 0)) c
  simp only [ReplayEntry.returned] at hF
  refine ⟨F, ?_⟩
  by_cases ht : c.tpc = fr.resume
  all_goals cases hc : fr.clause
  all_goals simp only [Coach.returnFromTrap, Coach.resumeAt, h, hF, hc, ht, decide_true, decide_false, if_true, if_false]
  all_goals rfl

theorem tret_next {f : FS} {s : State} {e : Env} (h : Runs (.tret f) s e) : exec (.tret f) s = .next
    (if e.c.flights.any Flight.entry then s
    else if !targetOk e.c.tpc then trapAll e (.tret f) cBAD_TARGET 0 s
    else if e.c.tcause = cPREEMPT_NOTICE then (s.setCoach s.cur e.c.returnFromTrap).noticeDone s.cur
    else s.setCoach s.cur e.c.returnFromTrap) := by
  have hm : s.modCoach e.ref Coach.returnFromTrap = s.setCoach s.cur e.c.returnFromTrap := by
    rw [h.ref]
    exact modCoach_of_coach h.coach _
  show execTret f s = _
  rw [execTret, issue_runs h, hm, h.ref]
  rfl

/-- Settles O28: the three outcomes of TRET, and the coach that it leaves (`returnFromTrap_shape`). -/
theorem trapReturn : Obligations.TrapReturn := by
  intro f s e fr h hfr
  have hx := tret_next h
  refine ⟨fun he => ?_, fun he ht => ?_, fun he ht => ⟨e.c.returnFromTrap, ?_, ?_⟩⟩
  · rw [hx, if_pos he]
  · simp only [hx, he, ht, Bool.false_eq_true, Bool.not_false, if_false, if_true]
  · simp only [hx, he, ht, Bool.false_eq_true, Bool.not_true, if_false]
  · obtain ⟨F, hF⟩ := returnFromTrap_shape hfr
    rw [hF]
    exact ⟨rfl, rfl, rfl, rfl, rfl, rfl, rfl, rfl, rfl⟩

end Sys2Proof.Machine
end

section
namespace Sys2Proof.Machine

/-! Integers of n bits (R101). -/

theorem bitN_eq_testBit (x i : Nat) : bitN x i = x.testBit i := by
  simp [bitN, Nat.testBit_eq_decide_div_mod_eq, beq_eq_decide]

theorem intOf_signed {n x : Nat} (hn : 0 < n) (hx : x < 2 ^ n) : intOf false n x = (BitVec.ofNat n x).toInt := by
  obtain ⟨m, rfl⟩ := Nat.exists_eq_succ_of_ne_zero hn.ne'
  have hpow : 2 ^ (m + 1) = 2 * 2 ^ m := pow_succ' 2 m
  rw [intOf, BitVec.toInt_eq_toNat_cond, BitVec.toNat_ofNat, Nat.mod_eq_of_lt hx]
  simp only [Bool.false_eq_true, if_false, Nat.succ_eq_add_one, Nat.add_sub_cancel, Nat.cast_pow, Nat.cast_ofNat]
  split <;> split <;> omega

theorem intOut_wrap (uns : Bool) (n : Nat) (x : Int) : (intOut false uns n x : Int) = x % 2 ^ n :=
  Int.toNat_of_nonneg (Int.emod_nonneg x (by positivity))

theorem intOut_clamp_unsigned (n : Nat) (x : Int) : (intOut true true n x : Int) = min (max x 0) (2 ^ n - 1) := by
  have hpos : (0 : Int) < 2 ^ n := by positivity
  simp only [intOut, if_true]
  rw [Int.emod_eq_of_lt (by omega) (by omega)]
  omega

theorem intOut_clamp_signed {n : Nat} (hn : 0 < n) (x : Int) :
    (BitVec.ofNat n (intOut true false n x)).toInt = min (max x (-(2 ^ (n - 1)))) (2 ^ (n - 1) - 1) := by
  obtain ⟨m, rfl⟩ := Nat.exists_eq_succ_of_ne_zero hn.ne'
  have hpos : (0 : Int) < 2 ^ m := by positivity
  have hpow : ((2 ^ (m + 1) : Nat) : Int) = 2 * 2 ^ m := by push_cast; exact pow_succ' 2 m
  have hout (y : Int) : BitVec.ofNat (m + 1) (y % 2 ^ (m + 1)).toNat = BitVec.ofInt (m + 1) y := by
    apply BitVec.eq_of_toNat_eq
    rw [BitVec.toNat_ofInt, BitVec.toNat_ofNat, Nat.cast_pow, Nat.cast_ofNat]
    have := Int.emod_nonneg y (show (2 : Int) ^ (m + 1) ≠ 0 by positivity)
    have := Int.emod_lt_of_pos y (show (0 : Int) < 2 ^ (m + 1) by positivity)
    exact Nat.mod_eq_of_lt (by zify; rw [Int.toNat_of_nonneg] <;> omega)
  simp only [intOut, if_true, Bool.false_eq_true, if_false, Nat.succ_eq_add_one, Nat.add_sub_cancel]
  rw [hout, BitVec.toInt_ofInt, Int.bmod_eq_of_le] <;> omega

theorem popCount_eq (n x : Nat) : popCount n x = (List.range n).countP (fun i => x.testBit i) := by
  have hfold (l : List Nat) (a : Nat) : l.foldl (fun a i => if bitN x i then a + 1 else a) a = a + l.countP (fun i => x.testBit i) := by
    induction l generalizing a with
    | nil => rfl
    | cons i r ih =>
      rw [List.foldl_cons, ih, List.countP_cons, bitN_eq_testBit]
      split <;> omega
  rw [popCount, hfold, Nat.zero_add]

/-- How many numbers from 0 up satisfy a test before the first that does not. -/
theorem length_takeWhile_range {n k : Nat} {p : Nat → Bool} (hk : k ≤ n) (hp : ∀ i < k, p i = true) (hn : k < n → p k = false) :
    ((List.range n).takeWhile p).length = k := by
  obtain ⟨m, rfl⟩ := Nat.exists_eq_add_of_le hk
  rw [List.range_add, List.takeWhile_append_of_pos (fun i hi => hp i (List.mem_range.mp hi))]
  cases m with
  | zero => simp
  | succ m => simp [List.range_succ_eq_map, hn (by omega)]

theorem leadZeros_eq {n x : Nat} (hx : x < 2 ^ n) :
    leadZeros n x = ((List.range n).takeWhile (fun i => !x.testBit (n - 1 - i))).length := by
  by_cases h0 : x = 0
  · rw [length_takeWhile_range le_rfl (by simp [h0]) (by simp), leadZeros, if_pos h0]
  · have hlog : x.log2 < n := (Nat.log2_lt h0).mpr hx
    rw [leadZeros, if_neg h0, length_takeWhile_range (k := n - 1 - x.log2) (by omega)]
    · intro i hi
      rw [Nat.testBit_lt_two_pow (Nat.lt_log2_self.trans_le (Nat.pow_le_pow_right two_pos (by omega)))]
      rfl
    · intro _
      rw [show n - 1 - (n - 1 - x.log2) = x.log2 by omega, Nat.testBit_log2 h0]
      rfl

/-- One bit more doubles what the others have come to. -/
theorem reverseBits_succ (n x : Nat) : reverseBits (n + 1) x = reverseBits n x * 2 + (x.testBit n).toNat := by
  have hrest : (List.range n).foldl (fun a i => if bitN x i then a + 2 ^ (n - i) else a) 0 = reverseBits n x * 2 := by
    rw [reverseBits, List.foldl_ext (g := fun a i => if bitN x i then a + 2 * 2 ^ (n - 1 - i) else a)]
    · refine List.foldl_hom (· * 2) (g₁ := fun a i => if bitN x i then a + 2 ^ (n - 1 - i) else a) (init := 0) fun a i => ?_
      split <;> omega
    · intro a i hi
      rw [← pow_succ', show n - 1 - i + 1 = n - i by have := List.mem_range.mp hi; omega]
  rw [reverseBits, List.range_succ, List.foldl_append, Nat.add_sub_cancel, hrest, List.foldl_cons, List.foldl_nil, bitN_eq_testBit, Nat.sub_self]
  cases x.testBit n <;> rfl

theorem reverseBits_eq (n x : Nat) : reverseBits n x = (BitVec.ofNat n x).reverse.toNat := by
  induction n with
  | zero => simp [reverseBits, BitVec.of_length_zero]
  | succ n ih =>
    have hmsb : (BitVec.ofNat (n + 1) x).msb = x.testBit n := by
      rw [BitVec.msb_eq_getLsbD_last, BitVec.getLsbD_ofNat]
      simp
    have hlow : (BitVec.ofNat (n + 1) x).truncate n = BitVec.ofNat n x := by simp
    rw [reverseBits_succ, ih, BitVec.reverse, BitVec.toNat_concat, hmsb, hlow]

theorem dot4_eq (uns : Bool) (a b : Nat) : dot4 uns a b = ((List.range 4).map (fun k =>
    intOf uns 8 (a / 2 ^ (8 * k) % 256) * intOf uns 8 (b / 2 ^ (8 * k) % 256))).sum := by
  rw [dot4, List.sum_eq_foldl, List.foldl_map]
  rfl

/-! Shifts (R102). -/

theorem shlN_eq (n a c : Nat) : shlN n a c = (BitVec.ofNat n a <<< c).toNat := by
  rw [BitVec.toNat_shiftLeft, BitVec.toNat_ofNat, Nat.shiftLeft_eq, Nat.mod_mul_mod]
  by_cases hc : c ≥ n
  · rw [shlN, if_pos hc, Nat.mod_eq_zero_of_dvd (Dvd.dvd.mul_left (Nat.pow_dvd_pow 2 hc) a)]
  · rw [shlN, if_neg hc]

theorem shrN_eq {n a : Nat} (ha : a < 2 ^ n) (c : Nat) : shrN n a c = (BitVec.ofNat n a >>> c).toNat := by
  rw [BitVec.toNat_ushiftRight, BitVec.toNat_ofNat, Nat.mod_eq_of_lt ha, Nat.shiftRight_eq_div_pow]
  by_cases hc : c ≥ n
  · rw [shrN, if_pos hc, Nat.div_eq_of_lt (ha.trans_le (Nat.pow_le_pow_right two_pos hc))]
  · rw [shrN, if_neg hc]

/-- Beyond n places an n-bit number shifts to its sign. -/
theorem toInt_div_min {n : Nat} (x : BitVec n) (c : Nat) : x.toInt / 2 ^ min c n = x.toInt / 2 ^ c := by
  rcases le_total c n with hc | hc
  · rw [min_eq_left hc]
  · have hlo := BitVec.le_toInt x
    have hhi := BitVec.toInt_lt (x := x)
    have hn : (2 : Int) ^ (n - 1) ≤ 2 ^ n := pow_le_pow_right₀ (by norm_num) (by omega)
    have hpow : (2 : Int) ^ n ≤ 2 ^ c := pow_le_pow_right₀ (by norm_num) hc
    rw [min_eq_right hc]
    rcases lt_or_ge x.toInt 0 with h0 | h0
    · rw [Int.ediv_eq_neg_one_of_neg_of_le h0 (by omega), Int.ediv_eq_neg_one_of_neg_of_le h0 (by omega)]
    · rw [Int.ediv_eq_zero_of_lt h0 (by omega), Int.ediv_eq_zero_of_lt h0 (by omega)]

theorem sarN_eq {n a : Nat} (hn : 0 < n) (ha : a < 2 ^ n) (c : Nat) : sarN n a c = ((BitVec.ofNat n a).sshiftRight c).toNat := by
  rw [sarN, intOf_signed hn ha, toInt_div_min, BitVec.sshiftRight_eq, BitVec.toNat_ofInt, Int.shiftRight_eq_div_pow]
  norm_cast

theorem rotlN_eq {n a : Nat} (hn : 0 < n) (ha : a < 2 ^ n) (c : Nat) : rotlN n a c = ((BitVec.ofNat n a).rotateLeft c).toNat := by
  rw [BitVec.toNat_rotateLeft, BitVec.toNat_ofNat, Nat.mod_eq_of_lt ha, Nat.shiftRight_eq_div_pow, Nat.shiftLeft_eq, rotlN]
  have hk : c % n < n := Nat.mod_lt c hn
  generalize c % n = k at hk ⊢
  have hsplit : 2 ^ n = 2 ^ k * 2 ^ (n - k) := by rw [← pow_add]; congr 1; omega
  have hlow : a / 2 ^ (n - k) < 2 ^ k := Nat.div_lt_of_lt_mul (by rwa [mul_comm, ← hsplit])
  have hhigh : a * 2 ^ k % 2 ^ n = 2 ^ k * (a % 2 ^ (n - k)) := by rw [mul_comm a, hsplit, Nat.mul_mod_mul_left]
  have hlt : 2 ^ k * (a % 2 ^ (n - k)) + a / 2 ^ (n - k) < 2 ^ n := by
    have := Nat.mul_le_mul_left (2 ^ k) (Nat.mod_lt a (Nat.two_pow_pos (n - k)))
    rw [Nat.mul_succ, ← hsplit] at this
    omega
  rw [hhigh, ← Nat.two_pow_add_eq_or_of_lt hlow, ← Nat.mod_eq_of_lt hlt, ← hhigh, Nat.mod_add_mod]

/-! Fields (R103). -/

theorem bfxN_eq (uns : Bool) (a b : Nat) : bfxN uns a b =
    (if uns then ((BitVec.ofNat (bfLen b) (a / 2 ^ bfPos b)).setWidth 32).toNat else ((BitVec.ofNat (bfLen b) (a / 2 ^ bfPos b)).signExtend 32).toNat) := by
  have hlen : bfLen b ≤ 32 := by rw [bfLen]; omega
  rw [bfxN]
  generalize bfLen b = len at hlen ⊢
  have hlt : a / 2 ^ bfPos b % 2 ^ len < 2 ^ len := Nat.mod_lt _ (Nat.two_pow_pos len)
  rcases Nat.eq_zero_or_pos len with rfl | hpos
  · simp [BitVec.of_length_zero]
  · rw [if_neg hpos.ne', bits]
    cases uns
    · have hfield : BitVec.ofNat len (a / 2 ^ bfPos b % 2 ^ len) = BitVec.ofNat len (a / 2 ^ bfPos b) := by
        apply BitVec.eq_of_toNat_eq
        rw [BitVec.toNat_ofNat, BitVec.toNat_ofNat, Nat.mod_mod]
      rw [intOf_signed hpos hlt, hfield, if_neg Bool.false_ne_true, BitVec.signExtend, BitVec.toNat_ofInt]
      rfl
    · rw [if_pos rfl, BitVec.toNat_setWidth, BitVec.toNat_ofNat, intOf, if_pos rfl]
      norm_cast

/-- The bits of a field that is replaced, and of the others. -/
theorem testBit_putField (d x pos len i : Nat) : (d - bits d pos len * 2 ^ pos + x % 2 ^ len * 2 ^ pos).testBit i =
    if pos ≤ i ∧ i < pos + len then x.testBit (i - pos) else d.testBit i := by
  have hlow : d % 2 ^ pos < 2 ^ pos := Nat.mod_lt _ (Nat.two_pow_pos pos)
  have hx : x % 2 ^ len < 2 ^ len := Nat.mod_lt _ (Nat.two_pow_pos len)
  have hd := Nat.div_add_mod d (2 ^ pos)
  have hq := Nat.div_add_mod (d / 2 ^ pos) (2 ^ len)
  have hsum : d - bits d pos len * 2 ^ pos + x % 2 ^ len * 2 ^ pos =
      2 ^ pos * (2 ^ len * (d / 2 ^ pos / 2 ^ len) + x % 2 ^ len) + d % 2 ^ pos := by
    have hmul : 2 ^ pos * (d / 2 ^ pos) = 2 ^ pos * (2 ^ len * (d / 2 ^ pos / 2 ^ len)) + bits d pos len * 2 ^ pos := by
      calc 2 ^ pos * (d / 2 ^ pos) = 2 ^ pos * (2 ^ len * (d / 2 ^ pos / 2 ^ len) + d / 2 ^ pos % 2 ^ len) := by rw [hq]
        _ = _ := by rw [mul_add, bits, mul_comm (d / 2 ^ pos % 2 ^ len)]
    rw [mul_add, mul_comm (2 ^ pos) (x % 2 ^ len)]
    omega
  rw [hsum, Nat.testBit_two_pow_mul_add _ hlow, Nat.testBit_two_pow_mul_add _ hx]
  simp only [Nat.testBit_mod_two_pow, Nat.testBit_div_two_pow]
  by_cases h1 : i < pos
  · simp [h1]
  · by_cases h2 : i - pos < len
    · simp [h1, h2, show pos ≤ i ∧ i < pos + len by omega]
    · simp [h1, h2, show ¬ (pos ≤ i ∧ i < pos + len) by omega, show i - pos - len + len + pos = i by omega]

theorem bfiN_eq {d : Nat} (hd : d < 2 ^ 32) (a b : Nat) : bfiN a b d =
    let mask : BitVec 32 := BitVec.ofNat 32 ((2 ^ bfLen b - 1) * 2 ^ bfPos b)
    ((BitVec.ofNat 32 d &&& ~~~mask) ||| ((BitVec.ofNat 32 a <<< bfPos b) &&& mask)).toNat := by
  refine Nat.eq_of_testBit_eq fun i => ?_
  have hlen : bfPos b + bfLen b ≤ 32 := by rw [bfLen, bfPos]; omega
  rw [bfiN, testBit_putField, BitVec.testBit_toNat]
  by_cases hi : i < 32
  · simp only [BitVec.getLsbD_or, BitVec.getLsbD_and, BitVec.getLsbD_not, BitVec.getLsbD_shiftLeft, BitVec.getLsbD_ofNat,
      Nat.testBit_mul_two_pow, Nat.testBit_two_pow_sub_one, hi, show i - bfPos b < 32 by omega, decide_true, Bool.true_and]
    by_cases h1 : bfPos b ≤ i
    · by_cases h2 : i < bfPos b + bfLen b
      · simp [h1, h2, show i - bfPos b < bfLen b by omega]
      · simp [h1, h2, show ¬ i - bfPos b < bfLen b by omega]
    · simp [h1]
  · rw [if_neg (by omega), BitVec.getLsbD_of_ge _ _ (by omega), Nat.testBit_lt_two_pow (hd.trans_le (Nat.pow_le_pow_right two_pos (by omega)))]

/-! Masks of threads (R13). -/

theorem testBit_sum_powers (n : Nat) (p : Nat → Bool) :
    (List.range n).foldl (fun a t => if p t then a + 2 ^ t else a) 0 < 2 ^ n ∧
    ∀ t, ((List.range n).foldl (fun a t => if p t then a + 2 ^ t else a) 0).testBit t = (decide (t < n) && p t) := by
  induction n with
  | zero => simp
  | succ n ih =>
    obtain ⟨hlt, hbit⟩ := ih
    rw [List.range_succ, List.foldl_append, List.foldl_cons, List.foldl_nil]
    generalize (List.range n).foldl (fun a t => if p t then a + 2 ^ t else a) 0 = x at hlt hbit ⊢
    have hpow : 2 ^ (n + 1) = 2 ^ n * 2 := pow_succ 2 n
    refine ⟨by split <;> omega, fun t => ?_⟩
    have hnew : (if p n then x + 2 ^ n else x) = 2 ^ n * (p n).toNat + x := by cases p n <;> simp [add_comm]
    rw [hnew, Nat.testBit_two_pow_mul_add _ hlt, hbit]
    rcases lt_trichotomy t n with ht | rfl | ht
    · simp [ht, Nat.lt_succ_of_lt ht]
    · cases p t <;> simp
    · have h1 : ¬ t < n := by omega
      have h2 : ¬ t < n + 1 := by omega
      have h3 : t - n ≠ 0 := by omega
      cases p n <;> simp [h1, h2, Nat.testBit_lt_two_pow (Nat.one_lt_two_pow h3)]

theorem getLsbD_maskOf (n : Nat) (p : Nat → Bool) (t : Nat) : (maskOf n p).getLsbD t = (decide (t < 256) && (decide (t < n) && p t)) := by
  rw [maskOf, BitVec.getLsbD_ofNat, (testBit_sum_powers n p).2]

end Sys2Proof.Machine
end

section
namespace Sys2Proof.Machine

/-! Operands as numbers (R25, R99), and lanewise instructions whose destination is the first register operand (R81). -/

theorem wordsToNat_lt (ws : List Word) : wordsToNat ws < 2 ^ (32 * ws.length) := by
  induction ws with
  | nil => exact Nat.one_pos
  | cons w r ih =>
    have hw := w.isLt
    rw [wordsToNat, List.length_cons, mul_add, mul_one, pow_add]
    omega

theorem opRun_lt (e : Env) (u : Bool) (pos r n t : Nat) : wordsToNat (e.opRun u pos r n t) < 2 ^ (32 * n) := by
  simpa [Env.opRun] using wordsToNat_lt (e.opRun u pos r n t)

theorem opA_lt (e : Env) (f : RRR) (n t : Nat) : e.opA f n t < 2 ^ (32 * n) := opRun_lt e f.u 0 f.a.toNat n t

theorem opB_lt (e : Env) (f : RRR) (na n t : Nat) : e.opB f na n t < 2 ^ (32 * n) := by
  rw [Env.opB]
  split
  · simpa using wordsToNat_lt ((List.range n).map (fun i => e.c.readS e.tick (f.b.toNat + i)))
  · exact opRun_lt e f.u na f.b.toNat n t

theorem opD_lt (e : Env) (f : RRR) (pos n t : Nat) : e.opD f pos n t < 2 ^ (32 * n) := opRun_lt e f.u pos f.d.toNat n t

theorem nbits_pos (f : RRR) : 0 < f.nbits := by
  rw [RRR.nbits, RRR.width]
  split <;> omega

/-- The first register operand is the destination, whose old value may be an operand too. -/
theorem destSettled_dest {e : Env} {i : Instr} {u : Bool} {d : RegNo} {n : Nat} (hs : Settled e i)
    (hu : ∃ rd, i.uses.head? = some { file := fileOf u, reg := d.toNat, n := n, align := n, rd := rd, wr := true }) :
    DestSettled e u d.toNat n := by
  obtain ⟨rd, hu⟩ := hu
  exact destSettled_of_settled hs ⟨_, List.mem_of_head? hu, rfl, rfl, le_rfl, Bool.or_true rd⟩

section Lanes
variable {i : Instr} {u : Bool} {d : RegNo} {n : Nat} {g val : Env → Nat → Nat × Word} {x : Env → Nat → Nat}
  (hx : ∀ s, exec i s = issue i s (lanewise u d.toNat n g))
  (hu : ∃ rd, i.uses.head? = some { file := fileOf u, reg := d.toNat, n := n, align := n, rd := rd, wr := true })
include hx hu

theorem givesF_lanes (hv : ∀ e t, g e t = val e t) : GivesF i u d.toNat n val :=
  givesF_of_body hx (fun _ _ _ hs => destSettled_dest hs hu) (fun _ _ => rfl) fun e t _ => hv e t

theorem gives_lanes (hv : ∀ e t, g e t = clean (x e t)) : Gives i u d.toNat n x :=
  gives_of_body hx (fun _ _ _ hs => destSettled_dest hs hu) (fun _ _ => rfl) fun e t _ => hv e t

end Lanes

/-! Immediates (R84, R123). -/

section Immediate
variable (x : BitVec 16) (w : Word)

theorem movih_value : x.toNat * 2 ^ 16 + w.toNat % 2 ^ 16 = (x ++ (BitVec.ofNat 32 w.toNat).extractLsb' 0 16).toNat := by
  have hlow : ((BitVec.ofNat 32 w.toNat).extractLsb' 0 16).toNat = w.toNat % 2 ^ 16 := by simp
  rw [BitVec.toNat_append, hlow, ← Nat.shiftLeft_add_eq_or_of_lt (Nat.mod_lt _ (by norm_num)), Nat.shiftLeft_eq]

theorem iaddi_value : (w.toNat + (x.signExtend 32).toNat) % 2 ^ 32 = (BitVec.ofNat 32 w.toNat + x.signExtend 32).toNat := by
  simp [BitVec.toNat_add]

theorem imuli_value : w.toNat * (x.signExtend 32).toNat % 2 ^ 32 = (BitVec.ofNat 32 w.toNat * x.signExtend 32).toNat := by
  simp [BitVec.toNat_mul]

theorem toNat_setWidth_imm : (x.setWidth 32).toNat = x.toNat := BitVec.toNat_setWidth_of_le (by decide)

theorem andi_value : w.toNat &&& x.toNat = (BitVec.ofNat 32 w.toNat &&& x.setWidth 32).toNat := by
  rw [BitVec.toNat_and, toNat_setWidth_imm, BitVec.ofNat_toNat, BitVec.setWidth_eq]

theorem ori_value : w.toNat ||| x.toNat = (BitVec.ofNat 32 w.toNat ||| x.setWidth 32).toNat := by
  rw [BitVec.toNat_or, toNat_setWidth_imm, BitVec.ofNat_toNat, BitVec.setWidth_eq]

theorem xori_value : w.toNat ^^^ x.toNat = (BitVec.ofNat 32 w.toNat ^^^ x.setWidth 32).toNat := by
  rw [BitVec.toNat_xor, toNat_setWidth_imm, BitVec.ofNat_toNat, BitVec.setWidth_eq]

end Immediate

theorem ite_neg_eq_abs (a : Int) : (if a < 0 then -a else a) = |a| := by
  split
  · next h => rw [abs_of_neg h]
  · next h => rw [abs_of_nonneg (not_lt.mp h)]

/-- Settles O1: each instruction is lanewise, and its body's value is the exact one of the claim. -/
theorem integerResults : Obligations.IntegerResults := by
  refine ⟨fun n x hn => ⟨fun uns => intOut_wrap uns n x, intOut_clamp_unsigned n x, intOut_clamp_signed (by omega) x⟩, fun f => ?_, fun f => ?_⟩
  · refine ⟨fun s e h => ?_, ?_, ?_, ?_, ?_, ?_, ?_, ?_, ?_, ?_, ?_, ?_, ?_, ?_⟩
    · show execNop f s = _
      rw [execNop, issue_runs h, h.finish_eq rfl]
    · exact gives_lanes (fun s => (rfl : execIadd f s = _)) ⟨_, rfl⟩ fun _ _ => rfl
    · exact gives_lanes (fun s => (rfl : execIsub f s = _)) ⟨_, rfl⟩ fun _ _ => rfl
    · exact gives_lanes (fun s => (rfl : execImul f s = _)) ⟨_, rfl⟩ fun _ _ => rfl
    · exact gives_lanes (fun s => (rfl : execImulh f s = _)) ⟨_, rfl⟩ fun _ _ => rfl
    · exact gives_lanes (fun s => (rfl : execImad f s = _)) ⟨_, rfl⟩ fun _ _ => rfl
    · exact gives_lanes (fun s => (rfl : execImin f s = _)) ⟨_, rfl⟩ fun _ _ => rfl
    · exact gives_lanes (fun s => (rfl : execImax f s = _)) ⟨_, rfl⟩ fun _ _ => rfl
    · exact gives_lanes (fun s => (rfl : execIabs f s = _)) ⟨_, rfl⟩ fun _ _ =>
        congrArg (fun x => clean (intOut f.sat f.uns f.nbits x)) (ite_neg_eq_abs _)
    · exact gives_lanes (fun s => (rfl : execIneg f s = _)) ⟨_, rfl⟩ fun _ _ => rfl
    · exact gives_lanes (fun s => (rfl : execPopc f s = _)) ⟨_, rfl⟩ fun e t => congrArg clean (popCount_eq _ _)
    · exact gives_lanes (fun s => (rfl : execClz f s = _)) ⟨_, rfl⟩ fun e t => congrArg clean (leadZeros_eq (opA_lt e f f.width t))
    · exact gives_lanes (fun s => (rfl : execBrev f s = _)) ⟨_, rfl⟩ fun e t => congrArg clean (reverseBits_eq _ _)
    · exact gives_lanes (fun s => (rfl : execIdot4 f s = _)) ⟨_, rfl⟩ fun e t =>
        congrArg (fun x => clean (intOut f.sat f.uns 32 (intOf f.uns 32 (e.opD f 2 1 t) + x))) (dot4_eq _ _ _)
  · refine ⟨?_, ?_, ?_, ?_, ?_, ?_, ?_, ?_, ?_⟩
    · exact gives_lanes (fun s => (rfl : execMovi f s = _)) ⟨_, rfl⟩ fun _ _ => rfl
    · exact gives_lanes (fun s => (rfl : execMovih f s = _)) ⟨_, rfl⟩ fun _ _ => congrArg clean (movih_value _ _)
    · exact gives_lanes (fun s => (rfl : execIaddi f s = _)) ⟨_, rfl⟩ fun _ _ => congrArg clean (iaddi_value _ _)
    · exact gives_lanes (fun s => (rfl : execImuli f s = _)) ⟨_, rfl⟩ fun _ _ => congrArg clean (imuli_value _ _)
    · exact gives_lanes (fun s => (rfl : execAndi f s = _)) ⟨_, rfl⟩ fun _ _ => congrArg clean (andi_value _ _)
    · exact gives_lanes (fun s => (rfl : execOri f s = _)) ⟨_, rfl⟩ fun _ _ => congrArg clean (ori_value _ _)
    · exact gives_lanes (fun s => (rfl : execXori f s = _)) ⟨_, rfl⟩ fun _ _ => congrArg clean (xori_value _ _)
    · exact gives_lanes (fun s => (rfl : execShli f s = _)) ⟨_, rfl⟩ fun _ _ => congrArg clean (shlN_eq _ _ _)
    · exact gives_lanes (fun s => (rfl : execShri f s = _)) ⟨_, rfl⟩ fun _ _ => congrArg clean (shrN_eq (BitVec.isLt _) _)

/-- Settles O2: the bit-vector operation of each instruction is its body's arithmetic on numbers below 2^n. -/
theorem logicShiftAndFieldResults : Obligations.LogicShiftAndFieldResults := by
  intro f
  have ha (e : Env) (t : Nat) : (BitVec.ofNat f.nbits (e.opA f f.width t)).toNat = e.opA f f.width t := Nat.mod_eq_of_lt (opA_lt e f f.width t)
  have hb (e : Env) (t : Nat) : (BitVec.ofNat f.nbits (e.opB f f.width f.width t)).toNat = e.opB f f.width f.width t :=
    Nat.mod_eq_of_lt (opB_lt e f f.width f.width t)
  refine ⟨?_, ?_, ?_, ?_, ?_, ?_, ?_, ?_, ?_, ?_, ?_, ?_, ?_⟩
  · refine gives_lanes (fun s => (rfl : execAndI f s = _)) ⟨_, rfl⟩ fun e t => ?_
    rw [BitVec.toNat_and, ha, hb]
  · refine gives_lanes (fun s => (rfl : execOrI f s = _)) ⟨_, rfl⟩ fun e t => ?_
    rw [BitVec.toNat_or, ha, hb]
  · refine gives_lanes (fun s => (rfl : execXorI f s = _)) ⟨_, rfl⟩ fun e t => ?_
    rw [BitVec.toNat_xor, ha, hb]
  · refine gives_lanes (fun s => (rfl : execNotI f s = _)) ⟨_, rfl⟩ fun e t => ?_
    rw [BitVec.toNat_not, ha]
  · exact gives_lanes (fun s => (rfl : execShl f s = _)) ⟨_, rfl⟩ fun e t => congrArg clean (shlN_eq _ _ _)
  · exact gives_lanes (fun s => (rfl : execShr f s = _)) ⟨_, rfl⟩ fun e t => congrArg clean (shrN_eq (opA_lt e f f.width t) _)
  · exact gives_lanes (fun s => (rfl : execSar f s = _)) ⟨_, rfl⟩ fun e t => congrArg clean (sarN_eq (nbits_pos f) (opA_lt e f f.width t) _)
  · exact gives_lanes (fun s => (rfl : execRotl f s = _)) ⟨_, rfl⟩ fun e t => congrArg clean (rotlN_eq (nbits_pos f) (opA_lt e f f.width t) _)
  · exact gives_lanes (fun s => (rfl : execMovI f s = _)) ⟨_, rfl⟩ fun _ _ => rfl
  · exact gives_lanes (fun s => (rfl : execSel f s = _)) ⟨_, rfl⟩ fun _ _ => rfl
  · exact gives_lanes (fun s => (rfl : execBfx f s = _)) ⟨_, rfl⟩ fun e t => congrArg clean (bfxN_eq f.uns _ _)
  · exact gives_lanes (fun s => (rfl : execBfi f s = _)) ⟨_, rfl⟩ fun e t => congrArg clean (bfiN_eq (opD_lt e f 2 1 t) _ _)
  · exact gives_lanes (fun s => (rfl : execPrmt f s = _)) ⟨_, rfl⟩ fun _ _ => rfl

end Sys2Proof.Machine
end

section
namespace Sys2Proof.Machine

/-! Predicates (R99, R104, R120-R122). -/

/-- The field rules of an instruction that writes a predicate have the predicate's number below 8 (R99). -/
theorem Runs.pred_le {i : Instr} {s : State} {e : Env} (h : Runs i s e) {d : RegNo} {x y : Bool} (hr : i.fieldRules = (x && isPred d && y)) :
    d.toNat ≤ 7 := by
  have hok := h.fieldRules
  rw [hr, Bool.and_eq_true, Bool.and_eq_true] at hok
  exact Nat.le_of_lt_succ (of_decide_eq_true hok.1.2)

theorem setPreds_sets {i : Instr} {s : State} {e e' : Env} (h : Runs i s e) {p : Nat} (hp : p ≤ 7) {g : Nat → Bool}
    (hx : exec i s = .next (setPreds p g e' s)) (href : e'.ref = e.ref) (hadv : ∀ c : Coach, c.advance e' = c.advance e) :
    SetsPred i s e p e'.threads g := by
  obtain ⟨c, hc, hset, hothers, hrest⟩ := setsPred_of h p hp g e'.threads
  refine ⟨c, ?_, hset, hothers, hrest⟩
  simp only [hx, setPreds, finishC, href, hadv, hc]

theorem givesPred_lanes {i : Instr} {p : Nat} {g val : Env → Nat → Bool} (hx : ∀ s, exec i s = issue i s (fun e s => setPreds p (g e) e s))
    (hp : ∀ {s e}, Runs i s e → p ≤ 7) (hv : ∀ e, ∀ t ∈ e.threads, g e t = val e t) : GivesPred i p val := by
  intro s e h
  obtain ⟨c, hc, hset, hrest⟩ := setPreds_sets h (hp h) ((hx s).trans (issue_runs h _)) rfl fun _ => rfl
  exact ⟨c, hc, fun t ht => by rw [hset t ht, hv e t ht], hrest⟩

theorem cmpPred_eq (f : RRR) : cmpPred f = f.d.toNat % 8 := by simp [cmpPred, bits]

theorem cmpCond_eq (f : RRR) : cmpCond f = f.d.toNat / 8 := by
  have := f.d.isLt
  rw [cmpCond, bits]
  omega

theorem cmpPred_le (f : RRR) : cmpPred f ≤ 7 := by
  rw [cmpPred_eq]
  omega

/-- Settles O3: the D field holds the predicate in its low three bits and the condition above them. -/
theorem compareResults : Obligations.CompareResults := by
  intro f
  rw [← cmpPred_eq, ← cmpCond_eq]
  refine ⟨?_, ?_⟩
  · refine givesPred_lanes (fun s => (rfl : execIcmp f s = _)) (fun _ => cmpPred_le f) fun e t _ => ?_
    match cmpCond f with
    | 0 | 2 | 3 | 4 | _ + 5 => rfl
    | 1 => exact decide_not
  · exact givesPred_lanes (fun s => (rfl : execFcmp f s = _)) (fun _ => cmpPred_le f) fun _ _ _ => rfl

theorem threads_sorted (e : Env) : e.threads.Pairwise (· < ·) := List.pairwise_lt_range.filter _

/-- The first active thread is the lowest (R121). -/
theorem head_threads {e : Env} {t : Nat} (ht : t ∈ e.threads) : decide (e.threads.head? = some t) = decide (∀ x ∈ e.threads, t ≤ x) := by
  have hsort := threads_sorted e
  refine decide_eq_decide.mpr ?_
  generalize e.threads = l at ht hsort ⊢
  cases l with
  | nil => simp at ht
  | cons a r =>
    have hlow := (List.pairwise_cons.mp hsort).1
    rw [List.head?_cons, Option.some_inj]
    constructor
    · rintro rfl x hx
      rcases List.mem_cons.mp hx with rfl | hx
      · exact le_rfl
      · exact (hlow x hx).le
    · intro hle
      rcases List.mem_cons.mp ht with rfl | hr
      · rfl
      · exact absurd (hle a List.mem_cons_self) (hlow t hr).not_ge

/-- The active threads under a further mask. -/
theorem threadsOf_maskOf (n : Nat) (m : Mask) (p : Nat → Bool) : threadsOf n (m &&& maskOf n p) = (threadsOf n m).filter p := by
  rw [threadsOf, threadsOf, List.filter_filter]
  refine List.filter_congr fun t ht => ?_
  rw [BitVec.getLsbD_and, getLsbD_maskOf, decide_eq_true (List.mem_range.mp ht), Bool.true_and, Bool.and_comm]
  cases hm : m.getLsbD t with
  | false => simp
  | true => simp [BitVec.lt_of_getLsbD hm]

theorem pmask_sets {f : RRR} {s : State} {e : Env} (h : Runs (.pmask f) s e) :
    SetsPred (.pmask f) s e f.d.toNat (e.threads.filter (fun t => decide (t / 32 = f.a.toNat)))
      (fun t => (e.c.readS e.tick f.b.toNat).getLsbD (t % 32)) := by
  have hx : exec (.pmask f) s = .next (setPreds f.d.toNat (fun t => (e.c.readS e.tick f.b.toNat).getLsbD (t % 32))
      { e with active := e.active &&& maskOf e.wg.threads (fun t => decide (t / 32 = f.a.toNat)) } s) := by
    show execPmask f s = _
    exact issue_runs h _
  rw [Env.threads, ← threadsOf_maskOf]
  exact setPreds_sets h (h.pred_le rfl) hx rfl fun _ => rfl

/-- Adding a number for each member that satisfies a test. -/
theorem foldl_add_if (p : Nat → Prop) [DecidablePred p] (g : Nat → Nat) (l : List Nat) (a : Nat) :
    l.foldl (fun a t => if p t then a + g t else a) a = a + ((l.filter (fun t => decide (p t))).map g).sum := by
  induction l generalizing a with
  | nil => rfl
  | cons t r ih =>
    rw [List.foldl_cons, ih, List.filter_cons]
    by_cases ht : p t
    · simp [ht, add_assoc]
    · simp [ht]

theorem voteOf_eq (f : RRR) (e : Env) : voteOf f e = (match f.m.toNat % 4 with
    | 0 => (((votes f e).filter (fun t => decide (t / 32 = f.b.toNat))).map (fun t => 2 ^ (t % 32))).sum
    | 1 => if votes f e = [] then 0 else 1
    | 2 => if votes f e = e.threads then 1 else 0
    | _ => (votes f e).length) := by
  rw [voteOf]
  match f.m.toNat % 4 with
  | 0 => exact (foldl_add_if _ _ _ 0).trans (Nat.zero_add _)
  | 1 => simp only [List.isEmpty_iff]
  | 2 =>
    have hall : (votes f e).length = e.threads.length ↔ votes f e = e.threads := List.filter_sublist.length_eq
    simp only [hall]
  | _ + 3 => rfl

/-- Settles O12: each instruction sets a predicate in the active threads (PMASK in those of its word); VOTE is lanewise. -/
theorem predicateResults : Obligations.PredicateResults := by
  intro f
  refine ⟨?_, ?_, ?_, ?_, ?_, ?_, fun s e h => pmask_sets h, ?_⟩
  · exact givesPred_lanes (fun s => (rfl : execPand f s = _)) (fun h => h.pred_le (Bool.and_assoc _ _ _)) fun _ _ _ => rfl
  · exact givesPred_lanes (fun s => (rfl : execPor f s = _)) (fun h => h.pred_le (Bool.and_assoc _ _ _)) fun _ _ _ => rfl
  · exact givesPred_lanes (fun s => (rfl : execPxor f s = _)) (fun h => h.pred_le (Bool.and_assoc _ _ _)) fun _ _ _ => rfl
  · exact givesPred_lanes (fun s => (rfl : execPnot f s = _)) (fun h => h.pred_le rfl) fun _ _ _ => rfl
  · exact givesPred_lanes (fun s => (rfl : execPsets f s = _)) (fun h => h.pred_le rfl) fun _ _ _ => rfl
  · exact givesPred_lanes (fun s => (rfl : execElect f s = _)) (fun h => h.pred_le rfl) fun _ _ => head_threads
  · exact gives_lanes (fun s => (rfl : execVote f s = _)) ⟨_, rfl⟩ fun e _ => congrArg clean (voteOf_eq f e)

end Sys2Proof.Machine
end

section
namespace Sys2Proof.Machine

/-! FP32, packed halves and FP64 (R106-R109, R124). -/

theorem mod_eq_and_magnitude (a : Nat) : a % 2 ^ 31 = (BitVec.ofNat 32 a &&& 0x7FFFFFFF).toNat := by
  have hmask : (0x7FFFFFFF : BitVec 32).toNat = 2 ^ 31 - 1 := rfl
  rw [BitVec.toNat_and, hmask, Nat.and_two_pow_sub_one_eq_mod, BitVec.toNat_ofNat]
  omega

/-- The sign bit is the highest one, so that adding it, modulo the width, inverts it. -/
theorem add_eq_xor_sign (a : Nat) : (a + 2 ^ 31) % 2 ^ 32 = (BitVec.ofNat 32 a ^^^ 0x80000000).toNat := by
  rw [← BitVec.toNat_ofNat]
  refine congrArg BitVec.toNat (BitVec.eq_of_getLsbD_eq fun i hi => ?_)
  have hsign : (0x80000000 : BitVec 32).getLsbD i = decide (31 = i) := by
    rw [show (0x80000000 : BitVec 32) = BitVec.ofNat 32 (2 ^ 31) from rfl, BitVec.getLsbD_ofNat, Nat.testBit_two_pow, decide_eq_true hi, Bool.true_and]
  rw [BitVec.getLsbD_xor, hsign, BitVec.getLsbD_ofNat, BitVec.getLsbD_ofNat, decide_eq_true hi, Bool.true_and, Bool.true_and, add_comm]
  rcases Nat.lt_or_eq_of_le (Nat.le_of_lt_succ hi) with h | rfl
  · rw [Nat.testBit_two_pow_add_gt h, decide_eq_false (by omega), Bool.xor_false]
  · rw [Nat.testBit_two_pow_add_eq, decide_eq_true rfl, Bool.xor_true]

/-- The four bytes of a word computed one after the other, their flags together (R124). -/
theorem four_bytes (r : Nat → Nat × Word) :
    (List.range 4).foldl (fun (x : Nat × Word) k => (x.1 + (r k).1 * 2 ^ (8 * k), x.2 ||| (r k).2)) (0, flNone) =
      ((r 0).1 + (r 1).1 * 2 ^ 8 + (r 2).1 * 2 ^ 16 + (r 3).1 * 2 ^ 24, (r 0).2 ||| (r 1).2 ||| (r 2).2 ||| (r 3).2) := by
  simp [List.range_succ, flNone]

/-- Settles O4: each body rounds the exact result of the claim. -/
theorem fp32Results : Obligations.Fp32Results := by
  refine ⟨fun f => ⟨?_, ?_, ?_, ?_, ?_, ?_, ?_, ?_, ?_, ?_, ?_, ?_⟩, fun f => ⟨?_, ?_, ?_, ?_, ?_, ?_, ?_, ?_, ?_⟩⟩
  · exact givesF_lanes (fun s => (rfl : execFadd f s = _)) ⟨_, rfl⟩ fun _ _ => rfl
  · exact givesF_lanes (fun s => (rfl : execFsub f s = _)) ⟨_, rfl⟩ fun _ _ => rfl
  · exact givesF_lanes (fun s => (rfl : execFmul f s = _)) ⟨_, rfl⟩ fun _ _ => rfl
  · exact givesF_lanes (fun s => (rfl : execFfma f s = _)) ⟨_, rfl⟩ fun _ _ => rfl
  · exact givesF_lanes (fun s => (rfl : execFdiv f s = _)) ⟨_, rfl⟩ fun _ _ => rfl
  · exact givesF_lanes (fun s => (rfl : execFsqrt f s = _)) ⟨_, rfl⟩ fun _ _ => rfl
  · exact givesF_lanes (fun s => (rfl : execFrnd f s = _)) ⟨_, rfl⟩ fun _ _ => rfl
  · exact givesF_lanes (fun s => (rfl : execFscl f s = _)) ⟨_, rfl⟩ fun e t =>
      congrArg (fun x => f32Out f (.ok ((f32In f (e.opA f 1 t)).scale (max (-4096) (min 4096 x))))) (intOf_signed (by decide) (opB_lt e f 1 1 t))
  · exact gives_lanes (fun s => (rfl : execFmin f s = _)) ⟨_, rfl⟩ fun _ _ => rfl
  · exact gives_lanes (fun s => (rfl : execFmax f s = _)) ⟨_, rfl⟩ fun _ _ => rfl
  · exact gives_lanes (fun s => (rfl : execFabs f s = _)) ⟨_, rfl⟩ fun e t =>
      congrArg (fun x => clean (if (Fv.ofBits fp32 (e.opA f 1 t)).isNan then fp32.nan else x)) (mod_eq_and_magnitude _)
  · exact gives_lanes (fun s => (rfl : execFneg f s = _)) ⟨_, rfl⟩ fun e t =>
      congrArg (fun x => clean (if (Fv.ofBits fp32 (e.opA f 1 t)).isNan then fp32.nan else x)) (add_eq_xor_sign _)
  · exact givesF_lanes (fun s => (rfl : execFmovi f s = _)) ⟨_, rfl⟩ fun _ _ => rfl
  · exact givesF_lanes (fun s => (rfl : execFaddi f s = _)) ⟨_, rfl⟩ fun _ _ => rfl
  · exact givesF_lanes (fun s => (rfl : execFmuli f s = _)) ⟨_, rfl⟩ fun _ _ => rfl
  · exact givesF_lanes (fun s => (rfl : execHaddi2h f s = _)) ⟨_, rfl⟩ fun _ _ => rfl
  · exact givesF_lanes (fun s => (rfl : execHaddi2b f s = _)) ⟨_, rfl⟩ fun _ _ => rfl
  · exact givesF_lanes (fun s => (rfl : execHmuli2h f s = _)) ⟨_, rfl⟩ fun _ _ => rfl
  · exact givesF_lanes (fun s => (rfl : execHmuli2b f s = _)) ⟨_, rfl⟩ fun _ _ => rfl
  · exact givesF_lanes (fun s => (rfl : execF8muli f s = _)) ⟨_, rfl⟩ fun _ _ => four_bytes _
  · exact givesF_lanes (fun s => (rfl : execF8addi f s = _)) ⟨_, rfl⟩ fun _ _ => four_bytes _

/-- Settles O5: each body computes the halves, or the FP64 value, of the claim. -/
theorem packedAndFp64Results : Obligations.PackedAndFp64Results := by
  intro f
  refine ⟨?_, ?_, ?_, ?_, ?_, ?_, ?_, ?_, ?_, ?_, ?_, ?_, ?_, ?_, ?_⟩
  · exact givesF_lanes (fun s => (rfl : execHadd2 f s = _)) ⟨_, rfl⟩ fun _ _ => rfl
  · exact givesF_lanes (fun s => (rfl : execHsub2 f s = _)) ⟨_, rfl⟩ fun _ _ => rfl
  · exact givesF_lanes (fun s => (rfl : execHmul2 f s = _)) ⟨_, rfl⟩ fun _ _ => rfl
  · exact givesF_lanes (fun s => (rfl : execHfma2 f s = _)) ⟨_, rfl⟩ fun _ _ => rfl
  · exact givesF_lanes (fun s => (rfl : execHmin2 f s = _)) ⟨_, rfl⟩ fun _ _ => rfl
  · exact givesF_lanes (fun s => (rfl : execHmax2 f s = _)) ⟨_, rfl⟩ fun _ _ => rfl
  · exact givesF_lanes (fun s => (rfl : execHdot2 f s = _)) ⟨_, rfl⟩ fun _ _ => rfl
  · exact givesF_lanes (fun s => (rfl : execDadd f s = _)) ⟨_, rfl⟩ fun _ _ => rfl
  · exact givesF_lanes (fun s => (rfl : execDsub f s = _)) ⟨_, rfl⟩ fun _ _ => rfl
  · exact givesF_lanes (fun s => (rfl : execDmul f s = _)) ⟨_, rfl⟩ fun _ _ => rfl
  · exact givesF_lanes (fun s => (rfl : execDfma f s = _)) ⟨_, rfl⟩ fun _ _ => rfl
  · exact givesF_lanes (fun s => (rfl : execDdiv f s = _)) ⟨_, rfl⟩ fun _ _ => rfl
  · exact givesF_lanes (fun s => (rfl : execDsqrt f s = _)) ⟨_, rfl⟩ fun _ _ => rfl
  · exact gives_lanes (fun s => (rfl : execDmin f s = _)) ⟨_, rfl⟩ fun _ _ => rfl
  · exact gives_lanes (fun s => (rfl : execDmax f s = _)) ⟨_, rfl⟩ fun _ _ => rfl

end Sys2Proof.Machine
end

section
namespace Sys2Proof.Machine

/-! Lane exchanges (R118), and single values read and written across threads (R122). -/

/-- Lane exchanges differ in the partner alone. -/
theorem gives_lanePick {i : Instr} {f : RRR} {partner : Env → Nat → Nat} {val : Env → Nat → Nat} (hx : ∀ s, exec i s = issue i s (lanePick f partner))
    (hd : ∀ s e, Runs i s e → Settled e i → DestSettled e false f.d.toNat 1) (hv : ∀ e t, e.opA f 1 (partner e t) = val e t) :
    Gives i false f.d.toNat 1 val :=
  gives_of_body hx hd (fun _ _ => rfl) fun e t _ => congrArg clean (hv e t)

theorem vget_computes {f : RRR} {s : State} {e : Env} (h : Runs (.vget f) s e) (hs : Settled e (.vget f)) :
    Computes (.vget f) s e true f.d.toNat 1 (fun _ => (e.c.readV e.tick f.a.toNat (namedThread f e)).toNat) := by
  refine ⟨_, ?_, wrote_lanes e true f.d.toNat 1 _ (destSettled_dest hs ⟨_, rfl⟩)⟩
  have hw : (e.units true).flatMap (fun t => putRun true f.d.toNat 1 t (e.c.readV e.tick f.a.toNat (namedThread f e)).toNat) =
      [{ scalar := true, reg := f.d.toNat, thread := 0, val := e.c.readV e.tick f.a.toNat (namedThread f e) }] := by
    simp [Env.units, putRun, natToWords]
  show execVget f s = _
  rw [hw, execVget, issue_runs h, ← h.ref]
  exact congrArg Host.Outcome.next (modCoach_of_coach (by rw [h.ref]; exact h.coach) _)

theorem advance_putV (c : Coach) (e : Env) (n t : Nat) (x : Word) : (c.putV n t x).advance e = (c.advance e).putV n t x := by
  unfold Coach.advance Coach.putV
  split <;> rfl

theorem vput_next {f : RRR} {s : State} {e : Env} (h : Runs (.vput f) s e) (hs : Settled e (.vput f)) :
    exec (.vput f) s = .next (s.setCoach s.cur ((e.c.advance e).putV f.d.toNat (namedThread f e) (e.c.readS e.tick f.a.toNat))) := by
  have hd : DestSettled e false f.d.toNat 1 := destSettled_dest hs ⟨_, rfl⟩
  have hw : e.c.writeRegs e.tick [{ scalar := false, reg := f.d.toNat, thread := namedThread f e, val := e.c.readS e.tick f.a.toNat }] =
      e.c.putV f.d.toNat (namedThread f e) (e.c.readS e.tick f.a.toNat) :=
    writeV_settled (hd 0 one_pos (namedThread f e)) e.tick _
  show execVput f s = _
  rw [execVput, issue_runs h, ← advance_putV, ← hw, ← h.ref]
  exact congrArg Host.Outcome.next (modCoach_of_coach (by rw [h.ref]; exact h.coach) _)

/-- One value written into a v register of one thread, in its effect on the coach. -/
theorem putV_wrote (e : Env) {n t : Nat} (ht : t < 256) (x : Word) :
    ((e.c.advance e).putV n t x).rawReg false n t = x ∧
    (∀ sc r y, y < 256 → ¬ (sc = false ∧ r = n ∧ y = t) → ((e.c.advance e).putV n t x).rawReg sc r y = e.c.rawReg sc r y) ∧
    { (e.c.advance e).putV n t x with v := e.c.v } = e.c.advance e :=
  ⟨rawReg_putV_self _ n t x, fun sc r y hy hn => by rw [rawReg_putV _ n t x sc r y ht hy, if_neg hn, rawReg_advance],
    congrArg (fun v => { e.c.advance e with v := v }) (advance_v e.c e).symm⟩

/-- Settles O10: a lane exchange is lanewise in its partner's operand; VGET and VPUT are one register write. -/
theorem laneResults : Obligations.LaneResults := by
  refine ⟨fun f => ⟨?_, ?_, ?_, ?_⟩, fun f s e => ⟨vget_computes, fun h hs ht => ⟨_, vput_next h hs, putV_wrote e ht _⟩⟩⟩
  · exact gives_lanePick (fun s => (rfl : execLxch f s = _))
      (fun _ _ h hs => dest_settled_threads h hs ((Bool.and_assoc _ _ _).trans (Bool.and_assoc _ _ _)) rfl) fun _ _ => rfl
  · exact gives_lanePick (fun s => (rfl : execLshfl f s = _)) (fun _ _ h hs => dest_settled_threads h hs (Bool.and_assoc _ _ _) rfl) fun _ _ => rfl
  · exact gives_lanePick (fun s => (rfl : execLbcast f s = _)) (fun _ _ _ hs => destSettled_dest hs ⟨_, rfl⟩) fun _ _ => rfl
  · exact gives_lanePick (fun s => (rfl : execLrot f s = _))
      (fun _ _ h hs => dest_settled_threads h hs ((Bool.and_assoc _ _ _).trans (Bool.and_assoc _ _ _)) rfl) fun _ _ => rfl

end Sys2Proof.Machine
end

section
namespace Sys2Proof.Machine

/-! Control instructions that change EXEC, the divergence stack and the exited threads (R128-R132). -/

theorem advance_exited (c : Coach) (e : Env) : (c.advance e).exited = c.exited := by unfold Coach.advance; split <;> rfl

theorem advance_div (c : Coach) (e : Env) (d : List DivEntry) : ({ c with div := d } : Coach).advance e = { c.advance e with div := d } := by
  unfold Coach.advance
  split <;> rfl

theorem advance_exec_div (c : Coach) (e : Env) (x : Mask) (d : List DivEntry) :
    ({ c with exec := x, div := d } : Coach).advance e = { c.advance e with exec := x, div := d } := by
  unfold Coach.advance
  split <;> rfl

theorem advance_exec_exited (c : Coach) (e : Env) (x g : Mask) :
    ({ c with exec := x, exited := g } : Coach).advance e = { c.advance e with exec := x, exited := g } := by
  unfold Coach.advance
  split <;> rfl

/-- The coach at another place in the program (R69). -/
def Coach.goAt (c : Coach) (pc : DWord) (cl : Option Clause) : Coach := { c with pc := pc, clause := cl }

/-- A change of a coach that is the same wherever the coach stands. -/
def KeepsPlace (f : Coach → Coach) : Prop := ∀ (c : Coach) (pc : DWord) (cl : Option Clause), f (c.goAt pc cl) = (f c).goAt pc cl

theorem KeepsPlace.clause {f : Coach → Coach} (h : KeepsPlace f) (c : Coach) : (f c).clause = c.clause := by
  have hplace : f c = (f c).goAt c.pc c.clause := h c c.pc c.clause
  rw [hplace]
  rfl

theorem goesTo_iff {i : Instr} {s : State} {e : Env} {g : Coach → Coach} {pc : DWord} : GoesTo i s e g pc ↔
    exec i s = .next (s.setCoach s.cur (g ((e.c.advance e).goAt pc (if pc = e.nextHdr then (e.c.advance e).clause else none)))) := Iff.rfl

section Jump
variable {i : Instr} {s : State} {e : Env} (h : Runs i s e)
include h

theorem Runs.jumpTo_goAt (f : Coach → Coach) (pc : DWord) : jumpTo e f pc s =
    s.setCoach s.cur (((f e.c).advance e).goAt pc (if pc = e.nextHdr then ((f e.c).advance e).clause else none)) := h.jumpTo_eq f pc

theorem Runs.coach_jumpTo (f : Coach → Coach) (pc : DWord) : ∃ c, (jumpTo e f pc s).coach s.cur = some c ∧ c.exec = (f e.c).exec := by
  rw [h.jumpTo_goAt]
  exact ⟨_, coach_setCoach_same h.wg _, advance_exec (f e.c) e⟩

/-- With threads in EXEC a control instruction is done (R129). -/
theorem Runs.settle_jumpTo {f : Coach → Coach} (hne : (f e.c).exec ≠ 0) (pc : DWord) :
    settle e i (jumpTo e f pc s) = jumpTo e f pc s := by
  obtain ⟨c, hc, hexec⟩ := h.coach_jumpTo f pc
  rw [← hexec] at hne
  simp only [settle, h.ref, hc, if_pos hne]

variable {f g : Coach → Coach} (ha : (f e.c).advance e = g (e.c.advance e)) (hg : KeepsPlace g)
include ha hg

theorem goesTo_of_jump {pc : DWord} (hx : exec i s = .next (jumpTo e f pc s)) : GoesTo i s e g pc := by
  rw [goesTo_iff, hx, h.jumpTo_goAt, ha, hg.clause, hg]

theorem goesTo_of_settle {pc : DWord} (hx : exec i s = .next (settle e i (jumpTo e f pc s))) (hne : (f e.c).exec ≠ 0) : GoesTo i s e g pc :=
  goesTo_of_jump h ha hg (by rw [hx, h.settle_jumpTo hne])

/-- The answers of `settle` are those of the reconvergence (R132). -/
theorem reconverges_of_settle (hx : exec i s = .next (settle e i (jumpTo e f e.nextHdr s))) (hz : (f e.c).exec = 0) :
    Reconverges i s e g := by
  have hj : jumpTo e f e.nextHdr s = s.setCoach s.cur (g ((e.c.advance e).goAt e.nextHdr (e.c.advance e).clause)) := by
    rw [h.jumpTo_goAt, ha, if_pos rfl, hg.clause, hg]
  obtain ⟨c, hc, hexec⟩ := h.coach_jumpTo f e.nextHdr
  have hc0 : ¬ c.exec ≠ 0 := not_not.mpr (hexec.trans hz)
  rw [hj] at hx hc
  generalize hs1 : s.setCoach s.cur (g ((e.c.advance e).goAt e.nextHdr (e.c.advance e).clause)) = s1 at hx hc
  refine ⟨fun t ht => ?_, fun t cause pc addr ht => ?_, fun t d ht hd => ?_⟩
  all_goals
    change (s.setCoach s.cur (g ((e.c.advance e).goAt e.nextHdr (e.c.advance e).clause))).reconverge reconvFuel s.cur = _ at ht
    rw [hs1] at ht
  · simp only [hx, settle, h.ref, hc, if_neg hc0, ht]
  · simp only [hx, settle, h.ref, hc, if_neg hc0, ht]
  · simp only [hx, settle, h.ref, hc, if_neg hc0, ht, hd]

end Jump

/-! Calls and returns (R128). -/

theorem callI_next {f : FJ} {s : State} {e : Env} (h : Runs (.callI f) s e) (ht : targetOk (e.target f.off) = true) :
    exec (.callI f) s = .next (if e.c.div.length + 1 > divMax then trapAll e (.callI f) cDIV_OVERFLOW 0 s
      else jumpTo e (fun c => { c with div := { mask := 0, kind := .callK, resume := e.nextHdr } :: c.div }) (e.target f.off) s) := by
  show execCallI f s = _
  rw [execCallI, issue_runs h]
  simp only [ht, Bool.not_true, Bool.false_eq_true, if_false]

theorem retI_pops {f : FJ} {s : State} {e : Env} (h : Runs (.retI f) s e) {m : Mask} {a : DWord} {r : List DivEntry}
    (hd : e.c.div = { mask := m, kind := .callK, resume := a } :: r) (ht : targetOk a = true) :
    exec (.retI f) s = .next (jumpTo e (fun c => { c with div := r }) a s) := by
  show execRetI f s = _
  rw [execRetI, issue_runs h]
  simp only [hd, beq_self_eq_true, if_true, branchTo, if_pos ht]

theorem retI_stuck {f : FJ} {s : State} {e : Env} (h : Runs (.retI f) s e) (hd : ∀ d ∈ e.c.div.head?, d.kind ≠ .callK) :
    exec (.retI f) s = .next (trapAll e (.retI f) cILLEGAL_CONVERGENCE 0 s) := by
  show execRetI f s = _
  rw [execRetI, issue_runs h]
  cases hdiv : e.c.div with
  | nil => rfl
  | cons d r =>
    have hk : d.kind ≠ .callK := hd d (by rw [hdiv]; rfl)
    exact congrArg Host.Outcome.next (if_neg (by simpa using hk))

/-- Settles O14: CALL and RET are jumps that change the stack alone. -/
theorem callAndReturn : Obligations.CallAndReturn := by
  intro f s e
  refine ⟨fun h ht hl => ?_, fun h ht hl => ?_, fun m a r h hd ht => ?_, retI_stuck⟩
  · have hx := callI_next h ht
    rw [if_neg (by rw [divMax]; omega)] at hx
    exact goesTo_of_jump h (advance_div e.c e _) (fun _ _ _ => rfl) hx
  · rw [callI_next h ht, if_pos (by rw [divMax]; omega)]
  · exact goesTo_of_jump h (advance_div e.c e r) (fun _ _ _ => rfl) (retI_pops h hd ht)

/-! The stack actions of ELSE, ENDIF and ENDLOOP (R129, R130). -/

section Actions
variable {c : Coach} {next target : DWord}

theorem actElse_if {m : Mask} {a : DWord} {r : List DivEntry} (hd : c.div = { mask := m, kind := .ifK, resume := a } :: r) :
    c.actElse next target = if targetOk target then
      .ok { c with exec := m &&& ~~~c.exited, div := { mask := c.exec, kind := .elseK, resume := target } :: r, pc := next, clause := none }
    else .error cBAD_TARGET := by
  rw [Coach.actElse, hd]

theorem actElse_stuck (hd : ∀ d ∈ c.div.head?, d.kind ≠ .ifK) : c.actElse next target = .error cILLEGAL_CONVERGENCE := by
  rw [Coach.actElse]
  split
  · next hdiv => exact absurd rfl (hd _ (by rw [hdiv]; rfl))
  · rfl

theorem actEndif_ok {d : DivEntry} {r : List DivEntry} (hd : c.div = d :: r) (hk : d.kind = .ifK ∨ d.kind = .elseK) :
    c.actEndif next = .ok { c with exec := (c.exec ||| d.mask) &&& ~~~c.exited, div := r, pc := next, clause := none } := by
  rcases hk with hk | hk <;> simp only [Coach.actEndif, hd, hk]

theorem actEndif_stuck (hd : ∀ d ∈ c.div.head?, d.kind = .loopK ∨ d.kind = .callK) : c.actEndif next = .error cILLEGAL_CONVERGENCE := by
  cases hdiv : c.div with
  | nil => simp only [Coach.actEndif, hdiv]
  | cons d r =>
    rcases hd d (by rw [hdiv]; rfl) with hk | hk <;> simp only [Coach.actEndif, hdiv, hk]

section Loop
variable {lc lx : DivEntry} {r : List DivEntry} (hd : c.div = lc :: lx :: r) (hlc : lc.kind = .loopK) (hlx : lx.kind = .loopK)
include hd hlc hlx

theorem actEndloop_bad (ht : targetOk target = false) : c.actEndloop next target = .error cBAD_TARGET := by
  simp only [Coach.actEndloop, hd, hlc, hlx, ht]
  rfl

theorem actEndloop_again (ht : targetOk target = true) (hne : (c.exec ||| lc.mask) &&& ~~~c.exited ≠ 0) :
    c.actEndloop next target = .ok { c with
      exec := (c.exec ||| lc.mask) &&& ~~~c.exited, div := { lc with mask := 0 } :: lx :: r, pc := target, clause := none } := by
  simp only [Coach.actEndloop, hd, hlc, hlx, ht, if_pos hne]
  rfl

theorem actEndloop_leave (ht : targetOk target = true) (hz : (c.exec ||| lc.mask) &&& ~~~c.exited = 0) :
    c.actEndloop next target = .ok { c with exec := lx.mask &&& ~~~c.exited, div := r, pc := next, clause := none } := by
  simp only [Coach.actEndloop, hd, hlc, hlx, ht, hz]
  rfl

end Loop

theorem actEndloop_stuck (hd : (∀ d ∈ c.div.head?, d.kind ≠ .loopK) ∨ (∀ d ∈ (c.div.drop 1).head?, d.kind ≠ .loopK)) :
    c.actEndloop next target = .error cILLEGAL_CONVERGENCE := by
  rw [Coach.actEndloop]
  split
  · next lc lx r hdiv =>
    rw [hdiv] at hd
    refine if_neg fun hk => ?_
    simp only [Bool.and_eq_true, beq_iff_eq] at hk
    rcases hd with hd | hd
    · exact hd lc rfl hk.1
    · exact hd lx rfl hk.2
  · rfl

end Actions

section StackAction
variable {i : Instr} {s : State} {e : Env} {act : Coach → Except Cause Coach} (h : Runs i s e) (hx : exec i s = .next (stackAction e i act s))
include hx

theorem stackAction_traps {cause : Cause} (hact : act e.c = .error cause) : exec i s = .next (trapAll e i cause 0 s) := by
  rw [hx, stackAction, hact]

theorem stackAction_settles {c : Coach} (hact : act e.c = .ok c) :
    exec i s = .next (settle e i (jumpTo e (fun b => { b with exec := c.exec, div := c.div }) c.pc s)) := by
  rw [hx, stackAction, hact]

include h

theorem stackAction_goesTo {c : Coach} (hact : act e.c = .ok c) (hne : c.exec ≠ 0) :
    GoesTo i s e (fun b => { b with exec := c.exec, div := c.div }) c.pc :=
  goesTo_of_settle h (advance_exec_div e.c e c.exec c.div) (fun _ _ _ => rfl) (stackAction_settles hx hact) hne

theorem stackAction_reconverges {c : Coach} (hact : act e.c = .ok c) (hpc : c.pc = e.nextHdr) (hz : c.exec = 0) :
    Reconverges i s e (fun b => { b with exec := c.exec, div := c.div }) :=
  reconverges_of_settle h (advance_exec_div e.c e c.exec c.div) (fun _ _ _ => rfl) (hpc ▸ stackAction_settles hx hact) hz

end StackAction

theorem elseI_next {f : FJ} {s : State} {e : Env} (h : Runs (.elseI f) s e) : exec (.elseI f) s =
    .next (stackAction e (.elseI f) (fun c => c.actElse e.nextHdr (e.target f.off)) s) := by
  show execElseI f s = _
  exact issue_runs h _

theorem endifI_next {f : FJ} {s : State} {e : Env} (h : Runs (.endifI f) s e) : exec (.endifI f) s =
    .next (stackAction e (.endifI f) (fun c => c.actEndif e.nextHdr) s) := by
  show execEndifI f s = _
  exact issue_runs h _

theorem endloopI_next {f : FJ} {s : State} {e : Env} (h : Runs (.endloopI f) s e) : exec (.endloopI f) s =
    .next (stackAction e (.endloopI f) (fun c => c.actEndloop e.nextHdr (e.target f.off)) s) := by
  show execEndloopI f s = _
  exact issue_runs h _

/-! IF and LOOP (R129, R130). -/

theorem ifI_next {g : FJC} {s : State} {e : Env} (h : Runs (.ifI g) s e) : exec (.ifI g) s = .next
    (if targetOk (e.target g.off) = false then trapAll e (.ifI g) cBAD_TARGET 0 s
    else if e.c.div.length + 1 > divMax then trapAll e (.ifI g) cDIV_OVERFLOW 0 s
    else settle e (.ifI g) (jumpTo e (fun c => { c with
      exec := wantMask e g, div := { mask := c.exec &&& ~~~wantMask e g, kind := .ifK, resume := e.target g.off } :: c.div }) e.nextHdr s)) := by
  show execIfI g s = _
  rw [execIfI, issue_runs h]
  simp only [Bool.not_eq_true']

theorem ifI_settles {g : FJC} {s : State} {e : Env} (h : Runs (.ifI g) s e) (ht : targetOk (e.target g.off) = true) (hl : e.c.div.length < 32) :
    exec (.ifI g) s = .next (settle e (.ifI g) (jumpTo e (fun c => { c with
      exec := wantMask e g, div := { mask := c.exec &&& ~~~wantMask e g, kind := .ifK, resume := e.target g.off } :: c.div }) e.nextHdr s)) := by
  rw [ifI_next h, if_neg (by rw [ht]; decide), if_neg (by rw [divMax]; omega)]

theorem ifI_overflows {g : FJC} {s : State} {e : Env} (h : Runs (.ifI g) s e) (ht : targetOk (e.target g.off) = true) (hl : 32 ≤ e.c.div.length) :
    exec (.ifI g) s = .next (trapAll e (.ifI g) cDIV_OVERFLOW 0 s) := by
  rw [ifI_next h, if_neg (by rw [ht]; decide), if_pos (by rw [divMax]; omega)]

/-- An IF that no thread enters keeps all of EXEC in its entry (R129). -/
theorem ifI_reconverges {g : FJC} {s : State} {e : Env} (h : Runs (.ifI g) s e) (ht : targetOk (e.target g.off) = true)
    (hl : e.c.div.length < 32) (hw : wantMask e g = 0) : Reconverges (.ifI g) s e (fun c => { c with
      exec := 0, div := { mask := e.c.exec, kind := .ifK, resume := e.target g.off } :: e.c.div }) := by
  have hmask : e.c.exec &&& ~~~wantMask e g = e.c.exec := by
    rw [hw]
    exact (congrArg (e.c.exec &&& ·) BitVec.not_zero).trans BitVec.and_allOnes
  suffices hrec : Reconverges (.ifI g) s e (fun c => { c with
      exec := wantMask e g, div := { mask := e.c.exec &&& ~~~wantMask e g, kind := .ifK, resume := e.target g.off } :: e.c.div }) by
    rwa [hmask, hw] at hrec
  exact reconverges_of_settle h (advance_exec_div e.c e _ _) (fun _ _ _ => rfl) (ifI_settles h ht hl) hw

theorem loopI_next {f : FJ} {s : State} {e : Env} (h : Runs (.loopI f) s e) : exec (.loopI f) s = .next
    (if targetOk (e.target f.off) = false then trapAll e (.loopI f) cBAD_TARGET 0 s
    else if e.c.div.length + 2 > divMax then trapAll e (.loopI f) cDIV_OVERFLOW 0 s
    else
      let d : DivEntry := { mask := 0, kind := .loopK, resume := e.target f.off }
      jumpTo e (fun c => { c with div := d :: d :: c.div }) e.nextHdr s) := by
  show execLoopI f s = _
  rw [execLoopI, issue_runs h]
  simp only [Bool.not_eq_true']

theorem loopI_pushes {f : FJ} {s : State} {e : Env} (h : Runs (.loopI f) s e) (ht : targetOk (e.target f.off) = true) (hl : e.c.div.length < 31) :
    let d : DivEntry := { mask := 0, kind := .loopK, resume := e.target f.off }
    exec (.loopI f) s = .next (jumpTo e (fun c => { c with div := d :: d :: c.div }) e.nextHdr s) := by
  rw [loopI_next h, if_neg (by rw [ht]; decide), if_neg (by rw [divMax]; omega)]

theorem loopI_overflows {f : FJ} {s : State} {e : Env} (h : Runs (.loopI f) s e) (ht : targetOk (e.target f.off) = true)
    (hl : 31 ≤ e.c.div.length) : exec (.loopI f) s = .next (trapAll e (.loopI f) cDIV_OVERFLOW 0 s) := by
  rw [loopI_next h, if_neg (by rw [ht]; decide), if_pos (by rw [divMax]; omega)]

/-! BREAK and CONT (R130). -/

/-- The innermost loop is sought below the IF and ELSE entries on top. -/
theorem addToLoop_below {up : List DivEntry} (hup : ∀ d ∈ up, d.kind = .ifK ∨ d.kind = .elseK) (leaves : Bool) (b : Mask) (r : List DivEntry) :
    addToLoop leaves b (up ++ r) = (addToLoop leaves b r).map (fun r' => up ++ r') := by
  induction up with
  | nil => simp
  | cons d up ih =>
    have hrest := ih fun x hx => hup x (List.mem_cons_of_mem _ hx)
    rcases hup d List.mem_cons_self with hk | hk
    all_goals
      simp only [List.cons_append, addToLoop, hk, hrest, Option.map_map]
      rfl

theorem addToLoop_outside {r : List DivEntry} (hr : ∀ d ∈ r.head?, d.kind = .callK) (leaves : Bool) (b : Mask) : addToLoop leaves b r = none := by
  cases r with
  | nil => rfl
  | cons d r => simp only [addToLoop, hr d rfl]

theorem addToLoop_loop {lc lx : DivEntry} (hlc : lc.kind = .loopK) (hlx : lx.kind = .loopK) (leaves : Bool) (b : Mask) (r : List DivEntry) :
    addToLoop leaves b (lc :: lx :: r) =
      some (if leaves then lc :: { lx with mask := lx.mask ||| b } :: r else { lc with mask := lc.mask ||| b } :: lx :: r) := by
  simp only [addToLoop, hlc, hlx]
  rfl

section Below
variable {up r : List DivEntry} (hup : ∀ d ∈ up, d.kind = .ifK ∨ d.kind = .elseK)
include hup

theorem addToLoop_found {lc lx : DivEntry} (hlc : lc.kind = .loopK) (hlx : lx.kind = .loopK) (leaves : Bool) (b : Mask) :
    addToLoop leaves b (up ++ lc :: lx :: r) =
      some (up ++ if leaves then lc :: { lx with mask := lx.mask ||| b } :: r else { lc with mask := lc.mask ||| b } :: lx :: r) := by
  rw [addToLoop_below hup, addToLoop_loop hlc hlx]
  rfl

theorem addToLoop_missing (hr : ∀ d ∈ r.head?, d.kind = .callK) (leaves : Bool) (b : Mask) : addToLoop leaves b (up ++ r) = none := by
  rw [addToLoop_below hup, addToLoop_outside hr]
  rfl

end Below

section LeaveLoop
variable {i : Instr} {g : FJC} {s : State} {e : Env} {leaves : Bool} (h : Runs i s e) (hx : exec i s = .next (leaveLoop leaves i g e s))
include hx

theorem leaveLoop_stuck (hd : addToLoop leaves (wantMask e g) e.c.div = none) : exec i s = .next (trapAll e i cILLEGAL_CONVERGENCE 0 s) := by
  simp only [hx, leaveLoop, hd]

theorem leaveLoop_settles {d : List DivEntry} (hd : addToLoop leaves (wantMask e g) e.c.div = some d) : exec i s =
    .next (settle e i (jumpTo e (fun c => { c with exec := c.exec &&& ~~~wantMask e g, div := d }) e.nextHdr s)) := by
  simp only [hx, leaveLoop, hd]

include h

theorem leaveLoop_goesTo {d : List DivEntry} (hd : addToLoop leaves (wantMask e g) e.c.div = some d) (hne : e.c.exec &&& ~~~wantMask e g ≠ 0) :
    GoesTo i s e (fun c => { c with exec := e.c.exec &&& ~~~wantMask e g, div := d }) e.nextHdr :=
  goesTo_of_settle h (advance_exec_div _ _ _ _) (fun _ _ _ => rfl) (leaveLoop_settles hx hd) hne

theorem leaveLoop_reconverges {d : List DivEntry} (hd : addToLoop leaves (wantMask e g) e.c.div = some d)
    (hz : e.c.exec &&& ~~~wantMask e g = 0) : Reconverges i s e (fun c => { c with exec := e.c.exec &&& ~~~wantMask e g, div := d }) :=
  reconverges_of_settle h (advance_exec_div _ _ _ _) (fun _ _ _ => rfl) (leaveLoop_settles hx hd) hz

end LeaveLoop

theorem breakI_next {g : FJC} {s : State} {e : Env} (h : Runs (.breakI g) s e) :
    exec (.breakI g) s = .next (leaveLoop true (.breakI g) g e s) := by
  show execBreakI g s = _
  exact issue_runs h _

theorem contI_next {g : FJC} {s : State} {e : Env} (h : Runs (.contI g) s e) :
    exec (.contI g) s = .next (leaveLoop false (.contI g) g e s) := by
  show execContI g s = _
  exact issue_runs h _

/-- Settles O15: IF, LOOP, BREAK and CONT by what they push or add to; ELSE, ENDIF and ENDLOOP by their stack actions. -/
theorem structuredControl : Obligations.StructuredControl := by
  refine ⟨fun f g s e => ⟨?_, ?_, ?_, ?_, ?_, fun _ _ _ _ _ _ => actEndloop_leave, ?_, ifI_reconverges, ?_⟩,
    fun f g s e => ⟨?_, ?_, ?_, ?_, ?_, ifI_overflows, loopI_overflows, ?_, ?_, ?_, ?_⟩⟩
  · intro h ht hl hne
    exact goesTo_of_settle h (advance_exec_div e.c e _ _) (fun _ _ _ => rfl) (ifI_settles h ht hl) hne
  · intro m a r h hd ht hne
    exact stackAction_goesTo h (elseI_next h) ((actElse_if hd).trans (if_pos ht)) hne
  · intro d r h hd hk hne
    exact stackAction_goesTo h (endifI_next h) (actEndif_ok hd hk) hne
  · intro h ht hl
    exact goesTo_of_jump h (advance_div e.c e _) (fun _ _ _ => rfl) (loopI_pushes h ht hl)
  · intro lc lx r h hd hlc hlx ht hne
    exact stackAction_goesTo h (endloopI_next h) (actEndloop_again hd hlc hlx ht hne) hne
  · intro up lc lx r hd hup hlc hlx
    have hadd (leaves : Bool) := hd ▸ addToLoop_found (r := r) hup hlc hlx leaves (wantMask e g)
    exact ⟨fun h => leaveLoop_goesTo h (breakI_next h) (hadd true), fun h => leaveLoop_goesTo h (contI_next h) (hadd false),
      fun h => leaveLoop_reconverges h (breakI_next h) (hadd true), fun h => leaveLoop_reconverges h (contI_next h) (hadd false)⟩
  · intro m a r h hd ht hz
    have hact : e.c.actElse e.nextHdr (e.target f.off) = .ok { e.c with
        exec := 0, div := { mask := e.c.exec, kind := .elseK, resume := e.target f.off } :: r, pc := e.nextHdr, clause := none } := by
      rw [actElse_if hd, hz]
      exact if_pos ht
    exact stackAction_reconverges h (elseI_next h) hact rfl rfl
  · exact fun h hd => stackAction_traps (elseI_next h) (actElse_stuck hd)
  · exact fun h hd => stackAction_traps (endifI_next h) (actEndif_stuck hd)
  · exact fun h hd => stackAction_traps (endloopI_next h) (actEndloop_stuck (.inl hd))
  · exact fun h hd => stackAction_traps (endloopI_next h) (actEndloop_stuck (.inr hd))
  · intro up r hd hup hr
    have hadd (leaves : Bool) := hd ▸ addToLoop_missing hup hr leaves (wantMask e g)
    exact ⟨fun h => leaveLoop_stuck (breakI_next h) (hadd true), fun h => leaveLoop_stuck (contI_next h) (hadd false)⟩
  · exact fun h ht => (ifI_next h).trans (congrArg _ (if_pos ht))
  · exact fun h ht => (loopI_next h).trans (congrArg _ (if_pos ht))
  · intro d r h hd hk ht
    obtain ⟨m, k, a⟩ := d
    obtain rfl : k = .ifK := hk
    exact stackAction_traps (elseI_next h) ((actElse_if hd).trans (if_neg (by rw [show targetOk (e.target f.off) = false from ht]; decide)))
  · intro lc lx r h hd hlc hlx ht
    exact stackAction_traps (endloopI_next h) (actEndloop_bad hd hlc hlx ht)

/-! EXIT (R131). -/

@[simp] theorem setCoach_mem (s : State) (r : CoachRef) (c : Coach) : (s.setCoach r c).mem = s.mem := by
  unfold State.setCoach
  split <;> rfl

@[simp] theorem findStep_setCoach (s : State) (r r' : CoachRef) (c : Coach) : (s.setCoach r c).findStep r' = s.findStep r' := by
  unfold State.setCoach
  split <;> rfl

theorem retire_shape (c : Coach) : ∃ F, c.retire = { c with
    flags := F, state := .retired, div := [], exec := 0, frame := none, rq := [], clause := none, deadlineRisk := false, preemptNotice := false,
    rfails := [], heldCauses := [] } := by
  obtain ⟨F, hF⟩ := lowerFlags_shape c.rq c
  exact ⟨F, by rw [Coach.retire, hF]⟩

/-- The coach as EXIT leaves it: the active threads are out of EXEC and have exited. -/
def Env.exitCoach (e : Env) (c : Coach) : Coach := { c with exec := c.exec &&& ~~~e.active, exited := e.c.exited ||| e.active }

theorem exitI_next {f : FJ} {s : State} {e : Env} (h : Runs (.exitI f) s e) : exec (.exitI f) s = .next
    (if e.c.exited ||| e.active = maskAll e.wg.threads then
      ((jumpTo e e.exitCoach e.nextHdr s).stepClose e.ref .retired).modCoach e.ref Coach.retire
    else settle e (.exitI f) (jumpTo e e.exitCoach e.nextHdr s)) := by
  show execExitI f s = _
  exact issue_runs h _

theorem exitI_settles {f : FJ} {s : State} {e : Env} (h : Runs (.exitI f) s e) (hg : e.c.exited ||| e.active ≠ maskAll e.wg.threads) :
    exec (.exitI f) s = .next (settle e (.exitI f) (jumpTo e e.exitCoach e.nextHdr s)) := by
  rw [exitI_next h, if_neg hg]

theorem exitI_retires {f : FJ} {s : State} {e : Env} (h : Runs (.exitI f) s e) (hg : e.c.exited ||| e.active = maskAll e.wg.threads)
    (hst : s.findStep s.cur = none) : ∃ c : Coach, exec (.exitI f) s = .next (s.setCoach s.cur c.retire) ∧ c.exited = maskAll e.wg.threads ∧
      c.v = e.c.v ∧ c.s = e.c.s := by
  refine ⟨((e.exitCoach e.c).advance e).goAt e.nextHdr ((e.exitCoach e.c).advance e).clause, ?_, ?_, advance_v _ _, advance_s _ _⟩
  · have hj := h.jumpTo_goAt e.exitCoach e.nextHdr
    rw [if_pos rfl] at hj
    rw [exitI_next h, if_pos hg, hj, h.ref, State.stepClose, findStep_setCoach, hst]
    exact congrArg Host.Outcome.next ((modCoach_of_coach (coach_setCoach_same h.wg _) _).trans (setCoach_setCoach _ _ _ _))
  · exact (advance_exited _ _).trans hg

/-- Settles O16: EXIT is a jump to the header that follows, and then reconvergence or the coach's retirement. -/
theorem exitResults : Obligations.ExitResults := by
  intro f s e h
  refine ⟨fun hg hne => ?_, fun hg hz => ?_, fun hg hst => ?_⟩
  · exact goesTo_of_settle h (advance_exec_exited e.c e _ _) (fun _ _ _ => rfl) (exitI_settles h hg) hne
  · suffices hrec : Reconverges (.exitI f) s e (fun c => { c with exec := e.c.exec &&& ~~~e.active, exited := e.c.exited ||| e.active }) by
      rwa [hz] at hrec
    exact reconverges_of_settle h (advance_exec_exited e.c e _ _) (fun _ _ _ => rfl) (exitI_settles h hg) hz
  · obtain ⟨c, hx, hexited, hv, hs⟩ := exitI_retires h hg hst
    obtain ⟨F, hF⟩ := retire_shape c
    refine ⟨_, c.retire, hx, coach_setCoach_same h.wg _, ?_⟩
    rw [hF]
    exact ⟨rfl, rfl, rfl, hexited, hv, hs, setCoach_mem _ _ _⟩

end Sys2Proof.Machine
end

section
namespace Sys2Proof.Machine

/-! Memory instructions whose accesses `accessAll` checks: their misaligned, refused and passing accesses (R133, R135). -/

/-- The instruction accesses `size` bytes at each unit's address (R133). -/
def Accesses (i : Instr) (f : FM) (size : Nat) (need : Need) : Prop :=
  ∃ k : Env → List Target → State → State, ∀ s, exec i s = issue i s (fun e s => accessAll e i f.u size need (e.ea f.u f.base f.idx) s (k e))

section Accesses
variable {i : Instr} {f : FM} {size : Nat} {need : Need} {s s1 : State} {e : Env}

theorem Accesses.unaligned (hx : Accesses i f size need) {t : Nat} {r : List Nat} (h : Runs i s e)
    (hb : (e.units f.u).filter (fun t => decide ((e.ea f.u f.base f.idx t).toNat % size ≠ 0)) = t :: r) :
    exec i s = .next (trapWith e i cUNALIGNED (e.ea f.u f.base f.idx t) (e.unitMask f.u (t :: r)) e.active s) := by
  obtain ⟨k, hk⟩ := hx
  rw [hk, issue_runs h]
  simp only [accessAll, hb, trapUnits]

theorem Accesses.raises (hx : Accesses i f size need) {gs : List Target} {m : Miss} {ms : List Miss} (h : Runs i s e)
    (hm : (∀ t ∈ e.units f.u, (e.ea f.u f.base f.idx t).toNat % size = 0) ∧
      translateEach e need ((e.units f.u).map (fun t => (t, e.ea f.u f.base f.idx t))) s = (gs, m :: ms, s1)) :
    exec i s = .next (raiseCause e i m.cause m.va (e.unitMask f.u (((m :: ms).filter (fun x => x.cause == m.cause)).map Miss.t)) e.active s1) := by
  obtain ⟨k, hk⟩ := hx
  obtain ⟨ha, ht⟩ := hm
  have hnone : (e.units f.u).filter (fun t => decide ((e.ea f.u f.base f.idx t).toNat % size ≠ 0)) = [] := by
    simpa [List.filter_eq_nil_iff] using ha
  rw [hk, issue_runs h]
  simp only [accessAll, hnone, ht, lowestMiss, raiseUnits]

end Accesses

/-! Plain loads and stores (R136, R139). -/

/-- What a plain load does for one unit: the bytes at its address go to T. -/
def loadAct (f : FM) (size : Nat) (e : Env) (g : Target) (s : State) : (List RegWrite × Option Word × Word) × State :=
  ((putWords f.u f.t g.t (loadWords size (f.scope == 1) (s.loadBytes e.acc g.x size f.nt).1), none, 0),
    (s.loadBytes e.acc g.x size f.nt).2)

/-- What a plain store does for one unit: the bytes of T go to its address. -/
def storeAct (f : FM) (size : Nat) (e : Env) (g : Target) (s : State) : (List RegWrite × Option Word × Word) × State :=
  (([], none, 0), s.storeBytes e.acc g.x (e.storeData f size g.t) f.nt)

section Plain
variable {i : Instr} {f : FM} {size : Nat} {s s1 s2 : State} {e : Env} {gs : List Target} {d : Done}

theorem load_tracks (hx : ∀ s, exec i s = issue i s (loadM i f size)) (h : Runs i s e)
    (hp : Reaches e f.u size .read (e.ea f.u f.base f.idx) s gs s1 ∧ d.misses = [] ∧
      performEach (checkLoad e size) (loadAct f size e) gs .none s1 = (d, s2)) : TracksFrom i s e d.ws (s2.raise e d.fl) := by
  obtain ⟨hr, hd, hp⟩ := hp
  unfold TracksFrom
  rw [hx, issue_runs h, loadM, accessAll_reaches hr, ← settleMem_clean (u := f.u) hd s2]
  exact congrArg (fun r => Host.Outcome.next (settleMem e i f.u r.1 r.2)) hp

theorem store_tracks (hx : ∀ s, exec i s = issue i s (storeM i f size)) (h : Runs i s e)
    (hp : Reaches e f.u size .write (e.ea f.u f.base f.idx) s gs s1 ∧ d.misses = [] ∧
      performEach (checkStore e size f.nt) (storeAct f size e) gs .none s1 = (d, s2)) : TracksFrom i s e d.ws (s2.raise e d.fl) := by
  obtain ⟨hr, hd, hp⟩ := hp
  unfold TracksFrom
  rw [hx, issue_runs h, storeM, accessAll_reaches hr, ← settleMem_clean (u := f.u) hd s2]
  exact congrArg (fun r => Host.Outcome.next (settleMem e i f.u r.1 r.2)) hp

end Plain

/-- Settles O20: the loads are `loadM` and the stores `storeM`, each with its own size. -/
theorem plainLoadsAndStores : Obligations.PlainLoadsAndStores := fun _ _ _ _ _ _ _ =>
  ⟨load_tracks fun _ => rfl, load_tracks fun _ => rfl, load_tracks fun _ => rfl, load_tracks fun _ => rfl, load_tracks fun _ => rfl,
    store_tracks fun _ => rfl, store_tracks fun _ => rfl, store_tracks fun _ => rfl, store_tracks fun _ => rfl, store_tracks fun _ => rfl⟩

end Sys2Proof.Machine
end

section
namespace Sys2Proof.Machine

/-! Translation (R278-R281, R286). -/

section Translation
variable {s : State} {core : Option Nat} {n ctx : Nat} {va : DWord} {need : Need}

theorem translate_not_canonical (h : canonical va = false) : s.translate core n ctx va need = (.error cXLATE_NOTPRESENT, s) := by
  simp only [State.translate, h, Bool.not_false, if_true]

/-- The walk of a context whose entry is not valid (R279). -/
theorem walk_invalid (h : s.ctxValid n ctx = false) (priv : Bool) :
    State.translate.walk s core n ctx va need priv = (.error cXLATE_NOTPRESENT, s) := by
  have hv : (s.ctxEntry n ctx).1.getLsbD 0 = false := by
    unfold State.ctxEntry
    exact h
  unfold State.translate.walk
  exact if_pos (by rw [hv, Bool.not_false, Bool.true_or, Bool.true_or])

theorem translate_invalid_context (hc : canonical va = true) (hv : s.ctxValid n ctx = false)
    (hcore : ∀ c, core = some c → tlbFind (s.core c).tlb ctx va = none) (hsite : tlbFind (s.site n).tlb ctx va = none) :
    s.translate core n ctx va need = (.error cXLATE_NOTPRESENT, s) := by
  cases core with
  | none => simp only [State.translate, hc, hsite, walk_invalid hv, Bool.not_true, Bool.false_eq_true, if_false]
  | some c => simp only [State.translate, hc, hcore c rfl, hsite, walk_invalid hv, Bool.not_true, Bool.false_eq_true, if_false]

/-- A page that the core's TLB holds is not walked, but for a write to one whose D is clear: its leaf decides (R282, R286). -/
theorem translate_hit {c : Nat} {en : TlbEntry} (hc : canonical va = true) (hf : tlbFind (s.core c).tlb ctx va = some en)
    (hd : need.w = true → leafD en.leaf = true) :
    s.translate (some c) n ctx va need = (s.permit (s.privileged n ctx) need va en.level en.leaf, s) := by
  have hwalk : (need.w && !leafD en.leaf) = false := by
    cases hw : need.w with
    | false => rfl
    | true => simp [hd hw]
  simp only [State.translate, hc, hf, hwalk, Option.isSome_some, Bool.not_true, Bool.false_eq_true, if_false, if_true]

end Translation

section Permit
variable {s : State} {priv : Bool} {need : Need} {va : DWord} {level : Nat} {leaf : DWord}

/-- The physical address that a leaf gives (R281). -/
def leafPa (level : Nat) (leaf va : DWord) : Nat := leafFRAME leaf + va.toNat % 2 ^ pageShift level

/-- The leaf does not permit the access, or it is of space 3 in a user context (R281). -/
def Denied (priv : Bool) (need : Need) (pa : Nat) (leaf : DWord) : Prop :=
  (need.r = true ∧ leafR leaf = false) ∨ (need.w = true ∧ leafW leaf = false) ∨ (need.x = true ∧ leafX leaf = false) ∨
    (paSpace pa = 3 ∧ priv = false)

theorem permit_absent (h : s.paOk (leafPa level leaf va) = false) : s.permit priv need va level leaf = .error cXLATE_NOTPRESENT :=
  if_pos (by simpa [leafPa] using h)

/-- The permissions, and space 3, are two tests in turn. -/
theorem permit_present (h : s.paOk (leafPa level leaf va) = true) : s.permit priv need va level leaf =
    if (need.r && !leafR leaf) || (need.w && !leafW leaf) || (need.x && !leafX leaf) then .error cXLATE_PERM
    else if paSpace (leafPa level leaf va) = 3 ∧ priv = false then .error cXLATE_PERM
    else .ok { pa := leafPa level leaf va, leaf := leaf, level := level } :=
  if_neg (by simpa [leafPa] using h)

theorem permit_denied (h : s.paOk (leafPa level leaf va) = true) (hd : Denied priv need (leafPa level leaf va) leaf) :
    s.permit priv need va level leaf = .error cXLATE_PERM := by
  rw [permit_present h]
  rcases hd with hr | hw | hx | hp
  · exact if_pos (by simp [hr])
  · exact if_pos (by simp [hw])
  · exact if_pos (by simp [hx])
  · rw [if_pos hp, ite_self]

theorem permit_granted (h : s.paOk (leafPa level leaf va) = true) (hd : ¬ Denied priv need (leafPa level leaf va) leaf) :
    s.permit priv need va level leaf = .ok { pa := leafPa level leaf va, leaf := leaf, level := level } := by
  simp only [Denied, not_or] at hd
  obtain ⟨hr, hw, hx, hp⟩ := hd
  rw [permit_present h, if_neg (by simpa only [Bool.or_eq_true, Bool.and_eq_true, Bool.not_eq_true', not_or] using ⟨⟨hr, hw⟩, hx⟩), if_neg hp]

end Permit

/-- A leaf of the top level, with reserved bits, or with a HOME, CACHE, HSITE or FRAME that it may not have is refused (R280). -/
theorem leafOk_refuses {level : Nat} {e : DWord} (h : 3 ≤ level ∨ fld e 24 4 ≠ 0 ∨ leafHOME e = 3 ∨ leafCACHE e = 3 ∨
    (leafHSITE e ≠ 0 ∧ leafHOME e ≠ 2) ∨ leafFRAME e % 2 ^ pageShift level ≠ 0) : leafOk level e = false := by
  by_contra hok
  simp only [leafOk, Bool.not_eq_false, Bool.and_eq_true, Bool.or_eq_true, decide_eq_true_eq] at hok
  obtain ⟨⟨⟨⟨⟨⟨hl, hr⟩, hh⟩, hc⟩, hs⟩, hf⟩, -⟩ := hok
  rcases h with h | h | h | h | ⟨h, h'⟩ | h
  · omega
  · exact h hr
  · exact hh h
  · exact hc h
  · exact hs.elim h h'
  · exact h hf

section Walk
variable {s : State} {n ctx level table : Nat} {va : DWord} (hp : s.poisoned (table + 8 * vaIndex level va) 8 = false)
include hp

theorem walkFrom_invalid (hv : (s.walkRead n ctx (table + 8 * vaIndex level va)).1.getLsbD 0 = false) :
    s.walkFrom n ctx level table va = (.error cXLATE_NOTPRESENT, (s.walkRead n ctx (table + 8 * vaIndex level va)).2) := by
  unfold State.walkFrom
  simp only [hp, hv, Bool.not_false, Bool.false_eq_true, if_false, if_true]

theorem walkFrom_bad_leaf (hl : (s.walkRead n ctx (table + 8 * vaIndex level va)).1.getLsbD 1 = true)
    (hok : leafOk level (s.walkRead n ctx (table + 8 * vaIndex level va)).1 = false) :
    s.walkFrom n ctx level table va = (.error cXLATE_NOTPRESENT, (s.walkRead n ctx (table + 8 * vaIndex level va)).2) := by
  unfold State.walkFrom
  simp only [hp, hl, hok, Bool.false_eq_true, if_false, if_true, ite_self]

/-- An entry that is no leaf, at the last level or with reserved bits (R279). -/
theorem walkFrom_bad_table (hl : (s.walkRead n ctx (table + 8 * vaIndex level va)).1.getLsbD 1 = false)
    (hb : level = 0 ∨ fld (s.walkRead n ctx (table + 8 * vaIndex level va)).1 2 18 ≠ 0) :
    s.walkFrom n ctx level table va = (.error cXLATE_NOTPRESENT, (s.walkRead n ctx (table + 8 * vaIndex level va)).2) := by
  cases level with
  | zero =>
    unfold State.walkFrom
    simp only [hp, hl, Bool.false_eq_true, if_false, ite_self]
  | succ l =>
    have hb : fld (s.walkRead n ctx (table + 8 * vaIndex (l + 1) va)).1 2 18 ≠ 0 := hb.resolve_left (by omega)
    unfold State.walkFrom
    simp only [hp, hl, hb, ne_eq, not_false_eq_true, true_or, Bool.false_eq_true, if_false, if_true, ite_self]

end Walk

/-! The race check of an access within one line (R234). -/

/-- An entry of another agent that covers granules of the access and is not ordered before it, nor before the floor. -/
def Conflicts (g : BitVec 8) (agent : BitVec 16) (k : BitVec 24) (f : Option Word) (e : RaceEntry) : Prop :=
  e.gmask &&& g ≠ 0 ∧ e.agent ≠ agent ∧ 0 ≤ delta24 e.clk k ∧ ∀ f', f = some f' → delta24 (low24 f') e.clk < 0

theorem mem_raceHits {es : List RaceEntry} {g : BitVec 8} {agent : BitVec 16} {k : BitVec 24} {f : Option Word} {e : RaceEntry} :
    e ∈ (raceHits es g agent k f).1 ↔ e ∈ es ∧ Conflicts g agent k f e := by
  cases f with
  | none => simp [raceHits, Conflicts, and_assoc]
  | some f =>
    simp only [raceHits, Conflicts, List.mem_filter, Bool.and_eq_true, bne_iff_ne, decide_eq_true_eq, Bool.not_eq_true', decide_eq_false_iff_not,
      not_le, ge_iff_le, Option.some.injEq, forall_eq']
    tauto

theorem raceHits_nil {a b : RaceEntry} {g : BitVec 8} {agent : BitVec 16} {k : BitVec 24} {f : Option Word} :
    (raceHits [a, b] g agent k f).1 = [] ↔ ¬ (Conflicts g agent k f a ∨ Conflicts g agent k f b) := by
  simp [List.eq_nil_iff_forall_not_mem, mem_raceHits]

/-- The access reads, and the access writes (R215). -/
def AccKind.Reads (kind : AccKind) : Prop := kind = .read ∨ ∃ b, kind = .sync true b
def AccKind.Writes (kind : AccKind) : Prop := kind = .write ∨ ∃ b, kind = .sync b true

section RaceLine
variable {m : LineMeta} {g : BitVec 8} {kind : AccKind} {agent : BitVec 16} {k : BitVec 24} {f : Option Word}

/-- A conflicting entry of a writer, and of a reader. -/
def WriterConflict (m : LineMeta) (g : BitVec 8) (agent : BitVec 16) (k : BitVec 24) (f : Option Word) : Prop :=
  Conflicts g agent k f m.w0 ∨ Conflicts g agent k f m.w1
def ReaderConflict (m : LineMeta) (g : BitVec 8) (agent : BitVec 16) (k : BitVec 24) (f : Option Word) : Prop :=
  Conflicts g agent k f m.r0 ∨ Conflicts g agent k f m.r1

/-- The cause of a line's check (R234). -/
def raceCause (m : LineMeta) (g : BitVec 8) (kind : AccKind) (agent : BitVec 16) (k : BitVec 24) (f : Option Word) : Option Cause :=
  (raceLine m g kind agent k f).1.map Prod.fst

theorem raceCause_raw (hk : kind.Reads) (hw : WriterConflict m g agent k f) : raceCause m g kind agent k f = some cRACE_RAW := by
  obtain ⟨e, r, hw⟩ := List.exists_cons_of_ne_nil (mt raceHits_nil.mp (not_not.mpr hw))
  rcases hk with rfl | ⟨b, rfl⟩ <;> simp [raceCause, raceLine, hw]

theorem raceCause_waw (hr : ¬ kind.Reads) (hk : kind.Writes) (hw : WriterConflict m g agent k f) :
    raceCause m g kind agent k f = some cRACE_WAW := by
  obtain ⟨e, r, hw⟩ := List.exists_cons_of_ne_nil (mt raceHits_nil.mp (not_not.mpr hw))
  rcases hk with rfl | ⟨b, rfl⟩
  · simp [raceCause, raceLine, hw]
  · cases b with
    | true => exact absurd (.inr ⟨true, rfl⟩) hr
    | false => simp [raceCause, raceLine, hw]

theorem raceCause_war (hk : kind.Writes) (hw : ¬ WriterConflict m g agent k f) (hr : ReaderConflict m g agent k f) :
    raceCause m g kind agent k f = some cRACE_WAR := by
  have hw : (raceHits [m.w0, m.w1] g agent k f).1 = [] := raceHits_nil.mpr hw
  obtain ⟨e, r, hr⟩ := List.exists_cons_of_ne_nil (mt raceHits_nil.mp (not_not.mpr hr))
  rcases hk with rfl | ⟨b, rfl⟩
  · simp [raceCause, raceLine, hw, hr]
  · cases b <;> simp [raceCause, raceLine, hw, hr]

theorem raceCause_none (hw : ¬ WriterConflict m g agent k f) (hr : ¬ (kind.Writes ∧ ReaderConflict m g agent k f)) :
    raceCause m g kind agent k f = none := by
  have hw : (raceHits [m.w0, m.w1] g agent k f).1 = [] := raceHits_nil.mpr hw
  have hr : kind.Writes → (raceHits [m.r0, m.r1] g agent k f).1 = [] := fun hk => raceHits_nil.mpr fun h => hr ⟨hk, h⟩
  cases kind with
  | read => simp [raceCause, raceLine, hw]
  | write => simp [raceCause, raceLine, hw, hr (.inl rfl)]
  | sync a b =>
    cases b with
    | false => cases a <;> simp [raceCause, raceLine, hw]
    | true => cases a <;> simp [raceCause, raceLine, hw, hr (.inr ⟨_, rfl⟩)]

end RaceLine

theorem lineParts_within {pa n : Nat} (h0 : 0 < n) (h : pa % 128 + n ≤ 128) : lineParts (n / 128 + 2) pa n = [(pa, n)] := by
  have hmin : min n (128 - pa % 128) = n := by omega
  simp [lineParts, hmin, Nat.ne_of_gt h0]

section RaceCheck
variable {s : State} {pa n : Nat} {kind : AccKind} {agent : BitVec 16} {k : Word}

theorem raceCheck_device (h : agent.getLsbD 15 = true) : s.raceCheck pa n kind agent k = (none, s) := if_pos h

/-- What the check of one line finds (R234): the line's metadata after aging, the floor where it is live. -/
def raceLook (s : State) (p : Nat × BitVec 8) (kind : AccKind) (agent : BitVec 16) (k : Word) : Option (Cause × RaceEntry) × Nat :=
  raceLine ((s.line p.1).aged (s.site (homeSite p.1)).h) p.2 kind agent (low24 k)
    (liveFloor (s.site (homeSite p.1)).h (s.site (homeSite p.1)).f)

theorem raceLines_single_passes {p : Nat × BitVec 8} (h : (raceLook s p kind agent k).1 = none) :
    (s.raceLines [p] kind agent k).1 = none := by
  unfold raceLook at h
  simp [State.raceLines, h]

/-- A race gives its cause, and changes registers of the line's site alone. -/
theorem raceLines_single_races {p : Nat × BitVec 8} {c : Cause} {e : RaceEntry} (h : (raceLook s p kind agent k).1 = some (c, e)) :
    (s.raceLines [p] kind agent k).1 = some c ∧ (s.raceLines [p] kind agent k).2.lines = s.lines ∧
      (s.raceLines [p] kind agent k).2.mem = s.mem := by
  unfold raceLook at h
  simp only [State.raceLines, List.takeWhile_cons, h, Option.isNone_some, Bool.false_eq_true, if_false, List.length_nil, Nat.zero_add,
    List.take_succ_cons, List.take_zero, List.foldl_cons, List.foldl_nil, List.filterMap_cons, List.filterMap_nil, Option.map_some,
    List.head?_cons, true_and, setWin_lines, addWin_lines, setWin_mem, addWin_mem]
  split <;> simp

variable (ha : agent.getLsbD 15 = false) (h0 : 0 < n) (hn : pa % 128 + n ≤ 128)
include ha h0 hn

theorem raceCheck_within : s.raceCheck pa n kind agent k = (s.homeTouch pa n).raceLines [(pa, partGranules pa n)] kind agent k := by
  simp only [State.raceCheck, ha, Bool.false_eq_true, if_false, lineParts_within h0 hn, List.map_cons, List.map_nil]

/-- The cause of an access within one line is its line's. -/
theorem raceCheck_cause : (s.raceCheck pa n kind agent k).1 = (raceLook (s.homeTouch pa n) (pa, partGranules pa n) kind agent k).1.map Prod.fst := by
  rw [raceCheck_within ha h0 hn]
  cases hl : (raceLook (s.homeTouch pa n) (pa, partGranules pa n) kind agent k).1 with
  | none => exact raceLines_single_passes hl
  | some r => exact (raceLines_single_races hl).1

/-- A race leaves every line's metadata, and memory, as they were. -/
theorem raceCheck_keeps (hr : (s.raceCheck pa n kind agent k).1.isSome = true) :
    (s.raceCheck pa n kind agent k).2.lines = (s.homeTouch pa n).lines ∧ (s.raceCheck pa n kind agent k).2.mem = (s.homeTouch pa n).mem := by
  rw [raceCheck_cause ha h0 hn, Option.isSome_map] at hr
  obtain ⟨r, hl⟩ := Option.isSome_iff_exists.mp hr
  rw [raceCheck_within ha h0 hn]
  exact (raceLines_single_races hl).2

end RaceCheck

end Sys2Proof.Machine
end

section
namespace Sys2Proof.Machine

section Accessed
variable {i : Instr} {f : FM} {size : Nat}

theorem accesses_of_load (hx : ∀ s, exec i s = issue i s (loadM i f size)) : Accesses i f size .read := ⟨_, hx⟩
theorem accesses_of_store (hx : ∀ s, exec i s = issue i s (storeM i f size)) : Accesses i f size .write := ⟨_, hx⟩
theorem accesses_ldacq (f : FM) : Accesses (.ldacq f) f 4 .read := ⟨_, execLdacq.eq_1 f⟩
theorem accesses_strel (f : FM) : Accesses (.strel f) f 4 .write := ⟨_, execStrel.eq_1 f⟩

end Accessed

/-- Settles O21: misaligned and refused accesses by `accessAll`; translation, walk and race check by their own cases. -/
theorem accessFaults : Obligations.AccessFaults := by
  refine ⟨?_, ?_, ?_, ?_, ?_⟩
  · exact fun f s s1 e gs m ms =>
      ⟨Accesses.raises (accesses_of_load fun _ => rfl), Accesses.raises (accesses_of_load fun _ => rfl),
        Accesses.raises (accesses_of_load fun _ => rfl), Accesses.raises (accesses_of_load fun _ => rfl),
        Accesses.raises (accesses_of_load fun _ => rfl), Accesses.raises (accesses_of_store fun _ => rfl),
        Accesses.raises (accesses_of_store fun _ => rfl), Accesses.raises (accesses_of_store fun _ => rfl),
        Accesses.raises (accesses_of_store fun _ => rfl), Accesses.raises (accesses_of_store fun _ => rfl)⟩
  · intro s core n ctx va need
    refine ⟨translate_not_canonical, translate_invalid_context, ?_⟩
    rintro c en hc rfl hf hd
    refine ⟨fun hp => ?_, fun hp hden => ?_, fun hp hden => ?_⟩
    · rw [translate_hit hc hf hd, permit_absent hp]
    · rw [translate_hit hc hf hd, permit_denied hp hden]
    · rw [translate_hit hc hf hd, permit_granted hp hden]
      rfl
  · intro s n ctx level table va r e hp h
    rcases h with hv | ⟨hl, h3⟩ | ⟨hl, h0⟩ | ⟨hl, hz⟩ | ⟨hl, hok⟩
    · exact walkFrom_invalid hp hv
    · exact walkFrom_bad_leaf hp hl (leafOk_refuses (.inl h3))
    · exact walkFrom_bad_table hp hl (.inl h0)
    · exact walkFrom_bad_table hp hl (.inr hz)
    · exact walkFrom_bad_leaf hp hl (leafOk_refuses (.inr hok))
  · intro s pa n kind agent k
    refine ⟨raceCheck_device, fun ha h0 hn => ?_⟩
    have hc := raceCheck_cause (s := s) (kind := kind) (k := k) ha h0 hn
    exact ⟨fun hr hw => hc.trans (raceCause_raw hr hw), fun hr hk hw => hc.trans (raceCause_waw hr hk hw),
      fun hk hw hr => hc.trans (raceCause_war hk hw hr), fun hw hr => hc.trans (raceCause_none hw hr), raceCheck_keeps ha h0 hn⟩
  · exact fun f s e t r =>
      ⟨Accesses.unaligned (accesses_of_load fun _ => rfl), Accesses.unaligned (accesses_of_load fun _ => rfl),
        Accesses.unaligned (accesses_of_load fun _ => rfl), Accesses.unaligned (accesses_of_load fun _ => rfl),
        Accesses.unaligned (accesses_of_store fun _ => rfl), Accesses.unaligned (accesses_of_store fun _ => rfl),
        Accesses.unaligned (accesses_of_store fun _ => rfl), Accesses.unaligned (accesses_of_store fun _ => rfl),
        (accesses_ldacq f).unaligned, (accesses_strel f).unaligned⟩

end Sys2Proof.Machine
end

section
namespace Sys2Proof.Machine

/-! Release and acquire (R91, R229, R275), and the instructions that perform them (R140, R141). -/

theorem touch_ccRelease (s : State) (core w : Nat) : Touch s (s.ccRelease core w) :=
  Touch.foldl _ (fun t x => by
    split
    · exact touch_ccClean t _ _
    · exact Touch.refl t) _ s

theorem touch_ccAcquire (s : State) (core : Nat) : Touch s (s.ccAcquire core) := touch_ite_setCore s _ _ _

theorem oclk_of_wg {s : State} {slot : Nat} {w : Workgroup} (h : s.wg slot = some w) : s.oclk slot = w.oclk := by
  simp only [State.oclk, h]

theorem Touch.oclk {s t : State} (h : Touch s t) (slot : Nat) : t.oclk slot = s.oclk slot := by
  simp only [State.oclk, State.wg, h.wgs]

theorem wg_setWg_same (s : State) (slot : Nat) (w : Workgroup) : (s.setWg slot w).wg slot = some w := by simp [State.wg]

section Clocks
variable {s : State} {slot : Nat} {w : Workgroup} (h : s.wg slot = some w)
include h

/-- A release cleans the column cache at most, and sets the clock to the one it carries. -/
theorem release_eq (scope : Nat) : ∃ t, Touch s t ∧ s.release slot scope = (w.oclk + 1, t.setWg slot { w with oclk := w.oclk + 1 }) := by
  have hwg {t : State} (ht : Touch s t) : t.wg slot = some w := by rw [State.wg, ht.wgs]; exact h
  unfold State.release
  split
  · have ht := touch_ccRelease s (coreOfSlot slot) (slot % 16)
    exact ⟨_, ht, by simp only [hwg ht]⟩
  · exact ⟨s, Touch.refl s, by simp only [h]⟩

theorem release_clock (scope : Nat) : (s.release slot scope).1 = w.oclk + 1 := by
  obtain ⟨t, -, hr⟩ := release_eq h scope
  rw [hr]

theorem oclk_release (scope : Nat) : (s.release slot scope).2.oclk slot = w.oclk + 1 := by
  obtain ⟨t, -, hr⟩ := release_eq h scope
  rw [hr]
  exact oclk_of_wg (wg_setWg_same t slot _)

theorem oclk_acquire (scope : Nat) (k : Word) : (s.acquire slot scope k).oclk slot = clkMax w.oclk k := by
  have hm : (s.modWg slot (fun w => { w with oclk := clkMax w.oclk k })).oclk slot = clkMax w.oclk k := by
    rw [State.modWg, h]
    exact oclk_of_wg (wg_setWg_same s slot _)
  unfold State.acquire
  split
  · exact ((touch_ccAcquire _ _).oclk slot).trans hm
  · exact hm

end Clocks

theorem clkMax_eq (x y : Word) : clkMax x y = if 1 ≤ (x - y).toNat ∧ (x - y).toNat < 2 ^ 31 then x else y := by
  simp only [clkMax, later32, decide_eq_true_eq]

/-- What LDACQ does for one unit (R140): its word and its line's clock, read at the home. -/
def ldacqAct (f : FM) (e : Env) (g : Target) (s : State) : (List RegWrite × Option Word × Word) × State :=
  let h := (s.ccDrop e.core (g.x.pa / 128)).homeTouch g.x.pa
  ((putWords f.u f.t g.t [BitVec.ofNat 32 (ofBytesLE (h.homeLoad g.x 4))], some (h.lineClock g.x.pa), 0), h)

/-- What STREL does for one unit, with the clock of its release. -/
def strelAct (f : FM) (e : Env) (k : Word) (g : Target) (s : State) : (List RegWrite × Option Word × Word) × State :=
  (([], none, 0), ((((s.ccDrop e.core (g.x.pa / 128)).homeTouch g.x.pa).homeStore g.x (e.storeData f 4 g.t)).raiseLine g.x.pa k))

section Sync
variable {f : FM} {s s1 s2 : State} {e : Env} {gs : List Target} {d : Done}

theorem ldacq_tracks (h : Runs (.ldacq f) s e) (hr : Reaches e f.u 4 .read (e.ea f.u f.base f.idx) s gs s1) (hd : d.misses = [])
    (hp : performEach (checkHome e 4 (.sync true false)) (ldacqAct f e) gs .none s1 = (d, s2)) :
    TracksFrom (.ldacq f) s e d.ws ((s2.acquireOpt e.ref.slot f.scope.toNat d.clk).raise e d.fl) := by
  show execLdacq f s = _
  rw [execLdacq, issue_runs h, accessAll_reaches hr, ← settleMem_clean (u := f.u) hd]
  exact congrArg (fun r => Host.Outcome.next (settleMem e (.ldacq f) f.u r.1 (r.2.acquireOpt e.ref.slot f.scope.toNat r.1.clk))) hp

theorem strel_tracks (h : Runs (.strel f) s e) (hr : Reaches e f.u 4 .write (e.ea f.u f.base f.idx) s gs s1)
    (hb : s1.engineBusy e.ref f.scope.toNat = false) (hd : d.misses = [])
    (hp : performEach (checkHome e 4 (.sync false true)) (strelAct f e (s1.release e.ref.slot f.scope.toNat).1) gs .none
      (s1.release e.ref.slot f.scope.toNat).2 = (d, s2)) :
    TracksFrom (.strel f) s e d.ws (s2.raise e d.fl) := by
  show execStrel f s = _
  rw [execStrel, issue_runs h, accessAll_reaches hr, ← settleMem_clean (u := f.u) hd, hb]
  exact congrArg (fun r => Host.Outcome.next (settleMem e (.strel f) f.u r.1 r.2)) hp

/-- FENCE releases when T[1] is set, and then acquires when T[0] is (R141). -/
theorem fence_next (h : Runs (.fence f) s e) (hb : f.t.getLsbD 1 = true → s.engineBusy e.ref f.scope.toNat = false) :
    exec (.fence f) s = .next
      (let s1 := if f.t.getLsbD 1 then (s.release e.ref.slot f.scope.toNat).2 else s
       finish e (if f.t.getLsbD 0 then s1.acquire e.ref.slot f.scope.toNat (s1.oclk e.ref.slot) else s1)) := by
  show execFence f s = _
  rw [execFence, issue_runs h]
  exact congrArg Host.Outcome.next (if_neg (by simpa using hb))

end Sync

/-- Settles O23: LDACQ and STREL by their accesses, FENCE by its kind, and the clocks of a release and an acquire. -/
theorem synchronisingAccesses : Obligations.SynchronisingAccesses := by
  refine ⟨fun f s s1 s2 e gs d => ⟨fun h hr hd hp => ?_, fun h hr hb hd hp => strel_tracks h hr hb hd hp, fun h hrel hacq hb => ?_,
    fun h hrel hacq => ?_, fun h hrel hacq hb => ?_⟩, fun s slot scope w k h => ?_⟩
  · have := ldacq_tracks h hr hd hp
    unfold State.acquireOpt at this
    exact this
  · exact (fence_next h fun _ => hb).trans (by simp only [hrel, hacq, Bool.false_eq_true, if_false, if_true])
  · exact (fence_next h fun hr => absurd hr (by rw [hrel]; exact Bool.false_ne_true)).trans
      (by simp only [hrel, hacq, Bool.false_eq_true, if_false, if_true])
  · exact (fence_next h fun _ => hb).trans (by simp only [hrel, hacq, if_true])
  · exact ⟨release_clock h scope, oclk_release h scope, (oclk_acquire h scope k).trans (clkMax_eq _ _)⟩

/-! Format-decoded accesses (R142, R143). -/

/-- What LDQ does for one unit: its element, decoded with the two bytes of its side record. -/
def ldqAct (f : FM) (e : Env) (q : QTarget) (x z : Nat) (s : State) : (List RegWrite × Word) × State :=
  let w := ldqWords q.d x z (s.loadBytes e.acc q.g.x q.d.size f.nt).1
  ((putWords f.u f.t q.g.t w.1, w.2), (s.loadBytes e.acc q.g.x q.d.size f.nt).2)

/-- What STQ does for one unit: its element, encoded. -/
def stqAct (f : FM) (e : Env) (q : QTarget) (x z : Nat) (s : State) : (List RegWrite × Word) × State :=
  (([], (stqBytes e f q.d q.off x z q.g.t).2), s.storeBytes e.acc q.g.x (stqBytes e f q.d q.off x z q.g.t).1 f.nt)

section Format
variable {f : FM} {s s1 s2 : State} {e : Env} {qs : List QTarget} {d : Done} (hd : d.misses = [])
include hd

theorem ldq_tracks (h : Runs (.ldq f) s e) (hf : ∀ k, formatAll e (.ldq f) f .read s k = k qs s1)
    (hp : performQ e f.nt false (ldqAct f e) qs .none s1 = (d, s2)) : TracksFrom (.ldq f) s e d.ws (s2.raise e d.fl) := by
  show execLdq f s = _
  rw [execLdq, issue_runs h, hf, ← settleMem_clean (u := f.u) hd]
  exact congrArg (fun r => Host.Outcome.next (settleMem e (.ldq f) f.u r.1 r.2)) hp

theorem stq_tracks (h : Runs (.stq f) s e) (hf : ∀ k, formatAll e (.stq f) f .write s k = k qs s1)
    (hp : performQ e f.nt true (stqAct f e) qs .none s1 = (d, s2)) : TracksFrom (.stq f) s e d.ws (s2.raise e d.fl) := by
  show execStq f s = _
  rw [execStq, issue_runs h, hf, ← settleMem_clean (u := f.u) hd]
  exact congrArg (fun r => Host.Outcome.next (settleMem e (.stq f) f.u r.1 r.2)) hp

end Format

/-- A dithering STQ that completes advances DPHASE (R33, R58). -/
theorem afterFlight_stq {c : Coach} {fl : Flight} (hk : fl.kind = .performed) (hw : fl.word.toNat / 2 ^ 24 = 0x7E)
    (hsr : fl.word.toNat / 2 % 8 = 1) : (c.afterFlight fl).dphase = c.dphase + 1 := by
  have hbits : bits fl.word.toNat 1 3 = 1 := hsr
  have ht : fl.tile = true := by
    simp only [Flight.tile, opcodeOf_toNat, hw, hk, hbits]
    rfl
  simp only [Coach.afterFlight, ht, if_true, lowerFlag_dphase]

theorem pref_next {f : FM} {s : State} {e : Env} (h : Runs (.pref f) s e) : exec (.pref f) s =
    .next (finish e ((e.units f.u).foldl (fun t u => prefOne e (f.t == 0) t (e.ea f.u f.base f.idx u)) s)) := by
  show execPref f s = _
  rw [execPref, issue_runs h]

/-- Settles O24: LDQ and STQ by the accesses that their formats give, the dither at completion, PREF by its lines. -/
theorem formatDecodedAccesses : Obligations.FormatDecodedAccesses := fun _ _ _ _ _ _ _ hd =>
  ⟨fun h hf hp => ldq_tracks hd h hf hp, fun h hf hp => stq_tracks hd h hf hp, fun _ _ => afterFlight_stq, pref_next⟩

/-! Buffer accesses (R136, R144, R145). -/

/-- Units that each give results and change nothing give them in order. -/
theorem foldl_results (g : State → Nat → List RegWrite) (us : List Nat) (ws : List RegWrite) (fl : Word) (s : State) :
    us.foldl (fun (r : (List RegWrite × Word) × State) t => ((r.1.1 ++ g r.2 t, r.1.2 ||| 0), r.2)) ((ws, fl), s) =
      ((ws ++ us.flatMap (g s), fl), s) := by
  induction us generalizing ws with
  | nil => simp
  | cons t r ih => simp only [List.foldl_cons, List.flatMap_cons, show fl ||| 0 = fl from BitVec.or_zero, ih, List.append_assoc]

/-- Units that each change the machine and give no result. -/
theorem foldl_changes (g : State → Nat → State) (us : List Nat) (ws : List RegWrite) (fl : Word) (s : State) :
    us.foldl (fun (r : (List RegWrite × Word) × State) t => ((r.1.1 ++ [], r.1.2 ||| 0), g r.2 t)) ((ws, fl), s) =
      ((ws, fl), us.foldl g s) := by
  induction us generalizing s with
  | nil => rfl
  | cons t r ih => simpa only [List.foldl_cons, show fl ||| 0 = fl from BitVec.or_zero, List.append_nil] using ih (g s t)

theorem raise_zero (s : State) (e : Env) : s.raise e 0 = s := orStatus_zero s _ _

section Buffer
variable {i : Instr} {f : FM} {b : Buf} {size : Nat} {s : State} {e : Env}

theorem loadB_tracks (hx : ∀ s, exec i s = issue i s (loadB i f b size)) (h : Runs i s e)
    (hr : ReachesBuf e f.u b size false (e.ea f.u f.base f.idx) s) :
    TracksFrom i s e ((e.units f.u).flatMap (fun t => putWords f.u f.t t (loadWords size false
      (bufRead ((s.core e.core).buf b) (((s.core e.core).window e.wg b).1 + (e.ea f.u f.base f.idx t).toNat) size)))) s := by
  unfold TracksFrom
  rw [hx, issue_runs h, loadB, bufAll_reaches hr fun _ _ _ => List.Subset.refl _]
  simp only [foldl_results (fun s' t => putWords f.u f.t t (loadWords size false
    (bufRead ((s'.core e.core).buf b) (((s.core e.core).window e.wg b).1 + (e.ea f.u f.base f.idx t).toNat) size))),
    raise_zero, List.nil_append]

theorem storeB_tracks (hx : ∀ s, exec i s = issue i s (storeB i f b size)) (h : Runs i s e)
    (hr : ReachesBuf e f.u b size true (e.ea f.u f.base f.idx) s) :
    TracksFrom i s e [] ((e.units f.u).foldl (fun u t => u.setCore e.core ((u.core e.core).putBytes b
      (((s.core e.core).window e.wg b).1 + (e.ea f.u f.base f.idx t).toNat) (e.storeData f size t))) s) := by
  unfold TracksFrom
  rw [hx, issue_runs h, storeB, bufAll_reaches hr fun t off s => by
    rw [core_setCore_same]
    exact List.filter_subset_self _]
  simp only [foldl_changes (fun (u : State) t => u.setCore e.core ((u.core e.core).putBytes b
    (((s.core e.core).window e.wg b).1 + (e.ea f.u f.base f.idx t).toNat) (e.storeData f size t))), raise_zero]

end Buffer

/-- Settles O25: the loads are `loadB` and the stores `storeB`, each with its own buffer and size. -/
theorem bufferAccesses : Obligations.BufferAccesses := fun _ _ _ =>
  ⟨loadB_tracks fun _ => rfl, loadB_tracks fun _ => rfl, loadB_tracks fun _ => rfl, loadB_tracks fun _ => rfl, loadB_tracks fun _ => rfl,
    storeB_tracks fun _ => rfl, storeB_tracks fun _ => rfl, storeB_tracks fun _ => rfl, storeB_tracks fun _ => rfl,
    storeB_tracks fun _ => rfl⟩

end Sys2Proof.Machine
end

section
namespace Sys2Proof.Machine

/-! Barriers (R149-R152, R405). -/

/-- The coach as it waits (R21, R300). -/
def Env.waiting (e : Env) (i : Instr) (st : CoachState) (w : Wait) : Coach := { e.c with
  state := st, wait := { w with word := encode i, clk := some e.acc.clk },
  holds := if e.c.wait.word.isSome = true then e.c.holds else e.clk + e.dur,
  starv := if e.c.wait.word.isSome = true then e.c.starv else 0 }

/-- Entering a wait changes the coach alone. -/
theorem Runs.waitIn_eq {i : Instr} {s : State} {e : Env} (h : Runs i s e) (st : CoachState) (w : Wait) :
    waitIn e i st w s = s.setCoach s.cur (e.waiting i st w) := by
  unfold waitIn
  rw [h.ref]
  exact modCoach_of_coach h.coach _

/-- A wait is entered without a result. -/
theorem Runs.waitIn_no_results {i : Instr} {s : State} {e : Env} (h : Runs i s e) (st : CoachState) (w : Wait) :
    waitIn e i st w (s.modCoach e.ref (fun c => c.writeRegs e.tick [])) = waitIn e i st w s := by
  have hm : s.modCoach e.ref (fun c => c.writeRegs e.tick []) = s.setCoach s.cur e.c := by
    rw [h.ref]
    exact modCoach_of_coach h.coach _
  rw [h.waitIn_eq, hm]
  unfold waitIn
  rw [h.ref]
  exact (modCoach_of_coach (coach_setCoach_same h.wg e.c) _).trans (setCoach_setCoach _ _ _ _)

theorem Runs.waitsIn {i : Instr} {s : State} {e : Env} (h : Runs i s e) {st : CoachState} {w : Wait}
    (hx : exec i s = .next (waitIn e i st w s)) : WaitsIn i s e st w := by
  rw [h.waitIn_eq] at hx
  exact hx

/-- The phase of a barrier joined by an arrival of n with clock k: completed when the count reaches the expected one (R150). -/
def State.joinPhase (s : State) (slot scope bix n : Nat) (k : Word) : State :=
  let b := s.bar slot scope bix
  let b1 : Bar := { b with a := b.a + BitVec.ofNat 32 n, m := clkMax b.m k }
  if b1.a = b.e then s.completePhase slot scope bix b1 else s.setBar slot scope bix b1

section Arrive
variable {s : State} {slot scope bix n : Nat}

theorem arrive_joins (h : (s.bar slot scope bix).a.toNat + n ≤ (s.bar slot scope bix).e.toNat) (k : Word) :
    s.arrive slot scope bix n k = (some (s.bar slot scope bix).g, s.joinPhase slot scope bix n k) :=
  if_neg (Nat.not_lt.mpr h)

theorem arrive_overflows (h : (s.bar slot scope bix).e.toNat < (s.bar slot scope bix).a.toNat + n) (k : Word) :
    s.arrive slot scope bix n k = (none, s) :=
  if_pos h

/-- A completed phase: the next generation, nothing arrived, and the release clock above every arrival's (R150). -/
def Bar.completed (b : Bar) : Bar := { e := b.e, a := 0, g := b.g + 1, rclk := b.m + 1, m := 0 }

theorem find?_filter_not {α : Type} (p : α → Bool) (l : List α) : (l.filter (fun x => !p x)).find? p = none := by
  simp [List.find?_eq_none]

/-- A barrier beyond the workgroup, as an update of the machine's. -/
theorem setBar_wide {w : Workgroup} (h : s.wg slot = some w) (h1 : scope ≠ 1) (b : Bar) : s.setBar slot scope bix b =
    { s with wideBars := List.filter (fun x => !x.is scope (scopeInst scope (coreOfSlot slot)) (barOwner scope w.ctx w.gid) bix) s.wideBars ++
      [{ scope := BitVec.ofNat 3 scope, inst := scopeInst scope (coreOfSlot slot), owner := barOwner scope w.ctx w.gid, bix := bix, bar := b }] } := by
  simp only [State.setBar, h, if_neg h1]

/-- A barrier reads as it has been set. -/
theorem bar_setBar_same {w : Workgroup} (h : s.wg slot = some w) (hsc : scope ≤ 6) (b : Bar) :
    (s.setBar slot scope bix b).bar slot scope bix = b := by
  by_cases h1 : scope = 1
  · subst h1
    simp [State.setBar, State.bar, h, wg_setWg_same, Table.getD]
  · have hwg : (s.setBar slot scope bix b).wg slot = some w := by
      rw [setBar_wide h h1]
      exact h
    have hscope : (BitVec.ofNat 3 scope).toNat = scope := by
      rw [BitVec.toNat_ofNat]
      omega
    simp only [State.bar, hwg, if_neg h1]
    simp only [setBar_wide h h1, List.find?_append, find?_filter_not (p := fun x => WideBar.is x scope _ _ _), Option.none_or]
    simp [WideBar.is, hscope]

theorem bar_completePhase {w : Workgroup} (h : s.wg slot = some w) (hsc : scope ≤ 6) (b : Bar) :
    (s.completePhase slot scope bix b).bar slot scope bix = b.completed :=
  bar_setBar_same (bix := bix) h hsc b.completed

end Arrive

section BarArrive
variable {e : Env} {i : Instr} {f : FB} {s : State} {k : Word → State → State} (hu : undeclared e f s = false)
include hu

theorem barArrive_stalls (hc : s.barCarried f.scope.toNat = false) : barArrive e i f s k = s := by
  simp only [barArrive, hu, hc, or_true, Bool.false_eq_true, if_false, if_true, stall]

variable (hc : s.barCarried f.scope.toNat = true) (hb : s.engineBusy e.ref f.scope.toNat = false)
include hc hb

/-- An arrival releases, joins the phase in progress, and what follows has the phase's generation. -/
theorem barArrive_joins (hn : ((s.release e.ref.slot f.scope.toNat).2.bar e.ref.slot f.scope.toNat f.bix.toNat).a.toNat + arrivalCount e f ≤
      ((s.release e.ref.slot f.scope.toNat).2.bar e.ref.slot f.scope.toNat f.bix.toNat).e.toNat) :
    barArrive e i f s k = k ((s.release e.ref.slot f.scope.toNat).2.bar e.ref.slot f.scope.toNat f.bix.toNat).g
      ((s.release e.ref.slot f.scope.toNat).2.joinPhase e.ref.slot f.scope.toNat f.bix.toNat (arrivalCount e f)
        (s.release e.ref.slot f.scope.toNat).1) := by
  simp only [barArrive, hu, hc, hb, Bool.false_eq_true, Bool.true_eq_false, or_self, if_false, arrive_joins hn]

theorem barArrive_overflows (hn : ((s.release e.ref.slot f.scope.toNat).2.bar e.ref.slot f.scope.toNat f.bix.toNat).e.toNat <
      ((s.release e.ref.slot f.scope.toNat).2.bar e.ref.slot f.scope.toNat f.bix.toNat).a.toNat + arrivalCount e f) :
    barArrive e i f s k = raiseCause e i cBAR_OVERFLOW 0 e.active e.active (s.release e.ref.slot f.scope.toNat).2 := by
  simp only [barArrive, hu, hc, hb, Bool.false_eq_true, Bool.true_eq_false, or_self, if_false, arrive_overflows hn]

end BarArrive

section BarWait
variable {e : Env} {i : Instr} {f : FB} {s : State} {g : Word}

theorem barWait_completes (hd : phaseDone (s.bar e.ref.slot f.scope.toNat f.bix.toNat).g g = true) (hc : s.barCarried f.scope.toNat = true)
    (ws : List RegWrite) : barWait e i f g ws s =
      finishW e ws (s.acquire e.ref.slot f.scope.toNat (s.bar e.ref.slot f.scope.toNat f.bix.toNat).rclk) :=
  if_pos ⟨hd, hc⟩

theorem Runs.barWait_waits (h : Runs i s e)
    (hn : ¬ (phaseDone (s.bar e.ref.slot f.scope.toNat f.bix.toNat).g g = true ∧ s.barCarried f.scope.toNat = true)) :
    barWait e i f g [] s =
      waitIn e i .waitBar { Wait.none with joined := some g, bar := some (f.scope.toNat, f.bix.toNat) } s :=
  (if_neg hn).trans (h.waitIn_no_results _ _)

end BarWait

section BarInstructions
variable {f : FB} {s : State} {e : Env}

theorem bara_next (h : Runs (.bara f) s e) : exec (.bara f) s =
    .next (barArrive e (.bara f) f s (fun g s => tracked e (.bara f) (genWrite f g) s)) := by
  show execBara f s = _
  rw [execBara, issue_runs h]

theorem baraw_next (h : Runs (.baraw f) s e) (hk : e.kept.joined = none) : exec (.baraw f) s =
    .next (barArrive e (.baraw f) f s (fun g s => barWait e (.baraw f) f g (genWrite f g) s)) := by
  show execBaraw f s = _
  rw [execBaraw, issue_runs h, hk]

theorem barw_next (h : Runs (.barw f) s e) (hu : undeclared e f s = false) : exec (.barw f) s =
    .next (barWait e (.barw f) f (e.sop 1 f.gen) [] s) := by
  show execBarw f s = _
  rw [execBarw, issue_runs h]
  simp only [hu, Bool.false_eq_true, if_false]

theorem barinit_stalls (h : Runs (.barinit f) s e) (hu : undeclared e f s = false) (hc : s.barCarried f.scope.toNat = false) :
    exec (.barinit f) s = .next s := by
  show execBarinit f s = _
  rw [execBarinit, issue_runs h]
  simp only [hu, hc, Bool.not_false, Bool.false_eq_true, if_false, if_true, stall]

/-- BARINIT sets the expected count, unless the count has passed it (R151). -/
theorem barinit_next (h : Runs (.barinit f) s e) (hu : undeclared e f s = false) (hc : s.barCarried f.scope.toNat = true) {m : Word}
    (hm : m = if f.cnt = 0 then 0 else e.sop 0 f.cnt) :
    let b := s.bar e.ref.slot f.scope.toNat f.bix.toNat
    exec (.barinit f) s = .next (if m.toNat < b.a.toNat then raiseCause e (.barinit f) cBAR_OVERFLOW 0 e.active e.active s
      else tracked e (.barinit f) (genWrite f b.g)
        (if b.a ≠ 0 ∧ b.a = m then s.completePhase e.ref.slot f.scope.toNat f.bix.toNat { b with e := m }
          else s.setBar e.ref.slot f.scope.toNat f.bix.toNat { b with e := m })) := by
  show execBarinit f s = _
  rw [execBarinit, issue_runs h, hm]
  simp only [hu, hc, Bool.not_true, Bool.false_eq_true, if_false, BitVec.ult_eq_decide, decide_eq_true_eq]

/-- A barrier of a scope that the kernel has not declared (R38, R149). -/
theorem undeclared_traps (hu : undeclared e f s = true) (hk : e.kept.joined = none) :
    ∀ i ∈ [Instr.bara f, .baraw f, .barw f, .barinit f], Runs i s e → exec i s = .next (trapAll e i cBAR_SCOPE_UNDECLARED 0 s) := by
  simp only [List.forall_mem_cons]
  refine ⟨fun h => ?_, fun h => ?_, fun h => ?_, fun h => ?_, List.forall_mem_nil _⟩
  · rw [bara_next h, barArrive, if_pos hu]
  · rw [baraw_next h hk, barArrive, if_pos hu]
  · show execBarw f s = _
    rw [execBarw, issue_runs h, if_pos hu]
  · show execBarinit f s = _
    rw [execBarinit, issue_runs h, if_pos hu]

end BarInstructions

/-- Settles O32: arrivals by `barArrive`, waits by `barWait`, BARINIT by its three outcomes; a completed phase reads as it is set. -/
theorem barrierInstructions : Obligations.BarrierInstructions := by
  refine ⟨fun f s e hu => ⟨?_, ?_, ?_, fun hc => ⟨?_, ?_, ?_, ?_, ?_, ?_⟩⟩, fun f s e => undeclared_traps, ?_⟩
  · intro hc
    simp only [List.forall_mem_cons]
    exact ⟨fun h => (bara_next h).trans (congrArg _ (barArrive_stalls hu hc)), fun h => barinit_stalls h hu hc, List.forall_mem_nil _⟩
  · exact fun hc h hk => (baraw_next h hk).trans (congrArg _ (barArrive_stalls hu hc))
  · intro h hn
    refine h.waitsIn ((barw_next h hu).trans (congrArg _ (h.barWait_waits ?_)))
    simpa only [phaseDone, decide_eq_true_eq, and_assoc] using hn
  · exact fun h hb hn => (bara_next h).trans (congrArg _ (barArrive_joins hu hc hb hn))
  · exact fun h hb hn => (bara_next h).trans (congrArg _ (barArrive_overflows hu hc hb hn))
  · exact fun h hk hb hn => (baraw_next h hk).trans (congrArg _ (barArrive_joins hu hc hb hn))
  · exact fun h hk hb hn => (baraw_next h hk).trans (congrArg _ (barArrive_overflows hu hc hb hn))
  · exact fun h h1 h2 => (barw_next h hu).trans (congrArg _ (barWait_completes (decide_eq_true ⟨h1, h2⟩) hc []))
  · intro m h hm
    have hx := barinit_next h hu hc hm
    refine ⟨fun hle hne => hx.trans ?_, fun h0 heq => hx.trans ?_, fun hlt => hx.trans (congrArg _ (if_pos hlt))⟩
    · rw [if_neg (by omega), if_neg (by tauto)]
    · rw [if_neg (by rw [heq]; exact lt_irrefl _), if_pos ⟨h0, heq⟩]
  · exact fun s slot scope bix w b h _ hsc => bar_completePhase h hsc b

end Sys2Proof.Machine
end

section
namespace Sys2Proof.Machine

/-! WAITC and WAITCT (R154, R155). -/

/-- The environment of a WAITCT that keeps its deadline: its wait alone differs. -/
def Env.keeping (e : Env) (d : Nat) : Env := { e with c := { e.c with wait := { e.c.wait with deadline := some d } } }

section Keeping
variable (e : Env) (d : Nat)

theorem keeping_eq : ({ e with c := { e.c with wait := { e.c.wait with deadline := some d } } } : Env) = e.keeping d := rfl
theorem keeping_ref : (e.keeping d).ref = e.ref := rfl
theorem keeping_core : (e.keeping d).core = e.core := rfl
theorem keeping_site : (e.keeping d).site = e.site := rfl
theorem keeping_ctx : (e.keeping d).ctx = e.ctx := rfl
theorem keeping_acc : (e.keeping d).acc = e.acc := rfl
theorem keeping_sop64 (pos : Nat) (r : RegNo) : (e.keeping d).sop64 pos r = e.sop64 pos r := rfl
theorem keeping_data (u : Bool) (r : RegNo) (i t : Nat) : (e.keeping d).data u r i t = e.data u r i t := rfl
theorem finishW_keeping (ws : List RegWrite) (s : State) : finishW (e.keeping d) ws s = finishW e ws s := rfl

end Keeping

/-- The home of a waited word, brought before its slice with the core's copy dropped. -/
def State.atHome (s : State) (e : Env) (x : Xl) : State := (s.ccDrop e.core (x.pa / 128)).homeTouch x.pa
/-- The word there. -/
def State.wordAt (s : State) (x : Xl) : Word := BitVec.ofNat 32 (ofBytesLE (s.homeLoad x 4))
/-- The word satisfies the instruction's compare. -/
def waitMet (e : Env) (f : FW) (w : Word) : Bool := waitCompare f.cond.toNat w (e.data true f.t 0 0)

/-- What WAITC writes, and WAITCT, which writes too whether it timed out. -/
def waitcWrites (f : FW) (w : Word) : List RegWrite := [{ scalar := true, reg := f.t.toNat + 1, thread := 0, val := w }]
def waitctWrites (f : FW) (w : Word) (met : Bool) : List RegWrite :=
  [{ scalar := true, reg := f.t.toNat + 2, thread := 0, val := w },
   { scalar := true, reg := f.t.toNat + 3, thread := 0, val := if met then 0 else 1 }]

section MonitorWait
variable {i : Instr} {f : FW} {s s1 s3 : State} {e : Env} {x : Xl}
  (ht : (s.dropWaiter e.ref).translate (some e.core) e.site e.ctx (e.sop64 0 f.base) .read = (.ok x, s1))
  (hva : (e.sop64 0 f.base).toNat % 4 = 0) (hsp : paSpace x.pa ≤ 1) (htest : s1.tested x.pa 4 = false)
  (hck : (s1.atHome e x).homeCheck e.acc x 4 (.sync true false) = (none, s3))
include ht hva hsp htest hck

/-- A WAITC whose word satisfies the compare ends. -/
theorem monitorWait_met (hmet : waitMet e f ((s1.atHome e x).wordAt x) = true) : monitorWait i f false e s =
    finishW e (waitcWrites f ((s1.atHome e x).wordAt x)) (s3.acquire e.ref.slot 5 (s3.lineClock x.pa)) := by
  have h2 : paSpace x.pa ≠ 2 := by omega
  have h3 : badWindow 4 x = false := decide_eq_false (by omega)
  unfold State.atHome State.wordAt waitMet at *
  simp only [monitorWait, Bool.false_eq_true, if_false, ne_eq, hva, not_true_eq_false, ht, h2, h3, htest, Bool.false_and, Bool.or_false, hmet,
    if_true, hck]
  rfl

/-- A WAITCT whose word satisfies the compare, or whose deadline has come, ends. -/
theorem monitorWait_timed (hend : waitMet e f ((s1.atHome e x).wordAt x) = true ∨
      e.deadline f (s.dropWaiter e.ref) ≤ ((s1.atHome e x).waferTime (homeSite x.pa)).toNat) : monitorWait i f true e s =
    finishW e (waitctWrites f ((s1.atHome e x).wordAt x) (waitMet e f ((s1.atHome e x).wordAt x)))
      (s3.acquire e.ref.slot 5 (s3.lineClock x.pa)) := by
  have h2 : paSpace x.pa ≠ 2 := by omega
  have h3 : badWindow 4 x = false := decide_eq_false (by omega)
  have hfin : (waitMet e f ((s1.atHome e x).wordAt x) ||
      decide (e.deadline f (s.dropWaiter e.ref) ≤ ((s1.atHome e x).waferTime (homeSite x.pa)).toNat)) = true := by simpa using hend
  unfold State.atHome State.wordAt waitMet at *
  simp only [monitorWait, if_true, keeping_eq, keeping_ref, keeping_core, keeping_site, keeping_ctx, keeping_acc, keeping_sop64, keeping_data,
    finishW_keeping, ne_eq, hva, not_true_eq_false, if_false, ht, h2, h3, htest, Bool.false_eq_true, Bool.true_and, hfin, hck]
  rfl

end MonitorWait

/-- The deadline of a WAITCT from its first issue (R155). -/
theorem deadline_dropWaiter {e : Env} {f : FW} {s : State} (h : (s.dropWaiter e.ref).waferTime e.site = s.waferTime e.site) :
    e.deadline f (s.dropWaiter e.ref) = e.deadline f s := by
  simp only [Env.deadline, h]

/-! SLEEP, YIELD and OCRD (R166). -/

/-- A coach that yields goes on, and is ready in the next slice cycle. -/
theorem Runs.yield_eq {i : Instr} {s : State} {e : Env} (h : Runs i s e) :
    yield e s = s.setCoach s.cur { e.c.advance e with stamp := e.clk + 1, yieldAt := e.clk + 1 } := by
  have hc : (finish e s).coach e.ref = some (e.c.advance e) := by
    rw [h.finish_eq rfl, h.ref]
    exact coach_setCoach_same h.wg _
  rw [yield, modCoach_of_coach hc, h.finish_eq rfl, h.ref, setCoach_setCoach]

section Sleep
variable {f : RRR} {s : State} {e : Env}

/-- A sleep that has not begun yields when it is of 0, and else waits for its end. -/
theorem sleep_next (h : Runs (.sleep f) s e) (hk : e.kept.deadline = none) : exec (.sleep f) s = .next
    (if e.sop 0 f.a = 0 then yield e s
     else waitIn e (.sleep f) .parkedMon { Wait.none with deadline := some ((s.time e.site).toNat + (e.sop 0 f.a).toNat) } s) := by
  have hz : (e.sop 0 f.a).toNat = 0 ↔ e.sop 0 f.a = 0 := BitVec.toNat_inj (y := 0)
  show execSleep f s = _
  rw [execSleep, issue_runs h]
  simp only [hk, hz]

theorem ocrd_computes (h : Runs (.ocrd f) s e) (hs : Settled e (.ocrd f))
    (hf : e.c.flights.any (fun x => isSyncOp (opcodeOf x.word).toNat) = false) :
    Computes (.ocrd f) s e true f.d.toNat 2 (fun _ => e.wg.oclk.toNat + 2 ^ 32 * e.ref.slot) := by
  refine ⟨_, ?_, wrote_lanes e true f.d.toNat 2 _ (destSettled_dest hs ⟨_, rfl⟩)⟩
  have hw : (e.units true).flatMap (fun t => putRun true f.d.toNat 2 t (e.wg.oclk.toNat + 2 ^ 32 * e.ref.slot)) =
      putRun true f.d.toNat 2 0 (e.wg.oclk.toNat + 2 ^ 32 * e.ref.slot) := List.flatMap_singleton _ _
  show execOcrd f s = _
  rw [hw, execOcrd, issue_runs h, hf, ← h.ref]
  exact congrArg Host.Outcome.next (modCoach_of_coach (by rw [h.ref]; exact h.coach) _)

end Sleep

/-- Settles O33: WAITC and WAITCT by the end of `monitorWait`, the others by what each does to its coach. -/
theorem monitorWaits : Obligations.MonitorWaits := by
  refine ⟨fun f s s1 s3 e x ht hva hsp htest => ?_, fun f s e => ⟨fun h hk hn => ?_, fun h hk hz => ?_, fun h => ?_, ocrd_computes⟩⟩
  · refine fun hck => ⟨fun h hmet => ?_, fun h hend hdue => ?_⟩
    · show execWaitc f s = _
      rw [execWaitc, issue_runs h]
      exact congrArg _ (monitorWait_met ht hva hsp htest hck hmet)
    · show execWaitct f s = _
      rw [execWaitct, issue_runs h]
      refine congrArg _ (monitorWait_timed ht hva hsp htest hck ?_)
      rw [deadline_dropWaiter hdue]
      exact hend
  · exact h.waitsIn ((sleep_next h hk).trans (congrArg _ (if_neg hn)))
  · exact (sleep_next h hk).trans (congrArg _ ((if_pos hz).trans h.yield_eq))
  · show execYield f s = _
    rw [execYield, issue_runs h, h.yield_eq]

end Sys2Proof.Machine
end

section
namespace Sys2Proof.Machine

/-! A queue's block in memory (R157, R158). -/

section Record
variable {n k x : Nat} {r : List Byte}

/-- Cutting a record made of fields, at the end of its first field or beyond. -/
theorem drop_field (h : n ≤ k) : (bytesLE n x ++ r).drop k = r.drop (k - n) := by
  rw [List.drop_append, bytesLE_length, List.drop_eq_nil_of_le (by rw [bytesLE_length]; exact h), List.nil_append]

theorem take_field : (bytesLE n x ++ r).take n = bytesLE n x := by
  rw [List.take_append_of_le_length (by rw [bytesLE_length]), List.take_of_length_le (by rw [bytesLE_length])]

end Record

theorem ofNat_ofBytesLE {n : Nat} (x : BitVec (8 * n)) : BitVec.ofNat (8 * n) (ofBytesLE (bytesLE n x.toNat)) = x := by
  have hp : 256 ^ n = 2 ^ (8 * n) := by rw [pow_mul]; norm_num
  rw [ofBytesLE_bytesLE, hp, Nat.mod_eq_of_lt x.isLt, BitVec.ofNat_toNat, BitVec.setWidth_eq]

section Block
variable (q : Qcb)

theorem toBytes_length : q.toBytes.length = 64 := by simp [Qcb.toBytes, bytesLE_length]

theorem ofBytes_toBytes_head : (Qcb.ofBytes q.toBytes).head = q.head := by
  simp only [Qcb.ofBytes, word32, fieldLE, Qcb.toBytes, List.append_assoc]
  rw [drop_field (by decide), drop_field (by decide), List.drop_zero, take_field]
  exact ofNat_ofBytesLE (n := 4) q.head

theorem ofBytes_toBytes_tail : (Qcb.ofBytes q.toBytes).tail = q.tail := by
  simp only [Qcb.ofBytes, word32, fieldLE, Qcb.toBytes, List.append_assoc]
  rw [drop_field (by decide), drop_field (by decide), drop_field (by decide), List.drop_zero, take_field]
  exact ofNat_ofBytesLE (n := 4) q.tail

theorem ofBytes_toBytes_free : (Qcb.ofBytes q.toBytes).free = q.free := by
  simp only [Qcb.ofBytes, word32, fieldLE, Qcb.toBytes, List.append_assoc]
  rw [drop_field (by decide), drop_field (by decide), drop_field (by decide), drop_field (by decide), List.drop_zero, take_field]
  exact ofNat_ofBytesLE (n := 4) q.free

/-- The last four bytes of a block are its CHECK over those before, and a reserved field. -/
theorem toBytes_check : ∃ b : List Byte, b.length = 60 ∧ q.toBytes = b ++ (bytesLE 2 (crc16 b).toNat ++ bytesLE 2 q.r3e) :=
  ⟨_, by simp [bytesLE_length], List.append_assoc _ _ _⟩

/-- A block that is written has a matching CHECK. -/
theorem ofBytes_toBytes_check : (Qcb.ofBytes q.toBytes).check = (Qcb.ofBytes q.toBytes).crc := by
  obtain ⟨b, hb, hq⟩ := toBytes_check q
  have hfield : fieldLE q.toBytes 0x3C 2 = ofBytesLE (bytesLE 2 (crc16 b).toNat) := by
    rw [fieldLE, hq, List.drop_append, List.drop_eq_nil_of_le hb.le, hb, List.nil_append, Nat.sub_self, List.drop_zero, take_field]
  have htake : q.toBytes.take 60 = b := by
    rw [hq, List.take_append_of_le_length hb.ge, List.take_of_length_le hb.le]
  simp only [Qcb.ofBytes, hfield, htake]
  exact ofNat_ofBytesLE (n := 2) (crc16 b)

end Block

theorem queueWakeEv_mem (s : State) (pa : Nat) (producers : Bool) : (s.queueWakeEv pa producers).mem = s.mem := by
  unfold State.queueWakeEv
  dsimp only
  split <;> rfl

/-- A block reads as it has been written, and a wake-up leaves memory as it was. -/
theorem ofBytes_written (s : State) (pa : Nat) (q : Qcb) (producers : Bool) :
    Qcb.ofBytes (((s.writeQcb pa q).queueWakeEv pa producers).homeRead pa 64) = Qcb.ofBytes q.toBytes := by
  have hread := readN_writeN s.mem pa q.toBytes
  rw [toBytes_length] at hread
  rw [State.homeRead, queueWakeEv_mem, State.writeQcb, homeWrite_mem, hread]

/-! ENQ and DEQ (R158, R160, R161). -/

/-- The bytes of each unit's element, from its registers. -/
def elemsOf (f : FQ) (q : Qcb) (e : Env) : List (List Byte) :=
  (e.units f.u).map (fun t => bytesLE q.esize (wordsToNat ((List.range (nregOf f)).map (fun j => e.data f.u f.t j t))))

section Transfer
variable {i : Instr} {f : FQ} {blocking : Bool} {s s1 s2 s3 : State} {e : Env} {x : Xl} {q : Qcb} {addrs : List Slot}
  (ho : s.openQcb (some e.core) e.site e.ctx (e.qcbVa f) .both = (.ok (x, q), s1))
  (hes : q.esize = 4 * nregOf f) (hn : (e.units f.u).length ≤ 2 ^ q.logn)
include ho hes hn

/-- A full queue answers an operation that does not block. -/
theorem enqueue_full (hst : q.state ≠ 1) (hfree : q.free.toNat < (e.units f.u).length)
    (hu : s1.useQcb (some e.core) e.acc (e.qcbVa f) x true [] = (none, s2)) :
    enqueue i f false e s = tracked e i [statWrite f (qStat qFULL 0)] s2 := by
  simp only [enqueue, ho, hes, Nat.not_lt.mpr hn, ne_eq, not_true_eq_false, or_self, if_false, hst, hfree, if_true, hu, Bool.false_eq_true]

variable (hr : s.registered e.ref = false)
include hr

/-- n elements that fit are published with the release's clock. -/
theorem enqueue_publishes (hst : q.state ≠ 1) (hfree : (e.units f.u).length ≤ q.free.toNat)
    (ha : s1.enqAddrs (some e.core) e.site e.acc (e.qcbVa f) x q (e.units f.u).length = (.ok addrs, s2))
    (hb : s2.engineBusy e.ref q.scope = false) :
    enqueue i f blocking e s = endQ e i blocking [statWrite f (qStat qOK (e.units f.u).length)]
      ((s2.release e.ref.slot q.scope).2.enqCommit x.pa q (s2.release e.ref.slot q.scope).1 addrs (elemsOf f q e)) := by
  simp only [enqueue, elemsOf, ho, hes, Nat.not_lt.mpr hn, ne_eq, not_true_eq_false, or_self, if_false, hst, Nat.not_lt.mpr hfree, ha, hb,
    Bool.false_eq_true, settleQ, hr, Bool.not_false, if_true]

/-- The state after the acquire of a dequeue: the clock is the latest of the slots' (R161). -/
def State.deqAcquire (s : State) (e : Env) (q : Qcb) (addrs : List Slot) : State :=
  s.acquire e.ref.slot q.scope (s.slotClocks addrs (match addrs with | l :: _ => s.slotClock l | [] => 0))

/-- n elements that are ready are taken after an acquire, each into its unit's registers. -/
theorem dequeue_takes (hpos : 0 < (e.units f.u).length) (hl : addrs.length = (e.units f.u).length)
    (ha : s1.readySlots (some e.core) e.site e.ctx x.pa q (e.units f.u).length = (.ok addrs, s2))
    (hu : s2.useQcb (some e.core) e.acc (e.qcbVa f) x true (deqParts q addrs) = (none, s3))
    (hend : ¬ (q.state = 1 ∧ q.head + BitVec.ofNat 32 (e.units f.u).length = q.tail)) :
    dequeue i f blocking e s = endQ e i blocking
      ((List.zip (e.units f.u) addrs).flatMap (fun p =>
          putWords f.u f.t p.1 (natToWords (nregOf f) (ofBytesLE ((s3.deqAcquire e q addrs).slotElem p.2 q.esize)))) ++
        [statWrite f (qStat qOK (e.units f.u).length)])
      ((s3.deqAcquire e q addrs).deqCommit x.pa q ((s3.deqAcquire e q addrs).oclk e.ref.slot) addrs) := by
  have hended : (q.state == 1 && decide (q.head + BitVec.ofNat 32 (e.units f.u).length = q.tail)) = false := by simpa using hend
  cases addrs with
  | nil => exact absurd hl hpos.ne
  | cons l r =>
    simp only [dequeue, State.deqAcquire, ho, hes, Nat.not_lt.mpr hn, ne_eq, not_true_eq_false, or_self, if_false, ha, hl, lt_irrefl,
      decide_false, Bool.and_false, Bool.false_and, Bool.false_eq_true, hu, hended, hpos.ne', and_false, settleQ, hr, Bool.not_false, if_true]

end Transfer

/-- Settles O34: the operations by `enqueue` and `dequeue`, the block by what it reads after it has been written. -/
theorem queueTransfers : Obligations.QueueTransfers := by
  refine ⟨fun f s s1 s2 s3 e x q addrs => ?_, fun s pa q k addrs elems => ?_⟩
  · intro us n va words ho hr hes hn hpos k put
    refine ⟨fun hst hfree ha hb => ⟨fun h => ?_, fun h => ?_⟩, fun h hst hfree hu => ?_, fun hl ha hu hend => ⟨fun h => ?_, fun h => ?_⟩⟩
    · show execEnq f s = _
      rw [execEnq, issue_runs h]
      exact congrArg _ (enqueue_publishes ho hes hn hr hst hfree ha hb)
    · show execEnqnb f s = _
      rw [execEnqnb, issue_runs h]
      exact congrArg _ (enqueue_publishes ho hes hn hr hst hfree ha hb)
    · show execEnqnb f s = _
      rw [execEnqnb, issue_runs h]
      exact congrArg _ (enqueue_full ho hes hn hst hfree hu)
    · show execDeq f s = _
      rw [execDeq, issue_runs h]
      exact congrArg _ (dequeue_takes ho hes hn hr hpos hl ha hu hend)
    · show execDeqnb f s = _
      rw [execDeqnb, issue_runs h]
      exact congrArg _ (dequeue_takes ho hes hn hr hpos hl ha hu hend)
  · simp only [State.enqCommit, State.deqCommit, ofBytes_written, ofBytes_toBytes_head, ofBytes_toBytes_tail, ofBytes_toBytes_free,
      ofBytes_toBytes_check, and_self]

/-! QINIT, QCLOSE and QSTAT (R162-R164). -/

section QInit
variable {d : Nat → Word}

/-- The block that QINIT writes, from its four parameter words (R157). -/
theorem qinitBlock_eq (k : Word) : qinitBlock d k =
    { magic := qcbMagic, ctl := BitVec.ofNat 32 ((d 0).toNat % 256 * 65536 + (d 0).toNat / 256 % 32 * 256 + (d 0).toNat / 2 ^ 16 % 8 * 16),
      head := 0, tail := 0, free := BitVec.ofNat 32 (2 ^ ((d 0).toNat / 256 % 32)), dbase := d 3 ++ d 2, pclk := k, cclk := k, cwait := 0,
      pwait := 0, check := 0, crc := 0 } := by
  simp [qinitBlock, bits]

/-- LOGN in a control word of ESIZE, LOGN and SCOPE (R157). -/
theorem bits_logn {esize logn scope : Nat} (hl : logn < 32) (hs : scope < 8) :
    bits ((esize * 65536 + logn * 256 + scope * 16) % 2 ^ 32) 8 5 = logn := by
  simp only [bits]
  omega

/-- LOGN of the block is that of the parameters. -/
theorem qinitBlock_logn (k : Word) : (qinitBlock d k).logn = (d 0).toNat / 256 % 32 := by
  rw [qinitBlock_eq, Qcb.logn, BitVec.toNat_ofNat]
  exact bits_logn (Nat.mod_lt _ (by decide)) (Nat.mod_lt _ (by decide))

theorem qinitBad_eq_false (h0 : d 0 &&& 0xFFF8E000 = 0) (hshape : qShapeOk ((d 0).toNat % 256) ((d 0).toNat / 256 % 32) = true)
    (hscope : qScopeOk ((d 0).toNat / 2 ^ 16 % 8) = true) (h1 : d 1 = 0) (hbase : (d 3 ++ d 2 : DWord).toNat % 64 = 0) :
    qinitBad d = false := by
  have hb : bits (d 0).toNat 0 8 = (d 0).toNat % 256 ∧ bits (d 0).toNat 8 5 = (d 0).toNat / 256 % 32 ∧
      bits (d 0).toNat 16 3 = (d 0).toNat / 2 ^ 16 % 8 := by simp [bits]
  obtain ⟨he, hlogn, hsc⟩ := hb
  simp only [qinitBad, he, hlogn, hsc, hshape, hscope, h0, h1, hbase, ne_eq, not_true_eq_false, decide_false, or_self, Bool.not_true, Bool.or_self]

end QInit

section Control
variable {f : FQ} {s s1 s2 s3 : State} {e : Env} {x : Xl} {q : Qcb} {addrs : List Slot}

/-- The parameters of QINIT (R162). -/
def qinitData (e : Env) (f : FQ) (j : Nat) : Word := e.data true f.t j 0

theorem qinit_tracks (h : Runs (.qinit f) s e) (ho : s.reachQcb (some e.core) e.site e.ctx (e.qcbVa f) .both = (.ok x, s1))
    (hbad : qinitBad (qinitData e f) = false) (hold : (Qcb.ofBytes (s1.homeRead x.pa 64)).magic ≠ qcbMagic)
    (ha : s1.findSlots (some e.core) e.site e.ctx (qinitBlock (qinitData e f) e.wg.oclk) .write 8 0
      (2 ^ (qinitBlock (qinitData e f) e.wg.oclk).logn) = (.ok addrs, s2))
    (hu : s2.useQcb (some e.core) e.acc (e.qcbVa f) x true (addrs.flatMap (fun l => l.part (.sync false true) 0 4)) = (none, s3)) :
    TracksFrom (.qinit f) s e [statWrite f (qStat qOK 0)]
      (((addrs.foldl State.slotEmpty s3).writeQcb x.pa (qinitBlock (qinitData e f) e.wg.oclk)).queueWakeEv x.pa true) := by
  unfold qinitData at *
  show execQinit f s = _
  rw [execQinit, issue_runs h]
  simp only [ho, hbad, hold, ha, hu, false_and, Bool.false_eq_true, if_false]

theorem qclose_tracks (h : Runs (.qclose f) s e) (ho : s.openQcb (some e.core) e.site e.ctx (e.qcbVa f) .both = (.ok (x, q), s1))
    (hst : q.state = 0) (hu : s1.useQcb (some e.core) e.acc (e.qcbVa f) x true [] = (none, s2)) (hb : s2.engineBusy e.ref q.scope = false) :
    TracksFrom (.qclose f) s e [statWrite f (qStat qOK 0)]
      (((s2.release e.ref.slot q.scope).2.writeQcb x.pa
        ({ q with pclk := clkMax q.pclk (s2.release e.ref.slot q.scope).1 }.setState 1)).queueWakeAll x.pa) := by
  show execQclose f s = _
  rw [execQclose, issue_runs h]
  simp only [ho, hu, hb, hst, zero_ne_one, Bool.false_eq_true, if_false]

theorem qstat_tracks (h : Runs (.qstat f) s e) (ho : s.openQcb (some e.core) e.site e.ctx (e.qcbVa f) .read = (.ok (x, q), s1))
    (hu : s1.useQcb (some e.core) e.acc (e.qcbVa f) x false [] = (none, s2)) :
    TracksFrom (.qstat f) s e
      (putWords true f.t 0 (natToWords (nregOf f) (ofBytesLE (s2.homeRead x.pa 64))) ++ [statWrite f (qStat qOK 0)]) s2 := by
  show execQstat f s = _
  rw [execQstat, issue_runs h]
  simp only [ho, hu]

end Control

/-- Settles O35: the block that QINIT writes is its parameters'; QCLOSE and QSTAT by their own steps. -/
theorem queueControl : Obligations.QueueControl := by
  intro f s s1 s2 s3 e x q addrs va d esize logn scope dbase qn
  refine ⟨fun h ho h0 hshape hscope h1 hbase hold ha hu => ?_, qclose_tracks, qstat_tracks⟩
  have hq : qinitBlock (qinitData e f) e.wg.oclk = qn := qinitBlock_eq e.wg.oclk
  have hl : (qinitBlock (qinitData e f) e.wg.oclk).logn = logn := qinitBlock_logn e.wg.oclk
  rw [← hq] at ha ⊢
  rw [← hl] at ha
  exact qinit_tracks h ho (qinitBad_eq_false h0 hshape hscope h1 hbase) hold ha hu

end Sys2Proof.Machine
end

section
namespace Sys2Proof.Machine

/-! The taking of a trap (R245-R249, R253), and the instructions that complete and then raise a cause (R206). -/

theorem touch_saveHeader (s : State) (site ctx : Nat) : Touch s (s.saveHeader site ctx).2 := by
  unfold State.saveHeader
  dsimp only
  split
  · exact Touch.refl s
  · split <;> exact (touch_devRead 2 s site ctx _ _).of_eq ‹_›

theorem touch_saveField (s : State) (site ctx off n v : Nat) : Touch s (s.saveField site ctx off n v).2 :=
  touch_devWrite _ _ _ _ _ _

theorem touch_poolAlloc (s : State) (site ctx n : Nat) : Touch s (s.poolAlloc site ctx n).2 := by
  have h := touch_saveHeader s site ctx
  unfold State.poolAlloc
  split
  · exact h.of_eq ‹_›
  · have h1 := h.of_eq ‹_›
    dsimp only
    split
    · exact h1
    · split <;> exact h1.trans ((touch_saveField _ _ _ _ _ _).of_eq ‹_›)

theorem touch_handler (s : State) (site ctx : Nat) (cause : Cause) : Touch s (s.handler site ctx cause).2 := by
  unfold State.handler
  dsimp only
  split
  · exact (touch_devRead 2 s site ctx _ _).of_eq ‹_›
  · split <;> exact (touch_devRead 2 s site ctx _ _).of_eq ‹_›

/-- What delivering a trap may still change in a coach whose frame has been formed: the trap's record, the registers and the
predicates stay, and a TRAPPED coach stays so (R248, R253). -/
structure KeepsFrame (c d : Coach) : Prop where
  same : d = { c with state := d.state, exec := d.exec, pc := d.pc, clause := d.clause, wait := d.wait,
                      heldCauses := d.heldCauses, escalated := d.escalated }
  trapped : c.state = .trapped → d.state = .trapped

/-- A coach that is changed keeps its frame, whatever else the operation did outside the coaches. -/
theorem coach_modCoach {s : State} {r : CoachRef} {c : Coach} (h : s.coach r = some c) (f : Coach → Coach) :
    (s.modCoach r f).coach r = some (f c) := by
  obtain ⟨w, hw, -⟩ := wg_of_coach h
  rw [modCoach_of_coach h]
  exact coach_setCoach_same hw _

/-- Escalating a cause keeps the coach's frame. -/
theorem escalate_keepsFrame {s : State} {r : CoachRef} {c : Coach} (h : s.coach r = some c) (cause : Cause) (addr : DWord)
    (noHandler inHandler : Bool) :
    ∃ d, (s.escalate r cause addr noHandler inHandler).coach r = some d ∧ KeepsFrame c d := by
  obtain ⟨w, hw, -⟩ := wg_of_coach h
  unfold State.escalate
  simp only [hw, h]
  split
  · exact ⟨_, coach_setCoach_same hw _, rfl, id⟩
  · refine ⟨_, ((touch_postNotice _ _ _).coach r).trans (coach_modCoach (Eq.trans ?_ (coach_setCoach_same hw { c with
      state := .trapped, wait := Wait.none })) _), rfl, fun _ => rfl⟩
    split
    · exact ((touch_poolAlloc _ _ _ _).of_eq ‹_›).coach r
    · have h1 := (touch_poolAlloc _ _ _ _).of_eq ‹_›
      split
      all_goals next hw2 => exact (h1.trans (Touch.of_eq (touch_devWrite _ _ _ _ _ _) hw2)).coach r

/-- The coach as its frame is formed (R247, R248). -/
def Coach.framed (c : Coach) (cause : Cause) (addr : DWord) (tmask : Mask) (entries : List ReplayEntry) (tpc : DWord)
    (clause : Option Clause) : Coach :=
  { c with
    tcause := cause, taddr := addr, tmask := tmask, tpc := tpc, trqn := entries.length, rq := entries.map ReplayEntry.anew,
    frame := some { exec := c.exec, depth := c.div.length, clause := clause, resume := tpc },
    state := .trapped, pendTrap := none, clause := none, wait := Wait.none }

/-- Delivering a cause, by whichever route, keeps the frame that has been formed. -/
theorem formFrame_keepsFrame {s : State} {r : CoachRef} {c : Coach} (h : s.coach r = some c) (cause : Cause) (addr : DWord)
    (tmask : Mask) (entries : List ReplayEntry) (tpc : DWord) (clause : Option Clause) (async : Bool) :
    ∃ d, (s.formFrame r cause addr tmask entries tpc clause async).coach r = some d ∧
      KeepsFrame (c.framed cause addr tmask entries tpc clause) d := by
  obtain ⟨w, hw, -⟩ := wg_of_coach h
  have hc : (s.setCoach r (c.framed cause addr tmask entries tpc clause)).coach r = some (c.framed cause addr tmask entries tpc clause) :=
    coach_setCoach_same hw _
  have ht := touch_handler (s.setCoach r (c.framed cause addr tmask entries tpc clause)) (siteOfSlot r.slot) w.ctx cause
  unfold Coach.framed at *
  unfold State.formFrame
  simp only [hw, h]
  split
  · exact escalate_keepsFrame hc _ _ _ _
  · split
    · exact ⟨_, coach_modCoach (((ht.of_eq ‹_›).coach r).trans hc) _, rfl, fun _ => rfl⟩
    · exact escalate_keepsFrame (((ht.of_eq ‹_›).coach r).trans hc) _ _ _ _

/-- An operation held back holds an entry. -/
theorem not_shadowed {c : Coach} (h : c.flights.any Flight.entry = false) : c.shadowed = false := by
  rw [Coach.shadowed, List.any_eq_false]
  exact fun f hf hb => List.any_eq_false.mp h f hf (Bool.and_eq_true_iff.mp hb).1

/-- A precise trap of a coach that is outside its handler and has nothing outstanding is taken at once (R246). -/
theorem takeTrap_forms {s : State} {r : CoachRef} {c : Coach} (h : s.coach r = some c) (hf : c.frame = none)
    (he : c.flights.any Flight.entry = false) (cause : Cause) (addr : DWord) (tmask : Mask) (entries : List ReplayEntry) (tpc : DWord)
    (clause : Option Clause) :
    s.takeTrap r cause addr tmask entries tpc clause = s.formFrame r cause addr tmask entries tpc clause false := by
  simp only [State.takeTrap, h, Coach.inHandler, hf, Option.isSome_none, Bool.false_eq_true, if_false, not_shadowed he, he]

theorem advance_frame (c : Coach) (e : Env) : (c.advance e).frame = c.frame := by unfold Coach.advance; split <;> rfl

/-- What a coach is after an instruction that completes and then raises a cause (R206). -/
theorem completeAndTrap_taken {i : Instr} {s : State} {e : Env} (h : Runs i s e) (hf : e.c.frame = none)
    (he : e.c.flights.any Flight.entry = false) (cause : Cause) (addr : DWord) :
    ∃ c, (completeAndTrap e cause addr s).coach s.cur = some c ∧ c.state = .trapped ∧ c.tcause = cause ∧ c.taddr = addr ∧
      c.tmask = e.active ∧ c.tpc = (e.c.advance e).pc ∧ c.frame.isSome ∧ c.v = e.c.v ∧ c.s = e.c.s ∧ c.p = e.c.p := by
  have hc : (finish e s).coach s.cur = some (e.c.advance e) := by
    rw [h.finish_eq rfl]
    exact coach_setCoach_same h.wg _
  obtain ⟨d, hd, hk⟩ := formFrame_keepsFrame hc cause addr e.active (e.c.advance e).rq (e.c.advance e).pc (e.c.advance e).clause false
  refine ⟨d, ?_, hk.trapped rfl, ?_⟩
  · rw [completeAndTrap, h.ref, takeTrap_forms hc ((advance_frame _ _).trans hf) (by rw [advance_flights, he])]
    exact hd
  · rw [hk.same]
    exact ⟨rfl, rfl, rfl, rfl, rfl, advance_v _ _, advance_s _ _, advance_p _ _⟩

/-- Settles O29: both instructions go on and then take their trap at once (`completeAndTrap_taken`). -/
theorem softwareTraps : Obligations.SoftwareTraps := by
  intro f s e hf he took
  refine ⟨fun h => ?_, fun h => ?_⟩
  · obtain ⟨c, hc⟩ := completeAndTrap_taken h hf he cSW_TRAP (f.sysreg.setWidth 64)
    exact ⟨_, c, (issue_runs h _ : execTrapI f s = _), hc⟩
  · obtain ⟨c, hc⟩ := completeAndTrap_taken h hf he cBREAKPOINT (f.sysreg.setWidth 64)
    exact ⟨_, c, (issue_runs h _ : execBrk f s = _), hc⟩

end Sys2Proof.Machine
end

section
namespace Sys2Proof.Machine

/-! A handler's access to threads and replay entries (R208, R209). -/

/-- In a handler no entry is being injected (R250). -/
theorem Runs.replay_none {i : Instr} {s : State} {e : Env} (h : Runs i s e) (hf : e.c.inHandler = true) : e.replay = none := by
  obtain ⟨e0, h0, rfl⟩ := h.env
  have hr : e0.replay = e0.c.replaying := by
    unfold State.env at h0
    split at h0
    · cases h0
    · split at h0
      · cases h0
      · cases h0
        rfl
  exact hr.trans (if_pos hf)

/-- LWR runs in a handler alone (R208). -/
theorem lwr_inHandler {f : FS} {s : State} {e : Env} (h : Runs (.lwr f) s e) : e.c.inHandler = true := by
  by_contra hn
  have hb : fieldCause e (s.grid e.wg.gid) (s.privileged e.site e.ctx) (.lwr f) = true :=
    (fieldCause_iff _ _ _ _).mpr (.inr (Bool.eq_false_iff.mpr hn))
  have hc := h.cause
  rw [wordCause, hb] at hc
  split at hc
  · cases hc
  · split at hc <;> cases hc

/-- An instruction that writes one s register and goes on. -/
theorem computes_word {i : Instr} {s : State} {e : Env} (h : Runs i s e) {d : RegNo} (hd : DestSettled e true d.toNat 1) {x : Word}
    (hx : exec i s = .next (finishW e [{ scalar := true, reg := d.toNat, thread := 0, val := x }] s)) :
    Computes i s e true d.toNat 1 (fun _ => x.toNat) := by
  refine ⟨_, hx.trans ?_, wrote_lanes e true d.toNat 1 _ hd⟩
  have hw : (e.units true).flatMap (fun t => putRun true d.toNat 1 t x.toNat) = [{ scalar := true, reg := d.toNat, thread := 0, val := x }] := by
    simp [Env.units, putRun, natToWords]
  rw [hw, ← h.ref]
  exact congrArg Host.Outcome.next (modCoach_of_coach (by rw [h.ref]; exact h.coach) _)

/-- An instruction that changes its coach by a function which commutes with going on. -/
theorem goesOnBy_of_finishC {i : Instr} {s : State} {e : Env} (h : Runs i s e) {g f : Coach → Coach}
    (hx : exec i s = .next (finishC e g s)) (hg : (g e.c).advance e = f (e.c.advance e)) : GoesOnBy i s e f := by
  rw [GoesOnBy, hx, finishC, h.ref, modCoach_of_coach h.coach, hg]

/-- Going on reads neither flags nor, when nothing is injected, the replay queue. -/
theorem advance_entries {e : Env} (h : e.replay = none) (c : Coach) (F : Table Nat) (Q : List ReplayEntry) (n : Nat) :
    ({ c with flags := F, rq := Q, trqn := n } : Coach).advance e = { c.advance e with flags := F, rq := Q, trqn := n } := by
  simp only [Coach.advance, h]
  rfl

theorem advance_rq {e : Env} (h : e.replay = none) (c : Coach) : (c.advance e).rq = c.rq := by
  simp only [Coach.advance, h]

theorem advance_trqn (c : Coach) (e : Env) : (c.advance e).trqn = c.trqn := by unfold Coach.advance; split <;> rfl

theorem lrdIndex_eq (f : FS) (e : Env) : lrdIndex f e =
    ((e.c.readS e.tick (f.sysreg.toNat % 64)).toNat % 256 % e.wg.threads, (e.c.readS e.tick (f.sysreg.toNat % 64)).toNat / 256 % 16) := by
  simp [lrdIndex, bits]

theorem lrdSpace_eq (f : FS) : lrdSpace f = f.sysreg.toNat / 64 % 4 := by
  simp [lrdSpace, Nat.shiftRight_eq_div_pow]

section Handler
variable {f : FS} {s : State} {e : Env}

theorem lrd_computes (h : Runs (.lrd f) s e) (hs : Settled e (.lrd f)) : Computes (.lrd f) s e true f.d.toNat 1 (fun _ =>
    (match lrdSpace f with
      | 0 => e.c.readV e.tick f.a.toNat (lrdIndex f e).1
      | 1 => (Table.getD e.c.p (lrdIndex f e).1 0 ||| 1).setWidth 32
      | _ => match e.c.rq[(lrdIndex f e).2]? with
        | some en => Table.getD en.vops (17 * (lrdIndex f e).1 + f.a.toNat) 0
        | none => 0).toNat) := by
  refine computes_word h (destSettled_dest hs ⟨_, rfl⟩) ?_
  show execLrd f s = _
  exact (issue_runs h _).trans rfl

/-- What LWR changes in its coach. -/
def lwrAct (f : FS) (e : Env) (c : Coach) : Coach :=
  match lrdSpace f with
  | 0 => c.writeV e.tick f.d.toNat (lrdIndex f e).1 (e.c.readS e.tick f.a.toNat)
  | 1 => { c with p := Table.put 0 c.p (lrdIndex f e).1 ((e.c.readS e.tick f.a.toNat).setWidth 8 &&& 0xFE) }
  | _ => c.setEntry (lrdIndex f e).2 (fun en =>
      { en with vops := Table.put 0 en.vops (17 * (lrdIndex f e).1 + f.d.toNat) (e.c.readS e.tick f.a.toNat) })

theorem lwr_next (h : Runs (.lwr f) s e) : exec (.lwr f) s = .next (finishC e (lwrAct f e) s) := by
  show execLwr f s = _
  exact (issue_runs h _).trans rfl

theorem rqrd_computes (h : Runs (.rqrd f) s e) (hs : Settled e (.rqrd f)) : Computes (.rqrd f) s e true f.d.toNat 1 (fun _ =>
    (match e.c.rq[(e.sop 0 f.a).toNat]? with
      | some en => if e.c.frame.isSome then en.readWord e.wg.w e.wg.threads (f.sysreg.toNat % 32) else 0
      | none => 0).toNat) := by
  refine computes_word h (destSettled_dest hs ⟨_, rfl⟩) ?_
  show execRqrd f s = _
  exact (issue_runs h _).trans rfl

/-- What RQWR changes in its coach: of an entry, or the removal of one. -/
def rqwrAct (f : FS) (e : Env) (c : Coach) : Coach :=
  if !c.inHandler then c
  else if f.sysreg.toNat % 32 = 3 then
    if (e.c.readS e.tick f.d.toNat).toNat % 4 = 3 then
      match c.rq[(e.c.readS e.tick f.a.toNat).toNat]? with
      | none => c
      | some en => { c.lowerFlag en.flag with rq := (c.lowerFlag en.flag).rq.eraseIdx (e.c.readS e.tick f.a.toNat).toNat,
                                              trqn := (c.lowerFlag en.flag).trqn - 1 }
    else c
  else c.setEntry (e.c.readS e.tick f.a.toNat).toNat (fun en => en.writeWord (f.sysreg.toNat % 32) (e.c.readS e.tick f.d.toNat))

theorem rqwr_next (h : Runs (.rqwr f) s e) : exec (.rqwr f) s = .next (finishC e (rqwrAct f e) s) := by
  show execRqwr f s = _
  exact (issue_runs h _).trans rfl

theorem lwr_thread_register (h : Runs (.lwr f) s e) (h0 : lrdSpace f = 0) (hp : e.c.pendOf false f.d.toNat (lrdIndex f e).1 = none) :
    GoesOnBy (.lwr f) s e (fun c => { c with v := Table.put 0 e.c.v (256 * f.d.toNat + (lrdIndex f e).1) (e.c.readS e.tick f.a.toNat) }) := by
  refine goesOnBy_of_finishC h (lwr_next h) ?_
  have hw : lwrAct f e e.c = e.c.putV f.d.toNat (lrdIndex f e).1 (e.c.readS e.tick f.a.toNat) := by
    rw [lwrAct, h0]
    exact writeV_settled hp _ _
  rw [hw, advance_putV, Coach.putV, advance_v]

theorem lwr_predicates (h : Runs (.lwr f) s e) (h1 : lrdSpace f = 1) :
    GoesOnBy (.lwr f) s e (fun c => { c with p := Table.put 0 e.c.p (lrdIndex f e).1 ((e.c.readS e.tick f.a.toNat).setWidth 8 &&& 0xFE) }) := by
  refine goesOnBy_of_finishC h (lwr_next h) ?_
  rw [lwrAct, h1]
  exact advance_preds _ _ _

/-- An entry replaced, in the coach as it goes on. -/
theorem advance_setEntry (hr : e.replay = none) (n : Nat) (g : ReplayEntry → ReplayEntry) :
    (e.c.setEntry n g).advance e = match e.c.rq[n]? with
      | some en => { e.c.advance e with rq := listSet e.c.rq n (g en) }
      | none => e.c.advance e := by
  unfold Coach.setEntry
  split
  · simp only [*]
  · simp only [*]
    exact (advance_entries hr e.c e.c.flags _ e.c.trqn).trans (by rw [← advance_flags e.c e, ← advance_trqn e.c e])

theorem lwr_operand (h : Runs (.lwr f) s e) (h2 : 2 ≤ lrdSpace f) :
    GoesOnBy (.lwr f) s e (fun c => match e.c.rq[(lrdIndex f e).2]? with
      | some en => { c with rq := listSet e.c.rq (lrdIndex f e).2 { en with
          vops := Table.put 0 en.vops (17 * (lrdIndex f e).1 + f.d.toNat) (e.c.readS e.tick f.a.toNat) } }
      | none => c) := by
  refine goesOnBy_of_finishC h (lwr_next h) ?_
  rw [lwrAct]
  split
  · omega
  · omega
  · exact advance_setEntry (h.replay_none (lwr_inHandler h)) _ _

/-- RQWR that finds no entry, or asks for a STATUS that it does not write, has no effect. -/
theorem rqwr_idle (h : Runs (.rqwr f) s e) (hn : e.c.frame = none ∨ e.c.rq[(e.c.readS e.tick f.a.toNat).toNat]? = none ∨
    (f.sysreg.toNat % 32 = 3 ∧ (e.c.readS e.tick f.d.toNat).toNat % 4 ≠ 3)) : GoesOnBy (.rqwr f) s e id := by
  refine goesOnBy_of_finishC h (rqwr_next h) (congrArg (fun c : Coach => c.advance e) ?_)
  rcases hn with hn | hn | ⟨hw, hx⟩
  · simp [rqwrAct, Coach.inHandler, hn]
  · simp [rqwrAct, Coach.setEntry, hn]
  · simp [rqwrAct, hw, hx]

section Entry
variable {en : ReplayEntry} (h : Runs (.rqwr f) s e) (hf : e.c.frame.isSome) (hr : e.replay = none)
  (hen : e.c.rq[(e.c.readS e.tick f.a.toNat).toNat]? = some en)
include h hf hr hen

theorem rqwr_removes (hw : f.sysreg.toNat % 32 = 3) (hx : (e.c.readS e.tick f.d.toNat).toNat % 4 = 3) : GoesOnBy (.rqwr f) s e (fun c =>
    { c.lowerFlag en.flag with rq := c.rq.eraseIdx (e.c.readS e.tick f.a.toNat).toNat, trqn := c.trqn - 1 }) := by
  refine goesOnBy_of_finishC h (rqwr_next h) ?_
  have hi : e.c.inHandler = true := hf
  simp only [rqwrAct, hi, Bool.not_true, Bool.false_eq_true, if_false, hw, hx, if_true, hen]
  cases en.flag
  all_goals
    simp only [Coach.advance, hr]
    rfl

theorem rqwr_writes (hw : f.sysreg.toNat % 32 ≠ 3) : GoesOnBy (.rqwr f) s e (fun c =>
    { c with rq := listSet c.rq (e.c.readS e.tick f.a.toNat).toNat (en.writeWord (f.sysreg.toNat % 32) (e.c.readS e.tick f.d.toNat)) }) := by
  refine goesOnBy_of_finishC h (rqwr_next h) ?_
  have hi : e.c.inHandler = true := hf
  simp only [rqwrAct, hi, Bool.not_true, Bool.false_eq_true, if_false, hw]
  rw [advance_setEntry hr, hen, advance_rq hr]

end Entry

end Handler

/-- Settles O30: each access by the register, the predicates or the entry that it reaches. -/
theorem handlerAccess : Obligations.HandlerAccess := by
  intro f s e x t n space
  have hix : lrdIndex f e = (t, n) := lrdIndex_eq f e
  have hsp : lrdSpace f = space := lrdSpace_eq f
  refine ⟨fun h hs => ?_, fun h _ h1 => ?_, fun h h2 => ?_, fun h h0 hp => ?_, rqrd_computes, rqwr_idle,
    fun en h hf hr hen => ⟨rqwr_removes h hf hr hen, rqwr_writes h hf hr hen⟩⟩
  · have hx := lrd_computes h hs
    rw [hix, hsp] at hx
    exact hx
  · have hx := lwr_predicates h (hsp.trans h1)
    rw [hix] at hx
    exact hx
  · have hx := lwr_operand h (hsp ▸ h2)
    rw [hix] at hx
    exact hx
  · have hx := lwr_thread_register h (hsp.trans h0) (by rw [hix]; exact hp)
    rw [hix] at hx
    exact hx

end Sys2Proof.Machine
end

section
namespace Sys2Proof.Machine

/-! MMA (R167-R178). -/

/-- The operands that an MMA's descriptors describe (R171). -/
def operandA (e : Env) (f : FX) : MOperand :=
  operandOf e.wg (e.quad 1 f.adesc 0) (e.quad 1 f.adesc 1) (e.quad 1 f.adesc 2) (e.quad 1 f.adesc 3)
def operandB (e : Env) (f : FX) : MOperand :=
  operandOf e.wg (e.quad 5 f.bdesc 0) (e.quad 5 f.bdesc 1) (e.quad 5 f.bdesc 2) (e.quad 5 f.bdesc 3)
/-- Both descriptors are within their limits (R171, R172, R174). -/
def DescsOk (e : Env) (f : FX) (op : Nat) (c : Core) : Prop :=
  descOk c e.wg op (e.quad 1 f.adesc 0) (e.quad 1 f.adesc 1) (e.quad 1 f.adesc 2) (e.quad 1 f.adesc 3) = true ∧
  descOk c e.wg op (e.quad 5 f.bdesc 0) (e.quad 5 f.bdesc 1) (e.quad 5 f.bdesc 2) (e.quad 5 f.bdesc 3) = true

section Mma
variable {i : Instr} {op : Nat} {f : FX} {s s1 s2 s3 s4 : State} {e : Env} {ga gb : List GRow} {a1 b1 : MOperand}
  {za zb : Option (Nat × Nat × DWord)} {acc tile : Nat} {decks : BitVec 4} {bt : Batch}

/-- An accumulator register below 512 whose reserved bits are clear names its tile (R170). -/
theorem mmaAcc_bits {acc : Nat} (hlt : acc < 512) (hz : acc / 32 % 8 = 0) : bits acc 9 23 = 0 ∧ bits acc 5 3 = 0 ∧ bits acc 0 5 = acc % 32 := by
  simp only [bits]
  omega

/-- An MMA that meets no cause of R176 and no stall is accepted with the operands that it captures. -/
theorem mmaIssue_accepts (hact : e.active = maskAll e.wg.threads) (hh : Table.find (s.core e.core).halted e.ctx = none)
    (hacc : acc = (e.sop 0 f.acc).toNat) (hlt : acc < 512) (hz : acc / 32 % 8 = 0) (ht : tile = acc % 32) (h8 : op = 8 → tile % 2 = 0)
    (hd : DescsOk e f op (s.core e.core))
    (hpa : probeOp e op (operandA e f) s = (.ok ga, s1)) (hpb : probeOp e op (operandB e f) s1 = (.ok gb, s2))
    (hoa : (operandA e f).outside op ((s.core e.core).resvOf e.wg.gid).xsize = none)
    (hob : (operandB e f).outside op ((s.core e.core).resvOf e.wg.gid).wsize = none)
    (htiles : ∀ t ∈ tilesOf op tile, tileIn ((s.core e.core).resvOf e.wg.gid).asize t = true ∧ (s.core e.core).invalidTile e.wg.gid t = false)
    (hbt : bt = openBatchOf e (s.core e.core)) (hdecks : decks = if bt.fixed = true then bt.decks else s2.decksAvail e.core)
    (hne : decks ≠ 0) (hall : (f.dpol = 1 ∨ (f.dpol = 0 ∧ s2.epol.getLsbD 2 = false)) → decks = 15)
    (hca : captureOp e op .xbuf (operandA e f) ga s2 = (a1, za, s3)) (hcb : captureOp e op .wbuf (operandB e f) gb s3 = (b1, zb, s4))
    (hq : (s.core e.core).mq.length < 32)
    (hroom : ∀ m : MEntry, m.op = .mma op tile (bitN acc 8) f.p.toNat a1 b1 → m.consumed = false →
      sumOf ((s.core e.core).mq.map MEntry.bufPins) + m.bufPins ≤ 16 ∧ sumOf ((s.core e.core).mq.map MEntry.lines) + m.lines ≤ 1024) :
    mmaIssue i op f e s = accepted e i .engine (acceptM e (.mma op tile (bitN acc 8) f.p.toNat a1 b1) (s.nextFlight e.ref)
      (match (generalizing := false) za with | some x => some x | none => zb) { bt with decks := decks, fixed := true } s4) := by
  obtain ⟨hhigh, hmid, hlow⟩ := mmaAcc_bits hlt hz
  obtain ⟨hda, hdb⟩ := hd
  have hin : (tilesOf op tile).find? (fun t => !tileIn ((s.core e.core).resvOf e.wg.gid).asize t) = none := by
    simpa [List.find?_eq_none] using fun t h => (htiles t h).1
  have hval : (tilesOf op tile).any ((s.core e.core).invalidTile e.wg.gid) = false := by
    simpa [List.any_eq_false] using fun t h => (htiles t h).2
  have heven : ¬ (op = 8 ∧ ¬ tile % 2 = 0) := fun h => h.2 (h8 h.1)
  have hfour : ¬ ((f.dpol == 1 || (f.dpol == 0 && !s2.epol.getLsbD 2)) = true ∧ ¬ decks = 15) := by
    simp only [Bool.or_eq_true, Bool.and_eq_true, beq_iff_eq, Bool.not_eq_true']
    exact fun h => h.2 (hall h.1)
  obtain ⟨hpins, hlines⟩ := hroom
    { id := 0, slot := 0, k := 0, ctx := 0, gid := 0, batch := 0, flight := 0, clock := 0, pc := 0,
      op := .mma op tile (bitN acc 8) f.p.toNat a1 b1, err := none, after := [], blocks := 0, consumed := false } rfl rfl
  unfold operandA operandB at *
  simp only [mmaIssue, ← hacc, ← hbt, ne_eq, hact, not_true_eq_false, if_false, hh, Option.isSome_none, Bool.false_eq_true, hhigh, hmid, hlow,
    ← ht, heven, hda, hdb, Bool.not_true, hpa, hpb, hoa, hob, hin, hval, ← hdecks, hne, hfour, hca, hcb, ge_iff_le, mqMax, bufPinMax,
    linePinMax, gt_iff_lt, Nat.not_le.mpr hq, Nat.not_lt.mpr hpins, Nat.not_lt.mpr hlines, or_self]
  all_goals rfl

end Mma

/-- Settles O36: every type of MMA issues by `mmaIssue`, none of whose causes and stalls is met. -/
theorem matrixAcceptance : Obligations.MatrixAcceptance := by
  intro f s s1 s2 s3 s4 e ga gb a1 b1 za zb c acc tile r a b bt decks hact hh hlt hz hne hall hq p hp op h h8 hda hdb hpa hpb hoa hob
    htiles hca hcb hroom
  have hx : exec p.1 s = issue p.1 s (mmaIssue p.1 p.2 f) := by
    simp only [List.mem_cons, List.not_mem_nil, or_false] at hp
    rcases hp with rfl | rfl | rfl | rfl | rfl | rfl | rfl | rfl | rfl <;> rfl
  rw [hx, issue_runs h]
  exact congrArg _ (mmaIssue_accepts hact hh rfl hlt hz rfl h8 ⟨hda, hdb⟩ hpa hpb hoa hob htiles rfl rfl hne hall hca hcb hq hroom)

end Sys2Proof.Machine
end

section
namespace Sys2Proof.Machine

/-! The matrix queue's entries, ACZERO and ACSCL (R168, R178, R185, R186). -/

/-- Count a tile in a batch's tiles under an entry's number, unless the batch has it. -/
def countTile (id : Nat) (l : Table Nat) (t : Nat) : Table Nat := if (Table.find l t).isSome then l else Table.insert l t id

theorem countTile_self (id : Nat) (l : Table Nat) (t : Nat) : (Table.find (countTile id l t) t).isSome = true := by
  unfold countTile
  split
  case isTrue h => exact h
  case isFalse => simp

theorem countTile_keeps (id : Nat) (l : Table Nat) (t : Nat) {u : Nat} (h : (Table.find l u).isSome = true) :
    (Table.find (countTile id l t) u).isSome = true := by
  by_cases hu : u = t
  · exact hu ▸ countTile_self id l t
  · unfold countTile
    split
    case isTrue => exact h
    case isFalse => rwa [find_insert_ne l id hu]

/-- Every tile of a list that is counted is found, and so is every tile that the table held before. -/
theorem countTiles_found (id : Nat) (ts : List Nat) (l : Table Nat) {u : Nat} (h : u ∈ ts ∨ (Table.find l u).isSome = true) :
    (Table.find (ts.foldl (countTile id) l) u).isSome = true := by
  induction ts generalizing l with
  | nil => simpa using h
  | cons t r ih =>
    refine ih (countTile id l t) ?_
    rcases h with h | h
    · rcases List.mem_cons.mp h with rfl | h
      · exact .inr (countTile_self id l u)
      · exact .inl h
    · exact .inr (countTile_keeps id l t h)

/-- A batch that is put is among the core's batches; the rest of the core is left alone. -/
theorem mem_putBatch (c : Core) (b : Batch) : b ∈ (c.putBatch b).batches := by
  unfold Core.putBatch
  split
  case isTrue h =>
    obtain ⟨x, hx, hs⟩ := List.any_eq_true.mp h
    exact List.mem_map.mpr ⟨x, hx, if_pos hs⟩
  case isFalse => simp
@[simp] theorem putBatch_mq (c : Core) (b : Batch) : (c.putBatch b).mq = c.mq := by
  unfold Core.putBatch
  split <;> rfl
@[simp] theorem putBatch_nextId (c : Core) (b : Batch) : (c.putBatch b).nextId = c.nextId := by
  unfold Core.putBatch
  split <;> rfl

/-- An accepted entry stands last in its core's queue under the core's next number, its tiles counted in its batch. -/
theorem acceptM_core (e : Env) (op : MOp) (flight : Nat) (z : Option (Nat × Nat × DWord)) (b : Batch) (s : State) :
    let c := s.core e.core
    let c1 := (acceptM e op flight z b s).core e.core
    c1.nextId = c.nextId + 1 ∧ ∃ m, c1.mq = c.mq ++ [m] ∧ m.op = op ∧ m.id = c.nextId ∧ m.slot = e.ref.slot ∧ m.k = e.ref.k ∧
      m.batch = b.num ∧ m.flight = flight ∧ m.clock = e.wg.oclk ∧ m.err = z ∧ m.consumed = false ∧
      ∃ x ∈ c1.batches, x.num = b.num ∧ x.slot = b.slot ∧ x.k = b.k ∧ ∀ t ∈ op.tiles, (Table.find x.tiles t).isSome = true := by
  intro c c1
  have hc : c1 = _ := core_setCore_same s e.core _
  refine ⟨by rw [hc, putBatch_nextId], _, by rw [hc, putBatch_mq], rfl, rfl, rfl, rfl, rfl, rfl, rfl, rfl, rfl,
    { b with tiles := op.tiles.foldl (countTile c.nextId) b.tiles }, hc ▸ mem_putBatch _ _, rfl, rfl, rfl,
    fun t ht => countTiles_found c.nextId op.tiles b.tiles (.inl ht)⟩

/-- No tile of a list is refused by a check that all of them pass. -/
theorem find_not_eq_none {p : Nat → Bool} {l : List Nat} (h : ∀ t ∈ l, p t = true) : l.find? (fun t => !p t) = none := by
  simpa [List.find?_eq_none] using h

theorem aczero_nothing {f : RRR} {s : State} {e : Env} (h : Runs (.aczero f) s e) (h0 : e.sop 0 f.a = 0) :
    exec (.aczero f) s = .next (accepted e (.aczero f) .performed s) := by
  have hnone : (MOp.aczero 0).tiles = [] := by decide
  show execAczero f s = _
  rw [execAczero, issue_runs h]
  simp only [h0, hnone, List.find?_nil, if_true]

theorem aczero_accepts {f : RRR} {s : State} {e : Env} (h : Runs (.aczero f) s e) (hne : e.sop 0 f.a ≠ 0)
    (hin : ∀ t ∈ (MOp.aczero (e.sop 0 f.a)).tiles, tileIn ((s.core e.core).resvOf e.wg.gid).asize t = true)
    (hq : (s.core e.core).mq.length < 32) :
    exec (.aczero f) s = .next (accepted e (.aczero f) .engine
      (acceptM e (.aczero (e.sop 0 f.a)) (s.nextFlight e.ref) none (openBatchOf e (s.core e.core)) (s.setCore e.core { s.core e.core with
        inval := (s.core e.core).inval.filter (fun x => !(x.1 == e.wg.gid && (MOp.aczero (e.sop 0 f.a)).tiles.contains x.2)) }))) := by
  show execAczero f s = _
  rw [execAczero, issue_runs h]
  simp only [find_not_eq_none hin, hne, if_false, ge_iff_le, mqMax, Nat.not_le.mpr hq]

/-- The fields of ACSCL's operand (R186). -/
theorem acscl_bits {v kind tile : Nat} (hv : v = kind * 256 + tile) (hk : kind ≤ 2) (ht : tile < 32) :
    bits v 10 22 = 0 ∧ bits v 5 3 = 0 ∧ bits v 8 2 = kind ∧ bits v 0 5 = tile := by
  simp only [bits]
  omega

theorem acscl_accepts {f : RRR} {s : State} {e : Env} {kind tile : Nat} (h : Runs (.acscl f) s e)
    (hv : (e.sop 0 f.a).toNat = kind * 256 + tile) (hk : kind ≤ 2) (ht : tile < 32) (h2 : kind = 1 → tile % 2 = 0)
    (hok : ∀ t ∈ (MOp.acscl kind tile (e.sop 1 f.b)).tiles,
      tileIn ((s.core e.core).resvOf e.wg.gid).asize t = true ∧ (s.core e.core).invalidTile e.wg.gid t = false)
    (hq : (s.core e.core).mq.length < 32) :
    exec (.acscl f) s = .next (accepted e (.acscl f) .engine
      (acceptM e (.acscl kind tile (e.sop 1 f.b)) (s.nextFlight e.ref) none (openBatchOf e (s.core e.core)) s)) := by
  obtain ⟨hhigh, hmid, hkind, htile⟩ := acscl_bits hv hk ht
  have h3 : kind ≠ 3 := by omega
  have heven : ¬ (kind = 1 ∧ ¬ tile % 2 = 0) := fun x => x.2 (h2 x.1)
  have hin := find_not_eq_none fun t ht => (hok t ht).1
  have hval : (MOp.acscl kind tile (e.sop 1 f.b)).tiles.any ((s.core e.core).invalidTile e.wg.gid) = false := by
    simpa [List.any_eq_false] using fun t ht => (hok t ht).2
  show execAcscl f s = _
  rw [execAcscl, issue_runs h]
  simp only [hhigh, hmid, hkind, htile, ne_eq, not_true_eq_false, h3, heven, or_self, if_false, hin, hval, Bool.false_eq_true, ge_iff_le, mqMax,
    Nat.not_le.mpr hq]

/-- Settles O37. -/
theorem accumulatorInstructions : Obligations.AccumulatorInstructions :=
  ⟨acceptM_core, fun _ _ _ => ⟨aczero_nothing, aczero_accepts, fun _ _ => acscl_accepts⟩⟩

end Sys2Proof.Machine
end

section
namespace Sys2Proof.Machine

/-! ERES, MSAVE and MREST (R213, R214). -/

section Frozen
variable {s : State}

/-- What every step of a fold keeps, the fold keeps. -/
theorem foldl_keeps {α γ : Type} {f : State → α → State} (p : State → γ) (hf : ∀ t a, p (f t a) = p t) (l : List α) (s : State) :
    p (l.foldl f s) = p s :=
  List.foldlRecOn (motive := fun t => p t = p s) l f rfl fun t ht a _ => (hf t a).trans ht

@[simp] theorem raiseFloor_cores (s : State) (k : Word) : (s.raiseFloor k).cores = s.cores := by
  unfold State.raiseFloor
  refine foldl_keeps State.cores (fun t n => ?_) _ s
  rfl
@[simp] theorem touchLine_cores (s : State) (pa : Nat) : (s.touchLine pa).cores = s.cores := by
  unfold State.touchLine
  dsimp only
  split
  · rfl
  · split
    · rfl
    · split
      · rfl
      · split
        · rfl
        · dsimp only
          split <;> simp

@[simp] theorem homeTouch_cores (s : State) (pa n : Nat) : (s.homeTouch pa n).cores = s.cores := by
  unfold State.homeTouch
  split
  · exact foldl_keeps State.cores (fun t _ => touchLine_cores t _) _ s
  · rfl

/-- A write at the home changes no core. -/
@[simp] theorem homeWrite_cores (s : State) (pa : Nat) (bs : List Byte) (controller : Bool) :
    (s.homeWrite pa bs controller).cores = s.cores := by
  have hfire : ∀ (t : State) pa n, (t.fireMonitors pa n).cores = t.cores := fun t pa n =>
    foldl_keeps State.cores (fun u x => by split <;> rfl) _ t
  have hdoubt : ∀ (t : State) pa n, (t.doubtQcbs pa n).cores = t.cores := fun t pa n =>
    foldl_keeps State.cores (fun u x => by split <;> rfl) _ t
  have hdrop : ∀ (t : State) pa n, (t.dropSharers pa n).cores = t.cores := fun t pa n =>
    foldl_keeps State.cores (fun u line => by
      split
      · split <;> rfl
      · rfl) _ t
  unfold State.homeWrite
  rw [hfire, hdrop]
  split <;> simp [hdoubt]

/-- The array of a core is frozen. -/
def State.frozen (s : State) (core : Nat) : Bool := (s.core core).frozen
theorem frozen_homeWrite (s : State) (core pa : Nat) (bs : List Byte) : (s.homeWrite pa bs).frozen core = s.frozen core := by
  simp only [State.frozen, State.core, homeWrite_cores]
theorem frozen_ccClean (s : State) (core key : Nat) : (s.ccClean core key).frozen core = s.frozen core := by
  unfold State.ccClean
  split
  · rfl
  · rw [State.frozen, core_setCore_same]
    refine foldl_keeps (State.frozen · core) (fun t e => ?_) _ s
    split
    · exact frozen_homeWrite t core _ _
    · rfl
theorem frozen_ccDrop (s : State) (core key : Nat) : (s.ccDrop core key).frozen core = s.frozen core := by
  unfold State.ccDrop
  split
  · rfl
  · rw [State.frozen, core_setCore_same]
    exact frozen_ccClean s core key
theorem frozen_dropParts (s : State) (core : Nat) (l : List (Target × Nat)) : (dropParts core l s).frozen core = s.frozen core :=
  foldl_keeps (State.frozen · core) (fun t _ => foldl_keeps (State.frozen · core) (fun u _ => frozen_ccDrop u core _) _ t) l s
theorem frozen_writeParts (l : List (Target × Nat)) (bs : List Byte) (s : State) (core : Nat) :
    (writeParts l bs s).frozen core = s.frozen core := by
  induction l generalizing bs s with
  | nil => rfl
  | cons p r ih => exact (ih _ _).trans (frozen_homeWrite s core _ _)

theorem touch_dropParts (core : Nat) (l : List (Target × Nat)) (s : State) : Touch s (dropParts core l s) :=
  Touch.foldl _ (fun t _ => touch_ccPurge t core _ _) l s
theorem touch_writeParts (l : List (Target × Nat)) (bs : List Byte) (s : State) : Touch s (writeParts l bs s) := by
  induction l generalizing bs s with
  | nil => exact Touch.refl s
  | cons p r ih => exact (touch_homeWrite s _ _ false).trans (ih _ _)
theorem Touch.images {s t : State} (h : Touch s t) : t.images = s.images := by rw [h.shape]

end Frozen

/-- An image's first word is MXVER. -/
theorem imageOf_version (tick : Nat) : ofBytesLE ((imageOf tick).take 4) = mxver := by
  rw [imageOf, List.take_left' (bytesLE_length 4 mxver)]
  exact (ofBytesLE_bytesLE 4 mxver).trans (by decide)

section Recovery
variable {f : FS} {s s1 s2 : State} {e : Env} {l : List (Target × Nat)}

/-- The core's array is frozen, its lines of the image's place are dropped, and the image is written there. -/
def saveImage (core : Nat) (l : List (Target × Nat)) (image : List Byte) (s : State) : State :=
  let c := s.core core
  let t := writeParts l image (dropParts core l (s.setCore core { c with frozen := true }))
  { t with images := (image, c.mq, c.batches, c.halted) :: t.images }

theorem saveImage_touch (core : Nat) (l : List (Target × Nat)) (image : List Byte) (s : State) :
    Touch s (writeParts l image (dropParts core l (s.setCore core { s.core core with frozen := true }))) :=
  (touch_setCore s _ _).trans ((touch_dropParts core l _).trans (touch_writeParts l image _))

theorem saveImage_frozen (core : Nat) (l : List (Target × Nat)) (image : List Byte) (s : State) :
    ((saveImage core l image s).core core).frozen = true := by
  have h := (frozen_writeParts l image (dropParts core l (s.setCore core { s.core core with frozen := true })) core).trans
    (frozen_dropParts _ core l)
  rw [State.frozen, State.frozen, core_setCore_same] at h
  exact h

theorem msave_tracks (h : Runs (.msave f) s e) (hp : probeImage e (e.sop64 0 f.d) .write s = (.ok l, s1))
    (hc : checkParts e.acc .write l s1 = (none, s2)) : TracksFrom (.msave f) s e [] (saveImage e.core l (imageOf s.tick) s2) := by
  show execMsave f s = _
  rw [execMsave, issue_runs h]
  simp only [hp, hc, saveImage]

/-- What MREST makes of a core's array. -/
def restoreImage (core : Nat) (bs : List Byte) (s : State) : State :=
  let c := s.core core
  s.setCore core (match s.images.find? (fun x => x.1 == bs) with
    | some x => c.loadImage x.2
    | none => { c with frozen := false })

theorem restoreImage_frozen (core : Nat) (bs : List Byte) (s : State) : ((restoreImage core bs s).core core).frozen = false := by
  rw [restoreImage, core_setCore_same]
  split <;> rfl
theorem restoreImage_queue {core : Nat} {bs : List Byte} {s : State} {x : List Byte × List MEntry × List Batch × Table Nat}
    (h : s.images.find? (fun y => y.1 == bs) = some x) : x.2.1 <+: ((restoreImage core bs s).core core).mq := by
  rw [restoreImage, core_setCore_same, h]
  exact List.prefix_append _ _

theorem mrest_next (h : Runs (.mrest f) s e) (hp : probeImage e (e.sop64 0 f.d) .read s = (.ok l, s1))
    (hc : checkParts e.acc .read l s1 = (none, s2)) :
    exec (.mrest f) s = .next (if ofBytesLE ((readParts (cleanParts e.core l s2) l).take 4) ≠ 1
      then trapAll e (.mrest f) cMXVER_MISMATCH 0 (cleanParts e.core l s2)
      else tracked e (.mrest f) [] (restoreImage e.core (readParts (cleanParts e.core l s2) l) (cleanParts e.core l s2))) := by
  show execMrest f s = _
  rw [execMrest, issue_runs h]
  simp only [hp, hc, restoreImage, mxver]
  all_goals rfl

/-- The fields of ERES's operand. -/
theorem eres_bits {v : Nat} (hv : v < 2 ^ 32) : bits v 0 5 = v % 32 ∧ bits v 16 16 = v / 2 ^ 16 ∧ bits v 5 3 = v / 32 % 8 := by
  simp only [bits]
  omega

/-- The context that ERES's operand names (R213). -/
def eresCtx (e : Env) (v : Nat) : Nat := if v / 2 ^ 16 = 0xFFFF then e.ctx else v / 2 ^ 16

theorem eres_next {v : Nat} (h : Runs (.eres f) s e) (hv : v = (e.sop 0 f.a).toNat) (h9 : v / 2 ^ 9 % 2 ^ 7 = 0) (h5 : v / 32 % 8 = 0)
    (hctx : eresCtx e v < 256) (r : Nat × State)
    (hr : r = if v % 32 = 0 then s.eresMatrix e.core (eresCtx e v) (bitN v 8)
      else if v % 32 ≤ 16 then s.eresCopy e.site (v % 32 - 1) (eresCtx e v) (bitN v 8) else (0xFFFFFFFF, s)) :
    exec (.eres f) s = .next (finishW e (putRun true f.d.toNat 1 0 r.1) r.2) := by
  have hlt : v < 2 ^ 32 := hv ▸ (e.sop 0 f.a).isLt
  obtain ⟨hq, hc, hmid⟩ := eres_bits hlt
  have hhigh : bits v 9 7 = 0 := h9
  subst hr
  unfold eresCtx at *
  show execEres f s = _
  rw [execEres, issue_runs h]
  simp only [← hv, hq, hc, hhigh, hmid, h5, ne_eq, not_true_eq_false, false_or, ge_iff_le, Nat.not_le.mpr hctx, if_false]

end Recovery

/-- Settles O39. -/
theorem engineRecovery : Obligations.EngineRecovery := by
  intro f s s1 s2 e l v c ctx va
  refine ⟨fun h h9 h5 hctx => ⟨fun hq => ?_, fun q hlt hq => ?_, fun hq => ?_⟩, fun h hp hc => ?_, fun h hp hc => ?_⟩
  · exact eres_next h rfl h9 h5 hctx _ (if_pos hq).symm
  · refine eres_next h rfl h9 h5 hctx _ ?_
    have hne : v % 32 ≠ 0 := by omega
    have hle : v % 32 ≤ 16 := by omega
    have hpred : v % 32 - 1 = q := by omega
    rw [if_neg hne, if_pos hle, hpred]
    rfl
  · have hne : v % 32 ≠ 0 := by omega
    exact eres_next h rfl h9 h5 hctx (0xFFFFFFFF, s) (by rw [if_neg hne, if_neg (by omega)])
  · have ht := saveImage_touch e.core l (imageOf s.tick) s2
    exact ⟨_, msave_tracks h hp hc, saveImage_frozen e.core l _ s2, ht.grids, rfl, congrArg (List.cons _) ht.images, imageOf_version s.tick⟩
  · refine ⟨fun hne => ?_, fun heq => ⟨_, ?_, restoreImage_frozen e.core _ _, rfl, fun x hx => restoreImage_queue hx⟩⟩
    · exact (mrest_next h hp hc).trans (congrArg _ (if_pos hne))
    · exact (mrest_next h hp hc).trans (congrArg _ (if_neg (not_not.mpr heq)))

end Sys2Proof.Machine
end

section
namespace Sys2Proof.Machine

/-! CPY, CPYM and CPYT (R187-R193, R311). -/

/-- The copy that a coach's CPY or CPYT meets in its site's queues, if its workgroup has made it (R188). -/
def metCopy (e : Env) (k : CopyKind) (s : State) : Option CopyEntry := if k = .cpym then none else (s.site e.site).copyOf e
/-- The tin that a copy's destination names; CPYM's lies in the receiving cores (R187, R192). -/
def dstTin (e : Env) (f : FC) (k : CopyKind) : Option Nat := if k = .cpym then none else tinNamed (e.sop 2 f.tin)
def copyRows (e : Env) (k : CopyKind) (p : CopyParams) : List Nat :=
  if k = .cpym then List.range p.rows else rowsOf p.rows e.wg.ncoach e.ref.k
theorem metCopy_eq (e : Env) (k : CopyKind) (s : State) : (if k = .cpym then none else (s.site e.site).copyOf e) = metCopy e k s := rfl
theorem dstTin_eq (e : Env) (f : FC) (k : CopyKind) : (if k = .cpym then none else tinNamed (e.sop 2 f.tin)) = dstTin e f k := rfl
theorem copyRows_eq (e : Env) (k : CopyKind) (p : CopyParams) :
    (if k = .cpym then List.range p.rows else rowsOf p.rows e.wg.ncoach e.ref.k) = copyRows e k p := rfl
/-- The tins that a copy names fit its extents (R187, R189). -/
def CopyTins (e : Env) (f : FC) (k : CopyKind) (p : CopyParams) (s : State) : Prop :=
  tinFits (s.core e.core) e.wg (dstTin e f k) 1 p.dkind p.daddr (spanOf p.rows p.dstride p.rowBytes) = true ∧
    tinFits (s.core e.core) e.wg (tinNamed (e.sop 3 f.aux)) 2 p.skind p.saddr (spanOf p.rows p.sstride p.rowBytes) = true
/-- No check of R189's order 4 or 5 stops a copy. -/
def CopyUnstopped (e : Env) (f : FC) (k : CopyKind) (p : CopyParams) (s : State) : Prop :=
  windowStop e k p s = none ∧ tinStop e (dstTin e f k) = none ∧ tinStop e (tinNamed (e.sop 3 f.aux)) = none ∧ abufStop e k p s = none

/-- A copy's block passes every check, its parameters read in `s1`, its probe ending in `s2` (R187-R189, R192). -/
structure CopyPasses (e : Env) (f : FC) (k : CopyKind) (s : State) (params : List Byte) (s1 : State) (pr : Probe) (s2 : State) : Prop where
  read : copyParams e (metCopy e k s) (e.sop64 0 f.pb) s = (.ok params, s1)
  ok : (CopyParams.ofBytes params).ok = true
  okFor : (CopyParams.ofBytes params).okFor k = true
  treg : tinRegOk (e.sop 2 f.tin) = true
  areg : tinRegOk (e.sop 3 f.aux) = true
  named : k = .cpym → (tinNamed (e.sop 2 f.tin)).isSome = true
  dstKind : (dstTin e f k).isSome = true → (CopyParams.ofBytes params).dkind ≠ 0
  skind : (CopyParams.ofBytes params).skind ≠ 2
  tins : CopyTins e f k (CopyParams.ofBytes params) s1
  unstopped : CopyUnstopped e f k (CopyParams.ofBytes params) s1
  probe : probeCopy e k (CopyParams.ofBytes params) (copyRows e k (CopyParams.ofBytes params))
    (match (generalizing := false) metCopy e k s with | some c => c.fmt | none => none) s1 = (.ok pr, s2)
  runs : (s.site e.site).copyHalted f.qsel.toNat e.ctx = false
  free : k = .cpym → s2.engineBusy e.ref 5 = false

/-- The clock of a copy, and the state after the release of a CPYM (R192). -/
def copyRelease (e : Env) (k : CopyKind) (s : State) : Word × State := if k = .cpym then s.release e.ref.slot 5 else (e.wg.oclk, s)
/-- The coach's lines of a copy's source have been written back, those of its destination dropped (R220). -/
def copyDrained (e : Env) (k : CopyKind) (pr : Probe) (s : State) : State :=
  dropParts e.core pr.dst (cleanParts e.core pr.src (copyRelease e k s).2)
/-- The coach's share of a copy. -/
def copyShare (e : Env) (s : State) : CopyArr := { k := e.ref.k, flight := s.nextFlight e.ref }
/-- The coach counts its copies of the workgroup (R188). -/
def copyCounted (e : Env) (k : CopyKind) (s : State) : State :=
  if k = .cpym then s else s.modCoach e.ref (fun d => { d with copies := d.copies + 1 })
/-- The entry that the first arrival makes. -/
def firstCopy (e : Env) (f : FC) (k : CopyKind) (params : List Byte) (pr : Probe) (clock : Word) (id : Nat) (share : CopyArr) : CopyEntry :=
  { id := id, kind := k, slot := e.ref.slot, k := e.ref.k, ctx := e.ctx, gid := e.wg.gid, seq := e.c.copies, pb := e.sop64 0 f.pb, params := params,
    treg := e.sop 2 f.tin, areg := e.sop 3 f.aux,
    dtin := if k = .cpym then tinNamed (e.sop 2 f.tin) else (dstTin e f k).map (fun n => e.wg.tinBase + n),
    stin := (tinNamed (e.sop 3 f.aux)).map (fun n => e.wg.tinBase + n), clock := clock, arrivals := [share], fmt := pr.fmt, started := false,
    done := 0, away := [], flying := [], after := [], paused := false, err := none }
/-- The first arrival puts its entry last in its queue. -/
def copyQueued (e : Env) (q : Nat) (c : Core) (n : CopyEntry) (s : State) : State :=
  let y := s.site e.site
  (s.setSite e.site { y with nextId := y.nextId + 1 }).setQueue e.site q (y.queue q ++ [{ n with after := n.earlier c }])

theorem queue_setQueue_same (s : State) (site q : Nat) (l : List CopyEntry) : ((s.setQueue site q l).site site).queue q = l := by
  rw [State.setQueue, site_setSite_same]
  exact getD_put_same _ _ _ _
theorem queue_setQueue_ne (s : State) (site : Nat) {q r : Nat} (l : List CopyEntry) (h : r ≠ q) :
    ((s.setQueue site q l).site site).queue r = (s.site site).queue r := by
  rw [State.setQueue, site_setSite_same]
  exact getD_put_ne _ _ _ h

section Copy
variable {i : Instr} {f : FC} {k : CopyKind} {e : Env} {s s1 s2 : State} {params : List Byte} {pr : Probe} {m : CopyEntry}

/-- The tin of a destination that is named, and does not lie in memory, or is not declared. -/
theorem CopyPasses.dstKind_or (h : CopyPasses e f k s params s1 pr s2) :
    ((dstTin e f k).all (fun n => decide (n ≥ e.wg.tins)) || (CopyParams.ofBytes params).dkind != 0) = true := by
  cases hd : dstTin e f k with
  | none => rfl
  | some n => simp [h.dstKind (by simp [hd])]

theorem CopyPasses.named_or (h : CopyPasses e f k s params s1 pr s2) : (k != .cpym || (tinNamed (e.sop 2 f.tin)).isSome) = true := by
  simpa [imp_iff_not_or] using h.named
theorem CopyPasses.not_busy (h : CopyPasses e f k s params s1 pr s2) : ¬ (k = .cpym ∧ s2.engineBusy e.ref scWAFER = true) :=
  fun x => by simp [h.free x.1, scWAFER] at x

/-- The first arrival makes the copy. -/
theorem copyIssue_first (h : CopyPasses e f k s params s1 pr s2) (hm : metCopy e k s = none)
    (hq : ((s.site e.site).queue f.qsel.toNat).length < 32) :
    copyIssue i f k e s = accepted e i .engine (copyCounted e k (copyQueued e f.qsel.toNat (s1.core e.core)
      (firstCopy e f k params pr (copyRelease e k s2).1 ((copyDrained e k pr s2).site e.site).nextId (copyShare e (copyDrained e k pr s2)))
      (copyDrained e k pr s2))) := by
  obtain ⟨hdst, hsrc⟩ := h.tins
  obtain ⟨hwin, hdt, hst, habuf⟩ := h.unstopped
  have hread := h.read
  have hprobe := h.probe
  rw [hm] at hread hprobe
  simp only [copyIssue, metCopy_eq, dstTin_eq, copyRows_eq, hm, hread, h.ok, h.okFor, h.treg, h.areg, h.named_or, h.dstKind_or, hdst, hsrc,
    Bool.and_self, Bool.not_true, Bool.false_eq_true, if_false, h.skind, hwin, hdt, hst, habuf, hprobe, h.runs, Option.isNone_none, true_and,
    ge_iff_le, cqMax, Nat.not_le.mpr hq, h.not_busy]
  all_goals rfl

/-- A later coach with the same operands joins the copy that it meets. -/
theorem copyIssue_joins (h : CopyPasses e f k s params s1 pr s2) (hm : metCopy e k s = some m) (hpb : m.pb = e.sop64 0 f.pb) (hk : m.kind = k)
    (htreg : m.treg = e.sop 2 f.tin) (hareg : m.areg = e.sop 3 f.aux) (hin : ∃ y ∈ (s.site e.site).queue f.qsel.toNat, y.id = m.id) :
    copyIssue i f k e s = accepted e i .engine (copyCounted e k ((copyDrained e k pr s2).putCopy e.site f.qsel.toNat
      { m with arrivals := m.arrivals ++ [copyShare e (copyDrained e k pr s2)], fmt := pr.fmt, clock := (copyRelease e k s2).1 })) := by
  obtain ⟨hdst, hsrc⟩ := h.tins
  obtain ⟨hwin, hdt, hst, habuf⟩ := h.unstopped
  have hread := h.read
  have hprobe := h.probe
  have hany : ((s.site e.site).queue f.qsel.toNat).any (fun y => y.id == m.id) = true := by simpa using hin
  rw [hm] at hread hprobe
  simp only [copyIssue, metCopy_eq, dstTin_eq, copyRows_eq, hm, hread, h.ok, h.okFor, h.treg, h.areg, h.named_or, h.dstKind_or, hdst, hsrc, hpb, hk,
    htreg, hareg, hany, beq_self_eq_true, Bool.and_self, Bool.not_true, Bool.false_eq_true, if_false, h.skind, hwin, hdt, hst, habuf, hprobe,
    h.runs, Option.isNone_some, false_and, h.not_busy]
  all_goals rfl

end Copy

/-- Settles O40: `copyIssue` is the effect of the three instructions. -/
theorem copyAcceptance : Obligations.CopyAcceptance := by
  intro f s s1 s2 e params pr m p hp x q cp dtin dt st phys rows h hm hread hok hfor htreg hareg hnamed hlocal hskind hdtin hstin hwin hdt hst
    habuf hprobe hruns hfree rel s3 arr counted
  have hx : exec p.1 s = .next (copyIssue p.1 f p.2 e s) := by
    rw [← issue_runs h]
    simp only [List.mem_cons, List.not_mem_nil, or_false] at hp
    rcases hp with rfl | rfl | rfl <;> rfl
  subst hm
  have hpass : CopyPasses e f p.2 s params s1 pr s2 :=
    { read := hread, ok := hok, okFor := hfor, treg := htreg, areg := hareg, named := hnamed, dstKind := hlocal, skind := hskind,
      tins := ⟨hdtin, hstin⟩, unstopped := ⟨hwin, hdt, hst, habuf⟩, probe := hprobe, runs := hruns, free := hfree }
  refine ⟨fun hnone hlen => ⟨_, _, hx.trans (congrArg _ (copyIssue_first hpass hnone hlen)), queue_setQueue_same _ _ _ _,
    rfl, rfl, rfl, rfl, rfl, rfl, rfl, rfl, rfl, rfl, rfl, rfl, rfl, rfl, rfl, rfl, rfl, rfl, rfl, rfl⟩,
    fun c hsome hpb hk ht ha hin => hx.trans (congrArg _ (copyIssue_joins hpass hsome hpb hk ht ha hin))⟩

end Sys2Proof.Machine
end

section
namespace Sys2Proof.Machine

/-! The tin instructions (R194-R196). -/

section Tins
variable {i : Instr} {f : FC} {s : State} {e : Env}

/-- The tin of the core that an instruction of the coach names by its index. -/
def namedTin (e : Env) (f : FC) : Nat := e.wg.tinBase + (e.sop 2 f.tin).toNat

theorem tinOp_declared {act : Nat → Tin → Env → State → State} (hlt : (e.sop 2 f.tin).toNat < 64) (hn : (e.sop 2 f.tin).toNat < e.wg.tins) :
    tinOp i f act e s = act (namedTin e f) ((s.core e.core).tin (namedTin e f)) e s := by
  simp only [tinOp, tinIndex, hlt, hn, and_self, if_true, namedTin]
theorem tinOp_undeclared {act : Nat → Tin → Env → State → State} (h : ¬ ((e.sop 2 f.tin).toNat < 64 ∧ (e.sop 2 f.tin).toNat < e.wg.tins)) :
    tinOp i f act e s = trapAll e i cBUF_RANGE ((e.sop 2 f.tin).zeroExtend 64) s := by
  simp only [tinOp, tinIndex, h, if_false]

/-- Every tin instruction traps on an index that no declared tin has. -/
theorem tin_undeclared (hi : i ∈ [Instr.tininit f, .tinwait f, .tinrel f, .tinkill f, .tinq f]) (h : Runs i s e)
    (hbad : ¬ ((e.sop 2 f.tin).toNat < 64 ∧ (e.sop 2 f.tin).toNat < e.wg.tins)) :
    exec i s = .next (trapAll e i cBUF_RANGE ((e.sop 2 f.tin).zeroExtend 64) s) := by
  have hx : ∃ act, exec i s = issue i s (tinOp i f act) := by
    simp only [List.mem_cons, List.not_mem_nil, or_false] at hi
    rcases hi with rfl | rfl | rfl | rfl | rfl <;> exact ⟨_, rfl⟩
  obtain ⟨act, hx⟩ := hx
  rw [hx, issue_runs h, tinOp_undeclared hbad]

section Declared
variable (hlt : (e.sop 2 f.tin).toNat < 64) (hn : (e.sop 2 f.tin).toNat < e.wg.tins)
include hlt hn

theorem tininit_starts (h : Runs (.tininit f) s e) (hfree : ((s.core e.core).tin (namedTin e f)).state = 0) (hlen : e.sopAt 0 f.pb 1 ≠ 0)
    (hfit : (e.sopAt 0 f.pb 0).toNat + (e.sopAt 0 f.pb 1).toNat ≤
      (match Buf.ofKind f.qsel.toNat with | some b => ((s.core e.core).window e.wg b).2 | none => 0)) :
    exec (.tininit f) s = .next (accepted e (.tininit f) .performed (s.putTin e.core (namedTin e f)
      { Tin.free with
        state := if e.sop 3 f.aux = 0 then 2 else 1, kind := f.qsel.toNat, total := e.sop 3 f.aux, off := e.sopAt 0 f.pb 0,
        len := e.sopAt 0 f.pb 1 })) := by
  have hno : ¬ (e.sopAt 0 f.pb 1 = 0 ∨ (e.sopAt 0 f.pb 0).toNat + (e.sopAt 0 f.pb 1).toNat >
      (match Buf.ofKind f.qsel.toNat with | some b => ((s.core e.core).window e.wg b).2 | none => 0)) :=
    not_or.mpr ⟨hlen, Nat.not_lt.mpr hfit⟩
  show execTininit f s = _
  rw [execTininit, issue_runs h, tinOp_declared hlt hn]
  exact congrArg _ ((if_neg (not_not.mpr hfree)).trans (if_neg hno))

theorem tinwait_acquires (h : Runs (.tinwait f) s e) (herr : ((s.core e.core).tin (namedTin e f)).err = false)
    (hst : ((s.core e.core).tin (namedTin e f)).state = 2 ∨ ((s.core e.core).tin (namedTin e f)).state = 3)
    (hset : (e.flagOf (.tinwait f)).isSome = true ∨ e.c.unsettled = false) :
    TracksFrom (.tinwait f) s e [] (s.acquire e.ref.slot ((s.core e.core).tin (namedTin e f)).scope ((s.core e.core).tin (namedTin e f)).clock) := by
  have hgo : (blockingTinwait e (.tinwait f) && e.c.unsettled) = false := by
    rcases hset with hf | hu
    · simp [blockingTinwait, Option.isNone_eq_false_iff.mpr hf]
    · simp [hu]
  show execTinwait f s = _
  rw [execTinwait, issue_runs h, tinOp_declared hlt hn]
  rcases hst with hst | hst <;> simp [herr, hst, hgo]

/-- A TINWAIT on a PENDING tin waits, by a flag or in WAIT_TIN. -/
theorem tinwait_pending (h : Runs (.tinwait f) s e) (herr : ((s.core e.core).tin (namedTin e f)).err = false)
    (hst : ((s.core e.core).tin (namedTin e f)).state = 1) :
    exec (.tinwait f) s = .next (if (e.flagOf (.tinwait f)).isNone
      then waitIn e (.tinwait f) .waitTin { Wait.none with tin := some (namedTin e f) } s
      else track e (.tinwait f) (.tinWait (namedTin e f)) true
        (some (capture e (.tinwait f) (e.flagOf (.tinwait f)) 0 e.active 0 0 Wait.none)) [] s) := by
  show execTinwait f s = _
  rw [execTinwait, issue_runs h, tinOp_declared hlt hn]
  simp [herr, hst]

theorem tinrel_frees (h : Runs (.tinrel f) s e) (hst : ((s.core e.core).tin (namedTin e f)).state = 2) :
    exec (.tinrel f) s = .next (accepted e (.tinrel f) .performed
      (s.putTin e.core (namedTin e f) { (s.core e.core).tin (namedTin e f) with state := 0 })) := by
  show execTinrel f s = _
  rw [execTinrel, issue_runs h, tinOp_declared hlt hn]
  exact congrArg _ (if_neg (not_not.mpr hst))

/-- What TINKILL makes of a tin. -/
def killTin (core t : Nat) (x : Tin) (s : State) : State :=
  match x.state with
  | 0 => s
  | 3 => s.putTin core t { x with killed := true }
  | _ => s.putTin core t { x with state := 0, killed := true }

theorem tinkill_next (h : Runs (.tinkill f) s e) :
    exec (.tinkill f) s = .next (accepted e (.tinkill f) .performed (killTin e.core (namedTin e f) ((s.core e.core).tin (namedTin e f)) s)) := by
  show execTinkill f s = _
  rw [execTinkill, issue_runs h, tinOp_declared hlt hn]
  rfl

theorem tinq_reads (h : Runs (.tinq f) s e) :
    exec (.tinq f) s = .next (track e (.tinq f) .performed false none (putRun true f.pb.toNat 2 0
      (tinStatus e.wg.tinBase (namedTin e f) ((s.core e.core).tin (namedTin e f)) +
        2 ^ 32 * ((s.core e.core).tin (namedTin e f)).arrived.toNat)) s) := by
  show execTinq f s = _
  rw [execTinq, issue_runs h, tinOp_declared hlt hn]

end Declared
end Tins

theorem killTin_free {x : Tin} (h : x.state = 0) (core t : Nat) (s : State) : killTin core t x s = s := by
  simp [killTin, h]
theorem killTin_draining {x : Tin} (h : x.state = 3) (core t : Nat) (s : State) : killTin core t x s = s.putTin core t { x with killed := true } := by
  simp [killTin, h]
theorem killTin_held {x : Tin} (h : x.state = 1 ∨ x.state = 2) (core t : Nat) (s : State) :
    killTin core t x s = s.putTin core t { x with state := 0, killed := true } := by
  rcases h with h | h <;> simp [killTin, h]

/-- Settles O41. -/
theorem tinInstructions : Obligations.TinInstructions := by
  intro f s e v t x off len total
  refine ⟨fun i hi h hbad => tin_undeclared hi h hbad, fun hlt hn => ?_⟩
  have killed (h : Runs (.tinkill f) s e) {u : State} (hu : killTin e.core t x s = u) :
      exec (.tinkill f) s = .next (accepted e (.tinkill f) .performed u) := hu ▸ tinkill_next hlt hn h
  refine ⟨?_, ?_, ?_, ?_, ?_, ?_, ?_, ?_, ?_⟩
  · exact tininit_starts hlt hn
  · exact tinwait_acquires hlt hn
  · exact fun h herr hst hf => h.waitsIn ((tinwait_pending hlt hn h herr hst).trans (congrArg _ (if_pos (by simp [hf]))))
  · exact fun h herr hst hf => (tinwait_pending hlt hn h herr hst).trans (congrArg _ (if_neg (by simpa [Option.isSome_iff_ne_none] using hf)))
  · exact tinrel_frees hlt hn
  · exact fun h hst => killed h (killTin_free hst _ _ _)
  · exact fun h hst => killed h (killTin_held hst _ _ _)
  · exact fun h hst => killed h (killTin_draining hst _ _ _)
  · exact tinq_reads hlt hn

end Sys2Proof.Machine
end

section
namespace Sys2Proof.Machine

/-! COLL (R199, R200, R314). -/

section Coll
variable {f : FC} {s s1 s2 s3 s4 s5 s6 : State} {e : Env} {bs : List Byte} {gp sp dp rp : List (Target × Nat)}

/-- The group and tag of a collective's block name a participant of this site once, no wafer or site beyond those of a pod, and no
collective that is active (R199). -/
theorem collGroup_accepted {g : List Word} {me tag : Word} {cs : List Coll} (hw : ∀ w ∈ g, w.toNat < 2 ^ 22)
    (hme : (g.filter (fun w => w == me)).length = 1) (htag : ∀ c ∈ cs, c.blk.tag ≠ tag) :
    ¬ (g.any (fun w => decide (w.toNat ≥ 2 ^ 22)) = true ∨ (g.filter (fun w => w == me)).length ≠ 1 ∨
      cs.any (fun c => c.blk.tag == tag) = true) := by
  rintro (h | h | h)
  · obtain ⟨w, hwg, hbig⟩ := List.any_eq_true.mp h
    exact absurd (hw w hwg) (Nat.not_lt.mpr (of_decide_eq_true hbig))
  · exact h hme
  · obtain ⟨c, hc, heq⟩ := List.any_eq_true.mp h
    exact htag c hc (eq_of_beq heq)

/-- A destination that lies in a site's DRAM. -/
theorem collDst_accepted {site : Nat} (h : ∀ p ∈ dp, paSpace p.1.x.pa = 0 ∧ homeSite p.1.x.pa = site) :
    ¬ dp.any (fun p => decide (paSpace p.1.x.pa ≠ 0 ∨ homeSite p.1.x.pa ≠ site)) = true := fun hany => by
  obtain ⟨p, hp, hbad⟩ := List.any_eq_true.mp hany
  obtain ⟨hspace, hhome⟩ := h p hp
  simp [hspace, hhome] at hbad

/-- The collective that a COLL makes: this participant's own header is the only one compared. -/
def newColl (e : Env) (f : FC) (bs : List Byte) (g : List Word) (i flight : Nat) : Coll :=
  { slot := e.ref.slot, k := e.ref.k, ctx := e.ctx, gid := e.wg.gid, flight := flight, clock := e.wg.oclk, pb := e.sop64 0 f.pb,
    block := bs, group := g, index := i, headers := [i], mismatch := false, order := [i], shares := [], sent := [], failed := none }

variable {b : CollBlock} {g : List Word} {me : Word} {i : Nat} {s7 : State}

/-- A COLL that meets no cause and finds room is accepted as its site's newest collective. -/
theorem coll_accepts (h : Runs (.coll f) s e) (hb : b = CollBlock.ofBytes bs) (hg : g = groupWords (readParts s3 gp) b.n)
    (hm : me = memberWord s e.site) (hi : i = g.idxOf me) (hblock : readBlock e (e.sop64 0 f.pb) 64 64 s = (.ok bs, s1)) (hok : b.ok = true)
    (hgp : probeRange e .read b.group (4 * b.n) s1 = (none, gp, s2)) (hx : xferCheck gp (cleanParts e.core gp s2) = (none, s3))
    (hgroup : ¬ (g.any (fun w => decide (w.toNat ≥ 2 ^ 22)) = true ∨ (g.filter (fun w => w == me)).length ≠ 1 ∨
      (s3.site e.site).colls.any (fun c => c.blk.tag == b.tag) = true)) (hroom : ¬ (s3.site e.site).colls.length ≥ 16)
    (hsp : probeRange e .read b.saddr (b.srcLen i) s3 = (none, sp, s4)) (hdp : probeRange e .write b.daddr (b.dstLen i) s4 = (none, dp, s5))
    (hdst : ¬ dp.any (fun p => decide (paSpace p.1.x.pa ≠ 0 ∨ homeSite p.1.x.pa ≠ e.site)) = true)
    (hrp : probeRange e .write b.record (8 + b.n) s5 = (none, rp, s6)) (h7 : s7 = dropParts e.core (dp ++ rp) (cleanParts e.core sp s6)) :
    exec (.coll f) s = .next (accepted e (.coll f) .engine
      (s7.setSite e.site { s7.site e.site with colls := (s7.site e.site).colls ++ [newColl e f bs g i (s.nextFlight e.ref)] })) := by
  show execColl f s = _
  rw [execColl, issue_runs h]
  simp only [hblock, ← hb, hok, Bool.not_true, Bool.false_eq_true, if_false, hgp, hx, ← hg, ← hm, ← hi, hgroup, hsp, hdp, hdst, hrp, hroom, ← h7,
    newColl]

end Coll

/-- Settles O43: none of COLL's causes is met. -/
theorem collectiveAcceptance : Obligations.CollectiveAcceptance := by
  intro f s s1 s2 s3 s4 s5 s6 e bs gp sp dp rp b g me i h hblock hok hgp hx hw hme htag hroom hsp hdp hdram hrp s7 y
  exact ⟨newColl e f bs g i (s.nextFlight e.ref), coll_accepts h rfl rfl rfl rfl hblock hok hgp hx (collGroup_accepted hw hme htag)
    (Nat.not_le.mpr hroom) hsp hdp (collDst_accepted hdram) hrp rfl, rfl, rfl, rfl, rfl, rfl, rfl, rfl, rfl, rfl, rfl, rfl, rfl⟩

end Sys2Proof.Machine
end

section
namespace Sys2Proof.Machine

/-! QFENCE, the remote operations, RFLUSH and LAUNCH (R198, R201-R203). -/

/-- An entry put last in each of some queues of a site. -/
def joinQueues (site : Nat) (n : CopyEntry) (qs : List Nat) (s : State) : State :=
  qs.foldl (fun t q => t.setQueue site q ((t.site site).queue q ++ [n])) s

theorem queue_joinQueues (site : Nat) (n : CopyEntry) {qs : List Nat} (hd : qs.Nodup) (s : State) (q : Nat) :
    ((joinQueues site n qs s).site site).queue q = if q ∈ qs then (s.site site).queue q ++ [n] else (s.site site).queue q := by
  induction qs generalizing s with
  | nil => rfl
  | cons a r ih =>
    obtain ⟨ha, hr⟩ := List.nodup_cons.mp hd
    refine (ih hr _).trans ?_
    by_cases hq : q = a
    · subst hq
      rw [if_neg ha, if_pos List.mem_cons_self, queue_setQueue_same]
    · rw [queue_setQueue_ne s site _ hq]
      simp [hq]

section Transfers
variable {f : FC} {s s1 s2 : State} {e : Env} {bs : List Byte} {l : List (Target × Nat)}

/-- The queues that QFENCE names. -/
def fencedQueues (v : Word) : List Nat := (List.range 16).filter (fun q => v.getLsbD q)
theorem mem_fencedQueues {v : Word} {q : Nat} : q ∈ fencedQueues v ↔ q < 16 ∧ v.getLsbD q = true := by
  simp [fencedQueues]
theorem nodup_fencedQueues (v : Word) : (fencedQueues v).Nodup := List.nodup_range.filter _

/-- QFENCE's join of the queues that it names. -/
def fenceJoin (e : Env) (f : FC) (id flight : Nat) : CopyEntry :=
  { id := id, kind := .join id ((e.sop 3 f.aux).truncate 16), slot := e.ref.slot, k := e.ref.k, ctx := e.ctx, gid := e.wg.gid, seq := 0, pb := 0,
    params := [], treg := 0, areg := 0, dtin := none, stin := none, clock := 0, arrivals := [{ k := e.ref.k, flight := flight }], fmt := none,
    started := false, done := 0, away := [], flying := [], after := [], paused := false, err := none }

theorem qfence_nothing (h : Runs (.qfence f) s e) (h0 : e.sop 3 f.aux = 0) : exec (.qfence f) s = .next (accepted e (.qfence f) .performed s) := by
  show execQfence f s = _
  rw [execQfence, issue_runs h]
  simp [h0]

theorem qfence_joins (h : Runs (.qfence f) s e) (hne : e.sop 3 f.aux ≠ 0) (hlt : (e.sop 3 f.aux).toNat < 2 ^ 16)
    (hroom : ∀ q < 16, (e.sop 3 f.aux).getLsbD q = true → ((s.site e.site).queue q).length < 32) :
    exec (.qfence f) s = .next (accepted e (.qfence f) (.qfence (s.site e.site).nextId)
      (joinQueues e.site (fenceJoin e f (s.site e.site).nextId (s.nextFlight e.ref)) (fencedQueues (e.sop 3 f.aux))
        (s.setSite e.site { s.site e.site with nextId := (s.site e.site).nextId + 1 }))) := by
  have hfree : ¬ (fencedQueues (e.sop 3 f.aux)).any (fun q => decide (((s.site e.site).queue q).length ≥ cqMax)) = true := fun hany => by
    obtain ⟨q, hq, hbig⟩ := List.any_eq_true.mp hany
    obtain ⟨hq16, hbit⟩ := mem_fencedQueues.mp hq
    exact absurd (hroom q hq16 hbit) (Nat.not_lt.mpr (of_decide_eq_true hbig))
  show execQfence f s = _
  rw [execQfence, issue_runs h]
  exact congrArg _ ((if_neg (Nat.not_le.mpr hlt)).trans ((if_neg hne).trans (if_neg hfree)))

/-! The remote operations. -/

theorem touch_xlateParts (core : Option Nat) (site ctx : Nat) (need : Need) (l : List (DWord × Nat)) (s : State) :
    Touch s (xlateParts core site ctx need l s).2 := by
  induction l generalizing s with
  | nil => exact Touch.refl s
  | cons p r ih =>
    obtain ⟨va, n⟩ := p
    have h1 := touch_translate s core site ctx va need
    unfold xlateParts
    split
    next hx => exact h1.of_eq hx
    next s1 hx =>
      have h2 := (h1.of_eq hx).trans (ih s1)
      split
      next hr => exact h2.of_eq hr
      next hr => exact h2.of_eq hr

theorem touch_readBlock (e : Env) (va : DWord) (n align : Nat) (s : State) : Touch s (readBlock e va n align s).2 := by
  have h := touch_translate s (some e.core) e.site e.ctx va .read
  unfold readBlock
  split
  case isTrue => exact Touch.refl s
  case isFalse =>
    split
    next hx => exact h.of_eq hx
    next s1 hx =>
      have h1 := h.of_eq hx
      split
      case isTrue => exact h1
      case isFalse =>
        split
        case isTrue => exact h1
        case isFalse =>
          split
          · exact h1
          · exact h1.trans (touch_homeTouch s1 _ _)

theorem touch_cleanParts (core : Nat) (l : List (Target × Nat)) (s : State) : Touch s (cleanParts core l s) :=
  Touch.foldl _ (fun t _ => Touch.foldl _ (fun u _ => touch_ccClean u core _) _ t) l s

/-- The coach's lines of an RPUT's source have been written back, those of another one's destination dropped (R220). -/
def remoteDrained (e : Env) (kind : Nat) (l : List (Target × Nat)) (s : State) : State :=
  if kind = kPUT then cleanParts e.core l s else dropParts e.core l s
theorem touch_remoteDrained (e : Env) (kind : Nat) (l : List (Target × Nat)) (s : State) : Touch s (remoteDrained e kind l s) := by
  unfold remoteDrained
  split
  · exact touch_cleanParts e.core l s
  · exact touch_dropParts e.core l s
theorem Touch.now {s t : State} (h : Touch s t) : t.now = s.now := by rw [h.shape]

/-- Is an operation of this kind ordered (R201, R338)? -/
def remoteOrd (f : FC) (kind : Nat) : Bool := kind != kATOM && f.qsel.getLsbD 0
/-- The remote operation that an instruction makes of its block (R201). -/
def remoteOf (e : Env) (f : FC) (kind : Nat) (bs : List Byte) (s : State) : RemoteOp :=
  let way := s.endpointFor e.site e.ref (fieldLE bs 20 2) (remoteOrd f kind)
  { id := (s.site e.site).nextId, slot := e.ref.slot, k := e.ref.k, ctx := e.ctx, kind := kind, ord := remoteOrd f kind, aop := f.qsel.toNat,
    flight := s.nextFlight e.ref, clock := e.wg.oclk, pb := e.sop64 0 f.pb, laddr := dword64 bs 0, raddr := dword64 bs 8, len := fieldLE bs 16 4,
    peer := fieldLE bs 20 2, psite := way.2, ep := way.1, operand := word32 bs 24, since := s.now, heard := false,
    rerouted := epREROUTE s && s.portLost e.site }
/-- A remote operation joins its site's and its packets are queued. -/
def remoteQueued (site kind : Nat) (o : RemoteOp) (s : State) : State :=
  (s.setSite site { s.site site with nextId := (s.site site).nextId + 1, remotes := (s.site site).remotes ++ [o] }).queuePackets o.ep o.conn
    (.remote site o.id) (if kind = kPUT then o.len else 0)

theorem remoteIssue_accepts {i : Instr} {kind : Nat} (hblock : readBlock e (e.sop64 0 f.pb) 32 32 s = (.ok bs, s1)) (hok : remoteOk kind bs = true)
    (hx : xlateParts (some e.core) e.site e.ctx (if kind = kPUT then .read else .write)
      (pageParts (fieldLE bs 16 4 / 65536 + 2) (dword64 bs 0) (fieldLE bs 16 4)) s1 = (.ok l, s2)) :
    remoteIssue i f kind e s = accepted e i .engine
      (remoteQueued e.site kind (remoteOf e f kind bs (remoteDrained e kind l s2)) (remoteDrained e kind l s2)) := by
  have hnow : (remoteDrained e kind l s2).now = s.now :=
    (((touch_readBlock e _ 32 32 s).of_eq hblock).trans (((touch_xlateParts _ _ _ _ _ s1).of_eq hx).trans (touch_remoteDrained e kind l s2))).now
  have hord : (decide (kind ≠ kATOM) && f.qsel.getLsbD 0) = remoteOrd f kind := by
    by_cases h : kind = kATOM <;> simp [remoteOrd, h]
  unfold remoteQueued remoteOf
  rw [hnow]
  unfold remoteDrained at *
  simp only [remoteIssue, hblock, hok, Bool.not_true, Bool.false_eq_true, if_false, hx, hord]

theorem remote_accepts {p : Instr × Nat} (hp : p ∈ [(Instr.rput f, 0), (.rget f, 1), (.ratom f, 2)]) (h : Runs p.1 s e)
    (hblock : readBlock e (e.sop64 0 f.pb) 32 32 s = (.ok bs, s1)) (hok : remoteOk p.2 bs = true)
    (hx : xlateParts (some e.core) e.site e.ctx (if p.2 = 0 then .read else .write)
      (pageParts (fieldLE bs 16 4 / 65536 + 2) (dword64 bs 0) (fieldLE bs 16 4)) s1 = (.ok l, s2)) :
    exec p.1 s = .next (accepted e p.1 .engine
      (remoteQueued e.site p.2 (remoteOf e f p.2 bs (remoteDrained e p.2 l s2)) (remoteDrained e p.2 l s2))) := by
  have hi : exec p.1 s = issue p.1 s (remoteIssue p.1 f p.2) := by
    simp only [List.mem_cons, List.not_mem_nil, or_false] at hp
    rcases hp with rfl | rfl | rfl <;> rfl
  rw [hi, issue_runs h, remoteIssue_accepts hblock hok hx]

/-! RFLUSH and LAUNCH. -/

/-- The coach's remote operations that have not been acknowledged (R202). -/
def ownRemotes (e : Env) (s : State) : List Nat :=
  ((s.site e.site).remotes.filter (fun o => o.slot == e.ref.slot && o.k == e.ref.k)).map RemoteOp.id

theorem rflush_next (h : Runs (.rflush f) s e) :
    exec (.rflush f) s = .next (accepted e (.rflush f) (if (ownRemotes e s).isEmpty then .performed else .rflush (ownRemotes e s)) s) := by
  show execRflush f s = _
  exact (issue_runs h _).trans rfl
theorem rflush_done (h : Runs (.rflush f) s e) (hnil : ownRemotes e s = []) :
    exec (.rflush f) s = .next (accepted e (.rflush f) .performed s) := by
  rw [rflush_next h, if_pos (List.isEmpty_iff.mpr hnil)]
theorem rflush_waits (h : Runs (.rflush f) s e) (hne : ownRemotes e s ≠ []) :
    exec (.rflush f) s = .next (accepted e (.rflush f) (.rflush (ownRemotes e s)) s) := by
  rw [rflush_next h, if_neg (fun hnil => hne (List.isEmpty_iff.mp hnil))]

/-- What LAUNCH makes of its attempt (R203). -/
def launched (e : Env) (f : FC) (bs : List Byte) (s : State) : LaunchTry → State
  | .done x t => tracked e (.launchI f) (putRun true f.tin.toNat 1 0 x.toNat) t
  | .stop q t => trapAll e (.launchI f) (q.cause (dword64 bs 0)).1 (q.cause (dword64 bs 0)).2 t
  | .busy => s
  | .full t =>
    if f.qsel.getLsbD 0 then tracked e (.launchI f) (putRun true f.tin.toNat 1 0 (qStat qFULL 0).toNat) t
    else track e (.launchI f) (.launch bs f.tin.toNat e.acc.clk) true
      (some (capture e (.launchI f) (e.flagOf (.launchI f)) 0 e.active 0 0 Wait.none)) (e.c.pendingRun f.tin.toNat 1) t

theorem launch_next (h : Runs (.launchI f) s e) (hblock : readBlock e (e.sop64 0 f.pb) 64 64 s = (.ok bs, s1)) {r : LaunchTry}
    (hr : tryLaunch e.core e.site e.acc e.ref bs s1 = r) : exec (.launchI f) s = .next (launched e f bs s r) := by
  show execLaunchI f s = _
  rw [execLaunchI, issue_runs h]
  simp only [hblock, hr]
  cases r <;> rfl

end Transfers

/-- Settles O42. -/
theorem engineTransfers : Obligations.EngineTransfers := by
  intro f s s1 s2 e bs l x v va mine
  refine ⟨qfence_nothing, fun h hne hlt hroom => ?_, fun p hp h hblock hok hx => ?_, rflush_done, rflush_waits, fun h hblock => ?_⟩
  · refine ⟨_, qfence_joins h hne hlt hroom, fun q hq => ?_⟩
    have hqueue := queue_joinQueues e.site (fenceJoin e f x.nextId (s.nextFlight e.ref)) (nodup_fencedQueues v)
      (s.setSite e.site { x with nextId := x.nextId + 1 }) q
    rw [site_setSite_same] at hqueue
    split
    · next hbit => exact ⟨_, hqueue.trans (if_pos (mem_fencedQueues.mpr ⟨hq, hbit⟩)), rfl, rfl, rfl⟩
    · next hbit => exact hqueue.trans (if_neg fun hm => hbit (mem_fencedQueues.mp hm).2)
  · exact ⟨_, remote_accepts hp h hblock hok hx, rfl, rfl, rfl, rfl, rfl, rfl, rfl, rfl, rfl, rfl, rfl, rfl, rfl, rfl, rfl, rfl, rfl, rfl, rfl⟩
  · refine ⟨fun stat hr => launch_next h hblock hr, fun hr hq => ?_, fun hr hq => ?_, fun hr => launch_next h hblock hr⟩
    · exact (launch_next h hblock hr).trans (congrArg _ (if_pos hq))
    · exact (launch_next h hblock hr).trans (congrArg _ (if_neg (Bool.eq_false_iff.mp hq)))

end Sys2Proof.Machine
end

section
namespace Sys2Proof.Machine

/-! Every step goes on (R240, R245, R246). -/

/-- An operation or event of the device leaves the state as it is, or performs its effect: no event faults. -/
theorem exec_event_goesOn {i : Instr} (hi : i.isEvent = true) (s : State) : GoesOn (exec i s) := by
  cases i <;> cases hi
  all_goals exact ⟨_, rfl⟩

/-- What a resident coach has reached goes on, an event of its own as much as an instruction. -/
theorem exec_goesOn {i : Instr} {s : State} (h : (s.env s.cur).isSome = true) : GoesOn (exec i s) := by
  cases hi : i.isEvent with
  | true => exact exec_event_goesOn hi s
  | false =>
    obtain ⟨body, hx⟩ := exec_issues hi s
    exact hx ▸ issue_goes_on h body

/-- The time that passes with an instruction does not stop it. -/
theorem runInstr_goesOn {i : Instr} {s : State} (h : GoesOn (exec i s)) : GoesOn (runInstr i s) := by
  obtain ⟨t, ht⟩ := h
  exact ⟨t.ticked, by rw [runInstr, ht]⟩

/-- What a turn comes to, if it is an instruction or an event, goes on. -/
def Turn.Executes : Turn → Prop
  | .run i s => GoesOn (exec i s)
  | .done _ => True

theorem runTurn_goesOn {t : Turn} (h : t.Executes) : GoesOn (runTurn t) := by
  cases t with
  | run i s => exact runInstr_goesOn h
  | done s => exact ⟨s.ticked, rfl⟩

/-- A coach is resident after the operations of memory if it was before them. -/
theorem Touch.env_isSome {s t : State} (h : Touch s t) (r : CoachRef) : (t.env r).isSome = (s.env r).isSome := by
  have hw : t.wg r.slot = s.wg r.slot := by simp only [State.wg, h.wgs]
  simp only [State.env, hw]
  split
  · rfl
  · split <;> rfl

theorem touch_fetchWord (s : State) (r : CoachRef) (ctx : Nat) (va : DWord) : Touch s (s.fetchWord r ctx va).2 := by
  unfold State.fetchWord
  split
  · next hs1 => exact (touch_translate s _ _ _ _ _).of_eq hs1
  · next x s1 hs1 =>
    have h := ((touch_translate s _ _ _ _ _).of_eq hs1).trans (touch_homeTouch s1 x.pa 4)
    dsimp only
    split <;> exact h

theorem reached_executes {s : State} (h : (s.env s.cur).isSome = true) (e : Env) (cl : Clause) (w : Word) :
    (s.reached e cl w).Executes := by
  unfold State.reached
  split
  · trivial
  · split
    · exact exec_goesOn h
    · trivial

/-- Only a resident coach has a turn that comes to anything, and the fetch of its word leaves it resident. -/
theorem turn_executes (s : State) : (turn s).Executes := by
  have hev : ∀ {op : Instr}, op.isEvent = true → (coachEvent s s.cur op).Executes := fun ho => exec_event_goesOn ho _
  unfold turn
  split
  · trivial
  · next e he =>
    have h : (s.env s.cur).isSome = true := by rw [he]; rfl
    split
    · trivial
    split
    · split
      · trivial
      · exact hev rfl
    split
    · trivial
    split
    · trivial
    split
    · exact hev rfl
    split
    · split
      · exact exec_goesOn h
      · trivial
    · split
      · trivial
      split
      · exact exec_goesOn h
      · exact hev rfl
      · split
        · trivial
        · next hf =>
          have hs := (touch_fetchWord s _ _ _).of_eq hf
          refine reached_executes ?_ _ _ _
          rw [hs.cur, hs.env_isSome, h]

/-- Settles O59: the agenda and the free events are operations of the device (`exec_event_goesOn`), and the turn of a coach comes to
nothing that stops (`turn_executes`). -/
theorem stepNeverStops : Obligations.StepNeverStops := by
  intro s ha
  unfold step
  split
  · next ev rest hs => exact runInstr_goesOn (exec_event_goesOn (ha ev (hs ▸ List.mem_cons_self)) _)
  · split
    · exact runTurn_goesOn (turn_executes _)
    · split
      · exact ⟨s.ticked, rfl⟩
      · split
        · next hev => exact runInstr_goesOn (exec_event_goesOn hev _)
        · exact ⟨s.ticked, rfl⟩

end Sys2Proof.Machine
end

section
namespace Sys2Proof.Machine

/-! Registers and fields of a site beside the one that is written, bits that are set and cleared, and the first least element. -/

/-- A field of a site that what is set leaves as it was, at every site. -/
theorem site_field_setSite {β : Type} (g : Site → β) {s : State} {n : Nat} {x : Site} (h : g x = g (s.site n)) (m : Nat) :
    g ((s.setSite n x).site m) = g (s.site m) := by
  by_cases hm : m = n
  · rw [hm, site_setSite_same, h]
  · rw [site_setSite_ne s x hm]

theorem win_endCmd_other (s : State) (n : Nat) {off o : Nat} (done : DWord) (h : o ≠ off) : (s.endCmd n off done).win n o = s.win n o := by
  simp [State.endCmd, State.setWin, State.win, Table.getD, find_insert_ne _ _ h]

/-- DONE, bit 1 of a command's register, once the command has ended. -/
theorem endCmd_done (s : State) (n off : Nat) : ((s.endCmd n off 2).win n off).getLsbD 1 = true := by
  rw [win_endCmd_same, BitVec.getLsbD_or]
  exact Bool.or_true _

/-- The field of bit 1, cleared. -/
theorem getLsbD_setFld_clear (v : DWord) : (setFld v 1 1 0).getLsbD 1 = false := by
  have := v.isLt
  simp only [setFld, bits, BitVec.getLsbD_ofNat, Nat.testBit_eq_decide_div_mod_eq, Bool.and_eq_false_iff, decide_eq_false_iff_not]
  omega

theorem getLsbD_set {w : Nat} (v : BitVec w) {i : Nat} (h : i < w) : (v ||| BitVec.ofNat w (2 ^ i)).getLsbD i = true := by
  rw [BitVec.getLsbD_or, BitVec.getLsbD_ofNat, Nat.testBit_two_pow_self, decide_eq_true h]
  exact Bool.or_true _

theorem getLsbD_clear {w : Nat} (v : BitVec w) (i : Nat) : (v &&& ~~~BitVec.ofNat w (2 ^ i)).getLsbD i = false := by
  rw [BitVec.getLsbD_and, BitVec.getLsbD_not, BitVec.getLsbD_ofNat, Nat.testBit_two_pow_self]
  by_cases h : i < w
  · simp [h]
  · simp [h]

/-- What the list sorted by a key begins with is the first of its least elements. -/
theorem head?_sortBy {α : Type} (key : α → Nat) (l : List α) : (sortBy key l).head? = l.argmin key := by
  induction l using List.reverseRecOn with
  | nil => rfl
  | append_singleton l a ih =>
    have hs : sortBy key (l ++ [a]) = insertBy key a (sortBy key l) := by simp [sortBy]
    rw [hs, List.argmin_concat, ← ih]
    cases sortBy key l with
    | nil => rfl
    | cons b r =>
      show (insertBy key a (b :: r)).head? = if key a < key b then some a else some b
      unfold insertBy
      split <;> rfl

/-- In a list that rises, the first least element is below every other one as small. -/
theorem argmin_le_of_sorted {key : Nat → Nat} {l : List Nat} (hl : l.Pairwise (· < ·)) {x y : Nat} (hx : x ∈ l.argmin key) (hy : y ∈ l)
    (he : key x = key y) : x ≤ y := by
  have hxl := List.argmin_mem hx
  have hle := List.index_of_argmin hx hy he.ge
  rcases hle.eq_or_lt with h | h
  · exact (List.idxOf_inj hxl |>.mp h).le
  · have := List.pairwise_iff_getElem.mp hl _ _ (List.idxOf_lt_length_iff.mpr hxl) (List.idxOf_lt_length_iff.mpr hy) h
    simpa using this.le

end Sys2Proof.Machine
end

section
namespace Sys2Proof.Machine

/-! Clocks, the sweep and walks (R230, R231, R236, R286). -/

/-- What is done to every site of a list is done to each of them once. -/
theorem site_foldl_setSite (f : Site → Site) {l : List Nat} (hl : l.Nodup) (s : State) (m : Nat) :
    (l.foldl (fun (t : State) n => t.setSite n (f (t.site n))) s).site m = if m ∈ l then f (s.site m) else s.site m := by
  induction l generalizing s with
  | nil => rfl
  | cons n r ih =>
    obtain ⟨hn, hr⟩ := List.nodup_cons.mp hl
    rw [List.foldl_cons, ih hr]
    by_cases hm : m = n
    · subst hm
      simp [hn]
    · simp [hm, site_setSite_ne s _ hm]

/-- Every site's horizon brought up to a clock (R230). -/
def State.spreadClock (s : State) (k : Word) : State :=
  (List.range 64).foldl (fun (t : State) m => t.setSite m { t.site m with h := clkMax (t.site m).h k }) s

theorem spreadClock_h (s : State) (k : Word) {m : Nat} (h : m < 64) : ((s.spreadClock k).site m).h = clkMax (s.site m).h k := by
  have := site_foldl_setSite (fun x => { x with h := clkMax x.h k }) (List.nodup_range (n := 64)) s m
  rw [if_pos (List.mem_range.mpr h)] at this
  exact congrArg Site.h this

theorem sitesOnly_spreadClock (s : State) (k : Word) : SitesOnly s (s.spreadClock k) := by
  unfold State.spreadClock
  refine SitesOnly.foldl (fun t m => ?_) _ s
  rfl

/-- The workgroups of a site that have fallen far behind its horizon, raised (R231). -/
def State.raiseLagging (s : State) (n : Nat) : State :=
  { s with wgs := Table.mapVal (fun slot w => if siteOfSlot slot = n then { w with oclk := raiseLag (s.site n).h w.oclk } else w) s.wgs }

theorem raiseLagging_wg {s : State} {slot : Nat} {w : Workgroup} (n : Nat) (h : Table.find s.wgs slot = some w) : (s.raiseLagging n).wg slot =
    some (if siteOfSlot slot = n then { w with oclk := raiseLag ((s.raiseLagging n).site n).h w.oclk } else w) := by
  rw [State.wg, State.raiseLagging, find_mapVal, h]
  rfl

theorem execHorizonReport_some {s : State} {k : Word} (hk : s.siteClock s.arg.site = some k) :
    exec .horizonReport s = .next ((s.spreadClock k).raiseLagging s.arg.site) := by
  show execHorizonReport s = _
  simp only [execHorizonReport, hk, State.spreadClock, State.raiseLagging]

theorem horizonReport_next {s : State} {k : Word} (hk : s.siteClock s.arg.site = some k) : ∃ t, exec .horizonReport s = .next t ∧
    t.mem = s.mem ∧ (∀ m < 64, (t.site m).h = clkMax (s.site m).h k) ∧ ∀ slot w, s.wg slot = some w → t.wg slot =
      some (if siteOfSlot slot = s.arg.site then { w with oclk := raiseLag (t.site s.arg.site).h w.oclk } else w) := by
  have hmem : (s.spreadClock k).mem = s.mem := by rw [sitesOnly_spreadClock s k]
  have hwgs : (s.spreadClock k).wgs = s.wgs := by rw [sitesOnly_spreadClock s k]
  have hh := fun m => spreadClock_h s k (m := m)
  refine ⟨_, execHorizonReport_some hk, ?_⟩
  generalize s.spreadClock k = u at hmem hwgs hh ⊢
  exact ⟨hmem, hh, fun slot w hw => raiseLagging_wg _ (hwgs ▸ hw)⟩

theorem ageSweep_next (s : State) : ∃ t, exec .ageSweep s = .next t ∧ t.mem = s.mem ∧ ∀ key m, Table.find s.lines key = some m →
    Table.find t.lines key = some (if homeSite (key * 128) = s.arg.site ∧ homeSlice (key * 128) = s.arg.n then
      m.aged (s.site s.arg.site).h else m) := by
  have hx : exec .ageSweep s = execAgeSweep s := rfl
  unfold execAgeSweep at hx
  dsimp only at hx
  split at hx
  · refine ⟨_, hx, rfl, fun key m hm => ?_⟩
    rw [find_mapVal, hm]
    rfl
  · refine ⟨_, hx, rfl, fun key m hm => ?_⟩
    rw [find_mapVal, setSite_lines, hm]
    rfl

theorem pageWalk_next {s : State} (hc : s.arg.core < 2048) (hf : s.fetching s.arg.core s.arg.n s.arg.value = true)
    (ht : tlbFind (s.core s.arg.core).tlb s.arg.n s.arg.value = none)
    (hu : tlbFind (s.site (siteOfCore s.arg.core)).tlb s.arg.n s.arg.value = none) : exec .pageWalk s =
      .next (s.translate (some s.arg.core) (siteOfCore s.arg.core) s.arg.n s.arg.value Need.exec).2 := by
  show execPageWalk s = _
  simp only [execPageWalk, ht, hu]
  rw [if_pos ⟨hc, hf, rfl, rfl⟩]

end Sys2Proof.Machine
end

section
namespace Sys2Proof.Machine

/-! Refresh-exempt regions (R284, R285, R375). -/

theorem length_upFrom (n a : Nat) : (upFrom a n).length = n := by
  induction n generalizing a with
  | zero => rfl
  | succ n ih => rw [upFrom, List.length_cons, ih]

/-- Writing whole lines changes no byte of another line. -/
theorem read_foldl_lines {α : Type} (f : Nat → List Byte) (hf : ∀ k, (f k).length = 128) (l : List (Nat × α)) (m : Memory) {a : Nat}
    (ha : ∀ e ∈ l, a / 128 ≠ e.1) : Memory.read (l.foldl (fun (m : Memory) (e : Nat × α) => Memory.writeN m (128 * e.1) (f e.1)) m) a =
      Memory.read m a := by
  refine List.foldlRecOn (motive := fun u => Memory.read u a = Memory.read m a) l _ rfl fun u hu e he => ?_
  have hne := ha e he
  rw [read_writeN_outside _ _ _ _ (by rw [hf]; omega), hu]

theorem discardRex_drops {s : State} {n i : Nat} (hi : i < 16) (he : (s.site n).expired.getLsbD i = false) :
    ((s.discardRex n i).site n).expired.getLsbD i = true ∧
    (∀ e ∈ (s.discardRex n i).lines, s.inRex n i (128 * e.1) = false ∧ e ∈ s.lines) ∧
    ∀ a, (∀ e ∈ s.lines, s.inRex n i (128 * e.1) = true → a / 128 ≠ e.1) → Memory.read (s.discardRex n i).mem a = Memory.read s.mem a := by
  unfold State.discardRex
  rw [he, if_neg Bool.false_ne_true]
  refine ⟨?_, fun e hmem => ?_, fun a ha => ?_⟩
  · simp only [State.addWin, State.setWin, site_setSite_same]
    exact getLsbD_set _ hi
  · rw [addWin_lines, setSite_lines] at hmem
    obtain ⟨hl, hin⟩ := List.mem_filter.mp hmem
    exact ⟨by simpa using hin, hl⟩
  · refine read_foldl_lines (fun k => (upFrom (128 * k) 128).map (Config.lostByte s.tick))
      (fun k => by rw [List.length_map, length_upFrom]) _ _ fun e hmem => ?_
    obtain ⟨hl, hin⟩ := List.mem_filter.mp hmem
    exact ha e hl hin

theorem rexDeadline_next {s : State} (hn : s.arg.site < 64) (hi : s.arg.n < 16) (hp : s.rexPast s.arg.site s.arg.n = true) :
    exec .rexDeadline s = .next (s.discardRex s.arg.site s.arg.n) := by
  show execRexDeadline s = _
  have hgo : ¬ (s.arg.site ≥ 64 ∨ s.arg.n ≥ 16 ∨ s.rexPast s.arg.site s.arg.n = false) := by
    simp [hp]
    omega
  simp only [execRexDeadline, if_neg hgo]

/-- A command of REXCMD names one of the 16 regions of a site. -/
theorem rexRuns_lt {s : State} {n i cmd : Nat} (h : s.rexRuns n i cmd = true) : i < 16 := by
  unfold State.rexRuns at h
  split at h
  · simp only [Bool.and_eq_true, decide_eq_true_eq] at h
    exact h.1.1.2
  · exact absurd h Bool.false_ne_true

/-- What becomes of a region before a command of REXCMD changes it: it is zeroed when its deadline has passed (R285). -/
def State.settleRex (s : State) (n i : Nat) : State := if s.rexPast n i then s.zeroRex n i else s

theorem settleRex_mem {s : State} {n i : Nat} (h : s.rexPast n i = false) : (s.settleRex n i).mem = s.mem := by
  simp [State.settleRex, h]

/-- The region armed, its deadline in 48 ms (R284). -/
def State.armRex (s u : State) (n i : Nat) : State :=
  (u.setSite n { u.site n with
    armed := (u.site n).armed ||| BitVec.ofNat 16 (2 ^ i), expired := (u.site n).expired &&& ~~~BitVec.ofNat 16 (2 ^ i) }).setWin n
    (offREX i + 16) (s.time n + 48000000)

/-- The region disarmed (R284). -/
def State.disarmRex (u : State) (n i : Nat) : State :=
  u.setSite n { u.site n with
    armed := (u.site n).armed &&& ~~~BitVec.ofNat 16 (2 ^ i), expired := (u.site n).expired &&& ~~~BitVec.ofNat 16 (2 ^ i) }

theorem armRex_rexDone_mem (s u : State) (n i : Nat) : ((s.armRex u n i).rexDone n).mem = u.mem := by
  rw [State.rexDone, endCmd_mem, State.armRex, setWin_mem, setSite_mem]

theorem disarmRex_rexDone_mem (u : State) (n i : Nat) : ((u.disarmRex n i).rexDone n).mem = u.mem := by
  rw [State.rexDone, endCmd_mem, State.disarmRex, setSite_mem]

theorem execArm_accepted {s : State} {n i : Nat} (hn : s.arg.site = n) (hi : s.arg.n = i) (hr : s.rexRuns n i 1 = true)
    (hb : s.rexBase n i % 65536 = 0) (hl : s.rexLen n i % 65536 = 0) (hm : ∀ j < 16, j ≠ i → (s.site n).armed.getLsbD j = true →
      rangesMeet (s.rexBase n i) (s.rexLen n i) (s.rexBase n j) (s.rexLen n j) = false) :
    exec .arm s = .next ((s.armRex (s.settleRex n i) n i).rexDone n) := by
  have hno : ¬ (s.rexBase n i % 65536 ≠ 0 ∨ s.rexLen n i % 65536 ≠ 0 ∨ (List.range 16).any (fun j =>
      j != i && (s.site n).armed.getLsbD j && rangesMeet (s.rexBase n i) (s.rexLen n i) (s.rexBase n j) (s.rexLen n j)) = true) := by
    rintro (h | h | h)
    · exact h hb
    · exact h hl
    · obtain ⟨j, hj, hmeet⟩ := List.any_eq_true.mp h
      simp only [Bool.and_eq_true, bne_iff_ne] at hmeet
      obtain ⟨⟨hne, harm⟩, hmeet⟩ := hmeet
      exact absurd hmeet (by simp [hm j (List.mem_range.mp hj) hne harm])
  show execArm s = _
  simp only [execArm, hn, hi, hr, Bool.not_true, Bool.false_eq_true, if_false, if_neg hno]
  rfl

theorem arm_next {s : State} {n i : Nat} (hn : s.arg.site = n) (hi : s.arg.n = i) (hr : s.rexRuns n i 1 = true)
    (hb : s.rexBase n i % 65536 = 0) (hl : s.rexLen n i % 65536 = 0) (hm : ∀ j < 16, j ≠ i → (s.site n).armed.getLsbD j = true →
      rangesMeet (s.rexBase n i) (s.rexLen n i) (s.rexBase n j) (s.rexLen n j) = false) :
    ∃ t, exec .arm s = .next t ∧ (t.site n).armed.getLsbD i = true ∧ (t.site n).expired.getLsbD i = false ∧
      t.win n (offREX i + 16) = s.time n + 48000000 ∧ (t.win n offREXCMD).getLsbD 1 = true ∧ (s.rexPast n i = false → t.mem = s.mem) := by
  refine ⟨_, execArm_accepted hn hi hr hb hl hm, ?_, ?_, ?_, endCmd_done _ _ _,
    fun hp => (armRex_rexDone_mem s _ n i).trans (settleRex_mem hp)⟩
  · simp only [State.rexDone, State.endCmd, State.armRex, State.setWin, site_setSite_same]
    exact getLsbD_set _ (rexRuns_lt hr)
  · simp only [State.rexDone, State.endCmd, State.armRex, State.setWin, site_setSite_same]
    exact getLsbD_clear _ _
  · rw [State.rexDone, win_endCmd_other _ _ _ (by simp only [offREX, offREXCMD]; omega), State.armRex, win_setWin_same]

theorem execDisarm_runs {s : State} {n i : Nat} (hn : s.arg.site = n) (hi : s.arg.n = i) (hr : s.rexRuns n i 2 = true) :
    exec .disarm s = .next (((s.settleRex n i).disarmRex n i).rexDone n) := by
  show execDisarm s = _
  simp only [execDisarm, hn, hi, hr, Bool.not_true, Bool.false_eq_true, if_false]
  rfl

theorem disarm_next {s : State} {n i : Nat} (hn : s.arg.site = n) (hi : s.arg.n = i) (hr : s.rexRuns n i 2 = true) :
    ∃ t, exec .disarm s = .next t ∧ (t.site n).armed.getLsbD i = false ∧ (t.win n offREXCMD).getLsbD 1 = true ∧
      (s.rexPast n i = false → t.mem = s.mem) := by
  refine ⟨_, execDisarm_runs hn hi hr, ?_, endCmd_done _ _ _, fun hp => (disarmRex_rexDone_mem _ n i).trans (settleRex_mem hp)⟩
  simp only [State.rexDone, State.endCmd, State.disarmRex, State.setWin, site_setSite_same]
  exact getLsbD_clear _ _

end Sys2Proof.Machine
end

section
namespace Sys2Proof.Machine

/-! Invalidation of translations (R287). -/

theorem dropXlate_site_tlb (s : State) (p : TlbEntry → Bool) (ctx : Option Nat) (m : Nat) :
    ((s.dropXlate p ctx).site m).tlb = (s.site m).tlb.filter (fun e => !p e) :=
  congrArg Site.tlb (site_mapVal (f := fun _ x => { x with
    tlb := x.tlb.filter (fun e => !p e)
    walk := x.walk.filter (fun (e : Nat × Nat × Nat × DWord) => match ctx with | some c => !(e.2.1 == c) | none => false) }) rfl rfl)

theorem dropXlate_core_tlb (s : State) (p : TlbEntry → Bool) (ctx : Option Nat) (m : Nat) :
    ((s.dropXlate p ctx).core m).tlb = (s.core m).tlb.filter (fun e => !p e) :=
  congrArg Core.tlb (core_mapVal (f := fun _ c => { c with tlb := c.tlb.filter (fun e => !p e) }) rfl rfl)

theorem dropFrd_site (s : State) (ctx : Option Nat) (m : Nat) : (s.dropFrd ctx).site m = { s.site m with
    frd := (s.site m).frd.filter (fun e => match ctx with | some c => !(e.1 == c) | none => false) } :=
  site_mapVal (f := fun _ x => { x with frd := x.frd.filter (fun e => match ctx with | some c => !(e.1 == c) | none => false) }) rfl rfl

@[simp] theorem dropFrd_core (s : State) (ctx : Option Nat) (m : Nat) : (s.dropFrd ctx).core m = s.core m := rfl

/-! The end of a command of TLBINV touches neither translations nor descriptors, and sets DONE unless pins hold the command. -/

theorem invDone_tlb (s : State) (n : Nat) (held : Bool) (m : Nat) : ((s.invDone n held).site m).tlb = (s.site m).tlb := by
  unfold State.invDone
  split
  · rfl
  · exact endCmd_tlb s n offTLBINV 2 m

theorem endCmd_frd (s : State) (n off : Nat) (done : DWord) (m : Nat) : ((s.endCmd n off done).site m).frd = (s.site m).frd :=
  (site_field_setSite Site.frd (by rfl) m).trans (site_field_setSite Site.frd (by rfl) m)

theorem invDone_frd (s : State) (n : Nat) (held : Bool) (m : Nat) : ((s.invDone n held).site m).frd = (s.site m).frd := by
  unfold State.invDone
  split
  · rfl
  · exact endCmd_frd s n offTLBINV 2 m

@[simp] theorem invDone_core (s : State) (n : Nat) (held : Bool) (m : Nat) : (s.invDone n held).core m = s.core m := by
  unfold State.invDone
  split <;> rfl

theorem invDone_done (s : State) (n : Nat) {held : Bool} (h : held = false) : ((s.invDone n held).win n offTLBINV).getLsbD 1 = true := by
  rw [h]
  exact endCmd_done s n offTLBINV

theorem tlbinvPage_next {s : State} {n : Nat} {v : DWord} (hn : s.arg.site = n) (hv : s.invRuns n 0 = some v) {c va : Nat}
    (hc : fld v 8 8 = c) (hva : v.toNat / 65536 * 65536 = va) : ∃ t, exec .tlbinvPage s = .next t ∧
      (∀ m, ∀ e ∈ (t.site m).tlb, ¬ (e.ctx = c ∧ va / 2 ^ pageShift e.level = e.vpn)) ∧
      (∀ m, ∀ e ∈ (t.core m).tlb, ¬ (e.ctx = c ∧ va / 2 ^ pageShift e.level = e.vpn)) ∧
      (s.pinned (some c) (fun p => va / 2 ^ pageShift p.1 == p.2) = false → (t.win n offTLBINV).getLsbD 1 = true) := by
  refine ⟨(s.dropXlate (fun e => e.ctx == c && va / 2 ^ pageShift e.level == e.vpn) (some c)).invDone n
    (s.pinned (some c) (fun p => va / 2 ^ pageShift p.1 == p.2)), ?_, fun m e he => ?_, fun m e he => ?_, invDone_done _ n⟩
  · show execTlbinvPage s = _
    simp only [execTlbinvPage, hn, hv, hc, hva]
  · rw [invDone_tlb, dropXlate_site_tlb] at he
    simpa [imp_iff_not_or] using (List.mem_filter.mp he).2
  · rw [invDone_core, dropXlate_core_tlb] at he
    simpa [imp_iff_not_or] using (List.mem_filter.mp he).2

theorem tlbinvContext_next {s : State} {n : Nat} {v : DWord} (hn : s.arg.site = n) (hv : s.invRuns n 1 = some v) {c : Nat}
    (hc : fld v 8 8 = c) : ∃ t, exec .tlbinvContext s = .next t ∧
      (∀ m, ∀ e ∈ (t.site m).tlb, e.ctx ≠ c) ∧ (∀ m, ∀ e ∈ (t.core m).tlb, e.ctx ≠ c) ∧ (∀ m, ∀ e ∈ (t.site m).frd, e.1 ≠ c) ∧
      (s.pinned (some c) (fun _ => true) = false → (t.win n offTLBINV).getLsbD 1 = true) := by
  refine ⟨((s.dropXlate (fun e => e.ctx == c) (some c)).dropFrd (some c)).invDone n (s.pinned (some c) (fun _ => true)), ?_,
    fun m e he => ?_, fun m e he => ?_, fun m e he => ?_, invDone_done _ n⟩
  · show execTlbinvContext s = _
    simp only [execTlbinvContext, hn, hv, hc]
  · rw [invDone_tlb, dropFrd_site, dropXlate_site_tlb] at he
    simpa using (List.mem_filter.mp he).2
  · rw [invDone_core, dropFrd_core, dropXlate_core_tlb] at he
    simpa using (List.mem_filter.mp he).2
  · rw [invDone_frd, dropFrd_site] at he
    simpa using (List.mem_filter.mp he).2

theorem tlbinvFrd_next {s : State} {n : Nat} {v : DWord} (hn : s.arg.site = n) (hv : s.invRuns n 2 = some v) {c : Nat}
    (hc : fld v 8 8 = c) : ∃ t, exec .tlbinvFrd s = .next t ∧ (∀ m, ∀ e ∈ (t.site m).frd, e.1 ≠ c) ∧
      (s.pinnedCoded c = false → (t.win n offTLBINV).getLsbD 1 = true) := by
  refine ⟨(s.dropFrd (some c)).invDone n (s.pinnedCoded c), ?_, fun m e he => ?_, invDone_done _ n⟩
  · show execTlbinvFrd s = _
    simp only [execTlbinvFrd, hn, hv, hc]
  · rw [invDone_frd, dropFrd_site] at he
    simpa using (List.mem_filter.mp he).2

theorem tlbinvAll_next {s : State} {n : Nat} {v : DWord} (hn : s.arg.site = n) (hv : s.invRuns n 3 = some v) :
    ∃ t, exec .tlbinvAll s = .next t ∧ (∀ m, (t.site m).tlb = [] ∧ (t.site m).frd = [] ∧ (t.core m).tlb = []) ∧
      (s.pinned none (fun _ => true) = false → (t.win n offTLBINV).getLsbD 1 = true) := by
  refine ⟨((s.dropXlate (fun _ => true) none).dropFrd none).invDone n (s.pinned none (fun _ => true)), ?_,
    fun m => ⟨?_, ?_, ?_⟩, invDone_done _ n⟩
  · show execTlbinvAll s = _
    simp only [execTlbinvAll, hn, hv]
  · rw [invDone_tlb, dropFrd_site]
    exact (dropXlate_tlb s m).2
  · rw [invDone_frd, dropFrd_site]
    exact List.filter_eq_nil_iff.mpr fun _ _ => Bool.false_ne_true
  · rw [invDone_core, dropFrd_core]
    exact (dropXlate_tlb s m).1

theorem registerWrite_next {s : State} (hn : s.arg.site < 64) (hpa : s.arg.pa % 8 = 0) (hlt : s.arg.pa < 2 ^ 44) :
    exec .registerWrite s = .next (Ssc.write s s.arg.site s.arg.pa s.arg.value) := by
  show execRegisterWrite s = _
  rw [execRegisterWrite, if_pos ⟨hn, hpa, hlt⟩]

end Sys2Proof.Machine
end

section
namespace Sys2Proof.Machine

/-! What an entry of the event log, and the state of a deck, leave as they were: the cores and the units under test (R380). -/

/-- `t` has the cores of `s`, and the same units under test. -/
def SameUnits (s t : State) : Prop := t.cores = s.cores ∧ ∀ m, (t.site m).testing = (s.site m).testing

theorem SameUnits.refl (s : State) : SameUnits s s := ⟨rfl, fun _ => rfl⟩

theorem SameUnits.trans {s t u : State} (h : SameUnits s t) (g : SameUnits t u) : SameUnits s u :=
  ⟨g.1.trans h.1, fun m => (g.2 m).trans (h.2 m)⟩

theorem SameUnits.foldl {α : Type} {f : State → α → State} (hf : ∀ t a, SameUnits t (f t a)) (l : List α) (s : State) :
    SameUnits s (l.foldl f s) :=
  List.foldlRecOn (motive := SameUnits s) l f (.refl s) fun t ht a _ => ht.trans (hf t a)

/-- Other fields of a site are set. -/
theorem sameUnits_setSite {s : State} {n : Nat} {x : Site} (h : x.testing = (s.site n).testing) : SameUnits s (s.setSite n x) :=
  ⟨rfl, site_field_setSite Site.testing h⟩

theorem sameUnits_setWin (s : State) (n off : Nat) (v : DWord) : SameUnits s (s.setWin n off v) := sameUnits_setSite rfl

theorem sameUnits_raiseFloor (s : State) (k : Word) : SameUnits s (s.raiseFloor k) := by
  unfold State.raiseFloor
  refine SameUnits.foldl (fun t n => ?_) _ s
  exact sameUnits_setSite rfl

theorem sameUnits_touchLine (s : State) (pa : Nat) : SameUnits s (s.touchLine pa) := by
  unfold State.touchLine
  dsimp only
  split
  · exact .refl s
  split
  · exact .refl s
  split
  · exact .refl s
  split
  · exact .refl s
  · have hfloor : ∀ (c : Prop) [Decidable c] (u : State) (k : Word), SameUnits u (if c then u.raiseFloor k else u) := fun c _ u k => by
      split
      · exact sameUnits_raiseFloor u k
      · exact .refl u
    exact (sameUnits_setWin s _ _ _).trans (hfloor _ _ _)

theorem sameUnits_homeTouch (s : State) (pa n : Nat) : SameUnits s (s.homeTouch pa n) := by
  unfold State.homeTouch
  split
  · exact SameUnits.foldl (fun t _ => sameUnits_touchLine t _) _ s
  · exact .refl s

theorem sameUnits_doubtQcbs (s : State) (pa n : Nat) : SameUnits s (s.doubtQcbs pa n) := by
  unfold State.doubtQcbs
  refine SameUnits.foldl (fun t x => ?_) _ s
  split
  · exact sameUnits_setSite rfl
  · exact .refl t

theorem sameUnits_dropSharers (s : State) (pa n : Nat) : SameUnits s (s.dropSharers pa n) := by
  unfold State.dropSharers
  refine SameUnits.foldl (fun t line => ?_) _ s
  split
  · split <;> exact .refl t
  · exact .refl t

theorem sameUnits_fireMonitors (s : State) (pa n : Nat) : SameUnits s (s.fireMonitors pa n) := by
  unfold State.fireMonitors
  refine SameUnits.foldl (fun t x => ?_) _ s
  split
  · exact sameUnits_setSite (s := t) (n := x.1) rfl
  · exact .refl t

theorem sameUnits_homeWrite (s : State) (pa : Nat) (bs : List Byte) : SameUnits s (s.homeWrite pa bs) := by
  unfold State.homeWrite
  refine SameUnits.trans (SameUnits.trans (SameUnits.trans (sameUnits_homeTouch s pa bs.length) ?_) (sameUnits_dropSharers _ _ _))
    (sameUnits_fireMonitors _ _ _)
  exact sameUnits_doubtQcbs { s.homeTouch pa bs.length with mem := _, poison := _ } pa bs.length

theorem sameUnits_logEvent (s : State) (n kind cls unit result addr : Nat) : SameUnits s (s.logEvent n kind cls unit result addr) :=
  (sameUnits_homeWrite s _ _).trans (sameUnits_setWin _ _ _ _)

theorem sameUnits_putDeck (s : State) (core d v : Nat) : SameUnits s (s.putDeck core d v) := by
  unfold State.putDeck
  dsimp only
  split
  · exact sameUnits_logEvent s _ _ _ _ _ _
  split
  · exact .refl s
  · exact (sameUnits_setWin s _ _ _).trans (sameUnits_logEvent _ _ _ _ _ _ _)

/-- A deck that no open batch uses fails alone: no batch ends with it. -/
theorem loseDeck_of_closed {s : State} {core d : Nat} (h : (s.core core).deckOpen d = false) (v : Nat) : s.loseDeck core d v =
    (s.setCore core { s.core core with pendDecks := Table.erase (s.core core).pendDecks d }).putDeck core d v := by
  have hnone : (s.core core).batches.filter (fun b => !b.closed && b.fixed && b.decks.getLsbD d && !b.err) = [] := by
    rw [List.filter_eq_nil_iff]
    intro b hb hopen
    rw [Bool.and_eq_true] at hopen
    exact absurd hopen.1 (List.any_eq_false.mp h b hb)
  rw [State.loseDeck, hnone]
  rfl

/-- So the units under test stay as they were. -/
theorem loseDeck_testing {s : State} {core d : Nat} (h : (s.core core).deckOpen d = false) (v m : Nat) :
    ((s.loseDeck core d v).site m).testing = (s.site m).testing := by
  rw [loseDeck_of_closed h]
  exact (sameUnits_putDeck _ core d v).2 m

/-! Errors and self-tests (R380). -/

theorem eccHere_of {s : State} (h5 : s.arg.m ≤ 5) (h1 : s.arg.m ≤ 1 → paSpace s.arg.pa ≤ 1 ∧ homeSite s.arg.pa = s.arg.site)
    (h2 : s.arg.m = 2 → siteOfCore s.arg.core = s.arg.site ∧ (Buf.ofKind s.arg.k).isSome = true) : s.eccHere = true := by
  unfold State.eccHere
  dsimp only
  split
  · next h => exact decide_eq_true (h1 (by omega))
  · next h => exact decide_eq_true (h1 (by omega))
  · next h =>
    obtain ⟨hcore, hbuf⟩ := h2 h
    rw [hbuf, Bool.and_true]
    exact decide_eq_true hcore
  · exact decide_eq_true h5

/-- A unit of a site comes under test, if it is not yet (R380). -/
def State.beginTest (s : State) (n : Nat) (u : Nat × Nat) : State :=
  if (s.site n).testing.contains u then s else s.setSite n { s.site n with testing := (s.site n).testing ++ [u] }

theorem beginTest_testing (s : State) (n : Nat) (u : Nat × Nat) : ((s.beginTest n u).site n).testing.contains u = true := by
  unfold State.beginTest
  split
  · assumption
  · rw [site_setSite_same]
    simp

/-- What an error of kind 2 leaves of the 16 bytes it has met, in memory or in a buffer (R270, R380). -/
def State.spoil (s : State) (a : EvArgs) : State :=
  if a.n = 2 ∧ a.m ≤ 1 ∧ s.poison.contains (a.pa / 16) = false then { s with poison := s.poison ++ [a.pa / 16] }
  else if a.n = 2 ∧ a.m = 2 then
    let c := s.core a.core
    s.setCore a.core { c with bad := if c.bad.contains (a.k, a.pa / 16) then c.bad else c.bad ++ [(a.k, a.pa / 16)] }
  else s

theorem spoil_site (s : State) (a : EvArgs) (n : Nat) : (s.spoil a).site n = s.site n := by
  unfold State.spoil
  split
  · rfl
  · split <;> rfl

theorem spoil_memory (s : State) {a : EvArgs} (hn : a.n = 2) (hm : a.m ≤ 1) : (s.spoil a).poison.contains (a.pa / 16) = true := by
  unfold State.spoil
  split
  · simp
  · next h =>
    have hp : s.poison.contains (a.pa / 16) = true := by
      rw [← Bool.not_eq_false]
      exact fun hf => h ⟨hn, hm, hf⟩
    split <;> exact hp

theorem spoil_buffer (s : State) {a : EvArgs} (hn : a.n = 2) (hm : a.m = 2) :
    ((s.spoil a).core a.core).bad.contains (a.k, a.pa / 16) = true := by
  unfold State.spoil
  rw [if_neg (by omega), if_pos ⟨hn, hm⟩, core_setCore_same]
  dsimp only
  split
  · assumption
  · simp

theorem execEccSelfTest_here {s : State} (hn : s.arg.site < 64) (h1 : 1 ≤ s.arg.n) (h3 : s.arg.n ≤ 3) (hh : s.eccHere = true) :
    exec .eccSelfTest s = .next (((s.logEvent s.arg.site s.arg.n s.arg.m s.eccUnit 0 (if s.arg.m ≤ 1 then s.arg.pa else 0)).beginTest s.arg.site
      (s.arg.m, s.eccUnit)).spoil s.arg) := by
  have hgo : ¬ (s.arg.site ≥ 64 ∨ s.arg.n < 1 ∨ s.arg.n > 3 ∨ s.eccHere = false) := by
    simp [hh]
    omega
  show execEccSelfTest s = _
  simp only [execEccSelfTest, if_neg hgo, State.spoil, State.beginTest]

theorem eccSelfTest_next {s : State} (hn : s.arg.site < 64) (h1 : 1 ≤ s.arg.n) (h3 : s.arg.n ≤ 3) (hh : s.eccHere = true) :
    ∃ t, exec .eccSelfTest s = .next t ∧ (t.site s.arg.site).testing.contains (s.arg.m, s.eccUnit) = true ∧
      (s.arg.n = 2 → s.arg.m ≤ 1 → t.poison.contains (s.arg.pa / 16) = true) ∧
      (s.arg.n = 2 → s.arg.m = 2 → (t.core s.arg.core).bad.contains (s.arg.k, s.arg.pa / 16) = true) := by
  refine ⟨_, execEccSelfTest_here hn h1 h3 hh, ?_, spoil_memory _, spoil_buffer _⟩
  rw [spoil_site]
  exact beginTest_testing _ _ _

/-- A unit of a site leaves its test, with the entry of its result (R380). -/
def State.endTest (s : State) (n : Nat) (u : Nat × Nat) (result : Nat) : State :=
  (s.setSite n { s.site n with testing := (s.site n).testing.filter (fun t => !(t == u)) }).logEvent n evSelfTest u.1 u.2 result 0

theorem endTest_testing (s : State) (n : Nat) (u : Nat × Nat) (result : Nat) :
    ((s.endTest n u result).site n).testing = (s.site n).testing.filter (fun t => !(t == u)) := by
  rw [State.endTest, (sameUnits_logEvent _ _ _ _ _ _ _).2, site_setSite_same]

theorem endTest_core (s : State) (n : Nat) (u : Nat × Nat) (result c : Nat) : (s.endTest n u result).core c = s.core c := by
  rw [State.endTest, State.core, (sameUnits_logEvent _ _ _ _ _ _ _).1]
  rfl

/-- The test of a unit ends at once, but for a deck that an open batch uses; a LASTING deck is lost with it. -/
theorem execTargetedSelfTestEnd_ends {s : State} {n : Nat} (hn : s.arg.site = n) (hlt : n < 64)
    (ht : (s.site n).testing.contains (s.arg.m, s.arg.p) = true)
    (ho : s.arg.m = 4 → (s.core (32 * n + s.arg.p / 4 % 32)).deckOpen (s.arg.p % 4) = false) : exec .targetedSelfTestEnd s = .next
      (if s.arg.m = 4 && s.arg.ok then
        (s.endTest n (s.arg.m, s.arg.p) (if s.arg.ok then 2 else 1)).loseDeck (32 * n + s.arg.p / 4 % 32) (s.arg.p % 4) 2
      else s.endTest n (s.arg.m, s.arg.p) (if s.arg.ok then 2 else 1)) := by
  have hgo : ¬ (n ≥ 64 ∨ (s.site n).testing.contains (s.arg.m, s.arg.p) = false) := by
    rw [ht]
    simpa using hlt
  have hfree : ¬ (s.arg.m = 4 ∧ (s.core (32 * n + s.arg.p / 4 % 32)).deckOpen (s.arg.p % 4) = true) := fun h => by
    simp [ho h.1] at h
  show execTargetedSelfTestEnd s = _
  unfold execTargetedSelfTestEnd
  dsimp only
  rw [hn, if_neg hgo, if_neg hfree]
  rfl

theorem targetedSelfTestEnd_next {s : State} {n : Nat} (hn : s.arg.site = n) (hlt : n < 64)
    (ht : (s.site n).testing.contains (s.arg.m, s.arg.p) = true)
    (ho : s.arg.m = 4 → (s.core (32 * n + s.arg.p / 4 % 32)).deckOpen (s.arg.p % 4) = false) :
    ∃ t, exec .targetedSelfTestEnd s = .next t ∧ (t.site n).testing.contains (s.arg.m, s.arg.p) = false := by
  refine ⟨_, execTargetedSelfTestEnd_ends hn hlt ht ho, ?_⟩
  have hout : ((s.endTest n (s.arg.m, s.arg.p) (if s.arg.ok then 2 else 1)).site n).testing.contains (s.arg.m, s.arg.p) = false := by
    rw [endTest_testing]
    simp
  split
  · next h =>
    rw [Bool.and_eq_true, decide_eq_true_eq] at h
    rw [loseDeck_testing (by rw [endTest_core, ho h.1]), hout]
  · exact hout

/-! The evacuation of a bank and its return (R271, R367). -/

/-- The layer that is chosen has a free spare, and no other with one is cooler, or as cool and lower. -/
theorem coolestLayer_some {spare : Table Nat} {reads : List Word} {l : Nat} (h : coolestLayer spare reads = some l) :
    l < 8 ∧ Table.find spare l = none ∧ ∀ j < 8, Table.find spare j = none →
      (reads.getD l 0).toNat ≤ (reads.getD j 0).toNat ∧ ((reads.getD l 0).toNat = (reads.getD j 0).toNat → l ≤ j) := by
  rw [coolestLayer, head?_sortBy] at h
  have hmem : ∀ j, j ∈ (List.range 8).filter (fun l => (Table.find spare l).isNone) ↔ j < 8 ∧ Table.find spare j = none := fun j => by
    simp
  obtain ⟨hlt, hfree⟩ := (hmem l).mp (List.argmin_mem h)
  refine ⟨hlt, hfree, fun j hj hjf => ?_⟩
  have hjm := (hmem j).mpr ⟨hj, hjf⟩
  exact ⟨List.le_of_mem_argmin (f := fun l => (reads.getD l 0).toNat) hjm h, argmin_le_of_sorted (List.pairwise_lt_range.filter _) h hjm⟩

/-- The evacuation of a bank to the spare of a layer begins (R367). -/
def State.beginEvac (s : State) (n bank layer : Nat) : State :=
  (s.setSite n { s.site n with evac := some { bank := bank, layer := layer, chunk := 0 } }).setWin n offEVACCTL
    (setFld (s.win n offEVACCTL) 1 1 0)

theorem execDramEvacuate_begins {s : State} {n i l : Nat} (hn : s.arg.site = n) (hi : s.arg.n = i) (hlt : n < 64) (hi128 : i < 128)
    (hhot : s.tDram n ≤ s.arg.value.toNat) (hsp : (s.site n).spare.any (fun e => e.2 == i) = false) (hpol : s.epol.getLsbD 3 = true)
    (hev : (s.site n).evac = none) (hdone : (s.win n offEVACCTL).getLsbD 1 = true)
    (hl : coolestLayer (s.site n).spare s.arg.words = some l) (hex : s.bankExempt n i = false) :
    exec .dramEvacuate s = .next (s.beginEvac n i l) := by
  have hgo : ¬ (n ≥ 64 ∨ i ≥ 128 ∨ s.arg.value.toNat < s.tDram n ∨ (s.site n).spare.any (fun e => e.2 == i) = true ∨
      (s.site n).evac.any (fun e => e.bank == i) = true) := by
    rw [hsp, hev]
    simp only [Option.any_none, Bool.false_eq_true, or_false]
    omega
  have hall : (s.epol.getLsbD 3 && (s.win n offEVACCTL).getLsbD 1 && (s.site n).evac.isNone && !s.bankExempt n i) = true := by
    rw [hpol, hdone, hev, hex]
    rfl
  show execDramEvacuate s = _
  unfold execDramEvacuate
  dsimp only
  rw [hn, hi, if_neg hgo, hl]
  dsimp only
  rw [if_pos hall]
  rfl

theorem beginEvac_fields (s : State) (n bank layer : Nat) :
    ((s.beginEvac n bank layer).site n).evac = some { bank := bank, layer := layer, chunk := 0 } ∧
    ((s.beginEvac n bank layer).site n).spare = (s.site n).spare ∧ ((s.beginEvac n bank layer).win n offEVACCTL).getLsbD 1 = false ∧
    (s.beginEvac n bank layer).mem = s.mem := by
  unfold State.beginEvac
  refine ⟨?_, ?_, ?_, rfl⟩
  · simp only [State.setWin, site_setSite_same]
  · simp only [State.setWin, site_setSite_same]
  · rw [win_setWin_same]
    exact getLsbD_setFld_clear _

theorem back_next {s : State} {n : Nat} {v : DWord} (hn : s.arg.site = n) (hv : s.cmd n offEVACCTL = some v) :
    ∃ t, exec .back s = .next t ∧ (t.win n offEVACCTL).getLsbD 1 = true ∧ ∀ e ∈ (t.site n).spare, e.2 ≠ fld v 4 8 := by
  refine ⟨(s.setSite n { s.site n with spare := (s.site n).spare.filter (fun e => !(e.2 == fld v 4 8)) }).endCmd n offEVACCTL 2, ?_,
    endCmd_done _ _ _, fun e he => ?_⟩
  · show execBack s = _
    simp only [execBack, hn, hv]
  · simp only [State.endCmd, State.setWin, site_setSite_same] at he
    simpa using (List.mem_filter.mp he).2

end Sys2Proof.Machine
end

section
namespace Sys2Proof.Machine

/-- Settles O47: one lemma for each event, in the order of the claim. -/
theorem upkeepEvents : Obligations.UpkeepEvents := by
  intro s n i
  refine ⟨fun k hk _ => horizonReport_next hk, ageSweep_next s, fun hc hf ht hu => pageWalk_next hc hf ht hu,
    fun hn hi hp he => ⟨_, rexDeadline_next hn hi hp, discardRex_drops hi he⟩,
    fun hr hb hl hm => arm_next rfl rfl hr hb hl hm, fun hr => disarm_next rfl rfl hr, fun v => ?_,
    fun hn hpa hlt => registerWrite_next hn hpa hlt, fun hn h1 h3 h5 hmem hbuf => eccSelfTest_next hn h1 h3 (eccHere_of h5 hmem hbuf),
    fun hn ht ho => targetedSelfTestEnd_next rfl hn ht ho, fun l hn hi hhot hsp hpol hev hdone hl hex => ?_,
    fun v _ hv => back_next rfl hv⟩
  · exact ⟨fun hv => tlbinvPage_next rfl hv rfl rfl, fun hv => tlbinvContext_next rfl hv rfl, fun hv => tlbinvFrd_next rfl hv rfl,
      fun hv => tlbinvAll_next rfl hv⟩
  · exact ⟨coolestLayer_some hl, _, execDramEvacuate_begins rfl rfl hn hi hhot hsp hpol hev hdone hl hex, beginEvac_fields s n i l⟩

end Sys2Proof.Machine
end

section
namespace Sys2Proof.Machine

/-! Taking a trap in a coach outside its handler (R245-R248). -/

theorem wg_setWg_ne (s : State) {n m : Nat} (h : m ≠ n) (w : Workgroup) : (s.setWg n w).wg m = s.wg m :=
  find_insert_ne _ _ h

/-- A coach's change is seen by no other coach. -/
theorem coach_setCoach_ne (s : State) {r q : CoachRef} (h : q ≠ r) (c : Coach) : (s.setCoach r c).coach q = s.coach q := by
  unfold State.setCoach
  split
  · rfl
  · next w hw =>
    by_cases hs : q.slot = r.slot
    · have hk : q.k ≠ r.k := fun hk => h (by cases q; cases r; simp_all)
      simp only [State.coach, hs, wg_setWg_same, hw, Option.bind_some, Workgroup.coach, Workgroup.setCoach]
      exact find_insert_ne _ _ hk
    · simp only [State.coach, wg_setWg_ne s hs]

theorem mem_setCoach (s : State) (r : CoachRef) (c : Coach) : (s.setCoach r c).mem = s.mem := by
  unfold State.setCoach
  split <;> rfl

/-- The handler's address is read in the state that holds the frame, and the elected thread goes on there. -/
theorem formFrame_handled {s s2 : State} {r : CoachRef} {w : Workgroup} {c : Coach} (hw : s.wg r.slot = some w) (hc : s.coach r = some c)
    {cause : Cause} (hsys : causeSystem cause = false) {addr : DWord} {tmask : Mask} {entries : List ReplayEntry} {tpc : DWord}
    {clause : Option Clause} {h : DWord} (async : Bool)
    (hh : (s.setCoach r (c.framed cause addr tmask entries tpc clause)).handler (siteOfSlot r.slot) w.ctx cause = (some h, s2)) :
    s.formFrame r cause addr tmask entries tpc clause async =
      s2.setCoach r ((c.framed cause addr tmask entries tpc clause).enterHandler w.threads h async) := by
  have h2 : s2.coach r = some (c.framed cause addr tmask entries tpc clause) :=
    ((touch_handler _ _ _ _).of_eq hh).coach r |>.trans (coach_setCoach_same hw _)
  unfold Coach.framed at *
  simp only [State.formFrame, hw, hc, hsys, Bool.false_eq_true, if_false, hh, modCoach_of_coach h2]

/-- A trap that its coach takes at once, by a handler of its context. -/
theorem takeTrap_enters {s s2 : State} {r : CoachRef} {w : Workgroup} {c : Coach} (hw : s.wg r.slot = some w) (hc : s.coach r = some c)
    (hf : c.frame = none) (he : c.flights.any Flight.entry = false) {cause : Cause} (hsys : causeSystem cause = false) {addr : DWord}
    {tmask : Mask} {entries : List ReplayEntry} {tpc : DWord} {clause : Option Clause} {h : DWord}
    (hh : (s.setCoach r (c.framed cause addr tmask entries tpc clause)).handler (siteOfSlot r.slot) w.ctx cause = (some h, s2)) :
    let t := s.takeTrap r cause addr tmask entries tpc clause
    t.coach r = some ((c.framed cause addr tmask entries tpc clause).enterHandler w.threads h false) ∧ t.mem = s2.mem ∧
      ∀ q, q ≠ r → t.coach q = s2.coach q := by
  have h2 : s2.coach r = some (c.framed cause addr tmask entries tpc clause) :=
    ((touch_handler _ _ _ _).of_eq hh).coach r |>.trans (coach_setCoach_same hw _)
  obtain ⟨w2, hw2, -⟩ := wg_of_coach h2
  rw [takeTrap_forms hc hf he, formFrame_handled hw hc hsys false hh]
  exact ⟨coach_setCoach_same hw2 _, mem_setCoach _ _ _, fun q hq => coach_setCoach_ne _ hq _⟩

/-! An instruction that is held back, or is to perform later (R246). -/

theorem raiseFlag_same (c : Coach) (f : Option Nat) : c.raiseFlag f = { c with flags := (c.raiseFlag f).flags } := by
  cases f <;> rfl

theorem advance_pc_clause {c d : Coach} (e : Env) (hpc : d.pc = c.pc) (hcl : d.clause = c.clause) :
    ((d.advance e).pc, (d.advance e).clause) = ((c.advance e).pc, (c.advance e).clause) := by
  unfold Coach.advance
  split <;> simp only [hpc, hcl]

/-- An instruction whose issue is not refused and which is not to perform now goes into flight. -/
theorem issue_holds {i : Instr} {s : State} {e0 : Env} (h0 : s.env s.cur = some e0)
    (hc : wordCause (e0.holding i) (s.grid e0.wg.gid) (s.privileged e0.site e0.ctx) i = none) (ha : e0.active ≠ 0)
    (hst : issueStalls (e0.holding i) i s = false) {k : FlightKind}
    (hk : (k = .held ∧ heldBack (e0.holding i) i s = true) ∨
      (k = .late ∧ heldBack (e0.holding i) i s = false ∧ issuesLate (e0.holding i) i s = true)) (body : Env → State → State) :
    issue i s body = .next (hold (e0.holding i) i k e0.active s) := by
  simp only [issue, h0, holding_wg, holding_active, show (e0.holding i).site = e0.site from rfl, show (e0.holding i).ctx = e0.ctx from rfl,
    hc, if_neg ha, hst]
  rcases hk with ⟨rfl, hb⟩ | ⟨rfl, hb, hl⟩
  · simp [hb]
  · simp [hb, hl]

/-- What such an instruction keeps: its word, its threads and its flag in an entry that is PENDING. -/
theorem hold_keeps {e : Env} {s : State} (h : s.coach e.ref = some e.c) (hr : e.replay = none) {i : Instr} (hw : (encode i).isSome = true)
    (k : FlightKind) (m : Mask) :
    ∃ c fl en, hold e i k m s = s.setCoach e.ref c ∧ c.v = e.c.v ∧ c.s = e.c.s ∧ c.p = e.c.p ∧ c.exec = e.c.exec ∧
      c.flights = e.c.flights ++ [fl] ∧ fl.kind = k ∧ fl.rep = some en ∧ en.status = 0 ∧ en.mask = m ∧
      some en.word = encode i ∧ en.flag = e.flagOf i ∧ c.flags = (e.c.raiseFlag (e.flagOf i)).flags ∧
      (c.pc, c.clause) = ((e.c.advance e).pc, (e.c.advance e).clause) := by
  obtain ⟨word, hword⟩ := Option.isSome_iff_exists.mp hw
  unfold hold
  rw [modCoach_of_coach h, raiseFlag_same]
  refine ⟨_, _, _, rfl, advance_v _ _, advance_s _ _, advance_p _ _, advance_exec _ _, advance_flights _ _, rfl, rfl, ?_, ?_, ?_, ?_,
    advance_flags _ _, advance_pc_clause _ rfl rfl⟩ <;> simp [capture, hr, hword]

/-! The cause of an operation in flight arrives (R246, R247). -/

/-- A running coach has no wait to cancel. -/
theorem cancelWait_running {s : State} {r : CoachRef} {e : Env} (h : s.env r = some e) (hs : e.c.state = .runnable)
    (hw : e.c.woken = false) : s.cancelWait r = s := by
  simp [State.cancelWait, h, hs, hw, CoachState.waits]

theorem flightEntries_snd (fs : List Flight) : (flightEntries fs).map Prod.snd = fs.filterMap Flight.rep := by
  rw [flightEntries, List.map_filterMap]
  congr 1
  funext f
  cases f.rep <;> rfl

/-- Every younger operation gives up its entry with the one whose cause arrives. -/
def Flight.behind (f g : Flight) : Prop := f.id < g.id ∧ g.back = true ∧ g.rep.isSome = true

theorem entry_of_back {g : Flight} (h : g.back = true) : g.entry = true := (Bool.and_eq_true_iff.mp h).1

theorem younger_filter {f : Flight} {rest : List Flight} (h : ∀ g ∈ rest, f.behind g) :
    (f :: rest).filter (fun g => decide (f.id < g.id) && g.entry && g.rep.isSome) = rest := by
  rw [List.filter_cons_of_neg (by simp), List.filter_eq_self]
  exact fun g hg => by simp [(h g hg).1, entry_of_back (h g hg).2.1, (h g hg).2.2]

theorem remaining_filter {f : Flight} {rest : List Flight} (h : ∀ g ∈ rest, f.behind g) :
    (f :: rest).filter (fun g => g.id != f.id && !(decide (f.id < g.id) && g.entry && g.rep.isSome)) = [] := by
  rw [List.filter_cons_of_neg (by simp), List.filter_eq_nil_iff]
  exact fun g hg => by simp [(h g hg).1, entry_of_back (h g hg).2.1, (h g hg).2.2]

theorem not_olderBack {c : Coach} {f : Flight} {rest : List Flight} (hc : c.flights = f :: rest) (h : ∀ g ∈ rest, f.behind g) :
    c.olderBack f.id = false := by
  simp only [Coach.olderBack, hc, List.any_cons, Nat.lt_irrefl, decide_false, Bool.and_false, Bool.false_or, List.any_eq_false]
  exact fun g hg => by simp [(h g hg).1.le]

/-- The cause of the oldest operation in flight forms the frame: its entry comes first, FAULTED, and those of the others follow. -/
theorem flightTrap_forms {s : State} {r : CoachRef} {e : Env} (he : s.env r = some e) (hs : e.c.state = .runnable)
    (hw : e.c.woken = false) (hp : e.c.pendTrap = none) (hf : e.c.frame = none) {f : Flight} {rest : List Flight}
    (hfl : e.c.flights = f :: rest) (hq : e.c.rq = []) {cause : Cause} {addr : DWord} {tmask : Mask}
    (hk : f.kind = .raised cause addr tmask) {en : ReplayEntry} (hen : f.rep = some en) (hr : ∀ g ∈ rest, f.behind g) :
    let c1 : Coach := { e.c with flights := [] }
    s.flightTrap r f.id cause addr = (s.setCoach r c1).formFrame r cause addr tmask
      ({ en with status := 1, faddr := addr, cause := cause } :: rest.filterMap Flight.rep) c1.resumePoint.1 c1.resumePoint.2 false := by
  obtain ⟨-, hwg, -, hc⟩ := env_coach he
  intro c1
  have hfind : (f :: rest).find? (fun g => g.id == f.id) = some f := by simp
  rw [← flightEntries_snd, ← takeTrap_forms (coach_setCoach_same hwg c1) hf rfl]
  simp only [State.flightTrap, cancelWait_running he hs hw, hc, hfl, hfind, hen, hk, hp, younger_filter hr, remaining_filter hr,
    hq, numbered, inOrder, List.map_nil, List.foldl_nil, c1]

theorem operationComplete_raised {s : State} {e : Env} (he : s.env (argCoach s) = some e) (hs : e.c.state = .runnable)
    (hw : e.c.woken = false) (hp : e.c.pendTrap = none) (hf : e.c.frame = none) {f : Flight} {rest : List Flight}
    (hfl : e.c.flights = f :: rest) (hq : e.c.rq = []) (hid : f.id = s.arg.id) {cause : Cause} {addr : DWord} {tmask : Mask}
    (hk : f.kind = .raised cause addr tmask) {en : ReplayEntry} (hen : f.rep = some en) (hr : ∀ g ∈ rest, f.behind g) :
    let c1 : Coach := { e.c with flights := [] }
    exec .operationComplete s = .next ((s.setCoach (argCoach s) c1).formFrame (argCoach s) cause addr tmask
      ({ en with status := 1, faddr := addr, cause := cause } :: rest.filterMap Flight.rep) c1.resumePoint.1 c1.resumePoint.2 false) := by
  obtain ⟨-, -, -, hc⟩ := env_coach he
  intro c1
  have hfind : e.c.flights.find? (fun f => f.id == s.arg.id) = some f := by simp [hfl, hid]
  have hempty : e.c.rq.isEmpty = true := by simp [hq]
  show execOperationComplete s = _
  simp only [execOperationComplete, hc, hfind, hk, not_olderBack hfl hr, hempty, Bool.not_false, Bool.and_self, if_true]
  rw [flightTrap_forms he hs hw hp hf hfl hq hk hen hr]

/-- Settles O27: a trap that its coach takes at once, an instruction held back or late, and the arrival of a cause. -/
theorem trapEntry : Obligations.TrapEntry := by
  refine ⟨fun s s2 r w c cause addr tmask entries tpc clause h hw hc hf he hsys => takeTrap_enters hw hc hf he hsys,
    fun m a b q i hi s e e0 h0 he hr hcause ha hst k hk => ?_,
    fun s e f en cause addr tmask rest he hs hw hp hf hfl hq hid hk hen hr =>
      operationComplete_raised he hs hw hp hf hfl hq hid hk hen hr⟩
  subst he
  have hi' : i.isEvent = false ∧ (encode i).isSome = true := by
    simp only [List.mem_cons, List.not_mem_nil, or_false] at hi
    rcases hi with rfl | rfl | rfl | rfl | rfl | rfl | rfl | rfl <;> exact ⟨rfl, rfl⟩
  obtain ⟨body, hbody⟩ := exec_issues hi'.1 s
  obtain ⟨href, -, -, hcoach⟩ := env_coach h0
  obtain ⟨c, fl, en, hold, hkeeps⟩ := hold_keeps (e := e0.holding i) (href ▸ hcoach) hr hi'.2 k e0.active
  refine ⟨c, fl, en, ?_, hkeeps⟩
  rw [hbody, issue_holds h0 hcause ha hst hk, hold]
  exact congrArg (fun r => Host.Outcome.next (s.setCoach r c)) href

end Sys2Proof.Machine
end

section
namespace Sys2Proof.Machine

/-! The launch of grids and the end of a grid (R290-R293, R296-R298). -/

/-- Whatever becomes of its completion record, a grid whose workgroups have all retired goes, and with it its barrier slots. -/
theorem gridCompletion_next {s : State} {g : Grid} (hg : s.grid s.arg.id = some g) (hr : g.count ≤ g.retired) :
    ∃ t, exec .gridCompletion s = .next t ∧ t.grid s.arg.id = none ∧ ∀ x ∈ t.given, x.2.2.1 ≠ s.arg.id := by
  show ∃ t, execGridCompletion s = .next t ∧ _
  simp only [execGridCompletion, hg, if_neg (Nat.not_lt.mpr hr)]
  exact ⟨_, rfl, find_erase_same _ _, fun x hx => by simpa using (List.mem_filter.mp hx).2⟩

section Launch
variable {s : State} {n c m : Nat}

/-- A record that waits for barrier slots goes before every queue, when the slots are free. -/
theorem launchRecordTake_waited (hn : s.arg.site = n) (hc : s.arg.n = c) (hm : s.arg.m = m) (hst : 6 ≤ s.stage) {j i : Nat} {g : Grid}
    (hw : s.waitRecs.find? (fun w => w.1 == queueKey n c m) = some (j, i, g)) (hf : s.waferFree g = true) :
    exec .launchRecordTake s =
      .next ({ s with waitRecs := s.waitRecs.filter (fun w => !(w.1 == queueKey n c m)) }.addGrid i g) := by
  subst hn hc hm
  show execLaunchRecordTake s = _
  simp only [execLaunchRecordTake, if_neg (show ¬ s.stage < stageService from Nat.not_lt.mpr hst), hw, hf, if_true]

/-- The queue whose turn it is gives its record, which is checked. -/
theorem launchRecordTake_checked (hn : s.arg.site = n) (hc : s.arg.n = c) (hm : s.arg.m = m) (hst : 6 ≤ s.stage)
    {s0 s1 s2 : State} {x : Xl} {q : Qcb} {a : Slot} {me : Nat × Nat × Nat}
    (hw : s.waitRecs.find? (fun w => w.1 == queueKey n c m) = none) (hc256 : c < 256)
    (hme : (s.readyQueues n).find? (fun q => q.1 == c && q.2.1 == m) = some me)
    (hturn : nextQueue (s.site n).served (s.readyQueues n) = some me) (hadm : s.admission c = some s0)
    (hq : s0.openQcb none n c (s0.win n (offLAUNCH c m)) .both = (.ok (x, q), s1))
    (hd : s1.deqAddrs none n (Acc.device (32 * n) c) (s0.win n (offLAUNCH c m)) x q 1 = (.ok [a], s2))
    {g : Grid} {s5 : State} {o : Option Nat}
    (hchk : let s3 := s2.deqCommit x.pa q (s2.site n).h [a]
      let served := (s.site n).served.filter (fun x => decide (x ≠ 16 * c + m)) ++ [16 * c + m]
      (s3.setSite n { s3.site n with served := served }).checkRecord n c (s0.win n (offLAUNCH c m)) (s2.slotElem a 64) (s2.slotClock a) =
        (g, o, s5)) :
    (o = none → exec .launchRecordTake s = .next (if (s5.nameGrid g.ctx).waferFree g = true then (s5.nameGrid g.ctx).addGrid s5.gidNext g
      else { s5.nameGrid g.ctx with waitRecs := (s5.nameGrid g.ctx).waitRecs ++ [(queueKey n c m, s5.gidNext, g)] })) ∧
    (∀ st, o = some st → exec .launchRecordTake s = .next (s5.refuse g st)) := by
  subst hn hc hm
  have hgo : ¬ (nextQueue (s.site s.arg.site).served (s.readyQueues s.arg.site) ≠ some me ∨ s.arg.n ≥ 256) := by
    rintro (h | h)
    · exact h hturn
    · omega
  have hstage : ¬ s.stage < stageService := Nat.not_lt.mpr hst
  refine ⟨?_, fun st => ?_⟩ <;>
  · rintro rfl
    show execLaunchRecordTake s = _
    simp only [execLaunchRecordTake, if_neg hstage, hw, hme, if_neg hgo, hadm, hq, hd, hchk]

end Launch

section Start
variable {s s1 : State} {g : Grid} {room : Room} (hg : s.grid s.arg.id = some g) (hstat : g.status = none)
  (hfirst : s.firstInOrder s.arg.id g = true) (hret : s.returnWaits s.arg.id g = false) (hadm : s.admission g.ctx = some s1)
include hg hstat hfirst hret hadm

/-- A tree's core starts the workgroup at the head of its range queue. -/
theorem workgroupStart_tree (ht : g.tree = true) {q : RangeQ} (hq : s1.rangeHead s.arg.core s.arg.id = some q)
    (hroom : s1.roomOn s.arg.core s.arg.id g = some room) (hst : g.siteStarted (siteOfCore s.arg.core) = true)
    (hsite : g.siteSet.contains (siteOfCore s.arg.core) = true) (hdep : s.departing s.arg.core = false) :
    exec .workgroupStart s = .next ((s1.setCore s.arg.core { s1.core s.arg.core with ranges :=
      if q.lo + 1 < q.hi then { q with lo := q.lo + 1 } :: (s1.core s.arg.core).ranges.drop 1 else (s1.core s.arg.core).ranges.drop 1 }).startWg
      s.arg.core s.arg.id q.lo g room) := by
  show execWorkgroupStart s = _
  simp only [execWorkgroupStart, State.startTree, hg, hstat, hfirst, hret, hadm, ht, hq, hroom, hst, hsite, hdep, Option.isSome_none,
    Bool.not_true, Bool.or_self, Bool.false_eq_true, if_true, if_false]

/-- A held workgroup whose site has started and has room goes first. -/
theorem workgroupStart_held (ht : g.tree = false) {h : Nat × Nat} (hh : s1.heldReady s.arg.id g = some h) {best : Nat}
    (hbest : s1.bestCore (s1.roomy h.2 s.arg.id g) = some best) (hdep : s.departing best = false)
    (hroom : s1.roomOn best s.arg.id g = some room) :
    exec .workgroupStart s = .next (s1.startWg best s.arg.id h.1 { g with held := g.held.filter (fun x => decide (x ≠ h)) } room) := by
  show execWorkgroupStart s = _
  simp [execWorkgroupStart, hg, hstat, hfirst, hret, hadm, ht, hh, hbest, hdep, hroom]

section Next
variable (ht : g.tree = false) (hh : s1.heldReady s.arg.id g = none) (hlt : g.nextIndex < g.count) {n : Nat}
  (hn : g.cyclic.find? (s1.siteRoom s.arg.id g) = some n)
include ht hh hlt hn

/-- The next workgroup is kept for a site that has not started. -/
theorem workgroupStart_keeps (hst : g.siteStarted n = false) :
    exec .workgroupStart s = .next (s1.setGrid s.arg.id { g with
      nextIndex := g.nextIndex + 1, nextSite := n + 1, held := g.held ++ [(g.nextIndex, n)] }) := by
  show execWorkgroupStart s = _
  simp [execWorkgroupStart, hg, hstat, hfirst, hret, hadm, ht, hh, hlt, hn, hst]

/-- The next workgroup starts on the core that the rules choose. -/
theorem workgroupStart_starts (hst : g.siteStarted n = true) {best : Nat} (hbest : s1.bestCore (s1.roomy n s.arg.id g) = some best)
    (hdep : s.departing best = false) (hroom : s1.roomOn best s.arg.id g = some room) :
    exec .workgroupStart s =
      .next (s1.startWg best s.arg.id g.nextIndex { g with nextIndex := g.nextIndex + 1, nextSite := n + 1 } room) := by
  show execWorkgroupStart s = _
  simp [execWorkgroupStart, hg, hstat, hfirst, hret, hadm, ht, hh, hlt, hn, hst, hbest, hdep, hroom]

end Next
end Start

theorem staggerRegionStart_next {s : State} {g : Grid} (hg : s.grid s.arg.id = some g) (hs : g.stagger = true)
    (hr : g.regions.contains s.arg.n = false) (hl : g.regionList.contains s.arg.n = true)
    (ht : g.t0 + 200 * (g.regionList.takeWhile (fun r => decide (r ≠ s.arg.n))).length ≤ (s.time g.site).toNat) :
    exec .staggerRegionStart s = .next (s.setGrid s.arg.id { g with regions := g.regions ++ [s.arg.n] }) := by
  show execStaggerRegionStart s = _
  simp only [execStaggerRegionStart, hg, hs, hr, hl, decide_eq_false (Nat.not_lt.mpr ht), Bool.not_true, Bool.or_self,
    Bool.false_eq_true, if_false]

end Sys2Proof.Machine
end

section
namespace Sys2Proof.Machine

/-! Preemption, and the save, return and migration of workgroups (R255-R257, R263, R265). -/

theorem preemptRequest_saves {s : State} {w : Workgroup} (hw : s.wg s.arg.slot = some w) (hl : w.leaving = false) (hn : s.arg.n = 0) :
    exec .preemptRequest s = .next (s.beginSave s.arg.slot 0) := by
  show execPreemptRequest s = _
  simp only [execPreemptRequest, hw, hl, hn, Bool.false_eq_true, if_false, if_true]

/-- A change of a coach leaves its workgroup resident. -/
theorem wg_modCoach_isSome {s : State} {slot : Nat} (h : (s.wg slot).isSome = true) (r : CoachRef) (f : Coach → Coach) :
    ((s.modCoach r f).wg slot).isSome = true := by
  unfold State.modCoach State.setCoach
  split
  · exact h
  · split
    · exact h
    · by_cases hs : slot = r.slot
      · rw [hs, wg_setWg_same]
        rfl
      · exact (congrArg Option.isSome (find_insert_ne _ _ hs)).trans h

theorem wg_modWg_same {s : State} {slot : Nat} {w : Workgroup} (h : s.wg slot = some w) (f : Workgroup → Workgroup) :
    (s.modWg slot f).wg slot = some (f w) := by
  simp only [State.modWg, h, wg_setWg_same]

/-- A workgroup's coaches are told to leave, by an end of its notice interval. -/
def State.giveNotice (s : State) (slot : Nat) (told : List Nat) (finish : Nat) : State :=
  (told.foldl (fun t k => t.modCoach { slot := slot, k := k } (fun c => { c with preemptNotice := true })) s).modWg slot
    (fun x => { x with noticeEnd := some finish, noticeLeft := told })

theorem giveNotice_noticeEnd {s : State} {slot : Nat} (h : (s.wg slot).isSome = true) (told : List Nat) (finish : Nat) :
    ∃ x, (s.giveNotice slot told finish).wg slot = some x ∧ x.noticeEnd = some finish := by
  have hfold : ((told.foldl (fun t k => t.modCoach { slot := slot, k := k } (fun c => { c with preemptNotice := true })) s).wg slot).isSome :=
    List.foldlRecOn (motive := fun (t : State) => (t.wg slot).isSome = true) told _ h fun _ ht _ _ => wg_modCoach_isSome ht _ _
  obtain ⟨x, hx⟩ := Option.isSome_iff_exists.mp hfold
  exact ⟨_, wg_modWg_same hx _, rfl⟩

/-- A notice interval ends at the time asked for, 1000 µs from now at most, whichever coaches are told. -/
theorem preemptRequest_notice {s : State} {w : Workgroup} (hw : s.wg s.arg.slot = some w) (hl : w.leaving = false) (hn : s.arg.n ≠ 0) :
    ∃ t x, exec .preemptRequest s = .next t ∧ t.wg s.arg.slot = some x ∧ x.noticeEnd = some (s.now + 1000 * min s.arg.n 1000) := by
  let h := s.handler (siteOfSlot s.arg.slot) w.ctx cPREEMPT_NOTICE
  let told := if h.1.isSome then (w.coaches.filter (fun c => c.2.state != .retired)).map Prod.fst else []
  have hh : (h.2.wg s.arg.slot).isSome = true := by
    rw [State.wg, (touch_handler _ _ _ _).wgs]
    exact Option.isSome_of_eq_some hw
  obtain ⟨x, hx, hend⟩ := giveNotice_noticeEnd hh told (s.now + 1000 * min s.arg.n 1000)
  have hexec : execPreemptRequest s = .next (if told.isEmpty = true then
      (h.2.giveNotice s.arg.slot told (s.now + 1000 * min s.arg.n 1000)).later
        [⟨.noticeIntervalExpiry, { EvArgs.zero with slot := s.arg.slot }⟩]
      else h.2.giveNotice s.arg.slot told (s.now + 1000 * min s.arg.n 1000)) := by
    simp only [execPreemptRequest, hw, hl, Bool.false_eq_true, if_false, if_neg hn, State.giveNotice, told, h]
  refine ⟨_, x, hexec, ?_, hend⟩
  split <;> exact hx

theorem noticeIntervalExpiry_next {s : State} {w : Workgroup} {d : Nat} (hw : s.wg s.arg.slot = some w) (hd : w.noticeEnd = some d)
    (h : d ≤ s.now ∨ w.noticeLeft = []) : exec .noticeIntervalExpiry s = .next (s.beginSave s.arg.slot 0) := by
  have hgo : d ≤ s.now ∨ w.noticeLeft.isEmpty = true := h.imp_right List.isEmpty_iff.mpr
  show execNoticeIntervalExpiry s = _
  simp only [execNoticeIntervalExpiry, hw, hd, if_pos hgo]

section Save
variable {s s1 s2 : State} {w : Workgroup} (hw : s.wg s.arg.slot = some w) (hs : w.saving.isSome = true)
  (h2 : (s.coachRefs s.arg.slot).foldl State.settleTrap s = s2)
  (h1 : (s2.coachRefs s.arg.slot).foldl (State.stopCoach (decide (w.parkTo = 2))) s2 = s1)
include hw hs h2 h1

/-- A save waits, its coaches stopped, for what is busy and for a retirement that is due. -/
theorem workgroupSave_waits (hb : s1.saveBusy s.arg.slot = true ∨ s1.retiring (coreOfSlot s.arg.slot) = true) :
    exec .workgroupSave s = .next s1 := by
  show execWorkgroupSave s = _
  simp only [execWorkgroupSave, hw, Option.isNone_eq_false_iff.mpr hs, Bool.false_eq_true, if_false, h2, h1, Bool.or_eq_true, if_pos hb]

theorem workgroupSave_saves {s5 : State} {w1 w2 : Workgroup} {x : Grid} (hb : s1.saveBusy s.arg.slot = false)
    (hr : s1.retiring (coreOfSlot s.arg.slot) = false) (hw1 : s1.wg s.arg.slot = some w1) (hx : s1.grid w.gid = some x)
    (h5 : (s1.coachRefs s.arg.slot).foldl State.restCoach s1 = s5) (hw2 : s5.wg s.arg.slot = some w2) :
    exec .workgroupSave s = .next (s5.saveNow s.arg.slot w2 x w1.states) := by
  show execWorkgroupSave s = _
  simp only [execWorkgroupSave, hw, Option.isNone_eq_false_iff.mpr hs, Bool.false_eq_true, if_false, h2, h1, hb, hr, Bool.or_self, hw1, hx,
    h5, hw2]

end Save

theorem workgroupRestore_next {s s1 : State} {g : Grid} {v : SavedWg} {rooms : List Room} (hg : s.grid s.arg.id = some g)
    (hv : s.saved.find? (fun v => v.gid == s.arg.id && v.index == s.arg.n) = some v) (hrooms : s.canReturn v s.arg.core = some rooms)
    (hadm : s.admission g.ctx = some s1) (hfirst : s.firstInOrder s.arg.id g = true)
    (hnext : (s.nextReturn s.arg.id g).map SavedWg.index = some v.index) (hdep : s.departing s.arg.core = false)
    (hbest : s.bestCore ((coresOf (siteOfCore s.arg.core)).filter (fun c => (s.canReturn v c).isSome)) = some s.arg.core) :
    exec .workgroupRestore s = .next (s1.restoreGroup s.arg.core g s.arg.id (s.groupOf v) rooms) := by
  show execWorkgroupRestore s = _
  simp only [execWorkgroupRestore, hg, hv, hrooms, hadm, hfirst, hnext, hdep, hbest, bne_self_eq_false, Bool.not_true, Bool.or_self,
    Bool.false_eq_true, if_false]

theorem migration_next {s : State} {g : Grid} {w : Workgroup} (hw : s.wg s.arg.slot = some w) (hl : w.leaving = false)
    (hc : s.arg.core ≠ coreOfSlot s.arg.slot) (hg : s.grid w.gid = some g) (hlt : s.arg.core < 2048)
    (hsite : g.siteSet.contains (siteOfCore s.arg.core) = true) (hp : s.powered (siteOfCore s.arg.core) = true) :
    exec .migration s = .next ((s.coreMates s.arg.slot w.gid g).foldl (fun t n =>
      (t.beginSave n 0).modWg n (fun x => { x with moveTo := some s.arg.core })) s) := by
  show execMigration s = _
  simp only [execMigration, hw, hl, beq_false_of_ne hc, hg, decide_eq_false (Nat.not_le.mpr hlt), hsite, hp, Bool.not_true, Bool.or_self,
    Bool.false_eq_true, if_false]

/-! Stealing (R299). -/

/-- The victim that the next value of the core's LFSR names. -/
def State.stealVictim (s : State) (core : Nat) : Nat :=
  let v := (lfsrStep (s.core core).lfsr).toNat % 31
  32 * siteOfCore core + (if v < core % 32 then v else v + 1)

section Steal
variable {s : State} (hr : (s.core s.arg.core).ranges = []) (hwait : (s.core s.arg.core).stealWait = false) (hlt : s.arg.core < 2048)
  (hroom : s.grids.any (fun g => g.2.tree && g.2.status.isNone && (s.roomOn s.arg.core g.1 g.2).isSome) = true)
include hr hwait hlt hroom

/-- A core that has asked in vain 31 times asks its quad. -/
theorem stealRequest_quad (hm : 31 ≤ (s.core s.arg.core).misses) : exec .stealRequest s = .next (s.askQuad s.arg.core) := by
  show execStealRequest s = _
  simp only [execStealRequest, hr, hwait, hroom, decide_eq_false (Nat.not_le.mpr hlt), List.isEmpty_nil, Bool.not_true, Bool.or_self,
    Bool.false_eq_true, if_false, if_pos hm]

/-- Before that it asks its victim, once the start that is due at the victim's head has been served. -/
theorem stealRequest_asks (hm : (s.core s.arg.core).misses < 31) :
    exec .stealRequest s =
      let c := { s.core s.arg.core with lfsr := lfsrStep (s.core s.arg.core).lfsr }
      let t := (s.setCore s.arg.core c).startHead (s.stealVictim s.arg.core)
      .next (if t.unstartedOf (siteOfCore s.arg.core) [s.stealVictim s.arg.core] ≤ 1 then
        t.setCore s.arg.core { c with misses := (s.core s.arg.core).misses + 1, stealWait := decide ((s.core s.arg.core).misses + 1 < 31) }
      else t.takeHalf [s.stealVictim s.arg.core] s.arg.core) := by
  show execStealRequest s = _
  simp only [execStealRequest, hr, hwait, hroom, decide_eq_false (Nat.not_le.mpr hlt), List.isEmpty_nil, Bool.not_true, Bool.or_self,
    Bool.false_eq_true, if_false, if_neg (Nat.not_le.mpr hm), State.stealVictim]

end Steal

/-! Making room (R301, R304), and the units of SBUF that are lent (R276, R277). -/

theorem priorityPreempt_next {s : State} {g : Grid} {l : List Nat} (hg : s.grid s.arg.id = some g) (hs : s.starved s.arg.id g = true)
    (hl : s.preemptPlan s.arg.id g = some l) :
    exec .priorityPreempt s = .next (s.later (l.map (fun v =>
      ⟨.preemptRequest, { EvArgs.zero with slot := v, n := (match s.wg v with | some w => s.noticeOf w | none => 0) }⟩))) := by
  show execPriorityPreempt s = _
  simp only [execPriorityPreempt, hg, hs, hl, Bool.not_true, Bool.false_eq_true, if_false] <;> rfl

theorem quantumExpiry_next {s : State} {w : Workgroup} (hw : s.wg s.arg.slot = some w)
    (h : ∃ x ∈ s.grids, s.sliceOver x.2 (s.arg.slot, w) = true ∧ s.starved x.1 x.2 = true ∧ s.preemptPlan x.1 x.2 = none ∧
      (s.sliceVictims x.2).head?.map Prod.fst = some s.arg.slot) :
    exec .quantumExpiry s = .next (s.later [⟨.preemptRequest, { EvArgs.zero with slot := s.arg.slot }⟩]) := by
  obtain ⟨x, hx, hover, hstarved, hplan, hvictim⟩ := h
  have hany : s.grids.any (fun g => s.sliceOver g.2 (s.arg.slot, w) && s.starved g.1 g.2 && (s.preemptPlan g.1 g.2).isNone &&
      (s.sliceVictims g.2).head?.map Prod.fst == some s.arg.slot) = true :=
    List.any_eq_true.mpr ⟨x, hx, by simp [hover, hstarved, hplan, hvictim]⟩
  show execQuantumExpiry s = _
  simp only [execQuantumExpiry, hw, hany, if_true]

section Park
variable {s : State} {g : Grid} (hg : s.grid s.arg.id = some g) (hu : s.unstarted s.arg.id g = true) (hs : s.starved s.arg.id g = true)
  (hp : s.parkingNow s.arg.id = false)
include hg hu hs hp

theorem barrierPark_next {v : Nat} (hv : s.lowestWg s.arg.id Workgroup.parkable = some v) :
    exec .barrierPark s = .next (s.beginSave v 1) := by
  show execBarrierPark s = _
  simp only [execBarrierPark, hg, hu, hs, hp, hv, Bool.not_true, Bool.or_self, Bool.false_eq_true, if_false]

theorem waitPark_next {v : Nat} (hn : s.lowestWg s.arg.id Workgroup.parkable = none)
    (hv : s.lowestWg s.arg.id Workgroup.waitParkable = some v) : exec .waitPark s = .next (s.beginSave v 2) := by
  show execWaitPark s = _
  simp only [execWaitPark, hg, hu, hs, hp, hn, hv, Option.isSome_none, Bool.not_true, Bool.or_self, Bool.false_eq_true, if_false]

end Park

theorem sbufLend_next {s : State} (hu : (s.freeUnits s.arg.core).getLast? = some s.arg.n) (hlt : s.arg.core < 2048)
    (ht : s.tinsIn s.arg.core s.arg.n = false) :
    exec .sbufLend s = .next (s.setCore s.arg.core { s.core s.arg.core with lent := (s.core s.arg.core).lent ++ [s.arg.n] }) := by
  show execSbufLend s = _
  simp only [execSbufLend, hu, hlt, ht, and_self, if_true]

theorem sbufReclaim_next {s : State} (h : s.needsUnit s.arg.core s.arg.n = true) :
    exec .sbufReclaim s = .next (s.reclaim s.arg.core s.arg.n) := by
  show execSbufReclaim s = _
  simp only [execSbufReclaim, h, if_true]

end Sys2Proof.Machine
end

section
namespace Sys2Proof.Machine

/-- Settles O46: one lemma for each event and outcome, in the order of the claim. -/
theorem schedulingEvents : Obligations.SchedulingEvents := by
  intro s s1 s2 s5 g w room slot gid core
  refine ⟨gridCompletion_next, preemptRequest_saves, preemptRequest_notice, fun d => noticeIntervalExpiry_next,
    fun hw hs h2 h1 => ⟨workgroupSave_waits hw hs h2 h1, fun w1 w2 x => workgroupSave_saves hw hs h2 h1⟩,
    fun v rooms => workgroupRestore_next, migration_next, ?launch, ?start, staggerRegionStart_next, ?steal, rfl,
    fun l => priorityPreempt_next, quantumExpiry_next,
    fun v hg hu hs hp => ⟨barrierPark_next hg hu hs hp, waitPark_next hg hu hs hp⟩, sbufLend_next, sbufReclaim_next⟩
  case launch =>
    refine ⟨fun j i hst => launchRecordTake_waited rfl rfl rfl hst, fun s0 x q a me hst hw hc hme hturn hadm hq hd => ?_⟩
    have hchecked {o : Option Nat} := launchRecordTake_checked (g := g) (s5 := s5) (o := o) rfl rfl rfl hst hw hc hme hturn hadm hq hd
    exact ⟨fun hchk => (hchecked hchk).1 rfl, fun st hchk => (hchecked hchk).2 st rfl⟩
  case start =>
    intro hg hstat hfirst hret hadm
    exact ⟨fun ht hh hlt n hn => ⟨workgroupStart_keeps hg hstat hfirst hret hadm ht hh hlt hn,
        fun best hst => workgroupStart_starts hg hstat hfirst hret hadm ht hh hlt hn hst⟩,
      fun h best ht hh => workgroupStart_held hg hstat hfirst hret hadm ht hh, fun q ht => workgroupStart_tree hg hstat hfirst hret hadm ht⟩
  case steal =>
    intro c l v victim s' hr hwait hlt hroom
    refine ⟨stealRequest_quad hr hwait hlt hroom, fun hm hu => ?_, fun hm hu => ?_⟩
    · exact (stealRequest_asks hr hwait hlt hroom hm).trans (congrArg Host.Outcome.next (if_pos hu))
    · exact (stealRequest_asks hr hwait hlt hroom hm).trans (congrArg Host.Outcome.next (if_neg (Nat.not_le.mpr hu)))

end Sys2Proof.Machine
end

section
namespace Sys2Proof.Machine

/-! Fields of a register (R374): the bits of a field that is replaced, and of the fields beside it. -/

section Fields
variable {v : DWord} {lo n x : Nat}

/-- A field is replaced in a number bit by bit. -/
theorem testBit_replace (a lo n x i : Nat) : (a - bits a lo n * 2 ^ lo + x % 2 ^ n * 2 ^ lo).testBit i =
    if lo ≤ i ∧ i < lo + n then x.testBit (i - lo) else a.testBit i := by
  have hsplit : a = 2 ^ lo * (2 ^ n * (a / 2 ^ lo / 2 ^ n) + bits a lo n) + a % 2 ^ lo := by
    rw [bits, Nat.div_add_mod, Nat.div_add_mod]
  have hnew : a - bits a lo n * 2 ^ lo + x % 2 ^ n * 2 ^ lo = 2 ^ lo * (2 ^ n * (a / 2 ^ lo / 2 ^ n) + x % 2 ^ n) + a % 2 ^ lo := by
    generalize bits a lo n = b at hsplit ⊢
    rw [Nat.mul_add] at hsplit ⊢
    rw [Nat.mul_comm b, Nat.mul_comm (x % 2 ^ n)]
    omega
  rw [hnew, Nat.testBit_two_pow_mul_add _ (Nat.mod_lt _ (by positivity))]
  by_cases hlo : i < lo
  · rw [if_pos hlo, if_neg (by omega), Nat.testBit_mod_two_pow, decide_eq_true hlo, Bool.true_and]
  · rw [if_neg hlo, Nat.testBit_two_pow_mul_add _ (Nat.mod_lt _ (by positivity))]
    by_cases hn : i - lo < n
    · rw [if_pos hn, if_pos (by omega), Nat.testBit_mod_two_pow, decide_eq_true hn, Bool.true_and]
    · rw [if_neg hn, if_neg (by omega), Nat.testBit_div_two_pow, Nat.testBit_div_two_pow]
      congr 1
      omega

/-- The bits of a register after one of its fields has been replaced. -/
theorem getLsbD_setFld (h : lo + n ≤ 64) (i : Nat) :
    (setFld v lo n x).getLsbD i = if lo ≤ i ∧ i < lo + n then x.testBit (i - lo) else v.getLsbD i := by
  rw [setFld, BitVec.getLsbD_ofNat, testBit_replace]
  split
  · rw [decide_eq_true (by omega), Bool.true_and]
  · by_cases hi : i < 64
    · rw [decide_eq_true hi, Bool.true_and, BitVec.getLsbD]
    · rw [decide_eq_false hi, Bool.false_and, BitVec.getLsbD_of_ge v i (by omega)]

theorem testBit_fld (v : DWord) (lo n i : Nat) : (fld v lo n).testBit i = (decide (i < n) && v.getLsbD (lo + i)) := by
  rw [fld, bits, Nat.testBit_mod_two_pow, Nat.testBit_div_two_pow, Nat.add_comm i lo, BitVec.getLsbD]

/-- The field that is replaced. -/
theorem fld_setFld_same (h : lo + n ≤ 64) : fld (setFld v lo n x) lo n = x % 2 ^ n := by
  refine Nat.eq_of_testBit_eq fun i => ?_
  rw [testBit_fld, getLsbD_setFld h, Nat.testBit_mod_two_pow]
  by_cases hi : i < n
  · rw [if_pos (by omega), Nat.add_sub_cancel_left]
  · rw [decide_eq_false hi, Bool.false_and, Bool.false_and]

/-- A field beside the one that is replaced. -/
theorem fld_setFld_other (h : lo + n ≤ 64) {l k : Nat} (hd : l + k ≤ lo ∨ lo + n ≤ l) : fld (setFld v lo n x) l k = fld v l k := by
  refine Nat.eq_of_testBit_eq fun i => ?_
  rw [testBit_fld, testBit_fld, getLsbD_setFld h]
  by_cases hi : i < k
  · rw [if_neg (by omega)]
  · rw [decide_eq_false hi, Bool.false_and, Bool.false_and]

theorem fld_lt (v : DWord) (lo n : Nat) : fld v lo n < 2 ^ n := Nat.mod_lt _ (by positivity)

end Fields

/-! Regions, and the registers that a write at a home and an entry of the event log leave as they were (R374, R380). -/

section Kept
variable (s : State)

@[simp] theorem region_setRegion_same (r : Nat) (x : Region) : (s.setRegion r x).region r = x := by
  simp [State.region, Table.getD]

/-- Another register of the same site. -/
theorem win_setWin_other (n : Nat) {off o : Nat} (v : DWord) (h : o ≠ off) (m : Nat) : (s.setWin n off v).win m o = s.win m o :=
  site_field_setSite (fun x => Table.getD x.win o (Ssc.resetReg o)) (by simp [Table.getD, find_insert_ne _ _ h]) m

end Kept

/-- A register reads in `t` as it reads in `s`, at every site. -/
def SameWin (off : Nat) (s t : State) : Prop := ∀ m, t.win m off = s.win m off

section SameWin
variable {off : Nat}

theorem SameWin.refl (s : State) : SameWin off s s := fun _ => rfl

theorem SameWin.trans {s t u : State} (h : SameWin off s t) (g : SameWin off t u) : SameWin off s u := fun m => (g m).trans (h m)

theorem SameWin.foldl {α : Type} {f : State → α → State} (hf : ∀ t a, SameWin off t (f t a)) (l : List α) (s : State) :
    SameWin off s (l.foldl f s) :=
  List.foldlRecOn (motive := SameWin off s) l f (.refl s) fun t ht a _ => ht.trans (hf t a)

/-- Other fields of a site are set. -/
theorem sameWin_setSite {s : State} {n : Nat} {x : Site} (h : x.win = (s.site n).win) : SameWin off s (s.setSite n x) :=
  site_field_setSite (fun x => Table.getD x.win off (Ssc.resetReg off)) (congrArg (Table.getD · off (Ssc.resetReg off)) h)

theorem sameWin_raiseFloor (s : State) (k : Word) : SameWin off s (s.raiseFloor k) := by
  unfold State.raiseFloor
  refine SameWin.foldl (fun t n => ?_) _ s
  exact sameWin_setSite rfl

theorem sameWin_doubtQcbs (s : State) (pa n : Nat) : SameWin off s (s.doubtQcbs pa n) := by
  unfold State.doubtQcbs
  refine SameWin.foldl (fun t x => ?_) _ s
  split
  · exact sameWin_setSite rfl
  · exact .refl t

theorem sameWin_dropSharers (s : State) (pa n : Nat) : SameWin off s (s.dropSharers pa n) := by
  unfold State.dropSharers
  refine SameWin.foldl (fun t line => ?_) _ s
  split
  · split <;> exact .refl t
  · exact .refl t

theorem sameWin_fireMonitors (s : State) (pa n : Nat) : SameWin off s (s.fireMonitors pa n) := by
  unfold State.fireMonitors
  refine SameWin.foldl (fun t x => ?_) _ s
  split
  · exact sameWin_setSite (s := t) (n := x.1) rfl
  · exact .refl t

section Home
variable (h : off ≠ offDROPPED)
include h

theorem sameWin_touchLine (s : State) (pa : Nat) : SameWin off s (s.touchLine pa) := by
  unfold State.touchLine
  dsimp only
  split
  · exact .refl s
  split
  · exact .refl s
  split
  · exact .refl s
  split
  · exact .refl s
  · have hdrop : ∀ n d, SameWin off s (s.addWin n offDROPPED d) := fun n d => win_setWin_other s n _ h
    have hfloor : ∀ (c : Prop) [Decidable c] (u : State) (k : Word), SameWin off u (if c then u.raiseFloor k else u) := fun c _ u k => by
      split
      · exact sameWin_raiseFloor u k
      · exact .refl u
    exact (hdrop _ _).trans (hfloor _ _ _)

theorem sameWin_homeTouch (s : State) (pa n : Nat) : SameWin off s (s.homeTouch pa n) := by
  unfold State.homeTouch
  split
  · exact SameWin.foldl (fun t _ => sameWin_touchLine h t _) _ s
  · exact .refl s

/-- A write at the home changes no register but the count of dropped clocks (R237). -/
theorem sameWin_homeWrite (s : State) (pa : Nat) (bs : List Byte) : SameWin off s (s.homeWrite pa bs) := by
  unfold State.homeWrite
  refine SameWin.trans (SameWin.trans (SameWin.trans (sameWin_homeTouch h s pa bs.length) ?_) (sameWin_dropSharers _ _ _))
    (sameWin_fireMonitors _ _ _)
  exact sameWin_doubtQcbs { s.homeTouch pa bs.length with mem := _, poison := _ } pa bs.length

/-- Nor does an entry of the event log, but for the place of the next one (R380). -/
theorem sameWin_logEvent (he : off ≠ offEVNEXT) (s : State) (n kind cls unit result addr : Nat) :
    SameWin off s (s.logEvent n kind cls unit result addr) :=
  (sameWin_homeWrite h s _ _).trans (win_setWin_other _ n _ he)

end Home
end SameWin

end Sys2Proof.Machine
end

section
namespace Sys2Proof.Machine

/-! Ramps, ballast, current steps and droop (R358-R364). -/

section Region
variable {s : State}

/-- The current step of a region, once it has been entered (R361). -/
theorem enterStep_of_current {r : Nat} (h : (s.region r).step = s.regionStep r) : s.enterStep r = s := if_pos h

theorem enterStep_of_past {r : Nat} (h : (s.region r).step ≠ s.regionStep r) :
    s.enterStep r = s.setRegion r { s.region r with step := s.regionStep r, granted := 0, csl := s.cslOf r } := if_neg h

/-- A request fits when the step's limit leaves room for it; one above the whole limit, when nothing is granted yet (R361). -/
def Region.Fits (x : Region) (ask : Nat) : Prop :=
  if ask ≤ x.csl.toNat % 65536 then x.granted + ask ≤ x.csl.toNat % 65536 else x.granted = 0

theorem Region.fits_iff (x : Region) (ask : Nat) : x.Fits ask ↔
    (if ask ≤ x.csl.toNat % 65536 then decide (x.granted + ask ≤ x.csl.toNat % 65536) else decide (x.granted = 0)) = true := by
  unfold Region.Fits
  split <;> exact decide_eq_true_iff.symm

section Ramp
variable {core r : Nat} (hc : s.arg.core = core) (hr : regionOf (siteOfCore core) = r) (hlt : core < 2048)
  (hstep : (s.region r).step = s.regionStep r) (hask : s.asksNow core = true) (hthr : (s.region r).throttleEnd = none)
  (hfirst : s.cores.any (fun x => regionOf (siteOfCore x.1) == r && x.1 != core && s.asksNow x.1 && (s.region r).before x.1 core) = false)
include hc hr hlt hstep hask hthr hfirst

/-- The core that asks first is granted what fits, and denied else. -/
theorem rampStart_judged : ((s.region r).Fits (8 - (s.core core).level) → exec .rampStart s = .next (s.grantRamp core)) ∧
    (¬ (s.region r).Fits (8 - (s.core core).level) → exec .rampStart s = .next (s.setRegion r ((s.region r).deny core))) := by
  have hx : exec .rampStart s = execRampStart s := rfl
  simp only [execRampStart, hc, hr, if_neg (show ¬ core ≥ coreCount from Nat.not_le.mpr hlt), enterStep_of_current hstep, hask, hthr, hfirst,
    Option.isSome_none, Bool.not_true, Bool.or_self, Bool.false_or, Bool.false_eq_true, if_false, Bool.not_eq_true'] at hx
  refine ⟨fun h => ?_, fun h => ?_⟩
  · rw [hx, (Region.fits_iff _ _).mp h]
    rfl
  · rw [hx, Bool.eq_false_iff.mpr (mt (Region.fits_iff _ _).mpr h)]
    rfl

end Ramp

theorem rampStep_next {core a : Nat} {r : List Nat} (hc : s.arg.core = core) (h : (s.core core).slew = .ramp (a :: r))
    (ht : (s.core core).slewAt ≤ s.clk (siteOfCore core)) : exec .rampStep s =
      .next (s.setCore core { s.core core with level := a, slew := if r = [] then .hold else .ramp r, slewAt := s.clk (siteOfCore core) + 4,
                                               work := (s.core core).work + (4 * (s.core core).level : Nat) }) := by
  show execRampStep s = _
  simp only [execRampStep, hc, h, if_neg (Nat.not_lt.mpr ht), List.isEmpty_iff, State.slewNext]

section Ballast
variable {core halves : Nat} (hc : s.arg.core = core) (ht : (s.core core).slewAt ≤ s.clk (siteOfCore core))
include hc ht

theorem ballastStep_level {a : Nat} {r : List Nat} (h : (s.core core).slew = .ballast (a :: r) halves) : exec .ballastStep s =
    .next (s.setCore core { s.core core with level := a, slew := .ballast r (halves + a), slewAt := s.clk (siteOfCore core) + 4 }) := by
  show execBallastStep s = _
  simp only [execBallastStep, hc, h, if_neg (Nat.not_lt.mpr ht), List.isEmpty_cons, Bool.false_eq_true, if_false, State.slewNext]

theorem ballastStep_ends (h : (s.core core).slew = .ballast [] halves) : ∃ t, exec .ballastStep s = .next t ∧
    (t.core core).level = 0 ∧ (t.core core).slew = .hold := by
  refine ⟨(s.chargeBallast core none).setCore core { (s.chargeBallast core none).core core with level := 0, slew := .hold }, ?_, ?_⟩
  · show execBallastStep s = _
    simp only [execBallastStep, hc, h, if_neg (Nat.not_lt.mpr ht), List.isEmpty_nil, if_true]
  · rw [core_setCore_same]
    exact ⟨rfl, rfl⟩

end Ballast

section Step
variable {i : Nat} (hi : s.arg.n = i) (hlt : i < 16)
include hi hlt

theorem currentStep_next (h : (s.region i).step ≠ s.regionStep i) : ∃ t, exec .currentStep s = .next t ∧
    (t.region i).step = s.regionStep i ∧ (t.region i).granted = 0 ∧ (t.region i).csl = s.cslOf i := by
  refine ⟨(s.enterStep i).later ((sortBy (fun c => c) ((s.region i).waiting.map Prod.fst)).map
    (fun c => ⟨.rampStart, { EvArgs.zero with core := c }⟩)), ?_, ?_⟩
  · show execCurrentStep s = _
    simp only [execCurrentStep, hi, if_neg (show ¬ (i ≥ regionCount ∨ (s.region i).step = s.regionStep i) from
      fun hn => hn.elim (Nat.not_le.mpr hlt) h)]
  · have hreg : ∀ es, ((s.enterStep i).later es).region i = (s.enterStep i).region i := fun _ => rfl
    rw [hreg, enterStep_of_past h, region_setRegion_same]
    exact ⟨rfl, rfl, rfl⟩

theorem droopAlarm_next (h : s.granting i = false) : ∃ t, exec .droopAlarm s = .next t ∧ s.now ∈ (t.region i).alarms ∧
    (s.epol.getLsbD 4 = true → (t.region i).throttleEnd = some (s.regionTime i + 2000)) := by
  have hx : exec .droopAlarm s = execDroopAlarm s := rfl
  have hgo : ¬ (i ≥ regionCount ∨ s.granting i = true) := fun hn => hn.elim (Nat.not_le.mpr hlt) (by simp [h])
  have hnow : ∀ l : List Nat, s.now ∈ l ++ [s.now] := fun l => List.mem_append_right _ (List.mem_singleton_self _)
  simp only [execDroopAlarm, hi, if_neg hgo] at hx
  refine ⟨_, hx, ?_⟩
  split
  · rw [region_setRegion_same]
    exact ⟨hnow _, fun _ => rfl⟩
  · next hpol =>
    rw [region_setRegion_same]
    exact ⟨hnow _, fun hp => (hpol hp).elim⟩

theorem throttleEnd_next {d : Nat} (hd : (s.region i).throttleEnd = some d) (ht : d ≤ s.regionTime i) :
    ∃ t, exec .throttleEnd s = .next t ∧ (t.region i).throttleEnd = none := by
  have hx : exec .throttleEnd s = execThrottleEnd s := rfl
  simp only [execThrottleEnd, hi, if_neg (show ¬ i ≥ regionCount from Nat.not_le.mpr hlt), hd, if_neg (Nat.not_lt.mpr ht)] at hx
  refine ⟨_, hx, ?_⟩
  have hreg : ∀ (u : State) n off v, (u.setWin n off v).region i = u.region i := fun _ _ _ _ => rfl
  rw [hreg, region_setRegion_same]

end Step
end Region

end Sys2Proof.Machine
end

section
namespace Sys2Proof.Machine

/-! Decks, hot marks and stacks (R295, R306, R365, R366). -/

section Deck
variable (s : State)

/-- The state of a deck after a write of one (R306). -/
theorem deck_setDeck (core : Nat) {d : Nat} (hd : d < 4) (v k : Nat) :
    (s.setDeck core d v).deck core k = if k = d then v % 4 else s.deck core k := by
  unfold State.deck State.setDeck
  rw [win_setWin_same]
  split
  · next h =>
    rw [h]
    exact fld_setFld_same (by omega)
  · next h => rw [fld_setFld_other (by omega) (by omega)]

/-- An entry of the event log changes no deck. -/
theorem deck_logEvent (n kind cls unit result addr core k : Nat) : (s.logEvent n kind cls unit result addr).deck core k = s.deck core k := by
  have h : ∀ c, offDSTAT c ≠ offDROPPED ∧ offDSTAT c ≠ offEVNEXT := fun c => by
    unfold offDSTAT offDROPPED offEVNEXT
    omega
  unfold State.deck
  rw [sameWin_logEvent (h _).1 (h _).2]

/-- What firmware writes of one deck of a core (R306). -/
def State.writeDeck (value : DWord) (core d : Nat) : State :=
  let v := fld value (2 * d) 2
  if v = s.deck core d then s.setCore core { s.core core with pendDecks := Table.erase (s.core core).pendDecks d }
  else if v ≥ 2 then s.loseDeck core d v
  else if v = 1 ∧ (s.core core).deckOpen d = true then s.setCore core { s.core core with pendDecks := Table.insert (s.core core).pendDecks d (1, true) }
  else ((s.setCore core { s.core core with pendDecks := Table.erase (s.core core).pendDecks d }).setDeck core d v).logEvent (siteOfCore core) evDeck 4
    (deckUnit core d) 0 0

/-- The state that is written for a deck is taken at once: the deck comes back, or is throttled while no open batch uses it, or stays. -/
def State.takesDeck (value : DWord) (core d : Nat) : Prop :=
  (fld value (2 * d) 2 = 0 ∧ s.deck core d ≠ 0) ∨ (fld value (2 * d) 2 = 1 ∧ (s.core core).deckOpen d = false) ∨ fld value (2 * d) 2 = s.deck core d

variable {s} {value : DWord} {core : Nat}

theorem writeDeck_takes {d : Nat} (hd : d < 4) (h : s.takesDeck value core d) :
    (∀ k, (s.writeDeck value core d).deck core k = if k = d then fld value (2 * d) 2 else s.deck core k) ∧
      ∀ k, ((s.writeDeck value core d).core core).deckOpen k = (s.core core).deckOpen k := by
  unfold State.writeDeck
  dsimp only
  split
  · next hv =>
    refine ⟨fun k => ?_, fun k => ?_⟩
    · show s.deck core k = _
      split
      · next hk => rw [hk, hv]
      · rfl
    · rw [core_setCore_same]
      rfl
  next hv =>
  obtain ⟨hlow, hfree⟩ : fld value (2 * d) 2 < 2 ∧ ¬ (fld value (2 * d) 2 = 1 ∧ (s.core core).deckOpen d = true) := by
    rcases h with ⟨h0, -⟩ | ⟨h1, ho⟩ | he
    · exact ⟨by omega, by omega⟩
    · exact ⟨by omega, by simp [ho]⟩
    · exact absurd he hv
  rw [if_neg (Nat.not_le.mpr hlow), if_neg hfree]
  refine ⟨fun k => ?_, fun k => ?_⟩
  · rw [deck_logEvent, deck_setDeck _ _ hd, Nat.mod_eq_of_lt (by omega)]
    rfl
  · have hcores : ∀ t n kind cls unit result addr, (State.logEvent t n kind cls unit result addr).core core = t.core core :=
      fun t n kind cls unit result addr => congrArg (Table.getD · core (Core.reset core)) (sameUnits_logEvent t n kind cls unit result addr).1
    have hdeck : ∀ t v, (State.setDeck t core d v).core core = t.core core := fun _ _ => rfl
    rw [hcores, hdeck, core_setCore_same]
    rfl

/-- The decks that are written one after another hold what was written, when each takes it at once. -/
theorem foldl_writeDeck {l : List Nat} (hl : ∀ d ∈ l, d < 4) (h : ∀ d < 4, s.takesDeck value core d) :
    ∀ d < 4, d ∈ l ∨ s.deck core d = fld value (2 * d) 2 → (l.foldl (fun t d => t.writeDeck value core d) s).deck core d = fld value (2 * d) 2 := by
  induction l generalizing s with
  | nil => exact fun d _ hd => hd.resolve_left List.not_mem_nil
  | cons a r ih =>
    obtain ⟨hdeck, hopen⟩ := writeDeck_takes (hl a List.mem_cons_self) (h a (hl a List.mem_cons_self))
    have hnext : ∀ d < 4, (s.writeDeck value core a).takesDeck value core d := fun d hd => by
      unfold State.takesDeck
      rw [hdeck, hopen]
      split
      · next hk => exact .inr (.inr (hk ▸ rfl))
      · exact h d hd
    refine fun d hd hor => ih (fun d hd => hl d (List.mem_cons_of_mem a hd)) hnext d hd ?_
    rw [hdeck]
    rcases eq_or_ne d a with rfl | hne
    · exact .inr (if_pos rfl)
    · rw [if_neg hne]
      exact hor.imp_left fun hm => (List.mem_cons.mp hm).resolve_left hne

end Deck

section Core
variable {s : State} {core : Nat} (hc : s.arg.core = core) (hlt : core < 2048)
include hc hlt

theorem dstatWrite_next (h : ∀ d < 4, s.takesDeck s.arg.value core d) :
    ∃ t, exec .dstatWrite s = .next t ∧ ∀ d < 4, t.deck core d = fld s.arg.value (2 * d) 2 := by
  refine ⟨(List.range 4).foldl (fun t d => t.writeDeck s.arg.value core d) s, ?_, fun d hd => ?_⟩
  · show execDstatWrite s = _
    simp only [execDstatWrite, hc, if_neg (show ¬ core ≥ coreCount from Nat.not_le.mpr hlt), State.writeDeck]
  · exact foldl_writeDeck (fun d => List.mem_range.mp) h d hd (.inl (List.mem_range.mpr hd))

theorem deckThermal_next {i : Nat} (hi : s.arg.n = i) (hi4 : i < 4) :
    (s.tDeck (siteOfCore core) ≤ s.arg.m → s.epol.getLsbD 2 = true → s.deck core i = 0 →
      exec .deckThermal s = .next (s.deckAtClose core i 1)) ∧
    (s.arg.m + 6 < s.tDeck (siteOfCore core) → s.deck core i = 1 → exec .deckThermal s = .next (s.deckAtClose core i 0)) := by
  have hx : exec .deckThermal s = execDeckThermal s := rfl
  have hgo : ¬ (core ≥ coreCount ∨ i ≥ 4) := not_or.mpr ⟨Nat.not_le.mpr hlt, Nat.not_le.mpr hi4⟩
  simp only [execDeckThermal, hc, hi, if_neg hgo] at hx
  refine ⟨fun hot hpol h0 => ?_, fun cool h1 => ?_⟩
  · rw [hx, if_pos hot, epDSKIP, hpol, h0]
    rfl
  · rw [hx, if_neg (show ¬ s.arg.m ≥ s.tDeck (siteOfCore core) by omega), if_pos cool, if_pos (.inl h1)]

theorem hotMarkChange_next :
    (s.tHot (siteOfCore core) ≤ s.arg.n → ∃ t, exec .hotMarkChange s = .next t ∧ (t.core core).hot = true) ∧
    (s.arg.n + 6 < s.tHot (siteOfCore core) → ∃ t, exec .hotMarkChange s = .next t ∧ (t.core core).hot = false) := by
  have hx : exec .hotMarkChange s = execHotMarkChange s := rfl
  simp only [execHotMarkChange, hc, if_neg (show ¬ core ≥ coreCount from Nat.not_le.mpr hlt)] at hx
  refine ⟨fun hot => ⟨s.setCore core { s.core core with hot := true }, ?_, ?_⟩,
    fun cool => ⟨s.setCore core { s.core core with hot := false }, ?_, ?_⟩⟩
  · rw [hx, if_pos hot]
  · rw [core_setCore_same]
  · rw [hx, if_neg (show ¬ s.arg.n ≥ s.tHot (siteOfCore core) by omega), if_pos cool]
  · rw [core_setCore_same]

theorem sliceAutoIdle_next {i : Nat} (hi : s.arg.n = i) (hi6 : i < 6)
    (hauto : (s.win (siteOfCore core) (offSLRATIO (core % 32))).getLsbD 18 = true) (hrun : s.sliceRuns core i = false)
    (ht : Table.getD (s.core core).cycles (24 + i) 0 + 1000 ≤ s.now) :
    ∃ t, exec .sliceAutoIdle s = .next t ∧ (t.core core).autoIdle.getLsbD i = true := by
  refine ⟨s.setCore core { s.core core with autoIdle := (s.core core).autoIdle ||| BitVec.ofNat 6 (2 ^ i) }, ?_, ?_⟩
  · have hgo : ¬ (core ≥ coreCount ∨ i ≥ 6) := not_or.mpr ⟨Nat.not_le.mpr hlt, Nat.not_le.mpr hi6⟩
    show execSliceAutoIdle s = _
    simp only [execSliceAutoIdle, hc, hi, if_neg hgo, hauto, hrun, ht, decide_true, Bool.not_false, Bool.and_self, if_true]
  · rw [core_setCore_same]
    exact getLsbD_set _ hi6

end Core

/-- A hot stack lowers its site's cap (R366). -/
theorem thermalControl_lowers {s : State} {n : Nat} (hn : s.arg.site = n) (hlt : n < 64) (ht : (s.site n).thermAt ≤ s.now)
    (hpol : s.epol.getLsbD 5 = true) (hot : s.tStack n ≤ s.arg.n) : exec .thermalControl s = .next
      (((s.setSite n { s.site n with belowSince := none, thermAt := s.now + 100000 }).setWin n offISLPT
        (setFld (s.win n offISLPT) 8 4 (islCAP (s.win n offISLPT) - 1))).postTarget n) := by
  have hgo : ¬ (n ≥ 64 ∨ s.now < (s.site n).thermAt) := not_or.mpr ⟨Nat.not_le.mpr hlt, Nat.not_lt.mpr ht⟩
  show execThermalControl s = _
  simp only [execThermalControl, hn, if_neg hgo, epSTHERM, hpol, Bool.not_true, Bool.false_eq_true, if_false, ge_iff_le, if_pos hot]

end Sys2Proof.Machine
end

section
namespace Sys2Proof.Machine

/-! The governor's samples and the moves of islands (R351-R356). -/

section Sample
variable {s : State}

theorem governorSample_open {owner : Nat} {st : OpenStep} (hs : s.findStep { slot := s.arg.slot, k := s.arg.k } = some (owner, st))
    (ht : (s.time owner).toNat % 1000 = 0) (hn : st.sampled ≠ some (s.time owner)) :
    exec .governorSample s = .next (s.governorSample { slot := s.arg.slot, k := s.arg.k } false) := by
  show execGovernorSample s = _
  simp only [execGovernorSample, hs, if_pos (And.intro ht hn)]

theorem governorSample_none (hs : s.findStep { slot := s.arg.slot, k := s.arg.k } = none)
    (ht : (s.time (siteOfSlot s.arg.slot)).toNat % 1000 = 0) : exec .governorSample s = .next (s.sendTargets (List.range 64)) := by
  show execGovernorSample s = _
  simp only [execGovernorSample, hs, if_pos ht]

end Sample

section Island
variable {s : State} {n : Nat}

theorem startMove_win (s : State) (n p : Nat) : (s.startMove n p).win n offISLPT = setFld (setFld (s.win n offISLPT) 30 1 1) 16 4 p :=
  win_setWin_same _ _ _ _

theorem startMove_switched (s : State) (n p : Nat) : ((s.startMove n p).site n).switched = (s.site n).switched := by
  simp only [State.startMove, State.setWin, site_setSite_same]

theorem startMove_mem (s : State) (n p : Nat) : (s.startMove n p).mem = s.mem := rfl

/-- The register of an island whose move has ended: CUR is the target, and nothing moves or waits (R352). -/
def islArrived (v : DWord) : DWord := setFld (setFld (setFld (setFld v 12 4 (islTARGET v)) 30 1 0) 29 1 0) 20 4 0

theorem islCUR_islArrived (v : DWord) : islCUR (islArrived v) = islTARGET v := by
  unfold islCUR islArrived
  rw [fld_setFld_other (by decide) (by decide), fld_setFld_other (by decide) (by decide), fld_setFld_other (by decide) (by decide),
    fld_setFld_same (by decide)]
  exact Nat.mod_eq_of_lt (fld_lt v 16 4)

theorem islMOVING_islArrived (v : DWord) : islMOVING (islArrived v) = false := by
  unfold islMOVING islArrived
  rw [getLsbD_setFld (by decide), if_neg (by decide), getLsbD_setFld (by decide), if_neg (by decide), getLsbD_setFld (by decide),
    if_pos (by decide)]
  rfl

/-- A move that starts leaves CUR. -/
theorem islCUR_started (v : DWord) (p : Nat) : islCUR (setFld (setFld v 30 1 1) 16 4 p) = islCUR v := by
  unfold islCUR
  rw [fld_setFld_other (by decide) (by decide), fld_setFld_other (by decide) (by decide)]

/-- The site and its register as the move ends, before a target that waits is looked at. -/
def State.atTarget (s : State) (n : Nat) : State :=
  (s.setSite n { s.site n with switched := false }).setWin n offISLPT (islArrived (s.win n offISLPT))

theorem atTarget_win (s : State) (n : Nat) : (s.atTarget n).win n offISLPT = islArrived (s.win n offISLPT) := win_setWin_same _ _ _ _

theorem atTarget_switched (s : State) (n : Nat) : ((s.atTarget n).site n).switched = false := by
  simp only [State.atTarget, State.setWin, site_setSite_same]

theorem endMove_eq (s : State) (n : Nat) : s.endMove n =
    if (s.win n offISLPT).getLsbD 29 && fld (s.win n offISLPT) 20 4 != islCUR (islArrived (s.win n offISLPT)) then
      (s.atTarget n).startMove n (fld (s.win n offISLPT) 20 4)
    else s.atTarget n := rfl

/-- After a move has ended the island runs at its target, and moves on only to a target that waits (R352). -/
theorem endMove_arrives (s : State) (n : Nat) : (s.endMove n).mem = s.mem ∧ ((s.endMove n).site n).switched = false ∧
    islCUR ((s.endMove n).win n offISLPT) = islTARGET (s.win n offISLPT) ∧
    ((s.win n offISLPT).getLsbD 29 = false → islMOVING ((s.endMove n).win n offISLPT) = false) := by
  rw [endMove_eq]
  split
  · next h =>
    rw [startMove_win, startMove_switched, atTarget_win, atTarget_switched, islCUR_started]
    refine ⟨startMove_mem _ _ _, rfl, islCUR_islArrived _, fun h29 => ?_⟩
    rw [h29, Bool.false_and] at h
    exact nomatch h
  · rw [atTarget_win, atTarget_switched]
    exact ⟨rfl, rfl, islCUR_islArrived _, fun _ => islMOVING_islArrived _⟩

/-- A target that arrives waits while the island moves, and else starts a move (R352). -/
theorem islandTarget_next {p k at_ : Nat} {rest : List (Nat × Nat × Nat)} (hlt : n < 64) (hi : s.arg.n = 3 * n)
    (hm : (s.site n).mail = (p, k, at_) :: rest) (hk : k < s.clk n) :
    (islMOVING (s.win n offISLPT) = true → exec .islandTarget s = .next ((s.setSite n { s.site n with mail := rest }).setWin n offISLPT
      (setFld (setFld (s.win n offISLPT) 29 1 1) 20 4 p))) ∧
    (islMOVING (s.win n offISLPT) = false → islCUR (s.win n offISLPT) ≠ p →
      exec .islandTarget s = .next ((s.setSite n { s.site n with mail := rest }).startMove n p) ∧
        ((s.setSite n { s.site n with mail := rest }).startMove n p).win n offISLPT = setFld (setFld (s.win n offISLPT) 30 1 1) 16 4 p) := by
  have hwin : (s.setSite n { s.site n with mail := rest }).win n offISLPT = s.win n offISLPT := sameWin_setSite (s := s) (n := n) (x := { s.site n with mail := rest }) rfl n
  have hx : exec .islandTarget s = .next ((s.setSite n { s.site n with mail := rest }).takeTarget n p) := by
    show execIslandTarget s = _
    have hgo : ¬ (3 * n % 3 ≠ 0 ∨ n ≥ 64) := by omega
    simp only [execIslandTarget, hi, show 3 * n / 3 = n by omega, if_neg hgo, State.deliverTarget, hm, if_neg (Nat.not_le.mpr hk)]
  rw [hx, State.takeTarget, hwin, startMove_win, hwin]
  refine ⟨fun h => ?_, fun h hp => ⟨?_, rfl⟩⟩
  · rw [if_pos h]
  · rw [if_neg (by simp [h]), if_neg hp]

theorem islandMoveComplete_next (hlt : n < 64) (hi : s.arg.n = 3 * n) (hmv : islMOVING (s.win n offISLPT) = true)
    (hsw : (s.site n).switched = true) (ht : (s.site n).moveAt ≤ s.now) (h29 : (s.win n offISLPT).getLsbD 29 = false) :
    ∃ t, exec .islandMoveComplete s = .next t ∧ (t.site n).switched = false ∧ islMOVING (t.win n offISLPT) = false ∧
      islCUR (t.win n offISLPT) = islTARGET (s.win n offISLPT) := by
  obtain ⟨-, hoff, hcur, hstill⟩ := endMove_arrives s n
  refine ⟨s.endMove n, ?_, hoff, hstill h29, hcur⟩
  have hgo : ¬ (3 * n % 3 ≠ 0 ∨ n ≥ 64) := by omega
  show execIslandMoveComplete s = _
  simp only [execIslandMoveComplete, hi, show 3 * n / 3 = n by omega, if_neg hgo, hmv, hsw, ht, decide_true, Bool.and_self, if_true]

/-- A site's count of cycles and where it was counted are set. -/
def State.setClk (s : State) (n base since : Nat) : State := s.setSite n { s.site n with clkBase := base, clkSince := since }

theorem syncClk_cases (s : State) (n : Nat) : s.syncClk n = s ∨ ∃ base since, s.syncClk n = s.setClk n base since := by
  by_cases h : s.now * nsParts < (s.site n).clkSince
  · exact .inl (if_pos h)
  · exact .inr ⟨_, _, if_neg h⟩

theorem syncClk_keeps (s : State) (n : Nat) : (s.syncClk n).mem = s.mem ∧ SameWin offISLPT s (s.syncClk n) := by
  obtain h | ⟨base, since, h⟩ := syncClk_cases s n
  · rw [h]
    exact ⟨rfl, .refl s⟩
  · rw [h]
    exact ⟨rfl, sameWin_setSite (s := s) (n := n) (x := { s.site n with clkBase := base, clkSince := since }) rfl⟩

/-- The idle generators of a site's clock have taken over, and the move may end from `at_` on (R351). -/
def State.switchClk (s : State) (n at_ : Nat) : State := s.setSite n { s.site n with switched := true, moveAt := at_ }

theorem switchClk_switched (s : State) (n at_ : Nat) : ((s.switchClk n at_).site n).switched = true :=
  congrArg Site.switched (site_setSite_same s n _)

theorem switchClk_mem (s : State) (n at_ : Nat) : (s.switchClk n at_).mem = s.mem := rfl

theorem switchClk_win (s : State) (n at_ : Nat) : (s.switchClk n at_).win n offISLPT = s.win n offISLPT :=
  sameWin_setSite (s := s) (n := n) (x := { s.site n with switched := true, moveAt := at_ }) rfl n

theorem later_nil (s : State) : s.later [] = s := by
  rw [State.later, List.append_nil]

section Switch
variable (hn : s.arg.site = n) (hlt : n < 64) (hmv : islMOVING (s.win n offISLPT) = true) (hsw : (s.site n).switched = false)
  (ht : (s.site n).moveAt ≤ s.now)
include hn hlt hmv hsw ht

theorem execClockSwitch_due {wait : Nat} (hw : rampNs (islTARGET (s.win n offISLPT)) (islCUR (s.win n offISLPT)) = wait) :
    ∃ es, exec .clockSwitch s = .next ((if wait = 0 then ((s.syncClk n).switchClk n (s.now + wait)).endMove n
      else (s.syncClk n).switchClk n (s.now + wait)).later es) := by
  have hx : exec .clockSwitch s = execClockSwitch s := rfl
  simp only [execClockSwitch, hn, if_neg (show ¬ n ≥ 64 from Nat.not_le.mpr hlt), hmv, hsw, ht, decide_true, Bool.not_false, Bool.and_self,
    if_true, hw] at hx
  by_cases hf : serviceFreq (islCUR (s.win n offISLPT)) = serviceFreq (islTARGET (s.win n offISLPT))
  · rw [if_pos hf] at hx
    exact ⟨[], by rw [later_nil, hx, State.switchClk]⟩
  · rw [if_neg hf] at hx
    exact ⟨_, hx⟩

/-- The clock switches: upward the move ends with it, downward the voltage falls first (R351). -/
theorem clockSwitch_next : ∃ t, exec .clockSwitch s = .next t ∧ t.mem = s.mem ∧
    (rampNs (islTARGET (s.win n offISLPT)) (islCUR (s.win n offISLPT)) ≠ 0 →
      (t.site n).switched = true ∧ islMOVING (t.win n offISLPT) = true) ∧
    (rampNs (islTARGET (s.win n offISLPT)) (islCUR (s.win n offISLPT)) = 0 → (t.site n).switched = false ∧
      islCUR (t.win n offISLPT) = islTARGET (s.win n offISLPT) ∧
        ((s.win n offISLPT).getLsbD 29 = false → islMOVING (t.win n offISLPT) = false)) := by
  generalize hw : rampNs (islTARGET (s.win n offISLPT)) (islCUR (s.win n offISLPT)) = wait
  obtain ⟨es, hx⟩ := execClockSwitch_due hn hlt hmv hsw ht hw
  obtain ⟨hmem, hwin⟩ := syncClk_keeps s n
  have hon := switchClk_switched (s.syncClk n) n (s.now + wait)
  have hreg := (switchClk_win (s.syncClk n) n (s.now + wait)).trans (hwin n)
  have hkeep := (switchClk_mem (s.syncClk n) n (s.now + wait)).trans hmem
  generalize (s.syncClk n).switchClk n (s.now + wait) = u at hx hon hreg hkeep
  obtain ⟨hend, hoff, hcur, hstill⟩ := endMove_arrives u n
  have hlater : ∀ t : State, (t.later es).mem = t.mem ∧ (t.later es).site n = t.site n ∧
      (t.later es).win n offISLPT = t.win n offISLPT := fun _ => ⟨rfl, rfl, rfl⟩
  refine ⟨_, hx, ?_⟩
  obtain ⟨lmem, lsite, lwin⟩ := hlater (if wait = 0 then u.endMove n else u)
  rw [lmem, lsite, lwin]
  split
  · next h0 =>
    rw [← hreg]
    exact ⟨hend.trans hkeep, fun h => (h h0).elim, fun _ => ⟨hoff, hcur, hstill⟩⟩
  · next h0 =>
    rw [hreg]
    exact ⟨hkeep, fun _ => ⟨hon, hmv⟩, fun h => (h0 h).elim⟩

end Switch
end Island

end Sys2Proof.Machine
end

section
namespace Sys2Proof.Machine

/-! The record of the crossings (R328). -/

/-- Of bytes that have been written, a part reads back as it was written. -/
theorem readN_writeN_part (m : Memory) (a : Nat) (bs : List Byte) {i n : Nat} (h : i + n ≤ bs.length) :
    Memory.readN (Memory.writeN m a bs) (a + i) n = (bs.drop i).take n := by
  induction n generalizing i with
  | zero => rfl
  | succ n ih =>
    have hread : Memory.read (Memory.writeN m a bs) (a + i) = bs[i] := read_writeN_inside bs m a i (by omega)
    have hrest := ih (i := i + 1) (by omega)
    rw [List.drop_eq_getElem_cons (by omega), List.take_succ_cons, ← hrest, ← hread]
    rfl

/-- Bytes beside those that are written read as before. -/
theorem readN_writeN_beside (m : Memory) (a : Nat) (bs : List Byte) {p n : Nat} (h : p + n ≤ a ∨ a + bs.length ≤ p) :
    Memory.readN (Memory.writeN m a bs) p n = Memory.readN m p n := by
  induction n generalizing p with
  | zero => rfl
  | succ n ih =>
    have hread := read_writeN_outside bs m a p (by omega)
    have hrest := ih (p := p + 1) (by omega)
    show Memory.read (Memory.writeN m a bs) p :: Memory.readN (Memory.writeN m a bs) (p + 1) n = _
    rw [hread, hrest]
    rfl

/-- A table whose rows have one width, cut at a row. -/
theorem drop_flatMap {α β : Type} {f : α → List β} {w : Nat} (hf : ∀ a, (f a).length = w) (l : List α) (k : Nat) :
    (l.flatMap f).drop (w * k) = (l.drop k).flatMap f := by
  induction k generalizing l with
  | zero => rfl
  | succ k ih =>
    cases l with
    | nil => simp
    | cons a r =>
      rw [List.flatMap_cons, List.drop_append, List.drop_eq_nil_of_le (by rw [hf, Nat.mul_succ]; omega), hf, List.nil_append,
        show w * (k + 1) - w = w * k by rw [Nat.mul_succ]; omega, ih]
      rfl

/-- The entry of a band: its least and its largest latency, and its range of crossings. -/
def bandRow (bands : List (Nat × Nat)) (k : Nat) : List Byte :=
  bytesLE 2 (bands.getD k (0, 0)).1 ++ bytesLE 2 (bands.getD k (0, 0)).2 ++ bytesLE 1 (bandLo k) ++ bytesLE 1 (bandHi k) ++ bytesLE 2 0

theorem bandRow_length (bands : List (Nat × Nat)) (k : Nat) : (bandRow bands k).length = 8 := by
  simp only [bandRow, List.length_append, bytesLE_length]

/-- The first four bytes of an entry are the two latencies. -/
theorem bandRow_latencies (bands : List (Nat × Nat)) (k : Nat) (r : List Byte) : (bandRow bands k ++ r).take 4 =
    bytesLE 2 (bands.getD k (0, 0)).1 ++ (bytesLE 2 (bands.getD k (0, 0)).2 ++ []) := by
  have hsplit : bandRow bands k ++ r = (bytesLE 2 (bands.getD k (0, 0)).1 ++ (bytesLE 2 (bands.getD k (0, 0)).2 ++ [])) ++
      (bytesLE 1 (bandLo k) ++ (bytesLE 1 (bandHi k) ++ (bytesLE 2 0 ++ r))) := by
    simp only [bandRow, List.append_assoc, List.nil_append]
  rw [hsplit, List.take_left' (by simp only [List.length_append, bytesLE_length, List.length_nil])]

/-- The fields of four bytes that are two fields of two. -/
theorem fieldLE_pair (a b : Nat) : fieldLE (bytesLE 2 a ++ (bytesLE 2 b ++ [])) 0 2 = a % 65536 ∧
    fieldLE (bytesLE 2 a ++ (bytesLE 2 b ++ [])) 2 2 = b % 65536 := by
  refine ⟨?_, ?_⟩
  · rw [fieldLE, List.drop_zero, take_field]
    exact ofBytesLE_bytesLE 2 a
  · rw [fieldLE, drop_field (Nat.le_refl 2), Nat.sub_self, List.drop_zero, take_field]
    exact ofBytesLE_bytesLE 2 b

/-- A measurement writes its second half, which begins with the magic word, before the entries at `pa`. -/
theorem writeBands_mem {s : State} {n pa : Nat} (hpa : (s.win n offBLTADDR).toNat % 2 ^ 52 = pa) (bands : List (Nat × Nat))
    (hsp : paSpace pa = 0) (hhome : homeSite pa = n) (hal : pa % 128 = 0) (hok : s.paOk pa = true) : ∃ r : List Byte,
      (s.writeBands n bands).mem = Memory.writeN (Memory.writeN s.mem (pa + 64) (bytesLE 4 bltMagic ++ r)) pa ((List.range 8).flatMap (bandRow bands)) := by
  have hfld : fld (s.win n offBLTADDR) 0 52 = pa := by
    rw [fld, bits, Nat.pow_zero, Nat.div_one, hpa]
  have hgo : ¬ (paSpace pa ≠ 0 ∨ homeSite pa ≠ n ∨ pa % 128 ≠ 0 ∨ s.paOk pa = false) := by
    simp [hsp, hhome, hal, hok]
  unfold State.writeBands
  dsimp only
  rw [hfld, if_neg hgo, homeWrite_mem, homeWrite_mem, List.append_assoc]
  exact ⟨_, rfl⟩

theorem bandedLatencyMeasure_next {s : State} {n pa : Nat} (hn : s.arg.site = n) (hlt : n < 64)
    (hpa : (s.win n offBLTADDR).toNat % 2 ^ 52 = pa) (hsp : paSpace pa = 0) (hhome : homeSite pa = n) (hal : pa % 128 = 0)
    (hok : s.paOk pa = true) : ∃ t, exec .bandedLatencyMeasure s = .next t ∧ fieldLE (t.homeRead (pa + 64) 4) 0 4 = 0x424C5401 ∧
      ∀ k < 8, fieldLE (t.homeRead (pa + 8 * k) 4) 0 2 = (s.arg.bands.getD k (0, 0)).1 % 65536 ∧
        fieldLE (t.homeRead (pa + 8 * k) 4) 2 2 = (s.arg.bands.getD k (0, 0)).2 % 65536 := by
  have hrows : ((List.range 8).flatMap (bandRow s.arg.bands)).length = 64 := by
    simp [List.length_flatMap, bandRow_length]
  obtain ⟨r, hmem⟩ := writeBands_mem hpa s.arg.bands hsp hhome hal hok
  refine ⟨s.writeBands n s.arg.bands, ?_, ?_, fun k hk => ?_⟩
  · show execBandedLatencyMeasure s = _
    simp only [execBandedLatencyMeasure, hn, if_pos hlt]
  · have hmagic : (s.writeBands n s.arg.bands).homeRead (pa + 64) 4 = bytesLE 4 bltMagic := by
      rw [State.homeRead, hmem, readN_writeN_beside _ _ _ (.inr (by omega))]
      refine (readN_writeN_part _ (pa + 64) _ (i := 0) (n := 4) ?_).trans take_field
      rw [List.length_append, bytesLE_length]
      omega
    rw [hmagic]
    rfl
  · have hentry : (s.writeBands n s.arg.bands).homeRead (pa + 8 * k) 4 =
        bytesLE 2 (s.arg.bands.getD k (0, 0)).1 ++ (bytesLE 2 (s.arg.bands.getD k (0, 0)).2 ++ []) := by
      rw [State.homeRead, hmem, readN_writeN_part _ _ _ (by omega), drop_flatMap (bandRow_length s.arg.bands),
        List.drop_eq_getElem_cons (by rwa [List.length_range]), List.getElem_range, List.flatMap_cons, bandRow_latencies]
    rw [hentry]
    exact fieldLE_pair _ _

end Sys2Proof.Machine
end

section
namespace Sys2Proof.Machine

/-- Settles O50: one lemma for each event, in the order of the claim. -/
theorem powerEvents : Obligations.PowerEvents := by
  intro s core n i site reg c
  refine ⟨fun hlt hstep hask hthr hfirst => rampStart_judged rfl rfl hlt hstep hask hthr hfirst, fun a r => rampStep_next rfl,
    fun a r halves h ht => ballastStep_level rfl ht h, fun halves h ht => ballastStep_ends rfl ht h, currentStep_next rfl,
    droopAlarm_next rfl, fun d hlt => throttleEnd_next rfl hlt, fun hlt => deckThermal_next rfl hlt rfl, dstatWrite_next rfl,
    fun owner st => governorSample_open, governorSample_none, fun h p k at_ rest => islandTarget_next, clockSwitch_next rfl,
    fun h => islandMoveComplete_next, thermalControl_lowers rfl, fun hlt => sliceAutoIdle_next rfl hlt rfl,
    fun hlt => bandedLatencyMeasure_next rfl hlt rfl, hotMarkChange_next rfl⟩

end Sys2Proof.Machine
end

section
namespace Sys2Proof.Machine

/-! What a write at a home and an entry of the event log leave of a site (R380). -/

/-- A site but for what a write at a home can change of it: registers, the race floor, monitors, and what the queue controllers
have verified. -/
def Site.beside (x : Site) : Site := { x with win := [], f := none, mon := [], qcbs := [] }

/-- `t` has the sites of `s`, but for what a write at a home can change. -/
def SameBeside (s t : State) : Prop := ∀ m, (t.site m).beside = (s.site m).beside

theorem SameBeside.refl (s : State) : SameBeside s s := fun _ => rfl

theorem SameBeside.trans {s t u : State} (h : SameBeside s t) (g : SameBeside t u) : SameBeside s u := fun m => (g m).trans (h m)

theorem SameBeside.foldl {α : Type} {f : State → α → State} (hf : ∀ t a, SameBeside t (f t a)) (l : List α) (s : State) :
    SameBeside s (l.foldl f s) :=
  List.foldlRecOn (motive := SameBeside s) l f (.refl s) fun t ht a _ => ht.trans (hf t a)

theorem sameBeside_setSite {s : State} {n : Nat} {x : Site} (h : x.beside = (s.site n).beside) : SameBeside s (s.setSite n x) :=
  site_field_setSite Site.beside h

theorem sameBeside_setWin (s : State) (n off : Nat) (v : DWord) : SameBeside s (s.setWin n off v) := sameBeside_setSite rfl

theorem sameBeside_raiseFloor (s : State) (k : Word) : SameBeside s (s.raiseFloor k) := by
  unfold State.raiseFloor
  refine SameBeside.foldl (fun t n => ?_) _ s
  exact sameBeside_setSite rfl

theorem sameBeside_touchLine (s : State) (pa : Nat) : SameBeside s (s.touchLine pa) := by
  unfold State.touchLine
  dsimp only
  split
  · exact .refl s
  split
  · exact .refl s
  split
  · exact .refl s
  split
  · exact .refl s
  · have hfloor : ∀ (c : Prop) [Decidable c] (u : State) (k : Word), SameBeside u (if c then u.raiseFloor k else u) := fun c _ u k => by
      split
      · exact sameBeside_raiseFloor u k
      · exact .refl u
    exact (sameBeside_setWin s _ _ _).trans (hfloor _ _ _)

theorem sameBeside_homeTouch (s : State) (pa n : Nat) : SameBeside s (s.homeTouch pa n) := by
  unfold State.homeTouch
  split
  · exact SameBeside.foldl (fun t _ => sameBeside_touchLine t _) _ s
  · exact .refl s

theorem sameBeside_doubtQcbs (s : State) (pa n : Nat) : SameBeside s (s.doubtQcbs pa n) := by
  unfold State.doubtQcbs
  refine SameBeside.foldl (fun t x => ?_) _ s
  split
  · exact sameBeside_setSite rfl
  · exact .refl t

theorem sameBeside_dropSharers (s : State) (pa n : Nat) : SameBeside s (s.dropSharers pa n) := by
  unfold State.dropSharers
  refine SameBeside.foldl (fun t line => ?_) _ s
  split
  · split <;> exact .refl t
  · exact .refl t

theorem sameBeside_fireMonitors (s : State) (pa n : Nat) : SameBeside s (s.fireMonitors pa n) := by
  unfold State.fireMonitors
  refine SameBeside.foldl (fun t x => ?_) _ s
  split
  · exact sameBeside_setSite (s := t) (n := x.1) rfl
  · exact .refl t

theorem sameBeside_homeWrite (s : State) (pa : Nat) (bs : List Byte) : SameBeside s (s.homeWrite pa bs) := by
  unfold State.homeWrite
  refine SameBeside.trans (SameBeside.trans (SameBeside.trans (sameBeside_homeTouch s pa bs.length) ?_) (sameBeside_dropSharers _ _ _))
    (sameBeside_fireMonitors _ _ _)
  exact sameBeside_doubtQcbs { s.homeTouch pa bs.length with mem := _, poison := _ } pa bs.length

theorem sameBeside_logEvent (s : State) (n kind cls unit result addr : Nat) : SameBeside s (s.logEvent n kind cls unit result addr) :=
  (sameBeside_homeWrite s _ _).trans (sameBeside_setWin _ _ _ _)

theorem SameBeside.link {s t : State} (h : SameBeside s t) (n f : Nat) : t.link n f = s.link n f := by
  have hlinks : (t.site n).beside.links = (s.site n).beside.links := congrArg Site.links (h n)
  exact congrArg (Table.getD · f Link.reset) hlinks

end Sys2Proof.Machine
end

section
namespace Sys2Proof.Machine

/-! A link and its registers (R339-R344), and the connections of a site (R334). -/

section Link
variable (s : State)

theorem linkOk_of_lt {n f : Nat} (hn : n < 64) (hf : f < 4) : linkOk n f = true := decide_eq_true ⟨hn, hf⟩

/-- A lane or a direction of a link that exists. -/
theorem linkOk_part {n f m k : Nat} (h : linkOk n f = true) (hm : m < k) : ¬ ((!linkOk n f || decide (m ≥ k)) = true) := by
  simp [h, hm]

@[simp] theorem link_setLink_same (n f : Nat) (x : Link) : (s.setLink n f x).link n f = x := by
  simp [State.setLink, State.link, Table.getD]

@[simp] theorem win_setLink (n f : Nat) (x : Link) (m off : Nat) : (s.setLink n f x).win m off = s.win m off :=
  sameWin_setSite (by rfl) m

@[simp] theorem lstat_setLink (n f : Nat) (x : Link) (m g d : Nat) : (s.setLink n f x).lstat m g d = s.lstat m g d :=
  win_setLink s n f x m _

@[simp] theorem lpCur_setLink (n f : Nat) (x : Link) (m g : Nat) : (s.setLink n f x).lpCur m g = s.lpCur m g :=
  congrArg (fld · 4 4) (win_setLink s n f x m _)

@[simp] theorem link_setWin (n off : Nat) (v : DWord) (m f : Nat) : (s.setWin n off v).link m f = s.link m f :=
  (sameBeside_setWin s n off v).link m f

@[simp] theorem link_setLstat (n f d : Nat) (v : DWord) (m g : Nat) : (s.setLstat n f d v).link m g = s.link m g :=
  link_setWin s n _ v m g

@[simp] theorem lstat_setLstat_same (n f d : Nat) (v : DWord) : (s.setLstat n f d v).lstat n f d = v := win_setWin_same s n _ v

/-- CUR of LPCTL while the laser moves (R344). -/
theorem lpCur_moving (n f : Nat) : (s.setWin n (offLPCTL f) (setFld (s.win n (offLPCTL f)) 4 4 3)).lpCur n f = 3 := by
  rw [State.lpCur, win_setWin_same]
  exact fld_setFld_same (by decide)

/-- STATE of a direction's LSTAT, when it is replaced. -/
theorem lsSTATE_setFld (v : DWord) {x : Nat} (h : x < 8) : lsSTATE (setFld v 0 3 x) = x := by
  rw [lsSTATE, fld_setFld_same (by decide)]
  exact Nat.mod_eq_of_lt h

/-- The two lowest bits of a register. -/
theorem fld_lowest_two (v : DWord) : fld v 0 2 = v.toNat % 4 := congrArg (· % 4) (Nat.div_one v.toNat)

theorem offOHEALTH_ne_offLSTAT {f k g d : Nat} (hf : f < 4) (hk : k < 8) : offOHEALTH f k ≠ offLSTAT g d := by
  unfold offOHEALTH offLSTAT
  omega

/-- LSTAT is neither of the registers that the lines and the event log count with. -/
theorem offLSTAT_ne_counts (f d : Nat) : offLSTAT f d ≠ offDROPPED ∧ offLSTAT f d ≠ offEVNEXT := by
  unfold offLSTAT offDROPPED offEVNEXT
  omega

/-- A lane of a receive direction's active set that has lost its light or its lock (R343). -/
theorem any_lane_unlocked {n f v : Nat} (h : ∃ k < 8, bitN v k = true ∧ s.lockOf n f k < 2) :
    (List.range 8).any (fun k => bitN v k && decide (s.lockOf n f k < 2)) = true := by
  obtain ⟨k, hk, hbit, hlock⟩ := h
  exact List.any_eq_true.mpr ⟨k, List.mem_range.mpr hk, by simp [hbit, hlock]⟩

end Link

section Reports
variable {s : State}

theorem losePort_win (s : State) (n m off : Nat) : (s.losePort n).win m off = s.win m off := by
  unfold State.losePort
  split <;> rfl

theorem losePort_link (s : State) (n m f : Nat) : (s.losePort n).link m f = s.link m f := by
  unfold State.losePort
  split <;> rfl

theorem logLink_lstat (s : State) (n f m g d : Nat) : (s.logLink n f).lstat m g d = s.lstat m g d :=
  sameWin_logEvent (offLSTAT_ne_counts g d).1 (offLSTAT_ne_counts g d).2 s n _ _ _ _ _ m

theorem logLink_link (s : State) (n f m g : Nat) : (s.logLink n f).link m g = s.link m g :=
  (sameBeside_logEvent s n _ _ _ _ _).link m g

/-- A direction that goes DOWN (R342, R343). -/
theorem linkDown_lstat (s : State) (n f d : Nat) : lsSTATE ((s.linkDown n f d).lstat n f d) = 0 := by
  unfold State.linkDown
  rw [State.lstat, losePort_win, ← State.lstat, logLink_lstat, lstat_setLink, lstat_setLstat_same]
  exact lsSTATE_setFld _ (by decide)

theorem linkDown_onewayEnd (s : State) (n f : Nat) : ((s.linkDown n f 1).link n f).onewayEnd = none := by
  unfold State.linkDown
  rw [losePort_link, logLink_link, link_setLink_same]
  rfl

end Reports

section Sending
variable {off : Nat}

theorem SameWin.ite {c : Prop} [Decidable c] {s t u : State} (ht : SameWin off s t) (hu : SameWin off s u) :
    SameWin off s (if c then t else u) := by
  split
  · exact ht
  · exact hu

theorem sameWin_later (s : State) (es : List Event) : SameWin off s (s.later es) := fun _ => rfl

theorem sameWin_setLink (s : State) (n f : Nat) (x : Link) : SameWin off s (s.setLink n f x) := fun m => win_setLink s n f x m off

theorem sameWin_setConn (s : State) (n key : Nat) (c : Conn) : SameWin off s (s.setConn n key c) := sameWin_setSite rfl

theorem sameWin_sendFlits (s : State) (e f n : Nat) (fresh : Bool) : SameWin off s (s.sendFlits e f n fresh) :=
  sameWin_setLink s e f _

theorem sameWin_sendPacket (s : State) (e key : Nat) : SameWin off s (s.sendPacket e key) := by
  unfold State.sendPacket
  split
  · exact .refl s
  split
  · exact .refl s
  dsimp only
  split
  · exact .refl s
  · exact (sameWin_sendFlits s _ _ _ _).trans (sameWin_setConn _ _ _ _)

/-- To send packets changes no register. -/
theorem sameWin_pump (s : State) (n key : Nat) : SameWin off s (s.pump n key) := by
  unfold State.pump
  exact SameWin.foldl (fun t _ => sameWin_sendPacket t n key) _ s

theorem sameWin_pumpAll (s : State) (n : Nat) : SameWin off s (s.pumpAll n) := by
  unfold State.pumpAll
  refine SameWin.foldl (fun t e => ?_) _ s
  exact sameWin_pump t n e.1

end Sending

section Conn
variable (s : State)

@[simp] theorem conn_setConn_same (n key : Nat) (c : Conn) : (s.setConn n key c).conn n key = c := by
  simp [State.setConn, State.conn, Table.getD]

@[simp] theorem setSite_setSite (n : Nat) (x y : Site) : (s.setSite n x).setSite n y = s.setSite n y := by
  simp [State.setSite]

@[simp] theorem setConn_setConn (n key : Nat) (c d : Conn) : (s.setConn n key c).setConn n key d = s.setConn n key d := by
  simp [State.setConn]

/-- What a collective expects does not lie in a connection. -/
theorem collNext_setConn (n key : Nat) (c : Conn) (m : Nat) (tag src : Word) (red : Bool) :
    (s.setConn n key c).collNext m tag src red = s.collNext m tag src red := by
  have hcoll : (s.setConn n key c).collAt m tag = s.collAt m tag :=
    site_field_setSite (fun x : Site => x.colls.find? (fun c : Coll => c.blk.tag == tag)) (by rfl) m
  unfold State.collNext
  rw [hcoll]
  rfl

theorem advanceRx_early (k : Nat) (c : Conn) : (advanceRx k c).early = c.early := by
  induction k generalizing c with
  | zero => rfl
  | succ k ih =>
    unfold advanceRx
    split
    · exact ih _
    · rfl

end Conn

end Sys2Proof.Machine
end

section
namespace Sys2Proof.Machine

/-! Packets and acknowledgements (R331, R335, R336). -/

section Packet

/-- The packet that arrives with PACKET_RECEIVE, as its operands give it. -/
def State.packet (s : State) : Arrival :=
  { psn := s.arg.value.truncate 32, kind := s.arg.k, ctx := s.arg.m, va := BitVec.ofNat 64 s.arg.pa, aop := s.arg.p % 16,
    operand := s.arg.words.headD 0, data := s.arg.data.take 4096 }

/-- The distance of an arriving packet above the cumulative sequence. -/
def State.packetAhead (s : State) (c : Conn) : Nat := (s.packet.psn - c.rxCum : Word).toNat

/-- A connection that has received the packet of a distance. -/
def Conn.marked (c : Conn) (d : Nat) : Conn := advanceRx 256 { c with rxMap := c.rxMap ||| BitVec.ofNat 256 (2 ^ d) }

/-- What has arrived on an ordered connection, with the packet that arrives, in sequence. -/
def State.packetsHeld (s : State) (c : Conn) : List Arrival := sortBy (fun x => (x.psn - c.rxCum : Word).toNat) (c.early ++ [s.packet])

/-- A connection marks the packet that arrives, and takes it as its kind and the connection say (R335). -/
def State.takePacket (s : State) (n f : Nat) : State :=
  let c := s.conn n f
  let c1 := c.marked (s.packetAhead c)
  if s.packet.kind = 3 then State.landCollPackets (c.early.length + 1) (s.setConn n f { c1 with early := c.early ++ [s.packet] }) n f
  else if f % 2 = 0 then (s.setConn n f c1).arrived n f s.packet
  else ((s.packetsHeld c).filter (fun x => later32 c1.rxCum x.psn)).foldl (fun t x => t.arrived n f x)
    (s.setConn n f { c1 with early := (s.packetsHeld c).filter (fun x => !later32 c1.rxCum x.psn) })

theorem marked_early (c : Conn) (d : Nat) : (c.marked d).early = c.early := advanceRx_early 256 _

/-- The packet of a collective whose bytes are due lands, when none waits before it (R200, R335). -/
theorem landCollPackets_due {s : State} {n key : Nat} {c : Conn} {a : Arrival} (hk : a.kind = 3) (hc : c.early = [])
    (hnext : s.collNext n a.operand (collPeer key) (a.aop == 1) = some a.va.toNat) :
    State.landCollPackets 1 (s.setConn n key { c with early := [a] }) n key =
      (s.setConn n key c).collTakes n a.operand (collPeer key) (a.aop == 1) a.data := by
  have hdue : (s.setConn n key { c with early := [a] }).nextCollPacket n key = some a := by
    rw [State.nextCollPacket, conn_setConn_same]
    exact List.find?_cons_of_pos (by rw [collNext_setConn, hnext, hk]; simp)
  have hrest : ({ c with early := [] } : Conn) = c := by rw [← hc]
  simp only [State.landCollPackets, hdue, conn_setConn_same, setConn_setConn, List.erase_cons_head, hrest]

variable {s : State} {n f : Nat} (hn : s.arg.site = n) (hf : s.arg.n = f) (hlt : n < 64)
  (hears : s.hearsPeer n (connDev f) (connSite f) = true) (hroom : s.connRoom n f = true)
include hn hf hlt hears hroom

/-- A packet from a peer that is heard is taken when it is new in the window. -/
theorem packetReceive_heard : exec .packetReceive s =
    .next (if 256 ≤ s.packetAhead (s.conn n f) ∨ (s.conn n f).rxMap.getLsbD (s.packetAhead (s.conn n f)) = true then s
      else s.takePacket n f) := by
  have hgo : ¬ (n ≥ 64 ∨ s.hearsPeer n (connDev f) (connSite f) = false ∨ s.connRoom n f = false) := by
    simp [hears, hroom, hlt]
  show execPacketReceive s = _
  simp only [execPacketReceive, hn, hf, if_neg hgo]
  rfl

theorem packetReceive_outside (h : 256 ≤ s.packetAhead (s.conn n f) ∨ (s.conn n f).rxMap.getLsbD (s.packetAhead (s.conn n f)) = true) :
    exec .packetReceive s = .next s := by
  rw [packetReceive_heard hn hf hlt hears hroom, if_pos h]

section Window
variable (hd : s.packetAhead (s.conn n f) < 256) (hnew : (s.conn n f).rxMap.getLsbD (s.packetAhead (s.conn n f)) = false)
include hd hnew

theorem packetReceive_new : exec .packetReceive s = .next (s.takePacket n f) := by
  have hin : ¬ (256 ≤ s.packetAhead (s.conn n f) ∨ (s.conn n f).rxMap.getLsbD (s.packetAhead (s.conn n f)) = true) :=
    not_or.mpr ⟨Nat.not_le.mpr hd, by rw [hnew]; exact Bool.false_ne_true⟩
  rw [packetReceive_heard hn hf hlt hears hroom, if_neg hin]

theorem packetReceive_unordered (hk : s.packet.kind ≠ 3) (he : f % 2 = 0) : exec .packetReceive s =
    .next ((s.setConn n f ((s.conn n f).marked (s.packetAhead (s.conn n f)))).arrived n f s.packet) := by
  rw [packetReceive_new hn hf hlt hears hroom hd hnew, State.takePacket, if_neg hk, if_pos he]

theorem packetReceive_ordered (hk : s.packet.kind ≠ 3) (ho : f % 2 = 1) : exec .packetReceive s = .next
    (((s.packetsHeld (s.conn n f)).filter (fun x => later32 ((s.conn n f).marked (s.packetAhead (s.conn n f))).rxCum x.psn)).foldl
      (fun t x => t.arrived n f x) (s.setConn n f { (s.conn n f).marked (s.packetAhead (s.conn n f)) with
        early := (s.packetsHeld (s.conn n f)).filter (fun x => !later32 ((s.conn n f).marked (s.packetAhead (s.conn n f))).rxCum x.psn) })) := by
  rw [packetReceive_new hn hf hlt hears hroom hd hnew, State.takePacket, if_neg hk, if_neg (by omega)]

theorem packetReceive_collective (hk : s.packet.kind = 3) (hc : (s.conn n f).early = [])
    (hnext : s.collNext n s.packet.operand (collPeer f) (s.packet.aop == 1) = some s.packet.va.toNat) : exec .packetReceive s =
      .next ((s.setConn n f ((s.conn n f).marked (s.packetAhead (s.conn n f)))).collTakes n s.packet.operand (collPeer f) (s.packet.aop == 1)
        s.packet.data) := by
  rw [packetReceive_new hn hf hlt hears hroom hd hnew, State.takePacket, if_pos hk, hc]
  exact congrArg Host.Outcome.next (landCollPackets_due hk ((marked_early _ _).trans hc) hnext)

end Window
end Packet

section Ack

/-- What an acknowledgement leaves in flight is not acknowledged by it (R335). -/
theorem acked_inFlight {c : Conn} {cum : Word} {map : DWord} {ecn : Bool} {rtt : Nat} {p : Packet} (hp : p ∈ (c.acked cum map ecn rtt).inFlight) :
    ackedBy cum map p.psn = false := by
  obtain ⟨q, hq, rfl⟩ := List.mem_map.mp hp
  have hleft : ackedBy cum map q.psn = false := by simpa using (List.mem_filter.mp hq).2
  split <;> exact hleft

/-- A congestion mark reduces a window that this round trip has not reduced (R336). -/
theorem acked_window_marked {c : Conn} (h : c.reduced = false) (cum : Word) (map : DWord) (rtt : Nat) :
    (c.acked cum map true rtt).window = max 1 (c.window * 7 / 8) := by
  simp [Conn.acked, h]

variable {s : State} {n f : Nat} {c : Conn} (hn : s.arg.site = n) (hf : s.arg.n = f) (hc : Table.find (s.site n).conns f = some c)
include hn hf hc

theorem ackReceive_next {cum : Word} {map : DWord} (hcum : s.arg.value.truncate 32 = cum)
    (hmap : s.arg.words.getD 1 0 ++ s.arg.words.getD 0 0 = map) (h : (cum - c.cumAck).toNat ≤ (c.nextPsn - c.cumAck).toNat) :
    exec .ackReceive s = .next ((((c.inFlight.filter (fun p => ackedBy cum map p.psn)).map Packet.what).foldl State.hear
      (s.setConn n f (c.acked cum map s.arg.ok s.arg.p))).pump n f) := by
  show execAckReceive s = _
  simp only [execAckReceive, hn, hf, hc, hcum, hmap, if_neg (Nat.not_lt.mpr h)]

theorem retransmitTimer_next : exec .retransmitTimer s = .next ((s.setConn n f { c with
    inFlight := c.inFlight.map (fun p => if p.psn = s.arg.value.truncate 32 ∧ p.sent + 1000 * p.timer ≤ s.now then
      { p with again := true, timer := min 128 (2 * p.timer) } else p) }).pump n f) := by
  show execRetransmitTimer s = _
  simp only [execRetransmitTimer, hn, hf, hc, ge_iff_le]

end Ack

theorem occupancyReport_next {s : State} {n m : Nat} (hn : s.arg.site = n) (hm : s.arg.m = m) (hlt : n < 64) (hm64 : m < 64) :
    exec .occupancyReport s = .next (s.setSite n { s.site n with occupancy := Table.put 0 (s.site n).occupancy m s.arg.n }) := by
  show execOccupancyReport s = _
  simp only [execOccupancyReport, hn, hm, if_pos (And.intro hlt hm64)]

end Sys2Proof.Machine
end

section
namespace Sys2Proof.Machine

/-! Lanes: their health, and the move of a direction to others (R340-R343). -/

section Lanes
variable {s : State} {n f m : Nat} (hn : s.arg.site = n) (hf : s.arg.n = f) (hm : s.arg.m = m) (hok : linkOk n f = true)

/-- A direction that has moved is UP on its new lanes (R342). -/
theorem lanesMoved_lstat (s : State) (n f d : Nat) {g : Nat} (hg : g < 256) (narrowing : Bool) :
    lsSTATE ((s.lanesMoved n f d g narrowing).lstat n f d) = 2 ∧ lsLANES ((s.lanesMoved n f d g narrowing).lstat n f d) = g := by
  obtain ⟨v, hv⟩ : ∃ v, (s.lanesMoved n f d g narrowing).lstat n f d = setFld (setFld v 24 8 g) 0 3 stUP := by
    refine ⟨if narrowing then setFld (s.lstat n f d) 16 8 (min 255 (fld (s.lstat n f d) 16 8 + 1)) else s.lstat n f d, ?_⟩
    unfold State.lanesMoved
    dsimp only
    rw [logLink_lstat]
    exact (SameWin.ite ((sameWin_setLink _ _ _ _).trans (sameWin_setLink _ _ _ _)) ((sameWin_setLink _ _ _ _).trans
      ((SameWin.ite (.refl _) (sameWin_sendFlits _ _ _ _ _)).trans (sameWin_pumpAll _ _))) n).trans (win_setWin_same s n _ _)
  rw [hv]
  refine ⟨lsSTATE_setFld _ (by decide), ?_⟩
  rw [lsLANES, fld_setFld_other (by decide) (by decide), fld_setFld_same (by decide)]
  exact Nat.mod_eq_of_lt hg

include hn hf hm hok

theorem ohealthUpdate_next (hf4 : f < 4) (hm8 : m < 8) :
    ∃ t, exec .ohealthUpdate s = .next t ∧ t.win n (offOHEALTH f m) = s.healthWord n f m s.arg.value := by
  have hx : exec .ohealthUpdate s = execOhealthUpdate s := rfl
  simp only [execOhealthUpdate, hn, hf, hm, if_neg (linkOk_part hok hm8)] at hx
  refine ⟨_, hx, ?_⟩
  have hup : ∀ (u : State) v x, SameWin (offOHEALTH f m) u ((u.setLstat n f 1 v).setLink n f x) := fun u v x =>
    SameWin.trans (win_setWin_other u n v (offOHEALTH_ne_offLSTAT hf4 hm8)) (sameWin_setLink _ n f x)
  exact (SameWin.ite ((sameWin_setLink _ _ _ _).trans (sameWin_later _ _)) (.ite ((sameWin_setLink _ _ _ _).trans (hup _ _ _))
    (.ite ((sameWin_setLink _ _ _ _).trans (hup _ _ _)) (sameWin_setLink _ _ _ _))) n).trans (win_setWin_same s n _ _)

section Direction
variable (hm2 : m < 2)
include hm2

section Narrow
variable {bad : Nat} (hbad : (if m = 0 then s.arg.p % 256 else (s.link n f).unhealthy.toNat) = bad)
  (hnone : Table.find (s.link n f).newLanes m = none) (hup : lsSTATE (s.lstat n f m) = 2) (hlane : lsLANES (s.lstat n f m) &&& bad ≠ 0)
include hbad hnone hup hlane

/-- A direction with an unhealthy lane in its active set leaves its lanes: to the healthy group of lanes, if it may and has one. -/
theorem linkNarrow_begins : exec .linkNarrow s = .next (if s.epol.getLsbD 1 = true then
    ((healthyGroup bad).elim (s.linkDown n f m) (fun g => (s.setLstat n f m (setFld (s.lstat n f m) 0 3 stNARROWING)).setLink n f
      { s.link n f with newLanes := Table.insert (s.link n f).newLanes m (g, true) })) else s.linkDown n f m) := by
  have hx : exec .linkNarrow s = execLinkNarrow s := rfl
  have hmay : ¬ ((!(lsSTATE (s.lstat n f m) == stUP || (m == 1 && (lsSTATE (s.lstat n f m) == stONEWAY ||
      (lsSTATE (s.lstat n f m) == stDARK && (s.link n f).relightEnd.isSome)))) || lsLANES (s.lstat n f m) &&& bad == 0) = true) := by
    simp [hup, stUP, hlane]
  simp only [execLinkNarrow, hn, hf, hm, if_neg (linkOk_part hok hm2), hbad, hnone, if_neg hmay] at hx
  rw [hx, epNARROW]
  cases s.epol.getLsbD 1
  · rfl
  · cases healthyGroup bad <;> rfl

theorem linkNarrow_moves {g : Nat} (hpol : s.epol.getLsbD 1 = true) (hg : healthyGroup bad = some g) : ∃ t, exec .linkNarrow s = .next t ∧
    lsSTATE (t.lstat n f m) = 3 ∧ Table.find (t.link n f).newLanes m = some (g, true) := by
  have hx := linkNarrow_begins hn hf hm hok hm2 hbad hnone hup hlane
  rw [if_pos hpol, hg] at hx
  refine ⟨_, hx, ?_, ?_⟩
  · simp only [Option.elim_some, lstat_setLink, lstat_setLstat_same]
    exact lsSTATE_setFld _ (by decide)
  · simp only [Option.elim_some, link_setLink_same, find_insert_same]

theorem linkNarrow_down (h : s.epol.getLsbD 1 = false ∨ healthyGroup bad = none) :
    ∃ t, exec .linkNarrow s = .next t ∧ lsSTATE (t.lstat n f m) = 0 := by
  refine ⟨s.linkDown n f m, ?_, linkDown_lstat s n f m⟩
  rw [linkNarrow_begins hn hf hm hok hm2 hbad hnone hup hlane]
  rcases h with h | h
  · rw [h, if_neg Bool.false_ne_true]
  · rw [h, Option.elim_none, ite_self]

end Narrow

theorem linkWiden_moves (hnone : Table.find (s.link n f).newLanes m = none) (hset : [255, 15, 240, 3, 12, 48, 192].contains s.arg.p = true)
    (hup : lsSTATE (s.lstat n f m) = 2) (hhas : lsLANES (s.lstat n f m) &&& s.arg.p = lsLANES (s.lstat n f m))
    (hwell : m = 0 ∨ s.arg.p &&& (s.link n f).unhealthy.toNat = 0) :
    ∃ t, exec .linkWiden s = .next t ∧ lsSTATE (t.lstat n f m) = 3 ∧ Table.find (t.link n f).newLanes m = some (s.arg.p, false) := by
  refine ⟨(s.setLstat n f m (setFld (s.lstat n f m) 0 3 stNARROWING)).setLink n f
    { s.link n f with newLanes := Table.insert (s.link n f).newLanes m (s.arg.p, false) }, ?_, ?_, ?_⟩
  · show execLinkWiden s = _
    simp only [execLinkWiden, hn, hf, hm, if_neg (linkOk_part hok hm2), hnone]
    exact congrArg Host.Outcome.next (if_pos ⟨hup, hset, hhas, hwell⟩)
  · rw [lstat_setLink, lstat_setLstat_same]
    exact lsSTATE_setFld _ (by decide)
  · rw [link_setLink_same, find_insert_same]

/-- The peer has answered: the move, narrowing or widening, ends on its lanes. -/
theorem lanesMove_ends {g : Nat} {narrowing : Bool} (hg : g < 256) (hnew : Table.find (s.link n f).newLanes m = some (g, narrowing))
    (hst : lsSTATE (s.lstat n f m) = 3) : ∃ t, exec (if narrowing = true then .linkNarrow else .linkWiden) s = .next t ∧
      lsSTATE (t.lstat n f m) = 2 ∧ lsLANES (t.lstat n f m) = g := by
  refine ⟨s.lanesMoved n f m g narrowing, ?_, lanesMoved_lstat s n f m hg narrowing⟩
  cases narrowing
  · show execLinkWiden s = _
    simp only [execLinkWiden, hn, hf, hm, if_neg (linkOk_part hok hm2), hnew, hst, stNARROWING, if_true]
  · show execLinkNarrow s = _
    simp only [execLinkNarrow, hn, hf, hm, if_neg (linkOk_part hok hm2), hnew, hst, stNARROWING, if_true]

end Direction
end Lanes

/-! Loss of light on one side (R343). -/

section Oneway
variable {s : State} {n f : Nat} (hn : s.arg.site = n) (hf : s.arg.n = f) (hok : linkOk n f = true)
include hn hf hok

theorem onewayEnter_next (hup : lsSTATE (s.lstat n f 1) = 2) (hlp : (s.link n f).peerLp = 0)
    (hlost : ∃ k < 8, bitN (lsLANES (s.lstat n f 1)) k = true ∧ s.lockOf n f k < 2) :
    ∃ t, exec .onewayEnter s = .next t ∧ lsSTATE (t.lstat n f 1) = 4 ∧ (t.link n f).onewayEnd.isSome = true := by
  refine ⟨(s.setLstat n f 1 (setFld (s.lstat n f 1) 0 3 stONEWAY)).setLink n f
    { s.link n f with onewayEnd := some (s.now + 1000 * max 1 (fld (s.win n (offLINKCFG f)) 16 16)) }, ?_, ?_, ?_⟩
  · show execOnewayEnter s = _
    simp only [execOnewayEnter, hn, hf, hok, Bool.not_true, Bool.false_eq_true, if_false]
    exact congrArg Host.Outcome.next (if_pos ⟨hup, hlp, any_lane_unlocked s hlost⟩)
  · rw [lstat_setLink, lstat_setLstat_same]
    exact lsSTATE_setFld _ (by decide)
  · rw [link_setLink_same]
    rfl

theorem onewayHoldExpiry_next {d : Nat} (hd : (s.link n f).onewayEnd = some d) (ht : d ≤ s.now) (hst : lsSTATE (s.lstat n f 1) = 4) :
    ∃ t, exec .onewayHoldExpiry s = .next t ∧ lsSTATE (t.lstat n f 1) = 0 ∧ (t.link n f).onewayEnd = none := by
  refine ⟨s.linkDown n f 1, ?_, linkDown_lstat s n f 1, linkDown_onewayEnd s n f⟩
  show execOnewayHoldExpiry s = _
  simp only [execOnewayHoldExpiry, hn, hf, hok, Bool.not_true, Bool.false_eq_true, if_false, hd]
  exact congrArg Host.Outcome.next (if_pos ⟨hst, ht⟩)

end Oneway

end Sys2Proof.Machine
end

section
namespace Sys2Proof.Machine

/-! Laser power states (R344). -/

section Laser
variable {s : State} {n f m : Nat} (hn : s.arg.site = n) (hf : s.arg.n = f) (hok : linkOk n f = true)

/-- The laser of a link begins to move to a state, which it reaches no earlier than at `at_`. -/
def State.moveLaser (s : State) (n f target at_ : Nat) : State :=
  (s.setWin n (offLPCTL f) (setFld (s.win n (offLPCTL f)) 4 4 3)).setLink n f { s.link n f with moveTo := target, moveEnd := at_ }

theorem moveLaser_lpCur (s : State) (n f target at_ : Nat) : (s.moveLaser n f target at_).lpCur n f = 3 :=
  (lpCur_setLink _ n f _ n f).trans (lpCur_moving s n f)

theorem moveLaser_link (s : State) (n f target at_ : Nat) :
    (s.moveLaser n f target at_).link n f = { s.link n f with moveTo := target, moveEnd := at_ } := link_setLink_same _ _ _ _

include hn hf hok

theorem powerStateAnnounce_peerDark (hm : s.arg.m = m) (h : s.arg.ok = true) (h1 : 1 ≤ m) (h2 : m ≤ 2) :
    ∃ t, exec .powerStateAnnounce s = .next t ∧ lsSTATE (t.lstat n f 1) = 5 ∧ (t.link n f).peerLp = m := by
  refine ⟨(s.setLstat n f 1 (setFld (s.lstat n f 1) 0 3 stDARK)).setLink n f
    { s.link n f with peerLp := m, relightEnd := none, onewayEnd := none }, ?_, ?_, ?_⟩
  · show execPowerStateAnnounce s = _
    simp only [execPowerStateAnnounce, hn, hf, hm, hok, h, Bool.not_true, Bool.false_eq_true, if_false, if_true, if_pos (And.intro h1 h2)]
  · rw [lstat_setLink, lstat_setLstat_same]
    exact lsSTATE_setFld _ (by decide)
  · rw [link_setLink_same]

theorem powerStateAnnounce_peerRelights (h : s.arg.ok = true) (h0 : s.arg.m = 0) (hlp : (s.link n f).peerLp ≠ 0) :
    exec .powerStateAnnounce s =
      .next (s.setLink n f { s.link n f with relightEnd := some (s.now + relightNs (s.link n f).peerLp + 10000) }) := by
  have hlit : ¬ (1 ≤ s.arg.m ∧ s.arg.m ≤ 2) := by omega
  show execPowerStateAnnounce s = _
  simp only [execPowerStateAnnounce, hn, hf, hok, h, Bool.not_true, Bool.false_eq_true, if_false, if_true, if_neg hlit,
    if_pos (And.intro h0 hlp)]

theorem powerStateAnnounce_moves {target : Nat}
    (htarget : (if (s.win n (offLPCTL f)).toNat % 4 = 3 then 0 else (s.win n (offLPCTL f)).toNat % 4) = target)
    (h : s.arg.ok = false) (h3 : s.lpCur n f ≠ 3) (ht : s.lpCur n f ≠ target) :
    ∃ t, exec .powerStateAnnounce s = .next t ∧ t.lpCur n f = 3 ∧ (t.link n f).moveTo = target := by
  refine ⟨s.moveLaser n f target (s.now + if target = 0 then relightNs (s.lpCur n f) else 0), ?_, moveLaser_lpCur s n f _ _, ?_⟩
  · show execPowerStateAnnounce s = _
    simp only [execPowerStateAnnounce, hn, hf, hok, h, fld_lowest_two, htarget, Bool.not_true, Bool.false_eq_true, if_false,
      if_neg (not_or.mpr ⟨h3, ht⟩)]
    rfl
  · rw [moveLaser_link]

theorem linkWake_next (hlp : s.lpCur n f = 1 ∨ s.lpCur n f = 2) (hwake : (s.win n (offLPCTL f)).getLsbD 8 = true)
    (htraffic : ∃ c ∈ (s.site n).conns, c.2.waiting ≠ 0 ∨ c.2.unsent ≠ []) :
    ∃ t, exec .linkWake s = .next t ∧ t.lpCur n f = 3 ∧ (t.link n f).moveTo = 0 ∧
      (t.link n f).moveEnd = s.now + (if s.lpCur n f = 1 then 2000 else 50000) := by
  have hany : (s.site n).conns.any (fun c => decide (c.2.waiting ≠ 0 ∨ c.2.unsent ≠ [])) = true := by
    obtain ⟨c, hc, hq⟩ := htraffic
    exact List.any_eq_true.mpr ⟨c, hc, decide_eq_true hq⟩
  refine ⟨s.moveLaser n f 0 (s.now + relightNs (s.lpCur n f)), ?_, moveLaser_lpCur s n f _ _, ?_, ?_⟩
  · show execLinkWake s = _
    simp only [execLinkWake, hn, hf, hok, Bool.not_true, Bool.false_eq_true, if_false]
    exact congrArg Host.Outcome.next (if_pos ⟨hlp, hwake, hany⟩)
  · rw [moveLaser_link]
  · rw [moveLaser_link]
    rcases hlp with h | h <;> rw [h] <;> rfl

theorem laserStateReached_next (h : s.lpCur n f = 3) (ht : (s.link n f).moveEnd ≤ s.now) : exec .laserStateReached s = .next
    ((((s.setWin n (offLPCTL f) (setFld (s.win n (offLPCTL f)) 4 4 (s.link n f).moveTo)).setLstat n f 0
      (setFld (s.lstat n f 0) 4 4 (s.link n f).moveTo)).setLstat n f 1 (setFld (s.lstat n f 1) 4 4 (s.link n f).moveTo)).pumpAll n) := by
  show execLaserStateReached s = _
  simp [execLaserStateReached, hn, hf, hok, h, ht]

omit hok in
theorem laserStateReached_early (ht : s.now < (s.link n f).moveEnd) : exec .laserStateReached s = .next s := by
  show execLaserStateReached s = _
  simp [execLaserStateReached, hn, hf, ht]

theorem relightLockTimeout_next (hm : s.arg.m = m) {d : Nat} (hm8 : m < 8) (hd : (s.link n f).relightEnd = some d) (ht : d ≤ s.now)
    (hlock : s.lockOf n f m < 2) : ∃ t, exec .relightLockTimeout s = .next t ∧ (t.link n f).unhealthy.getLsbD m = true := by
  have hlater : ∀ (u : State) es, (u.later es).link n f = u.link n f := fun _ _ => rfl
  refine ⟨(s.setLink n f { s.link n f with unhealthy := (s.link n f).unhealthy ||| BitVec.ofNat 8 (2 ^ m) }).later
    [⟨.linkNarrow, { EvArgs.zero with site := n, n := f, m := 1 }⟩], ?_, ?_⟩
  · show execRelightLockTimeout s = _
    simp only [execRelightLockTimeout, hn, hf, hm, if_neg (linkOk_part hok hm8), hd, if_pos (And.intro ht hlock)]
  · rw [hlater, link_setLink_same]
    exact getLsbD_set _ hm8

end Laser

/-! Slots of the pod switch (R345-R347), and the replay buffer of a link (R342, R343). -/

/-- A slot begins, with the port open or locked. -/
def State.beginSlot (s : State) (n f slot : Nat) (opens : Bool) : State :=
  s.setLink n f { s.link n f with slotNo := some slot, unlocked := opens }

section Slot
variable {s : State} {n f m : Nat} (hn : s.arg.site = n) (hf : s.arg.n = f) (hm : s.arg.m = m) (hok : linkOk n f = true)
include hn hf hok

section Named
include hm

theorem arbiterRound_next (h : s.arg.ok = true) : ∃ t, exec .arbiterRound s = .next t ∧
    (Config.linkSwitched n f = true → (m, s.arg.p, max s.arg.value.toNat (s.now + 1000)) ∈ (t.link n f).granted) ∧
    (Config.linkSwitched n f = false → t = s) := by
  have hx : exec .arbiterRound s = execArbiterRound s := rfl
  simp only [execArbiterRound, hn, hf, hm, hok, h, Bool.true_and, Bool.and_true] at hx
  refine ⟨_, hx, fun hsw => ?_, fun hsw => ?_⟩
  · rw [if_pos hsw, link_setLink_same]
    exact List.mem_append_right _ (List.mem_singleton_self _)
  · rw [hsw, if_neg Bool.false_ne_true]

section Start
variable (hnone : (s.link n f).slotNo = none) (hgrant : ∃ g ∈ (s.link n f).granted, g.1 = m ∧ g.2.2 ≤ s.now)
include hnone hgrant

/-- A slot that has been granted begins, and the identity of its peer unlocks the port or is reported. -/
theorem slotStart_begins {b : Bool} (hid : s.identityOk n m s.arg.value s.arg.p s.arg.id s.arg.data = b) : ∃ lane a, exec .slotStart s =
    .next (if b = true then (s.beginSlot n f m b).pumpAll n
      else ((s.beginSlot n f m b).report n 0xFFFF cPEER_IDENT 0 a).logEvent n evPeerIdent 5 (8 * f + lane) 0 0) := by
  have hany : (s.link n f).granted.any (fun g => g.1 == m && decide (g.2.2 ≤ s.now)) = true := by
    obtain ⟨g, hg, hslot, ht⟩ := hgrant
    exact List.any_eq_true.mpr ⟨g, hg, by simp [hslot, ht]⟩
  refine ⟨lowestLane (lsLANES ((s.beginSlot n f m b).lstat n f 1)), BitVec.ofNat 64 (n + 256 * f +
    65536 * lowestLane (lsLANES ((s.beginSlot n f m b).lstat n f 1)) + 2 ^ 32 * (m % 2 ^ 32)), ?_⟩
  show execSlotStart s = _
  simp only [execSlotStart, hn, hf, hm, hok, hnone, hany, hid, Option.isSome_none, Bool.not_true, Bool.or_self, Bool.false_eq_true, if_false]
  rfl

theorem slotStart_checks :
    (s.identityOk n m s.arg.value s.arg.p s.arg.id s.arg.data = true → exec .slotStart s =
      .next ((s.setLink n f { s.link n f with slotNo := some m, unlocked := true }).pumpAll n)) ∧
    (s.identityOk n m s.arg.value s.arg.p s.arg.id s.arg.data = false → ∃ lane a, exec .slotStart s = .next
      (((s.setLink n f { s.link n f with slotNo := some m, unlocked := false }).report n 0xFFFF cPEER_IDENT 0 a).logEvent n evPeerIdent 5
        (8 * f + lane) 0 0)) := by
  refine ⟨fun hid => ?_, fun hid => slotStart_begins hn hf hm hok hnone hgrant hid⟩
  obtain ⟨_, _, hx⟩ := slotStart_begins hn hf hm hok hnone hgrant hid
  exact hx

end Start

theorem linkAcknowledgement_next (hheard : s.acksHeard n f = true)
    (hopen : Config.linkSwitched n f = false ∨ (s.link n f).unlocked = true)
    (hseq : (BitVec.ofNat 16 m - (s.link n f).acked).toNat ≤ ((s.link n f).seq - (s.link n f).acked).toNat) :
    exec .linkAcknowledgement s = .next ((s.setLink n f { s.link n f with acked := BitVec.ofNat 16 m }).pumpAll n) := by
  have hport : (!Config.linkSwitched n f || (s.link n f).unlocked) = true := by
    rcases hopen with h | h <;> simp [h]
  show execLinkAcknowledgement s = _
  simp only [execLinkAcknowledgement, hn, hf, hm, hok, hheard, hport, hseq, decide_true, Bool.not_true, Bool.false_eq_true, if_false,
    Bool.and_self, if_true]

end Named

theorem slotEnd_next {k : Nat} (h : (s.link n f).slotNo = some k) : ∃ t, exec .slotEnd s = .next t ∧ (t.link n f).slotNo = none ∧
    (t.link n f).unlocked = false ∧ (t.link n f).acked = (s.link n f).seq := by
  have hx : exec .slotEnd s = execSlotEnd s := rfl
  simp only [execSlotEnd, hn, hf, hok, Bool.not_true, Bool.false_eq_true, if_false, h] at hx
  refine ⟨_, hx, ?_⟩
  rw [link_setLink_same]
  exact ⟨rfl, rfl, rfl⟩

end Slot

end Sys2Proof.Machine
end

section
namespace Sys2Proof.Machine

/-- Settles O51: one lemma for each event, in the order of the claim. -/
theorem linkEvents : Obligations.LinkEvents := by
  intro s n f m l rx
  refine ⟨fun hlt hears hroom => ?packet, fun c hc => ⟨fun hle => ?ack, retransmitTimer_next rfl rfl hc⟩, occupancyReport_next rfl rfl,
    fun hlt hf4 => ?links⟩
  case packet =>
    exact ⟨packetReceive_outside rfl rfl hlt hears hroom, packetReceive_unordered rfl rfl hlt hears hroom,
      packetReceive_collective rfl rfl hlt hears hroom, packetReceive_ordered rfl rfl hlt hears hroom⟩
  case ack =>
    refine ⟨ackReceive_next rfl rfl hc rfl rfl hle, rfl, fun p => acked_inFlight, fun hmark hred => ?_⟩
    exact (congrArg (fun e => (c.acked _ _ e _).window) hmark).trans (acked_window_marked hred _ _ _)
  case links =>
    have hok := linkOk_of_lt hlt hf4
    exact ⟨ohealthUpdate_next rfl rfl rfl hok hf4,
      fun hm2 hnone hup hlane => ⟨fun g => linkNarrow_moves rfl rfl rfl hok hm2 rfl hnone hup hlane,
        linkNarrow_down rfl rfl rfl hok hm2 rfl hnone hup hlane⟩,
      linkWiden_moves rfl rfl rfl hok, fun g narrowing hm2 => lanesMove_ends rfl rfl rfl hok hm2,
      onewayEnter_next rfl rfl hok, fun d => onewayHoldExpiry_next rfl rfl hok,
      powerStateAnnounce_peerDark rfl rfl hok rfl, powerStateAnnounce_peerRelights rfl rfl hok,
      powerStateAnnounce_moves rfl rfl hok rfl, linkWake_next rfl rfl hok, laserStateReached_next rfl rfl hok,
      laserStateReached_early rfl rfl, fun d hm8 => relightLockTimeout_next rfl rfl hok rfl hm8,
      arbiterRound_next rfl rfl rfl hok, slotStart_checks rfl rfl rfl hok, fun k => slotEnd_next rfl rfl hok,
      linkAcknowledgement_next rfl rfl rfl hok⟩

end Sys2Proof.Machine
end

section
namespace Sys2Proof.Machine

/-! Batches (R181-R184). -/

section Batches
variable {f : RRR} {s : State} {e : Env}

theorem touch_setDeck (s : State) (core d v : Nat) : Touch s (s.setDeck core d v) := touch_setWin _ _ _ _
theorem touch_putDeck (s : State) (core d v : Nat) : Touch s (s.putDeck core d v) := by
  unfold State.putDeck
  dsimp only
  split
  · exact touch_logEvent _ _ _ _ _ _ _
  · split
    · exact Touch.refl s
    · exact (touch_setDeck s core d v).trans (touch_logEvent _ _ _ _ _ _ _)
theorem touch_applyDecks (s : State) (core : Nat) : Touch s (s.applyDecks core) := by
  refine Touch.foldl _ (fun t p => Touch.trans ?_ (touch_setCore _ _ _)) _ s
  split
  · exact (touch_setDeck t core _ _).trans (touch_logEvent _ _ _ _ _ _ _)
  · exact touch_putDeck t core _ _
theorem touch_acceptM (e : Env) (op : MOp) (flight : Nat) (z : Option (Nat × Nat × DWord)) (b : Batch) (s : State) :
    Touch s (acceptM e op flight z b s) := touch_setCore s _ _

/-- A write of an s register that is the last one of it: none is pending, or this one is the later (R77). -/
def Coach.lastWrite (c : Coach) (tick n : Nat) : Prop :=
  c.pendOf true n 0 = none ∨ Config.ownLast tick (hazardKey true n 0) = true

/-- Such a write is stored, and beside it only what is pending changes. -/
theorem writeS_lastWrite {c : Coach} {tick n : Nat} (h : c.lastWrite tick n) (x : Word) :
    ∃ F, c.writeS tick n x = { c.putS n x with flights := F } := by
  by_cases hn : n = 0
  · exact ⟨c.flights, by simp [Coach.writeS, Coach.putS, hn]⟩
  rcases hp : c.pendOf true n 0 with _ | p
  · exact ⟨(c.putS n x).flights, writeS_settled hn hp tick x⟩
  · have hown : Config.ownLast tick (hazardKey true n 0) = true := h.resolve_left (by simp [hp])
    refine ⟨(c.setPend true n 0 none).flights, ?_⟩
    simp only [Coach.writeS, hn, hp, hown, if_true, if_false, Coach.putS, Coach.setPend]

/-- A write over a result that is known already, and is the later, is lost. -/
theorem writeS_overtaken {c : Coach} {tick n : Nat} {p : PendReg} (hn : n ≠ 0) (hp : c.pendOf true n 0 = some p)
    (hown : Config.ownLast tick (hazardKey true n 0) = false) (hk : c.pendKnown true n 0 = true) (x : Word) :
    (c.writeS tick n x).rawReg true n 0 = c.rawReg true n 0 := by
  simp [Coach.writeS, hn, hp, hown, hk]

/-- The batch that BFENCE closes. -/
def closingBatch (e : Env) (c : Core) : Batch := { openBatchOf e c with closed := true, clock := e.wg.oclk }
/-- The report that BFENCE begins: complete for a batch that has ended in an error. -/
def closingReport (e : Env) (b : Batch) : DeckReport :=
  if b.err then b.report
  else { batch := b.num, err := false, decks := b.decks, passes := 0, promos := 0, ballast := 0, clock := e.wg.oclk, complete := false }
/-- The coach that has closed a batch, before the batch's number is written. -/
def Coach.closeBatch (d : Coach) (e : Env) (b : Batch) : Coach :=
  { d with
    lastBatch := if b.err then b.num else d.lastBatch, openBatch := nextBatch b.num, batchWrap := d.batchWrap || decide (b.num ≥ 0xFFFF),
    reports := (d.reports ++ [closingReport e b]).drop (d.reports.length + 1 - 8) }
/-- What BFENCE makes of its coach. -/
def Coach.fence (d : Coach) (e : Env) (f : RRR) (b : Batch) : Coach :=
  (d.closeBatch e b).writeS e.tick f.d.toNat (BitVec.ofNat 32 b.num)
/-- What BFENCE makes of the rest of the machine: the close mark is queued, the decks that waited are applied, and a batch
that has ended in an error leaves the core. -/
def fenceCore (e : Env) (s : State) : State :=
  let b := openBatchOf e (s.core e.core)
  let s1 := (acceptM e .close 0 none (closingBatch e (s.core e.core)) s).applyDecks e.core
  if b.err = true then s1.setCore e.core ((s1.core e.core).dropBatch b) else s1

theorem touch_fenceCore (e : Env) (s : State) : Touch s (fenceCore e s) := by
  have h := (touch_acceptM e .close 0 none (closingBatch e (s.core e.core)) s).trans (touch_applyDecks _ e.core)
  unfold fenceCore
  dsimp only
  split
  · exact h.trans (touch_setCore _ _ _)
  · exact h

theorem bfence_next (h : Runs (.bfence f) s e) (hq : (s.core e.core).mq.length < 32) :
    exec (.bfence f) s = .next (finishC e (fun d => d.fence e f (closingBatch e (s.core e.core))) (fenceCore e s)) := by
  show execBfence f s = _
  rw [execBfence, issue_runs h]
  simp only [ge_iff_le, mqMax, Nat.not_le.mpr hq, if_false]
  rfl

/-- BFENCE returns the closed batch's number and opens the next, where its write is the last one of its register. -/
theorem fence_results {d : Coach} (h : d.lastWrite e.tick f.d.toNat) (b : Batch) :
    (d.fence e f b).openBatch = (if b.num ≥ 65535 then 1 else b.num + 1) ∧
    (d.fence e f b).rawReg true f.d.toNat 0 = (if f.d.toNat = 0 then 0 else BitVec.ofNat 32 b.num) ∧
    (∀ r, r ≠ f.d.toNat → (d.fence e f b).rawReg true r 0 = d.rawReg true r 0) ∧ (d.fence e f b).v = d.v ∧ (d.fence e f b).p = d.p := by
  obtain ⟨F, hF⟩ := writeS_lastWrite (c := d.closeBatch e b) h (BitVec.ofNat 32 b.num)
  have hraw (r : Nat) : (d.fence e f b).rawReg true r 0 =
      ((d.closeBatch e b).putS f.d.toNat (BitVec.ofNat 32 b.num)).rawReg true r 0 := by
    rw [Coach.fence, hF]
    rfl
  refine ⟨?_, ?_, fun r hr => ?_, ?_, ?_⟩
  · rw [Coach.fence, hF, Coach.putS]
    split <;> rfl
  · rw [hraw, rawReg_putS]
    by_cases h0 : f.d.toNat = 0
    · simp [h0]
    · simp [h0]
  · rw [hraw, rawReg_putS, if_neg fun x => hr x.2.1]
    rfl
  · rw [Coach.fence, hF, Coach.putS]
    split <;> rfl
  · rw [Coach.fence, hF, Coach.putS]
    split <;> rfl

theorem bwait_acquires (h : Runs (.bwait f) s e) (hlt : (e.sop 0 f.a).toNat < 2 ^ 16) (hc : e.c.hasClosed (e.sop 0 f.a).toNat = true)
    (hdone : (s.core e.core).awaited e.ref.slot e.ref.k (e.sop 0 f.a).toNat = []) :
    exec (.bwait f) s = .next (finish e (s.acquireOpt e.ref.slot 1
      ((e.c.reports.find? (fun r => r.batch == (e.sop 0 f.a).toNat)).map DeckReport.clock))) := by
  show execBwait f s = _
  rw [execBwait, issue_runs h]
  simp only [ge_iff_le, Nat.not_le.mpr hlt, hc, hdone, Bool.true_eq_false, or_self, if_false, List.any_nil, List.isEmpty_nil, Bool.not_true,
    Bool.false_eq_true, scWG]

/-- What MREP does by the report that the coach keeps of a batch (R183). -/
def mrepBy (e : Env) (f : RRR) (n : Nat) (s : State) : Option DeckReport → State
  | some r =>
    if r.complete then track e (.mrep f) .performed false none (mrepWrites f.d.toNat (some r)) s
    else track e (.mrep f) (.mrep n f.d.toNat) false none (e.c.pendingRun f.d.toNat 4) s
  | none => track e (.mrep f) .performed false none (mrepWrites f.d.toNat none) s

theorem mrep_next (h : Runs (.mrep f) s e) {n : Nat} (hn : n = (e.sop 0 f.a).toNat % 2 ^ 16) (hne : n ≠ e.c.openBatch) :
    exec (.mrep f) s = .next (mrepBy e f n s (e.c.reports.find? (fun r => r.batch == n))) := by
  show execMrep f s = _
  rw [execMrep, issue_runs h]
  simp only [← hn, hne, if_false]
  rcases e.c.reports.find? (fun r => r.batch == n) with _ | r <;> rfl

/-- The two words of a selector of MQRY (R184). -/
def mqryWords (s : State) (e : Env) (v : Nat) : Nat × Nat :=
  match v with
  | 0 => ((s.decksAvail e.core).toNat + (if s.epol.getLsbD 2 then 16 else 0) +
      (if (Table.find (s.core e.core).halted e.ctx).isSome then 32 else 0), (s.core e.core).mq.length)
  | 1 => ((List.range 32).foldl (fun a n => if (s.core e.core).invalidTile e.wg.gid n then a + 2 ^ n else a) 0, 0)
  | 2 => (e.c.openBatch, e.c.lastBatch)
  | _ => (mxver, imageBytes)

theorem mqry_answers (h : Runs (.mqry f) s e) (hv : (e.sop 0 f.a).toNat ≤ 3) :
    exec (.mqry f) s = .next (track e (.mqry f) .performed false none
      (putRun true f.d.toNat 2 0 ((mqryWords s e (e.sop 0 f.a).toNat).1 + 2 ^ 32 * (mqryWords s e (e.sop 0 f.a).toNat).2)) s) := by
  show execMqry f s = _
  rw [execMqry, issue_runs h]
  dsimp only
  generalize (e.sop 0 f.a).toNat = v at hv
  interval_cases v <;> rfl

/-- O38 holds where a write over a pending s register is always the last one (R77): whatever is pending, BFENCE's number then
reaches its register. The model leaves that free (`Config.ownLast`, log 10), so this does not settle O38; see `ownLast_of_matrixBatches`. -/
theorem matrixBatches_of_ownLast (hown : ∀ tick n, Config.ownLast tick (hazardKey true n 0) = true) : Obligations.MatrixBatches := by
  intro f s e c b v
  refine ⟨fun h hq => ⟨fun d => d.fence e f (closingBatch e c), bfence_next h hq, fun d => fence_results (.inr (hown _ _)) _⟩,
    bwait_acquires, fun h hne => ⟨fun r hr hc => ?_, fun r hr hc => ?_, fun hr => ?_⟩,
    fun h => ⟨(mqryWords s e v).1, (mqryWords s e v).2, mqry_answers h, fun h0 => ?_, fun h1 => ?_, fun h2 => ?_, fun h3 => ?_⟩⟩
  · rw [mrep_next h rfl hne, hr]
    exact congrArg _ (if_pos hc)
  · rw [mrep_next h rfl hne, hr]
    exact congrArg _ (if_neg (by simp [hc]))
  · rw [mrep_next h rfl hne, hr]
    rfl
  · rw [h0]
    exact ⟨rfl, rfl⟩
  · rw [h1]
    refine ⟨rfl, fun t ht => ?_⟩
    rw [bitN_eq_testBit]
    exact ((testBit_sum_powers 32 _).2 t).trans (by simp [ht, c])
  · rw [h2]
    exact ⟨rfl, rfl⟩
  · rw [h3]
    exact ⟨rfl, rfl⟩

/-- O38 says nothing of a pending write, so it makes BFENCE's write the last one even over a known result (R77). -/
theorem ownLast_of_bfence {p : PendReg} (hO : Obligations.MatrixBatches) (h : Runs (.bfence f) s e) (hq : (s.core e.core).mq.length < 32)
    (hd : f.d.toNat ≠ 0) (hp : e.c.pendOf true f.d.toNat 0 = some p) (hk : e.c.pendKnown true f.d.toNat 0 = true)
    (hne : e.c.rawReg true f.d.toNat 0 ≠ BitVec.ofNat 32 (openBatchOf e (s.core e.core)).num) :
    Config.ownLast e.tick (hazardKey true f.d.toNat 0) = true := by
  by_contra hown
  obtain ⟨g, hx, hg⟩ := (hO f s e).1 h hq
  obtain ⟨-, hreg, -⟩ := hg e.c
  have hc : (fenceCore e s).coach e.ref = some e.c := ((touch_fenceCore e s).coach e.ref).trans (h.ref ▸ h.coach)
  have hsame : finishC e g (fenceCore e s) = finishC e (fun d => d.fence e f (closingBatch e (s.core e.core))) (fenceCore e s) :=
    Host.Outcome.next.inj (hx.symm.trans (bfence_next h hq))
  have hcoach := congrArg (fun t => (State.coach t e.ref).map (fun d => d.rawReg true f.d.toNat 0)) hsame
  simp only [finishC, coach_modCoach hc, Option.map_some, Option.some.injEq, rawReg_advance, hreg, hd, if_false] at hcoach
  exact hne ((writeS_overtaken (c := e.c.closeBatch e _) hd hp (by simpa using hown) hk _).symm.trans hcoach.symm)

end Batches

/-- A load's result is pending for s6, and known. -/
def loadedS6 (c : Coach) : Coach :=
  { c with flights := [{ id := 0, word := 0, pc := 0, flag := none, entry := false, kind := .performed,
                         pend := [{ scalar := true, reg := 6, thread := 0, old := 0 }], rep := none }] }
/-- BFENCE to s6. -/
def fenceToS6 : RRR := { u := true, fb := false, s := false, m := 0, d := 6, a := 0, b := 0 }
/-- A coach about to execute it, with a load's result pending for s6. -/
def fenceOverLoad : State :=
  let r : CoachRef := { slot := 0, k := 0 }
  { State.reset.place ((encode (.bfence fenceToS6)).getD 0) with cur := r, stage := 6, regionsOn := 16 }.modCoach r loadedS6

/-- BFENCE executes there, and its number is not what s6 holds. -/
theorem fenceOverLoad_runs : (fenceOverLoad.env fenceOverLoad.cur).any (fun e0 =>
    let i : Instr := .bfence fenceToS6
    let e := e0.holding i
    let c := fenceOverLoad.core e.core
    (wordCause e (fenceOverLoad.grid e.wg.gid) (fenceOverLoad.privileged e.site e.ctx) i).isNone && decide (e.active ≠ 0) &&
      !issueStalls e i fenceOverLoad && !heldBack e i fenceOverLoad && !issuesLate e i fenceOverLoad &&
      c.mq.isEmpty && (e.c.pendOf true 6 0).isSome && e.c.pendKnown true 6 0 &&
      e.c.rawReg true 6 0 != BitVec.ofNat 32 (openBatchOf e c).num && e.tick == 0) = true := by decide +kernel

/-- O38 fixes a free value of the configuration, of which nothing can be proved: its BFENCE clause lacks the hypothesis that
nothing is pending for the destination. So O38 is not provable, and by `matrixBatches_of_ownLast` its negation is not. -/
theorem ownLast_of_matrixBatches (hO : Obligations.MatrixBatches) : Config.ownLast 0 (hazardKey true 6 0) = true := by
  obtain ⟨e0, h0, hall⟩ := (Option.any_eq_true _ _).mp fenceOverLoad_runs
  simp only [Bool.and_eq_true, Option.isNone_iff_eq_none, decide_eq_true_eq, Bool.not_eq_true', List.isEmpty_iff, Option.isSome_iff_exists,
    bne_iff_ne, beq_iff_eq] at hall
  obtain ⟨⟨⟨⟨⟨⟨⟨⟨⟨hcause, hact⟩, hstall⟩, hback⟩, hlate⟩, hq⟩, p, hp⟩, hk⟩, hne⟩, ht⟩ := hall
  exact ht ▸ ownLast_of_bfence (f := fenceToS6) hO ⟨⟨e0, h0, rfl⟩, hcause, hact, hstall, hback, hlate⟩ (by rw [hq]; decide) (by decide) hp hk hne

end Sys2Proof.Machine
end
